-- ==== Sys2Proof/Word.lean ====
section
/-! DEFINITION. The word types of the Ornyx N5: scalar words, bytes, the 32-bit syllable, the
2048-bit vector register and the 256-bit predicate register. -/

namespace Sys2Proof

/-- A 64-bit scalar register's content (R136). -/
abbrev Word := BitVec 64
/-- A byte of any address space. -/
abbrev Byte := BitVec 8
/-- A syllable of code (R61), or a 32-bit word of the Abacus (R426). -/
abbrev Word32 := BitVec 32
/-- A vector register: 2048 bits (R167). -/
abbrev VReg := BitVec 2048
/-- A predicate register: 256 bits (R172). -/
abbrev PReg := BitVec 256

end Sys2Proof
end

