-- ==== Sys2Proof/Machine/Num.lean ====
section
/-! DEFINITION. Numbers and rounding (05_number_formats, R7, R8): integers read from bits, exact dyadic
reals, the floating-point formats and the one rounding rule. -/

namespace Sys2Proof.Machine

/-- `floor(log2 n)` of a positive number; 0 for 0. Binary search on the length. -/
def ilog2 (n : Nat) : Nat := Nat.log2 n

/-- SignExt(v, n) (R8): the low `n` bits of `v` as a two's-complement integer. -/
def signExt (v n : Nat) : Int :=
  let x := v % 2 ^ n
  if 2 * x < 2 ^ n then (x : Int) else (x : Int) - (2 ^ n : Nat)

/-- The low `n` bits of an exact integer. -/
def lowBits (x : Int) (n : Nat) : Nat := (x % (2 ^ n : Nat)).toNat

/-- Sat(x, lo, hi) (R8). -/
def sat (x lo hi : Int) : Int := if x < lo then lo else if hi < x then hi else x

/-- The rounding modes of RM (R74). -/
inductive RMode where
  | rne | rtz | rdn | rup | sr
  deriving DecidableEq, Repr

/-- RM's codes (R74); the reserved codes give none. -/
def rmode? (c : Nat) : Option RMode :=
  match c with
  | 0 => some .rne | 1 => some .rtz | 2 => some .rdn | 3 => some .rup | 4 => some .sr
  | _ => none

/-- An exact value on its way to a format: a signed dyadic real `±m·2^e` (a zero keeps its sign), an
infinity, or not a number. -/
inductive Val where
  | num (neg : Bool) (m : Nat) (e : Int)
  | inf (neg : Bool)
  | nan
  deriving DecidableEq, Repr

/-- The value of an exact integer times `2^e`. -/
def Val.ofInt (x : Int) (e : Int) : Val := .num (decide (x < 0)) x.natAbs e

def Val.isNum : Val → Bool
  | .num _ _ _ => true
  | _ => false

def Val.isZero : Val → Bool
  | .num _ 0 _ => true
  | _ => false

def Val.isNan : Val → Bool
  | .nan => true
  | _ => false

/-- The sign of a value; NaN counts as positive. -/
def Val.isNeg : Val → Bool
  | .num n _ _ => n
  | .inf n => n
  | .nan => false

def Val.negate : Val → Val
  | .num n m e => .num (!n) m e
  | .inf n => .inf (!n)
  | .nan => .nan

/-- `floor(log2 |x|)` of a non-zero dyadic (R117). -/
def floorLog2 (m : Nat) (e : Int) : Int := (ilog2 m : Int) + e

/-- `x·2^k`. -/
def Val.scale (v : Val) (k : Int) : Val :=
  match v with
  | .num n m e => .num n m (e + k)
  | w => w

/-- The integer mantissa of `m·2^e` in units of `2^f`, for `f ≤ e`. -/
def alignTo (neg : Bool) (m : Nat) (e f : Int) : Int :=
  let a : Int := (m * 2 ^ (e - f).toNat : Nat)
  if neg then -a else a

/-- The quotient of the magnitude `m·2^e` by `2^k`, its integer part and the rest as a fraction
`r/2^s`. -/
def quotient (m : Nat) (e k : Int) : Nat × Nat × Nat :=
  if k ≤ e then (m * 2 ^ (e - k).toNat, 0, 0)
  else
    let s := (k - e).toNat
    (m / 2 ^ s, m % 2 ^ s, s)

/-- The magnitude `m·2^e` rounded to an integer count of `2^k` (R8, R117), `b` the draw of SR. -/
def roundMag (neg : Bool) (m : Nat) (e k : Int) (rm : RMode) (b : Nat) : Nat :=
  let (q, r, s) := quotient m e k
  match rm with
  | .rtz => q
  | .rdn => if neg && r != 0 then q + 1 else q
  | .rup => if !neg && r != 0 then q + 1 else q
  | .rne =>
    if 2 * r < 2 ^ s ∨ r = 0 then q
    else if 2 * r = 2 ^ s then q + q % 2
    else q + 1
  | .sr => if r * 2 ^ 16 + b * 2 ^ s < 2 ^ 16 * 2 ^ s then q else q + 1

/-- RoundRNE(x, k) / 2^k (R8) of the exact integer `x·2^e`. -/
def roundRNE (x : Int) (e k : Int) : Int :=
  let q : Int := (roundMag (decide (x < 0)) x.natAbs e k .rne 0 : Nat)
  if x < 0 then -q else q

/-- The floating-point formats of R115. -/
inductive FFmt where
  | f32 | f16 | bf16 | e5m2 | e4m3 | e3m2 | e2m3 | e2m1
  deriving DecidableEq, Repr

/-- Exponent and mantissa widths (R115). -/
def FFmt.ew : FFmt → Nat
  | .f32 => 8 | .f16 => 5 | .bf16 => 8 | .e5m2 => 5 | .e4m3 => 4 | .e3m2 => 3 | .e2m3 => 2 | .e2m1 => 2
def FFmt.mw : FFmt → Nat
  | .f32 => 23 | .f16 => 10 | .bf16 => 7 | .e5m2 => 2 | .e4m3 => 3 | .e3m2 => 2 | .e2m3 => 3 | .e2m1 => 1
def FFmt.width (F : FFmt) : Nat := 1 + F.ew + F.mw
def FFmt.bias : FFmt → Int
  | .f32 => 127 | .f16 => 15 | .bf16 => 127 | .e5m2 => 15 | .e4m3 => 7 | .e3m2 => 3 | .e2m3 => 1 | .e2m1 => 1
def FFmt.emin (F : FFmt) : Int := 1 - F.bias
def FFmt.prec (F : FFmt) : Int := F.mw + 1

/-- Whether the format has infinities (R115). -/
def FFmt.hasInf : FFmt → Bool
  | .f32 | .f16 | .bf16 | .e5m2 => true
  | _ => false

/-- The code of the largest finite magnitude (R115). -/
def FFmt.maxCode (F : FFmt) : Nat :=
  match F with
  | .f32 => 0x7F7FFFFF | .f16 => 0x7BFF | .bf16 => 0x7F7F | .e5m2 => 0x7B | .e4m3 => 0x7E
  | .e3m2 => 0x1F | .e2m3 => 0x1F | .e2m1 => 0x7

/-- The code of infinity, for the formats that have one. -/
def FFmt.infCode (F : FFmt) : Nat := (2 ^ F.ew - 1) * 2 ^ F.mw

/-- The canonical NaN (R116). -/
def FFmt.nanCode : FFmt → Nat
  | .f32 => 0x7FC00000 | .f16 => 0x7E00 | .bf16 => 0x7FC0 | .e5m2 => 0x7E | .e4m3 => 0x7F
  | _ => 0

/-- The value a code stands for (R115). -/
def FFmt.decode (F : FFmt) (c : Nat) : Val :=
  let man := c % 2 ^ F.mw
  let ex := c / 2 ^ F.mw % 2 ^ F.ew
  let neg := c / 2 ^ (F.mw + F.ew) % 2 == 1
  if F.hasInf && ex == 2 ^ F.ew - 1 then (if man == 0 then .inf neg else .nan)
  else if F == .e4m3 && ex == 15 && man == 7 then .nan
  else if ex == 0 then .num neg man (F.emin - F.mw)
  else .num neg (2 ^ F.mw + man) ((ex : Int) - F.bias - F.mw)

/-- The weight of the last kept bit of a non-zero dyadic in format `F` (R117). -/
def FFmt.lastBit (F : FFmt) (m : Nat) (e : Int) : Int :=
  let x := floorLog2 m e
  (if x < F.emin then F.emin else x) - F.prec + 1

/-- The code of the finite magnitude `q·2^k`, `k` the last bit's weight, `q < 2^(P+1)`. -/
def FFmt.encodeMag (F : FFmt) (q : Nat) (k : Int) : Nat :=
  -- `q·2^k` counts subnormal units when scaled by the subnormal weight; the codes of a
  -- floating format rise with the magnitude.
  if q < 2 ^ F.mw then q
  else
    let (q', k') := if q = 2 ^ (F.mw + 1) then (2 ^ F.mw, k + 1) else (q, k)
    (k' + F.mw + F.bias).toNat * 2 ^ F.mw + (q' - 2 ^ F.mw)

/-- Whether `q·2^k` passes the largest finite value. -/
def FFmt.overflows (F : FFmt) (q : Nat) (k : Int) : Bool := decide (F.maxCode < F.encodeMag q k)

/-- A rounded code with what it reports to NUMSTAT (R121). -/
structure Rounded where
  code : Nat
  sat  : Bool := false
  nan  : Bool := false
  deriving DecidableEq, Repr

def FFmt.signBit (F : FFmt) (neg : Bool) : Nat := if neg then 2 ^ (F.width - 1) else 0

/-- Overflow(y, F, rm) of R118, for the formats of the table. -/
def FFmt.overflow (F : FFmt) (neg : Bool) (rm : RMode) : Rounded :=
  if F.hasInf then
    let big := match rm with
      | .rne | .sr => false
      | .rtz => true
      | .rdn => !neg
      | .rup => neg
    { code := F.signBit neg + (if big then F.maxCode else F.infCode) }
  else { code := F.signBit neg + F.maxCode, sat := true }

/-- RoundTo(x, F, rm, b) for a floating format (R117, R118). -/
def roundFloat (F : FFmt) (x : Val) (rm : RMode) (b : Nat) : Rounded :=
  match x with
  | .nan => { code := F.nanCode }
  | .inf neg => if F.hasInf then { code := F.signBit neg + F.infCode } else { code := F.nanCode, nan := true }
  | .num neg 0 _ => { code := F.signBit neg }
  | .num neg m e =>
    let k := F.lastBit m e
    let q := roundMag neg m e k rm b
    if F.overflows q k then F.overflow neg rm
    else { code := F.signBit neg + F.encodeMag q k }

/-- RoundTo(x, F, rm, b) for an integer type of range `[lo, hi]` (R117, R119); the code is the value's
low `w` bits. -/
def roundInt (w : Nat) (lo hi : Int) (x : Val) (rm : RMode) (b : Nat) : Rounded :=
  match x with
  | .nan => { code := 0, nan := true }
  | .inf neg => { code := lowBits (if neg then lo else hi) w, sat := true }
  | .num neg m e =>
    let q : Int := (roundMag neg m e 0 rm b : Nat)
    let y := if neg then -q else q
    let z := sat y lo hi
    { code := lowBits z w, sat := decide (z ≠ y) }

/-- The exact sum of two finite values `±m·2^e`; `none` for an exact zero. -/
def addExact (x y : Bool × Nat × Int) : Int × Int :=
  let f := if x.2.2 ≤ y.2.2 then x.2.2 else y.2.2
  (alignTo x.1 x.2.1 x.2.2 f + alignTo y.1 y.2.1 y.2.2 f, f)

/-- a + b with the special cases of R183; `rdn` says whether the mode is RDN, which decides the sign of
an exact zero. -/
def addVal (rdn : Bool) (a b : Val) : Val :=
  match a, b with
  | .nan, _ => .nan
  | _, .nan => .nan
  | .inf s, .inf t => if s == t then .inf s else .nan
  | .inf s, .num _ _ _ => .inf s
  | .num _ _ _, .inf t => .inf t
  | .num s m e, .num t n f =>
    let (x, g) := addExact (s, m, e) (t, n, f)
    if x = 0 then .num (if m == 0 && n == 0 && s == t then s else rdn) 0 0
    else Val.ofInt x g

/-- a × b with the special cases of R183. -/
def mulVal (a b : Val) : Val :=
  match a, b with
  | .nan, _ => .nan
  | _, .nan => .nan
  | .inf s, .inf t => .inf (s != t)
  | .inf s, .num t m _ => if m = 0 then .nan else .inf (s != t)
  | .num s m _, .inf t => if m = 0 then .nan else .inf (s != t)
  | .num s m e, .num t n f => .num (s != t) (m * n) (e + f)

/-- Compares two finite values. -/
def ltNum (x y : Bool × Nat × Int) : Bool :=
  let f := if x.2.2 ≤ y.2.2 then x.2.2 else y.2.2
  decide (alignTo x.1 x.2.1 x.2.2 f < alignTo y.1 y.2.1 y.2.2 f)

/-- Ordered less-than; −0 equals +0 (R180). -/
def Val.lt (a b : Val) : Bool :=
  match a, b with
  | .nan, _ => false
  | _, .nan => false
  | .inf s, .inf t => s && !t
  | .inf s, .num _ _ _ => s
  | .num _ _ _, .inf t => !t
  | .num s m e, .num t n f => ltNum (s, m, e) (t, n, f)

/-- Ordered and equal (R180). -/
def Val.eqv (a b : Val) : Bool :=
  match a, b with
  | .nan, _ => false
  | _, .nan => false
  | a, b => !Val.lt a b && !Val.lt b a

/-- The element types of TY (R74), in code order. -/
inductive ETy where
  | i8 | i16 | i32 | i64 | n8 | n16 | n32 | n64 | h | b | f | e4 | e5
  deriving DecidableEq, Repr

def ety? (c : Nat) : Option ETy :=
  match c with
  | 0 => some .i8 | 1 => some .i16 | 2 => some .i32 | 3 => some .i64
  | 4 => some .n8 | 5 => some .n16 | 6 => some .n32 | 7 => some .n64
  | 8 => some .h | 9 => some .b | 10 => some .f | 11 => some .e4 | 12 => some .e5
  | _ => none

/-- The type of a TY code; the reserved codes, which decode refuses, read as `.i8`. -/
def ety (c : Nat) : ETy := (ety? c).getD .i8

def ETy.width : ETy → Nat
  | .i8 | .n8 | .e4 | .e5 => 8
  | .i16 | .n16 | .h | .b => 16
  | .i32 | .n32 | .f => 32
  | .i64 | .n64 => 64

def ETy.fmt? : ETy → Option FFmt
  | .h => some .f16 | .b => some .bf16 | .f => some .f32 | .e4 => some .e4m3 | .e5 => some .e5m2
  | _ => none

def ETy.isInt (t : ETy) : Bool := t.fmt?.isNone
def ETy.isSigned : ETy → Bool
  | .i8 | .i16 | .i32 | .i64 => true
  | _ => false
/-- .f, .h and .b, the types of the floating-point instructions (R182). -/
def ETy.isFhb : ETy → Bool
  | .f | .h | .b => true
  | _ => false

/-- The range of an integer type (R114). -/
def ETy.lo (t : ETy) : Int := if t.isSigned then -((2 ^ (t.width - 1) : Nat) : Int) else 0
def ETy.hi (t : ETy) : Int := if t.isSigned then (2 ^ (t.width - 1) : Nat) - 1 else (2 ^ t.width : Nat) - 1

/-- An element of an integer type as an exact integer (R179). -/
def ETy.toInt (t : ETy) (x : Nat) : Int := if t.isSigned then signExt x t.width else (x : Int)

/-- The exact value of an element of any type. -/
def ETy.val (t : ETy) (x : Nat) : Val :=
  match t.fmt? with
  | some F => F.decode x
  | none => Val.ofInt (t.toInt x) 0

/-- RoundTo(x, TY, RM, b) (R117 to R119). -/
def roundTo (t : ETy) (x : Val) (rm : RMode) (b : Nat) : Rounded :=
  match t.fmt? with
  | some F => roundFloat F x rm b
  | none => roundInt t.width t.lo t.hi x rm b

/-- `floor(sqrt n)`, by bits from the top; structural on the number of bits still to try. -/
def isqrtFrom : Nat → Nat → Nat → Nat
  | 0, _, r => r
  | k + 1, n, r =>
    let c := r + 2 ^ k
    if c * c ≤ n then isqrtFrom k n c else isqrtFrom k n r

def isqrt (n : Nat) : Nat := isqrtFrom (n.log2 / 2 + 1) n 0

end Sys2Proof.Machine
end

