-- ==== Sys2Proof/Machine/Mx.lean ====
section
/-! DEFINITION. Microscaled blocks (05_number_formats R123 to R131): element formats, quantisation,
dequantisation, packing, the MXINT16 rule and the integer images the compute banks multiply. -/

namespace Sys2Proof.Machine

/-- The element formats of MX blocks, in the code order of R186 (R124). -/
inductive MxElt where
  | int8 | int6 | int4 | fp8e4 | fp8e5 | fp6e2 | fp6e3 | fp4
  deriving DecidableEq, Repr

def mxElt (c : Nat) : MxElt :=
  match c % 8 with
  | 0 => .int8 | 1 => .int6 | 2 => .int4 | 3 => .fp8e4
  | 4 => .fp8e5 | 5 => .fp6e2 | 6 => .fp6e3 | _ => .fp4

def MxElt.code : MxElt → Nat
  | .int8 => 0 | .int6 => 1 | .int4 => 2 | .fp8e4 => 3 | .fp8e5 => 4 | .fp6e2 => 5 | .fp6e3 => 6 | .fp4 => 7

/-- Element width in bits (R124). -/
def MxElt.width : MxElt → Nat
  | .int8 | .fp8e4 | .fp8e5 => 8
  | .int6 | .fp6e2 | .fp6e3 => 6
  | .int4 | .fp4 => 4

/-- The floating-point format of the element, when it has one. -/
def MxElt.fmt? : MxElt → Option FFmt
  | .fp8e4 => some .e4m3 | .fp8e5 => some .e5m2 | .fp6e2 => some .e2m3 | .fp6e3 => some .e3m2 | .fp4 => some .e2m1
  | _ => none

/-- EMAX(F) of R124. -/
def MxElt.emax : MxElt → Int
  | .fp8e4 => 8 | .fp8e5 => 15 | .fp6e2 => 2 | .fp6e3 => 4 | .fp4 => 2
  | _ => 0

/-- The element's own value v (R124). -/
def MxElt.val (F : MxElt) (c : Nat) : Val :=
  match F.fmt? with
  | some G => G.decode c
  | none => Val.ofInt (signExt c F.width) (2 - (F.width : Int))

/-- RoundTo(x, F, rm, b) of the quantisation rule: a clamp goes to the largest magnitude in every
format (R127); the second component says whether it clamped. -/
def roundMx (F : MxElt) (x : Val) (rm : RMode) (b : Nat) : Nat × Bool :=
  match x with
  | .num neg m e =>
    match F.fmt? with
    | some G =>
      if m = 0 then (G.signBit neg, false)
      else
        let k := G.lastBit m e
        let q := roundMag neg m e k rm b
        if G.overflows q k then (G.signBit neg + G.maxCode, true)
        else (G.signBit neg + G.encodeMag q k, false)
    | none =>
      let q : Int := (roundMag neg m e (2 - (F.width : Int)) rm b : Nat)
      let y := if neg then -q else q
      let h : Int := (2 ^ (F.width - 1) : Nat)
      let z := sat y (-h) (h - 1)
      (lowBits z F.width, decide (z ≠ y))
  | _ => (0, false)

/-- The largest `floor(log2 |x|)` over the non-zero finite values of a list; `none` when all are
zero. -/
def maxLog2 (xs : List Val) : Option Int :=
  xs.foldl (fun acc x =>
    match x with
    | .num _ m e =>
      if m = 0 then acc
      else
        let l := floorLog2 m e
        match acc with
        | none => some l
        | some a => some (if a < l then l else a)
    | _ => acc) none

/-- A quantised block (R127) and what it reports. -/
structure QBlock where
  scale : Nat
  codes : List Nat
  sat   : Bool := false
  nan   : Bool := false
  zblk  : Bool := false
  deriving DecidableEq, Repr

/-- Quantising a block to element format `F` (R127), `forced` the forced scale code, `bs` the draws. -/
def quantBlock (F : MxElt) (rm : RMode) (forced : Option Nat) (xs : List Val) (bs : List Nat) : QBlock :=
  if xs.any fun x => !x.isNum then { scale := 0xFF, codes := xs.map fun _ => 0, nan := true }
  else
    match maxLog2 xs with
    | none => { scale := 0, codes := xs.map fun x => (roundMx F x .rtz 0).1, zblk := true }
    | some l =>
      if forced = some 0xFF then { scale := 0xFF, codes := xs.map fun _ => 0, nan := true }
      else
        let s : Int := match forced with
          | some fc => (fc : Int) - 127
          | none => sat (l - F.emax) (-127) 127
        let qs := xs.mapIdx fun i x => roundMx F (x.scale (-s)) rm (bs.getD i 0)
        { scale := (s + 127).toNat, codes := qs.map (·.1), sat := forced.isSome && qs.any (·.2) }

/-- Dequantising one element of a block with scale code `c` (R129), as an exact value. -/
def deqVal (F : MxElt) (c : Nat) (q : Nat) : Val :=
  if c = 0xFF then .nan else (F.val q).scale ((c : Int) - 127)

/-- Packing element codes (R125): element `i` in bits `[ew·i + ew − 1 : ew·i]`. -/
def packCodes (ew : Nat) : List Nat → Nat
  | [] => 0
  | c :: r => c % 2 ^ ew + 2 ^ ew * packCodes ew r

/-- Element `i` of a packed run. -/
def unpackCode (ew : Nat) (x i : Nat) : Nat := x / 2 ^ (ew * i) % 2 ^ ew

/-- The MXINT16 conversion (R126): the scale, the 32 integers, and whether NUMSTAT.NAN is set. -/
def mxint16Block (xs : List Val) : Nat × List Int × Bool :=
  if xs.any fun x => !x.isNum then (0xFF, xs.map fun _ => 0, true)
  else
    match maxLog2 xs with
    | none => (0, xs.map fun _ => 0, false)
    | some l =>
      let m := if l < -127 then -127 else l
      ((m + 127).toNat, xs.map fun x =>
        match x with
        | .num neg a e =>
          let q : Int := (roundMag neg a (e + 14 - m) 0 .rne 0 : Nat)
          if neg then -q else q
        | _ => 0, false)

/-- The integer images of a block's elements (R130, R131): the images, the unit exponent f, and whether
the block counts as one with the NaN scale. -/
def blockImages (F : MxElt) (codes : List Nat) : List Int × Int × Bool :=
  match F with
  | .int8 | .int6 | .int4 => (codes.map fun c => signExt c F.width, 2 - (F.width : Int), false)
  | .fp4 | .fp6e2 | .fp6e3 =>
    let f : Int := match F with
      | .fp4 => -1
      | .fp6e2 => -3
      | _ => -4
    (codes.map fun c =>
      match F.val c with
      | .num neg m e => alignTo neg m e f
      | _ => 0, f, false)
  | .fp8e4 | .fp8e5 =>
    let vs := codes.map F.val
    if vs.any fun v => !v.isNum then (codes.map fun _ => 0, 0, true)
    else
      match maxLog2 vs with
      | none => (codes.map fun _ => 0, -14, false)
      | some m =>
        (vs.map fun v =>
          match v with
          | .num neg a e =>
            let q : Int := (roundMag neg a e (m - 14) .rne 0 : Nat)
            if neg then -q else q
          | _ => 0, m - 14, false)

end Sys2Proof.Machine
end

