-- ==== Sys2Proof/Formats.lean ====
section
/-! DEFINITION. The operand records of the instruction formats (R72, R73, R439) and the operand types of
the events: one field for each bit field of the encoding, named as the manual names it. -/

namespace Sys2Proof

/-- S-RRR (R72). -/
structure SRRR where
  sd : BitVec 5
  sa : BitVec 5
  sb : BitVec 5
  fn : BitVec 9
  deriving DecidableEq, Repr

/-- S-RI (R72); `ext` is the extension syllable, present when X = 1. -/
structure SRI where
  sd  : BitVec 5
  sa  : BitVec 5
  imm : BitVec 14
  ext : Option Word32
  deriving DecidableEq, Repr

/-- S-B (R72). -/
structure SB where
  sa  : BitVec 5
  sb  : BitVec 5
  off : BitVec 14
  ext : Option Word32
  deriving DecidableEq, Repr

/-- S-J (R72). -/
structure SJ where
  off : BitVec 24
  ext : Option Word32
  deriving DecidableEq, Repr

/-- S-Q (R72). -/
structure SQ where
  sd : BitVec 5
  qn : BitVec 4
  nf : BitVec 1
  deriving DecidableEq, Repr

/-- VR (R73). -/
structure VR where
  vd : BitVec 9
  va : BitVec 9
  pg : BitVec 4
  pz : BitVec 1
  gs : BitVec 2
  vb : BitVec 9
  vc : BitVec 9
  ty : BitVec 4
  rm : BitVec 3
  fn : BitVec 7
  deriving DecidableEq, Repr

/-- VI (R73). -/
structure VI where
  vd  : BitVec 9
  va  : BitVec 9
  pg  : BitVec 4
  pz  : BitVec 1
  gs  : BitVec 2
  imm : BitVec 18
  ty  : BitVec 4
  rm  : BitVec 3
  fn  : BitVec 7
  deriving DecidableEq, Repr

/-- VM (R73). -/
structure VM where
  vd  : BitVec 9
  va  : BitVec 9
  pg  : BitVec 4
  pz  : BitVec 1
  gs  : BitVec 2
  sa  : BitVec 5
  sb  : BitVec 5
  off : BitVec 12
  ty  : BitVec 4
  fn  : BitVec 6
  deriving DecidableEq, Repr

/-- VQ (R73). -/
structure VQ where
  vd : BitVec 9
  qn : BitVec 4
  nf : BitVec 1
  pg : BitVec 4
  pz : BitVec 1
  gs : BitVec 2
  deriving DecidableEq, Repr

/-- M (R73). -/
structure MF where
  bk  : BitVec 4
  rs  : BitVec 2
  ab  : BitVec 4
  ar  : BitVec 5
  sa  : BitVec 5
  sb  : BitVec 5
  grp : BitVec 8
  imm : BitVec 16
  fn  : BitVec 8
  deriving DecidableEq, Repr

/-- C (R73). -/
structure CF where
  ch  : BitVec 3
  sa  : BitVec 5
  sb  : BitVec 5
  ca  : BitVec 4
  cb  : BitVec 4
  acq : BitVec 1
  rel : BitVec 1
  scp : BitVec 2
  grp : BitVec 8
  imm : BitVec 16
  fn  : BitVec 8
  deriving DecidableEq, Repr

/-- Filter format A (R439). -/
structure FA where
  fd  : BitVec 4
  fa  : BitVec 4
  fb  : BitVec 4
  sub : BitVec 15
  deriving DecidableEq, Repr

/-- Filter format I (R439). -/
structure FI where
  fd  : BitVec 4
  fa  : BitVec 4
  sub : BitVec 3
  imm : BitVec 16
  deriving DecidableEq, Repr

/-- The in-memory units of a stack's base die (R397). -/
inductive StackUnit where
  | atomicUnit | rowCopy | walker
  deriving DecidableEq, Repr

/-- The SRAM structure in which a soft error is detected, in the code order of R442 (0x51). -/
inductive SoftSite where
  | registerFile | computeBank | accumulator | privateMemory | queue | icache
  deriving DecidableEq, Repr

/-- A detected soft error (R444): where, the index reported, and whether the access is a read whose
repetition changes nothing, so that a replay corrects it. -/
structure SoftError where
  site       : SoftSite
  index      : BitVec 24
  replayable : Bool
  deriving DecidableEq, Repr

/-- An event record of the Abacus (R426): the header's fields, the time, and the 32-byte payload with
its first byte in bits 7..0. -/
structure AbEvent where
  cls     : BitVec 3
  part    : BitVec 6
  pcore   : BitVec 7
  nocore  : Bool
  time    : Word32
  payload : BitVec 256
  deriving DecidableEq, Repr

/-- The function a host request arrives through: a port, and the physical function (`none`) or a
virtual function (R470). -/
structure HostFn where
  port : Nat
  vf   : Option Nat
  deriving DecidableEq, Repr

/-- The PCIe AtomicOps (R376). -/
inductive HostAtomicOp where
  | fetchAdd | swap | cas
  deriving DecidableEq, Repr

/-- What a host table write reaches in an Abacus context (R437, R471). -/
inductive AbTarget where
  | program | table
  deriving DecidableEq, Repr

/-- The control requests carried between the modules of a box (R465). -/
inductive FarControl where
  | stop | preempt | resume
  deriving DecidableEq, Repr

/-- A member's part in a collective, as it crosses the box link (R357, R358): the partition, the group, the
member, its CPCOLL on the group and the phase by STARTS; KIND, TYPE, OP and COUNT of its plan, `none` when its
command has failed; and its source bytes. -/
structure FarBlock where
  part   : Nat
  group  : Nat
  lcore  : Nat
  n      : Nat
  starts : Nat
  plan   : Option (Nat × Nat × Nat × Nat) := none
  bytes  : List Byte := []
  deriving DecidableEq, Repr

/-- What arrives over the box link (R487): a barrier arrival of a far logical core in the phase numbered by
STARTS, a member's block of a collective and the word that a block has been applied (R369), a control request,
the far launch with its image digest and whether a binding was found (R488, R45), the far save's and the far
check's results (R465), that every far core of the phase has issued PHASE (R337, R358), the far side's boundary (R380)
and whether a pre-emption request of that side was still crossing the link (R465), and that far cores have stopped inside
the phase. -/
inductive FarNotice where
  | gbar (part group lcore starts : Nat)
  | collective (block : FarBlock)
  | applied (part group lcore n starts : Nat)
  | control (part : Nat) (op : FarControl)
  | launch (part : Nat) (digest : BitVec 512) (binds : Bool)
  | saved (part : Nat) (ok : Bool)
  | checked (part : Nat) (ok : Bool)
  | phased (part : Nat)
  | boundary (part : Nat) (crossing : Bool)
  | held (part : Nat)
  deriving DecidableEq, Repr

/-- The SPDM requests the module answers (R483, R485). -/
inductive SpdmReq where
  | startSession
  | endSession
  | challenge (nonce : BitVec 256)
  | getMeasurement (index : Nat) (nonce : BitVec 256)
  | getCertificate (slot : Nat)
  | startInterface
  | stopInterface
  | keyProgram (stream : BitVec 8) (key : BitVec 256)
  | keyGo (stream : BitVec 8)
  | keyStop (stream : BitVec 8)
  deriving DecidableEq, Repr

end Sys2Proof
end

