-- ==== Sys2Proof/Syntax.lean ====
section
/-! DEFINITION. The abstract syntax: one constructor for each row of the opcode table. A slot operation
and a filter instruction carry the bit fields of their format. An event carries the data it brings; where it
strikes (a core, a partition, a channel, a host function) stands in the state's focus (log 2). -/

namespace Sys2Proof

/-- The part's steps, each whole and indivisible: the slot operations, the filter instructions and the
events that bring data, in the opcode table's order, then the other events. -/
inductive Instr where
  /-- NOP (R77). -/
  | nop (f : SRRR)
  /-- ADD (R140). -/
  | add (f : SRRR)
  /-- SUB (R140). -/
  | sub (f : SRRR)
  /-- AND (R140). -/
  | and (f : SRRR)
  /-- OR (R140). -/
  | or (f : SRRR)
  /-- XOR (R140). -/
  | xor (f : SRRR)
  /-- SHL (R140). -/
  | shl (f : SRRR)
  /-- SHR (R140). -/
  | shr (f : SRRR)
  /-- SHA (R140). -/
  | sha (f : SRRR)
  /-- MUL (R140). -/
  | mul (f : SRRR)
  /-- MULH (R140). -/
  | mulh (f : SRRR)
  /-- DIV (R141). -/
  | div (f : SRRR)
  /-- REM (R141). -/
  | rem (f : SRRR)
  /-- MIN (R140). -/
  | min (f : SRRR)
  /-- MAX (R140). -/
  | max (f : SRRR)
  /-- SLT (R140). -/
  | slt (f : SRRR)
  /-- SLTN (R140). -/
  | sltn (f : SRRR)
  /-- ADDI (R142). -/
  | addi (f : SRI)
  /-- ANDI (R142). -/
  | andi (f : SRI)
  /-- ORI (R142). -/
  | ori (f : SRI)
  /-- XORI (R142). -/
  | xori (f : SRI)
  /-- SHLI (R142). -/
  | shli (f : SRI)
  /-- SHRI (R142). -/
  | shri (f : SRI)
  /-- SHAI (R142). -/
  | shai (f : SRI)
  /-- LUI (R142). -/
  | lui (f : SRI)
  /-- LDB (R143). -/
  | ldb (f : SRI)
  /-- LDBZ (R143). -/
  | ldbz (f : SRI)
  /-- LDH (R143). -/
  | ldh (f : SRI)
  /-- LDHZ (R143). -/
  | ldhz (f : SRI)
  /-- LDW (R143). -/
  | ldw (f : SRI)
  /-- LDWZ (R143). -/
  | ldwz (f : SRI)
  /-- LDD (R143). -/
  | ldd (f : SRI)
  /-- STB (R143). -/
  | stb (f : SRI)
  /-- STH (R143). -/
  | sth (f : SRI)
  /-- STW (R143). -/
  | stw (f : SRI)
  /-- STD (R143). -/
  | std (f : SRI)
  /-- BEQ (R145). -/
  | beq (f : SB)
  /-- BNE (R145). -/
  | bne (f : SB)
  /-- BLT (R145). -/
  | blt (f : SB)
  /-- BGE (R145). -/
  | bge (f : SB)
  /-- BLTN (R145). -/
  | bltn (f : SB)
  /-- BGEN (R145). -/
  | bgen (f : SB)
  /-- JMP (R146). -/
  | jmp (f : SJ)
  /-- CALL (R146). -/
  | call (f : SJ)
  /-- JR (R147). -/
  | jr (f : SRRR)
  /-- RET (R147). -/
  | ret (f : SRRR)
  /-- LOOPR (R148). -/
  | loopr (f : SB)
  /-- CTLRD (R139). -/
  | ctlrd (f : SRI)
  /-- CTLWR (R139). -/
  | ctlwr (f : SRI)
  /-- CAPLD (R157). -/
  | capld (f : SRI)
  /-- CAPLD_MEMORY (R157). -/
  | capldMemory (f : SRI)
  /-- CAPST (R158). -/
  | capst (f : SRI)
  /-- CNARROW (R159). -/
  | cnarrow (f : SRRR)
  /-- CQUERY (R160). -/
  | cquery (f : SRRR)
  /-- GLD (R161). -/
  | gld (f : SRI)
  /-- GST (R161). -/
  | gst (f : SRI)
  /-- PHASE (R164). -/
  | phase (f : SRI)
  /-- GBAR (R165). -/
  | gbar (f : SRI)
  /-- FENCE_E (R163). -/
  | fenceE (f : SRI)
  /-- IDLE (R166). -/
  | idle (f : SRI)
  /-- TRAP (R454). -/
  | trap (f : SRI)
  /-- TRET (R452). -/
  | tret (f : SRI)
  /-- HALT (R453). -/
  | halt (f : SRI)
  /-- DBGBRK (R454). -/
  | dbgbrk (f : SRI)
  /-- QPOP_S (R229). -/
  | qpopS (f : SQ)
  /-- QPEEK_S (R229). -/
  | qpeekS (f : SQ)
  /-- QPUSH_S (R230). -/
  | qpushS (f : SQ)
  /-- QSTAT_S (R231). -/
  | qstatS (f : SQ)
  /-- QFLUSH_S (R232). -/
  | qflushS (f : SQ)
  /-- QPOP_V (R229). -/
  | qpopV (f : VQ)
  /-- QPEEK_V (R229). -/
  | qpeekV (f : VQ)
  /-- QPUSH_V (R230). -/
  | qpushV (f : VQ)
  /-- QSTAT_V (R231). -/
  | qstatV (f : VQ)
  /-- QFLUSH_V (R232). -/
  | qflushV (f : VQ)
  /-- VADD (R179). -/
  | vadd (f : VR)
  /-- VSUB (R179). -/
  | vsub (f : VR)
  /-- VMUL (R179). -/
  | vmul (f : VR)
  /-- VMULH (R179). -/
  | vmulh (f : VR)
  /-- VMADD (R179). -/
  | vmadd (f : VR)
  /-- VMIN (R179). -/
  | vmin (f : VR)
  /-- VMAX (R179). -/
  | vmax (f : VR)
  /-- VABS (R179). -/
  | vabs (f : VR)
  /-- VNEG (R179). -/
  | vneg (f : VR)
  /-- VAND (R179). -/
  | vand (f : VR)
  /-- VOR (R179). -/
  | vor (f : VR)
  /-- VXOR (R179). -/
  | vxor (f : VR)
  /-- VSHL (R179). -/
  | vshl (f : VR)
  /-- VSHR (R179). -/
  | vshr (f : VR)
  /-- VSHA (R179). -/
  | vsha (f : VR)
  /-- VCMP (R180). -/
  | vcmp (f : VR)
  /-- VSEL (R181). -/
  | vsel (f : VR)
  /-- VFADD (R182). -/
  | vfadd (f : VR)
  /-- VFSUB (R182). -/
  | vfsub (f : VR)
  /-- VFMUL (R182). -/
  | vfmul (f : VR)
  /-- VFMA (R182). -/
  | vfma (f : VR)
  /-- VFMIN (R184). -/
  | vfmin (f : VR)
  /-- VFMAX (R184). -/
  | vfmax (f : VR)
  /-- VFCMP (R180). -/
  | vfcmp (f : VR)
  /-- VCVT (R185). -/
  | vcvt (f : VR)
  /-- VQUANT (R186). -/
  | vquant (f : VR)
  /-- VDEQ (R187). -/
  | vdeq (f : VR)
  /-- VEXP2 (R188). -/
  | vexp2 (f : VR)
  /-- VLOG2 (R188). -/
  | vlog2 (f : VR)
  /-- VRCP (R188). -/
  | vrcp (f : VR)
  /-- VRSQ (R188). -/
  | vrsq (f : VR)
  /-- VRED (R190). -/
  | vred (f : VR)
  /-- VPERM (R191). -/
  | vperm (f : VR)
  /-- VSHUF (R192). -/
  | vshuf (f : VR)
  /-- VBCAST (R193). -/
  | vbcast (f : VI)
  /-- VBCAST_LANE (R193). -/
  | vbcastLane (f : VI)
  /-- VEXTR (R194). -/
  | vextr (f : VR)
  /-- VLD (R195). -/
  | vld (f : VM)
  /-- VST (R195). -/
  | vst (f : VM)
  /-- VLDS (R195). -/
  | vlds (f : VM)
  /-- VSTS (R195). -/
  | vsts (f : VM)
  /-- VGATH (R195). -/
  | vgath (f : VM)
  /-- VSCAT (R195). -/
  | vscat (f : VM)
  /-- PAND (R199). -/
  | pand (f : VR)
  /-- POR (R199). -/
  | por (f : VR)
  /-- PXOR (R199). -/
  | pxor (f : VR)
  /-- PNOT (R199). -/
  | pnot (f : VR)
  /-- PPOP (R199). -/
  | ppop (f : VR)
  /-- PFIRST (R199). -/
  | pfirst (f : VR)
  /-- ACCPOP (R290). -/
  | accpop (f : VR)
  /-- VORDK (R200). -/
  | vordk (f : VR)
  /-- VDIGIT (R201). -/
  | vdigit (f : VR)
  /-- VCNT (R202). -/
  | vcnt (f : VR)
  /-- VNWATCH (R203). -/
  | vnwatch (f : VR)
  /-- DNORM (R213). -/
  | dnorm (f : VR)
  /-- DEXP (R214). -/
  | dexp (f : VR)
  /-- DEXP_RAW (R214). -/
  | dexpRaw (f : VR)
  /-- DDOT (R215). -/
  | ddot (f : VR)
  /-- DDOTM (R216). -/
  | ddotm (f : VR)
  /-- DSCALE (R217). -/
  | dscale (f : VR)
  /-- DSCALE_ADD (R217). -/
  | dscaleAdd (f : VR)
  /-- DSCALE_SUB (R217). -/
  | dscaleSub (f : VR)
  /-- DSET (R219). -/
  | dset (f : VR)
  /-- DADD (R218). -/
  | dadd (f : VR)
  /-- DNEG (R219). -/
  | dneg (f : VR)
  /-- DMOV (R219). -/
  | dmov (f : VR)
  /-- DZERO (R219). -/
  | dzero (f : VR)
  /-- DNORMQ (R219). -/
  | dnormq (f : VR)
  /-- DNORMQ_DEV (R219). -/
  | dnormqDev (f : VR)
  /-- BMODE_COMPUTE (R269). -/
  | bmodeCompute (f : MF)
  /-- BMODE_SCRATCH (R269). -/
  | bmodeScratch (f : MF)
  /-- BPLANE (R270). -/
  | bplane (f : MF)
  /-- BLOAD (R271). -/
  | bload (f : MF)
  /-- BPREC (R272). -/
  | bprec (f : MF)
  /-- BSPARSE (R273). -/
  | bsparse (f : MF)
  /-- BSPARSE_DENSE (R273). -/
  | bsparseDense (f : MF)
  /-- BOUTL (R274). -/
  | boutl (f : MF)
  /-- BTAG (R275). -/
  | btag (f : MF)
  /-- BRUN (R276). -/
  | brun (f : MF)
  /-- BACC (R276). -/
  | bacc (f : MF)
  /-- BSTAT (R277). -/
  | bstat (f : MF)
  /-- BCLR (R278). -/
  | bclr (f : MF)
  /-- BCLR_ALL (R278). -/
  | bclrAll (f : MF)
  /-- BDIR (R279). -/
  | bdir (f : MF)
  /-- BZERO (R280). -/
  | bzero (f : MF)
  /-- ACCALLOC (R295). -/
  | accalloc (f : MF)
  /-- ACCFREE (R295). -/
  | accfree (f : MF)
  /-- ACCBAND (R296). -/
  | accband (f : MF)
  /-- ACCBAND_LOCAL (R296). -/
  | accbandLocal (f : MF)
  /-- ACCNORM (R288). -/
  | accnorm (f : MF)
  /-- ACCCLR (R297). -/
  | accclr (f : MF)
  /-- ACCRD (R298). -/
  | accrd (f : MF)
  /-- ACCRD_REMOTE (R298). -/
  | accrdRemote (f : MF)
  /-- ACCEXP (R299). -/
  | accexp (f : MF)
  /-- ACCEXP_REMOTE (R299). -/
  | accexpRemote (f : MF)
  /-- ACCHEAD (R300). -/
  | acchead (f : MF)
  /-- ACCEXPORT (R296). -/
  | accexport (f : MF)
  /-- CPSET (R342). -/
  | cpset (f : CF)
  /-- CPGO (R343). -/
  | cpgo (f : CF)
  /-- CPWAIT (R344). -/
  | cpwait (f : CF)
  /-- CPMARK (R345). -/
  | cpmark (f : CF)
  /-- CPFOLLOW (R346). -/
  | cpfollow (f : CF)
  /-- CPMCAST (R347). -/
  | cpmcast (f : CF)
  /-- CPMCAST_MSG (R347). -/
  | cpmcastMsg (f : CF)
  /-- CPFILL (R348). -/
  | cpfill (f : CF)
  /-- CPSHELL (R349). -/
  | cpshell (f : CF)
  /-- CPACC (R350). -/
  | cpacc (f : CF)
  /-- CPACC_ONE (R350). -/
  | cpaccOne (f : CF)
  /-- MEMROW_COPY (R351). -/
  | memrowCopy (f : CF)
  /-- MEMROW_ZERO (R351). -/
  | memrowZero (f : CF)
  /-- EWALK (R352). -/
  | ewalk (f : CF)
  /-- CPINV (R353). -/
  | cpinv (f : CF)
  /-- CPFENCE (R354). -/
  | cpfence (f : CF)
  /-- CPEXPORT_READ (R355). -/
  | cpexportRead (f : CF)
  /-- CPEXPORT_CARRY (R355). -/
  | cpexportCarry (f : CF)
  /-- CPEXPORT_RECEIVE (R355). -/
  | cpexportReceive (f : CF)
  /-- CPCOLL (R356). -/
  | cpcoll (f : CF)
  /-- CARRY (R319). -/
  | carry (f : CF)
  /-- CARRY_REMOTE (R319). -/
  | carryRemote (f : CF)
  /-- CARRYW (R320). -/
  | carryw (f : CF)
  /-- CARRYST (R321). -/
  | carryst (f : CF)
  /-- SOFT_ERROR (R444). -/
  | softError (err : SoftError)
  /-- EVENT_INTAKE (R428). -/
  | eventIntake (ev : AbEvent)
  /-- FILTER_EXIT (R440). -/
  | filterExit (f : FA)
  /-- FILTER_BR (R440). -/
  | filterBr (f : FA)
  /-- FILTER_LDE (R440). -/
  | filterLde (f : FA)
  /-- FILTER_LDI (R440). -/
  | filterLdi (f : FI)
  /-- FILTER_LIH (R440). -/
  | filterLih (f : FI)
  /-- FILTER_ADDI (R440). -/
  | filterAddi (f : FI)
  /-- FILTER_ADD (R440). -/
  | filterAdd (f : FA)
  /-- FILTER_SUB (R440). -/
  | filterSub (f : FA)
  /-- FILTER_AND (R440). -/
  | filterAnd (f : FA)
  /-- FILTER_OR (R440). -/
  | filterOr (f : FA)
  /-- FILTER_XOR (R440). -/
  | filterXor (f : FA)
  /-- FILTER_MIN (R440). -/
  | filterMin (f : FA)
  /-- FILTER_MAX (R440). -/
  | filterMax (f : FA)
  /-- FILTER_ABSD (R440). -/
  | filterAbsd (f : FA)
  /-- FILTER_SHL (R440). -/
  | filterShl (f : FI)
  /-- FILTER_SHR (R440). -/
  | filterShr (f : FI)
  /-- FILTER_SHA (R440). -/
  | filterSha (f : FI)
  /-- FILTER_LOG2 (R440). -/
  | filterLog2 (f : FA)
  /-- FILTER_HASH (R440). -/
  | filterHash (f : FI)
  /-- FILTER_EWMA (R440). -/
  | filterEwma (f : FI)
  /-- FILTER_TLD (R440). -/
  | filterTld (f : FI)
  /-- FILTER_TST (R440). -/
  | filterTst (f : FI)
  /-- FILTER_TADD (R440). -/
  | filterTadd (f : FI)
  /-- FILTER_TRIG (R441). -/
  | filterTrig (f : FI)
  /-- ABSTRACT_COMMAND (R467). -/
  | abstractCommand (value : Word)
  /-- DMCTL_ACTIVE (R466). -/
  | dmctlActive (on : Bool)
  /-- HOST_WRITE (R373). -/
  | hostWrite (off : Nat) (bytes : List Byte)
  /-- HOST_ATOMIC (R376). -/
  | hostAtomic (off : Nat) (op : HostAtomicOp) (size : Nat) (a : BitVec 128) (b : BitVec 128)
  /-- HOST_READ (R374). -/
  | hostRead (off : Nat) (n : Nat)
  /-- HOST_TABLE_WRITE (R437). -/
  | hostTableWrite (target : AbTarget) (index : Nat) (value : Word32)
  /-- HOST_REGISTER_WRITE (R471). -/
  | hostRegisterWrite (off : Nat) (size : Nat) (value : Word)
  /-- VFMAP_WRITE (R478). -/
  | vfmapWrite (vf : Nat) (value : Word)
  /-- LRENEW (R477). -/
  | lrenew (epoch : BitVec 16)
  /-- LRENEW_YIELD (R477). -/
  | lrenewYield (epoch : BitVec 16)
  /-- EPWR_WRITE (R418). -/
  | epwrWrite (value : Word)
  /-- MPWR_WRITE (R486). -/
  | mpwrWrite (value : Word)
  /-- ABUDGET_WRITE (R435). -/
  | abudgetWrite (value : Word)
  /-- ACTL_WRITE (R431). -/
  | actlWrite (value : Word)
  /-- AOWN_WRITE (R430). -/
  | aownWrite (value : Word)
  /-- TCTL_WRITE (R393). -/
  | tctlWrite (value : Word)
  /-- TRLEN_WRITE (R474). -/
  | trlenWrite (base : Bool) (value : Word)
  /-- PORT_LINK_CHANGE (R476). -/
  | portLinkChange (up : Bool)
  /-- BOX_LINK_NOTICE (R487). -/
  | boxLinkNotice (notice : FarNotice)
  /-- SPDM_REQUEST (R485). -/
  | spdmRequest (req : SpdmReq)
  /-- HOST_REGISTER_READ (R473). -/
  | hostRegisterRead (off : Nat) (size : Nat)
  /-- BUNDLE_ISSUE (R71). -/
  | bundleIssue
  /-- SLACK_EXHAUSTED (R112). -/
  | slackExhausted
  /-- INSTRUCTION_FETCH (R68). -/
  | instructionFetch
  /-- FAULT_DELIVERY (R450). -/
  | faultDelivery
  /-- PHASE_START (R49). -/
  | phaseStart
  /-- PHASE_BOUNDARY (R52). -/
  | phaseBoundary
  /-- RECKONER_TICK (R417). -/
  | reckonerTick
  /-- LEASE_EXPIRY (R477). -/
  | leaseExpiry
  /-- BMODE_SWITCH (R240). -/
  | bmodeSwitch
  /-- M_COMMAND_START (R263). -/
  | mCommandStart
  /-- PASS_TOKEN (R255). -/
  | passToken
  /-- ACCUMULATE (R285). -/
  | accumulate
  /-- ROW_SET_FULL (R242). -/
  | rowSetFull
  /-- CPFOLLOW_HANDOVER (R266). -/
  | cpfollowHandover
  /-- REMOTE_DRAIN (R292). -/
  | remoteDrain
  /-- REMOTE_ROW_IMAGE (R298). -/
  | remoteRowImage
  /-- COPY_COMMAND_START (R323). -/
  | copyCommandStart
  /-- COPY_TRANSFER (R326). -/
  | copyTransfer
  /-- COMMAND_COMPLETE (R332). -/
  | commandComplete
  /-- RESULT_RECORD (R333). -/
  | resultRecord
  /-- MARKER_RECORD (R345). -/
  | markerRecord
  /-- TRANSLATION_MARKER (R353). -/
  | translationMarker
  /-- PEER_READ_REQUEST (R340). -/
  | peerReadRequest
  /-- DELIVERY (R340). -/
  | delivery
  /-- COLLECTIVE (R357). -/
  | collective
  /-- CARRY_WINDOW (R314). -/
  | carryWindow
  /-- REMOTE_CARRY (R316). -/
  | remoteCarry
  /-- CARRYST_RECORD (R321). -/
  | carrystRecord
  /-- SEED_WORD (R233). -/
  | seedWord
  /-- ATOMIC (R377). -/
  | atomic
  /-- ROW_COPY (R404). -/
  | rowCopy
  /-- ZERO_FILL (R405). -/
  | zeroFill
  /-- LOOKUP_RECORD (R411). -/
  | lookupRecord
  /-- WATCHDOG_RESET (R398). -/
  | watchdogReset
  /-- TRANSLATION (R386). -/
  | translation
  /-- INVREQ_GO (R394). -/
  | invreqGo
  /-- INVALIDATION_COMPLETE (R395). -/
  | invalidationComplete
  /-- EVENT_DISPATCH (R433). -/
  | eventDispatch
  /-- FILTER_RUN (R436). -/
  | filterRun
  /-- PREEMPTION_STOP (R457). -/
  | preemptionStop
  /-- CONTEXT_SAVE (R461). -/
  | contextSave
  /-- ROW_SET_RESTORE (R462). -/
  | rowSetRestore
  /-- RESUME_RESTART (R464). -/
  | resumeRestart
  /-- DEBUG_STOP (R468). -/
  | debugStop
  /-- DMCTL_HALTREQ (R466). -/
  | dmctlHaltreq
  /-- DMCTL_RESUMEREQ (R466). -/
  | dmctlResumereq
  /-- TRACE_SAMPLE (R469). -/
  | traceSample
  /-- LCTL_GO (R479). -/
  | lctlGo
  /-- LCTL_STOP (R481). -/
  | lctlStop
  /-- LCTL_PREEMPT (R481). -/
  | lctlPreempt
  /-- LCTL_RESUME (R481). -/
  | lctlResume
  /-- LCTL_UNLOAD (R479). -/
  | lctlUnload
  /-- PCTL_CREATE (R478). -/
  | pctlCreate
  /-- PCTL_DESTROY (R478). -/
  | pctlDestroy
  /-- RESYNC_GO (R482). -/
  | resyncGo
  /-- BOX_LINK_DOWN (R488). -/
  | boxLinkDown
  /-- FAR_LAUNCH_TIMEOUT (R488). -/
  | farLaunchTimeout
  /-- INTERFACE_TORN (R484). -/
  | interfaceTorn
  /-- LOCK_INTERFACE (R483). -/
  | lockInterface
  /-- SCRUB_COMPLETE (R484). -/
  | scrubComplete
  /-- COLD_RESET (R489). -/
  | coldReset
  /-- PF_FUNCTION_LEVEL_RESET (R489). -/
  | pfFunctionLevelReset
  /-- VF_FUNCTION_LEVEL_RESET (R489). -/
  | vfFunctionLevelReset
  /-- THERMAL_SHUTDOWN (R489). -/
  | thermalShutdown
  /-- DEVICE_ACCESS_COMPLETE (R161). -/
  | deviceAccessComplete
  /-- DOUBLED_REFRESH (R400). -/
  | doubledRefresh
  /-- BOX_LINK_UP (R487). -/
  | boxLinkUp
  deriving DecidableEq, Repr

end Sys2Proof
end

