-- ==== Sys2Proof/Machine/Checks.lean ====
section
/-! DEFINITION. The checks of decode on one operation (R76): row 5, the field values an instruction
accepts, and row 6, the ranges of its register operands; with them the operand table that the early-read
and write-conflict rules use (R97, R104). The filter instructions' field limits stand beside them
(R440). -/

namespace Sys2Proof

open Sys2Proof.Machine

/-- The register classes, in the code order of TRAPDET for a write conflict (R442, 0x03). -/
inductive RegClass where
  | scalar | cap | vec | pred | dir | norm | ctl | flag | queue
  deriving DecidableEq, Repr

def RegClass.code : RegClass → Nat
  | .scalar => 0 | .cap => 1 | .vec => 2 | .pred => 3 | .dir => 4 | .norm => 5 | .ctl => 6 | .flag => 7 | .queue => 8

/-- One operand: `cnt` registers of a class from `num` on, read or written; `align` is the alignment that
row 6 asks of `num`. -/
structure Operand where
  cls   : RegClass
  num   : Nat
  cnt   : Nat
  write : Bool
  align : Nat
  deriving DecidableEq, Repr

def rd (cls : RegClass) (n : Nat) (cnt : Nat := 1) (align : Nat := 1) : Operand := ⟨cls, n, cnt, false, align⟩
def wr (cls : RegClass) (n : Nat) (cnt : Nat := 1) (align : Nat := 1) : Operand := ⟨cls, n, cnt, true, align⟩

/-- Row 6 for one operand (R73, R76). Control-register numbers are checked at issue (R139). -/
def Operand.inRange (o : Operand) : Bool :=
  decide (o.num % o.align = 0) &&
  match o.cls with
  | .scalar => decide (o.num + o.cnt ≤ 32)
  | .cap | .pred => decide (o.num + o.cnt ≤ 16)
  | .vec => decide (o.num + o.cnt ≤ 384)
  | .dir | .norm => decide (o.num + o.cnt ≤ 64)
  | .queue => decide (o.num < 14)
  | .ctl | .flag => true

/-! Shapes shared by the V instructions. -/

def gsOf (f : VR) : Nat := 2 ^ f.gs.toNat
/-- PG's predicate, when it guards (R74). -/
def guardRd (pg : BitVec 4) : List Operand := if pg = 0 then [] else [rd .pred pg.toNat]
def pgOk (pg : BitVec 4) (pz : BitVec 1) : Bool := pg != 0 || pz == 0
def pgNone (pg : BitVec 4) (pz : BitVec 1) : Bool := pg == 0 && pz == 0
def tyIn (ty : BitVec 4) (lo hi : Nat) : Bool := decide (lo ≤ ty.toNat) && decide (ty.toNat ≤ hi)
/-- Integer types (R179); .f, .h and .b (R182); any type. -/
def tyInt (ty : BitVec 4) : Bool := tyIn ty 0 7
def tyFhb (ty : BitVec 4) : Bool := tyIn ty 8 10
def tyAny (ty : BitVec 4) : Bool := tyIn ty 0 12
def rmRound (rm : BitVec 3) : Bool := decide (rm.toNat ≤ 4)

def vecG (f : VR) (n : BitVec 9) (write : Bool) : Operand := ⟨.vec, n.toNat, gsOf f, write, gsOf f⟩
def dirG (f : VR) (n : BitVec 9) (write : Bool) : Operand := ⟨.dir, n.toNat, gsOf f, write, gsOf f⟩
/-- A vector run of a direction instruction (R210). -/
def runD (f : VR) (n : BitVec 9) (write : Bool) : Operand :=
  let d := if f.ty = 10 then 2 * gsOf f else gsOf f
  ⟨.vec, n.toNat, d, write, d⟩
def abd (f : VR) : List Operand := [vecG f f.va false, vecG f f.vb false, vecG f f.vd true] ++ guardRd f.pg
def ad (f : VR) : List Operand := [vecG f f.va false, vecG f f.vd true] ++ guardRd f.pg

/-- The elements, packed registers and element operand of VQUANT and VDEQ (R186). -/
def mxElems (f : VR) : Nat :=
  let per := if f.ty = 10 then 64 else 128
  if f.fn.getLsbD 3 then 3 * per else gsOf f * per
def mxPackedRegs (f : VR) : Nat :=
  let b := mxElems f * (mxElt f.fn.toNat).width / 8
  if b ≤ 256 then 1 else if b ≤ 512 then 2 else if b ≤ 1024 then 4 else 8
def mxElemsOpd (f : VR) (n : BitVec 9) (write : Bool) : Operand :=
  if f.fn.getLsbD 3 then ⟨.vec, n.toNat, 3, write, 4⟩ else vecG f n write
def mxPackedOpd (f : VR) (n : BitVec 9) (write : Bool) : Operand :=
  ⟨.vec, n.toNat, mxPackedRegs f, write, mxPackedRegs f⟩
/-- With .96, GS must be 0 (R186). -/
def mxGsOk (f : VR) : Bool := !f.fn.getLsbD 3 || f.gs == 0

/-- Operand registers of a pop, peek or push: the queue, and Q when flagged (R104, R227). -/
def queueOps (qn : BitVec 4) (nf : BitVec 1) (write : Bool) : List Operand :=
  ⟨.queue, qn.toNat, 1, write, 1⟩ :: (if nf = 1 then [wr .flag 0] else [])

/-- FLAGS is both a control register and the flag register (R137). -/
def ctlOpd (n : BitVec 14) (write : Bool) : List Operand :=
  ⟨.ctl, n.toNat, 1, write, 1⟩ :: (if n = 0 then [⟨.flag, 0, 1, write, 1⟩] else [])

def rrrOps (f : SRRR) : List Operand := [rd .scalar f.sa.toNat, rd .scalar f.sb.toNat, wr .scalar f.sd.toNat]
def riOps (f : SRI) : List Operand := [rd .scalar f.sa.toNat, wr .scalar f.sd.toNat]
def storeOps (f : SRI) : List Operand := [rd .scalar f.sa.toNat, rd .scalar f.sd.toNat]
def branchOps (f : SB) : List Operand := [rd .scalar f.sa.toNat, rd .scalar f.sb.toNat]
def capOf (f : SRI) : Nat := (f.imm.extractLsb' 9 4).toNat
def gldCap (f : SRI) : Nat := (f.imm.extractLsb' 10 4).toNat

/-- The scalar and capability operands of an M or C operation. -/
def sOps (l : List (BitVec 5)) : List Operand := l.map fun r => rd .scalar r.toNat
def cOps (l : List (BitVec 4)) : List Operand := l.map fun r => rd .cap r.toNat

/-- A vector load's or store's operands. -/
def vmOps (f : VM) (write index stride : Bool) : List Operand :=
  let g := 2 ^ f.gs.toNat
  [⟨.vec, f.vd.toNat, g, write, g⟩, rd .scalar f.sa.toNat] ++
    (if index then [rd .vec f.va.toNat g g] else []) ++
    (if stride then [rd .scalar f.sb.toNat] else []) ++ guardRd f.pg

/-- Every register, predicate, queue, flag and control register an operation reads or writes, reads
before writes within a class of use (R97, R104).  DESIGN CHOICE (log 69): a QFLUSH counts as a write of
its queue in R104's conflict check, which names push and pop only.  DEDUCED (log 28): DDOTM names the norm of its last
key first, as the variant of R510 does. -/
def Instr.operands : Instr → List Operand
  | .add f | .sub f | .and f | .or f | .xor f | .shl f | .shr f | .sha f | .mul f | .mulh f | .div f
  | .rem f | .min f | .max f | .slt f | .sltn f => rrrOps f
  | .addi f | .andi f | .ori f | .xori f | .shli f | .shri f | .shai f
  | .ldb f | .ldbz f | .ldh f | .ldhz f | .ldw f | .ldwz f | .ldd f => riOps f
  | .lui f => [wr .scalar f.sd.toNat]
  | .stb f | .sth f | .stw f | .std f => storeOps f
  | .beq f | .bne f | .blt f | .bge f | .bltn f | .bgen f => branchOps f
  | .call _ => [wr .scalar 31]
  | .jr f => [rd .scalar f.sa.toNat]
  | .ret _ => [rd .scalar 31]
  | .loopr f => [rd .scalar f.sa.toNat, wr .scalar f.sa.toNat]
  | .ctlrd f => ctlOpd f.imm false ++ [wr .scalar f.sd.toNat]
  | .ctlwr f => rd .scalar f.sa.toNat :: ctlOpd f.imm true
  | .capld f => [rd .scalar f.sa.toNat, wr .cap f.sd.toNat]
  | .capldMemory f => [rd .cap (capOf f), rd .scalar f.sa.toNat, wr .cap f.sd.toNat]
  | .capst f => [rd .cap (capOf f), rd .scalar f.sa.toNat, rd .cap f.sd.toNat]
  | .cnarrow f => [rd .cap f.sa.toNat, rd .scalar f.sb.toNat 2 2, wr .cap f.sd.toNat]
  | .cquery f => [rd .cap f.sa.toNat, wr .scalar f.sd.toNat]
  | .gld f => [rd .cap (gldCap f), rd .scalar f.sa.toNat, wr .scalar f.sd.toNat]
  | .gst f => [rd .cap (gldCap f), rd .scalar f.sa.toNat, rd .scalar f.sd.toNat]
  | .qpopS f => queueOps f.qn f.nf true ++ [wr .scalar f.sd.toNat]
  | .qpeekS f => queueOps f.qn f.nf false ++ [wr .scalar f.sd.toNat]
  | .qpushS f => rd .scalar f.sd.toNat :: queueOps f.qn f.nf true
  | .qstatS f => queueOps f.qn 0 false ++ [wr .scalar f.sd.toNat]
  | .qflushS f => queueOps f.qn 0 true
  | .qpopV f => queueOps f.qn f.nf true ++ [wr .vec f.vd.toNat (2 ^ f.gs.toNat) (2 ^ f.gs.toNat)] ++ guardRd f.pg
  | .qpeekV f => queueOps f.qn f.nf false ++ [wr .vec f.vd.toNat (2 ^ f.gs.toNat) (2 ^ f.gs.toNat)] ++ guardRd f.pg
  | .qpushV f => rd .vec f.vd.toNat (2 ^ f.gs.toNat) (2 ^ f.gs.toNat) :: queueOps f.qn f.nf true
  | .qstatV f => queueOps f.qn 0 false ++ [wr .vec f.vd.toNat]
  | .qflushV f => queueOps f.qn 0 true
  | .vadd f | .vsub f | .vmul f | .vmulh f | .vmin f | .vmax f | .vand f | .vor f | .vxor f
  | .vfadd f | .vfsub f | .vfmul f | .vfmin f | .vfmax f => abd f
  | .vmadd f | .vfma f => vecG f f.vc false :: abd f
  | .vabs f | .vneg f | .vexp2 f | .vlog2 f | .vrcp f | .vrsq f | .vcvt f | .vordk f | .vdigit f | .vcnt f => ad f
  | .vshl f | .vshr f | .vsha f => if f.fn.getLsbD 0 then ad f else abd f
  | .vcmp f | .vfcmp f =>
    [vecG f f.va false, vecG f f.vb false, wr .pred f.vd.toNat] ++ guardRd f.pg
  | .vsel f => rd .pred f.vc.toNat :: abd f
  | .vquant f =>
    [mxElemsOpd f f.va false] ++ (if f.fn.getLsbD 4 then [rd .vec f.vc.toNat] else []) ++
      [mxPackedOpd f f.vd true, wr .vec f.vb.toNat]
  | .vdeq f => [mxPackedOpd f f.va false, rd .vec f.vb.toNat, mxElemsOpd f f.vd true] ++ guardRd f.pg
  | .vred f => [vecG f f.va false, wr .vec f.vd.toNat] ++ guardRd f.pg
  | .vperm f => [vecG f f.va false, rd .vec f.vb.toNat, wr .vec f.vd.toNat] ++ guardRd f.pg
  | .vshuf f => rd .vec f.va.toNat :: (if f.fn.toNat < 4 then [rd .vec f.vb.toNat] else []) ++ [wr .vec f.vd.toNat]
  | .vbcast f => [wr .vec f.vd.toNat (2 ^ f.gs.toNat) (2 ^ f.gs.toNat)] ++ guardRd f.pg
  | .vbcastLane f =>
    [rd .vec f.va.toNat, wr .vec f.vd.toNat (2 ^ f.gs.toNat) (2 ^ f.gs.toNat)] ++ guardRd f.pg
  | .vextr f => [rd .vec f.va.toNat, rd .vec f.vb.toNat, wr .vec f.vd.toNat]
  | .vld f => vmOps f true false false
  | .vst f => vmOps f false false false
  | .vlds f => vmOps f true false true
  | .vsts f => vmOps f false false true
  | .vgath f => vmOps f true true false
  | .vscat f => vmOps f false true false
  | .pand f | .por f | .pxor f => [rd .pred f.va.toNat, rd .pred f.vb.toNat, wr .pred f.vd.toNat]
  | .pnot f => [rd .pred f.va.toNat, wr .pred f.vd.toNat]
  | .ppop f | .pfirst f => [rd .pred f.va.toNat, wr .scalar f.vd.toNat]
  | .accpop f => [wr .queue 6, wr .vec f.vd.toNat] ++ guardRd f.pg
  | .vnwatch f => vecG f f.va false :: guardRd f.pg
  | .dnorm f => [runD f f.va false, dirG f f.vd true, wr .norm f.vd.toNat] ++ guardRd f.pg
  | .dexp f => [dirG f f.va false, rd .norm f.va.toNat, runD f f.vd true] ++ guardRd f.pg
  | .dexpRaw f => [dirG f f.va false, runD f f.vd true] ++ guardRd f.pg
  | .ddot f =>
    [dirG f f.va false, rd .norm f.va.toNat, dirG f f.vb false, rd .norm f.vb.toNat, wr .scalar f.vd.toNat]
  | .ddotm f =>
    [dirG f f.va false, rd .norm f.va.toNat, rd .dir f.vb.toNat ((f.vc.toNat + 1) * gsOf f) (gsOf f)] ++
      (List.range (f.vc.toNat + 1)).reverse.map (fun j => rd .norm (f.vb.toNat + j * gsOf f)) ++
      [wr .vec f.vd.toNat] ++ guardRd f.pg
  | .dscale f => [rd .norm f.va.toNat, wr .norm f.vd.toNat]
  | .dscaleAdd f | .dscaleSub f => [rd .norm f.va.toNat, rd .norm f.vb.toNat, wr .norm f.vd.toNat]
  | .dset f => [runD f f.va false, rd .scalar f.vb.toNat, dirG f f.vd true, wr .norm f.vd.toNat]
  | .dadd f =>
    [dirG f f.va false, rd .norm f.va.toNat, dirG f f.vb false, rd .norm f.vb.toNat, dirG f f.vd true,
      wr .norm f.vd.toNat]
  | .dneg f => [dirG f f.va false, dirG f f.vd true]
  | .dmov f => [dirG f f.va false, rd .norm f.va.toNat, dirG f f.vd true, wr .norm f.vd.toNat]
  | .dzero f => [dirG f f.vd true, wr .norm f.vd.toNat]
  | .dnormq f => [rd .norm f.va.toNat, wr .scalar f.vd.toNat]
  | .dnormqDev f => [dirG f f.va false, wr .scalar f.vd.toNat]
  | .bload f | .bsparse f => sOps [f.sa]
  | .boutl f | .btag f | .brun f | .bacc f => sOps [f.sa, f.sb]
  | .bdir f =>
    let d := f.imm.toNat % 64
    let m := f.imm.toNat / 64 % 32 + 1
    let g := 2 ^ (f.imm.toNat / 2 ^ 11 % 4)
    rd .dir d (m * g) g :: (List.range m).map fun j => rd .norm (d + j * g)
  | .bstat _ | .acchead _ => [wr .queue 3]
  | .accalloc f | .accclr f | .accexp f => sOps [f.sa]
  | .accrd _ => [wr .queue 6]
  | .accrdRemote f => sOps [f.sb] ++ [wr .queue 6]
  | .accexpRemote f => sOps [f.sa, f.sb]
  | .cpset f => sOps [f.sa]
  | .cpgo f => sOps [f.sa, f.sb] ++ cOps [f.ca, f.cb]
  | .cpmcast f => sOps [f.sa, f.sb] ++ cOps [f.ca]
  | .cpmcastMsg f => sOps [f.sa]
  | .cpfill f => sOps [f.sa, f.sb] ++ cOps [f.cb]
  | .cpshell f => sOps [f.sa] ++ cOps [f.ca]
  | .cpacc f | .cpaccOne f => sOps [f.sa, f.sb] ++ cOps [f.cb]
  | .memrowCopy f | .ewalk f => sOps [f.sa, f.sb] ++ cOps [f.ca, f.cb]
  | .memrowZero f => sOps [f.sb] ++ cOps [f.cb]
  | .cpexportRead f | .cpexportCarry f | .cpexportReceive f => sOps [f.sa, f.sb]
  | .cpcoll f => sOps [f.sa] ++ cOps [f.ca, f.cb]
  | .carry f | .carryRemote f | .carryw f => sOps [f.sa, f.sb]
  | _ => []

/-- The queue accesses R221 allows: from the S slot, from a V slot with its group size (R222). -/
def recordQueue (q : Nat) : Bool := decide (q ≤ 5) || q == 10 || q == 11
def popAllowedS (q : Nat) : Bool := recordQueue q || q == 7
def popAllowedV (q : Nat) (gs : BitVec 2) : Bool := (recordQueue q && gs == 0) || q == 7
def pushAllowedS (q : Nat) : Bool := q == 8 || q == 9
def pushAllowedV (q : Nat) (gs : BitVec 2) : Bool := ((q == 8 || q == 9) && gs == 0) || q == 12 || q == 13

/-- Row 6 of R76 for one operation. -/
def Instr.rangesOk (i : Instr) : Bool :=
  i.operands.all Operand.inRange &&
  match i with
  | .loopr f => f.sa != 0
  | .qpopS f | .qpeekS f => popAllowedS f.qn.toNat
  | .qpushS f => pushAllowedS f.qn.toNat
  | .qpopV f | .qpeekV f => popAllowedV f.qn.toNat f.gs
  | .qpushV f => pushAllowedV f.qn.toNat f.gs
  | .vquant f =>
    mxGsOk f && !(decide (f.vd.toNat ≤ f.vb.toNat) && decide (f.vb.toNat < f.vd.toNat + mxPackedRegs f))
  | .vdeq f => mxGsOk f
  | .bdir f =>
    let d := f.imm.toNat % 64
    let m := f.imm.toNat / 64 % 32 + 1
    let g := 2 ^ (f.imm.toNat / 2 ^ 11 % 4)
    let h := f.imm.toNat / 2 ^ 13 % 4
    decide (d % g = 0) && decide (d + m * g ≤ 64) && decide (f.fn.toNat % 32 + m ≤ 32) && decide (256 * h < 128 * g)
  | _ => true

/-! Row 5. -/

def rrrPlain (f : SRRR) : Bool := f.fn == 0
def rrrN (f : SRRR) : Bool := decide (f.fn.toNat ≤ 1)
def riZero (f : SRI) : Bool := f.sd == 0 && f.sa == 0 && f.imm == 0 && f.ext.isNone
def riCode (f : SRI) (n : Nat) : Bool := f.sd == 0 && f.sa == 0 && decide (f.imm.toNat < 2 ^ n) && f.ext.isNone
def bothZero (f : VR) : Bool := f.vb == 0 && f.vc == 0
/-- The common row-5 conditions of a VR operation: type, rounding, guard, highest FN. -/
def vrOk (f : VR) (ty rm pg : Bool) (fnMax : Nat) : Bool := ty && rm && pg && decide (f.fn.toNat ≤ fnMax)
def intOk (f : VR) (fnMax : Nat) : Bool := vrOk f (tyInt f.ty) (f.rm == 0) (pgOk f.pg f.pz) fnMax
def fhbOk (f : VR) (rm : Bool) (fnMax : Nat) : Bool := vrOk f (tyFhb f.ty) rm (pgOk f.pg f.pz) fnMax
/-- A VR operation without type, rounding or guard. -/
def plainOk (f : VR) (fnMax : Nat) : Bool := vrOk f (f.ty == 0) (f.rm == 0) (pgNone f.pg f.pz) fnMax
def predOk (f : VR) : Bool := plainOk f 0 && f.gs == 0 && f.vc == 0
def lanesOf (ty : BitVec 4) : Nat := 2048 / (ety ty.toNat).width
def shiftOk (f : VR) : Bool :=
  intOk f 1 && (if f.fn.getLsbD 0 then f.vb == 0 && decide (f.vc.toNat < (ety f.ty.toNat).width) else f.vc == 0)
def vmWhole (f : VM) : Bool :=
  f.va == 0 && f.sb == 0 && pgNone f.pg f.pz && f.fn == 0 && f.ty == 0
def vmStride (f : VM) : Bool := f.va == 0 && pgOk f.pg f.pz && f.fn == 0 && tyAny f.ty
def vmIndex (f : VM) : Bool := f.sb == 0 && pgOk f.pg f.pz && f.fn == 0 && tyAny f.ty

/-- Weight and activation format codes (R245). -/
def weightOk (c : Nat) : Bool := decide (c ≤ 9)
def actOk (c : Nat) : Bool := decide (c ≤ 8) || c == 10 || c == 11

/-- Fields of an M operation that must be zero, by name. -/
def noBank (f : MF) : Bool := f.bk == 0 && f.rs == 0
def noAcc (f : MF) : Bool := f.ab == 0 && f.ar == 0
def noS (f : MF) : Bool := f.sa == 0 && f.sb == 0
/-- A bank operation on BK and RS with no other field but FN. -/
def bankRs (f : MF) (fnMax : Nat) : Bool :=
  noAcc f && noS f && f.grp == 0 && f.imm == 0 && decide (f.fn.toNat ≤ fnMax)
def accRow (f : MF) : Bool := noBank f && noS f && f.grp == 0 && f.imm == 0 && f.fn == 0

/-- ACQ, REL and SCP of a data command (R334, R368), and of every other C command. -/
def scopeOk (f : CF) : Bool := f.acq == 1 || f.rel == 1 || f.scp == 0
def noScope (f : CF) : Bool := f.acq == 0 && f.rel == 0 && f.scp == 0
/-- FN holds the note bit and the bits of `m` (R341). -/
def fnIn (f : CF) (m : Nat) : Bool := f.fn.toNat &&& (255 - 128 - m) == 0
def carryFn (f : CF) (remote : Bool) : Bool :=
  f.fn.toNat % 8 != 3 && f.fn.toNat % 8 != 7 && decide (f.fn.toNat < 16) && !(remote && f.fn.toNat % 8 == 4)

/-- Row 5 of R76 for one operation: the values its fields accept.  DESIGN CHOICE (log 69): a GS other
than 0 in VCMP and VFCMP is refused here, under row 5; R180 names no row for it; and PZ = 1 beside a PG other than 0 is
accepted where the instruction has no masked destination (VRED, VNWATCH, VSTS, VSCAT). -/
def Instr.fieldsOk : Instr → Bool
  | .nop f => f.sd == 0 && f.sa == 0 && f.sb == 0 && f.fn == 0
  | .add f | .sub f | .and f | .or f | .xor f | .shl f | .shr f | .sha f | .mul f | .slt f | .sltn f => rrrPlain f
  | .mulh f | .div f | .rem f | .min f | .max f => rrrN f
  | .shli f | .shri f | .shai f => f.ext.isNone && decide (f.imm.toNat ≤ 63)
  | .lui f => f.sa == 0
  | .loopr f => f.sb == 0
  | .jr f => f.sd == 0 && f.sb == 0 && f.fn == 0
  | .ret f => f.sd == 0 && f.sa == 0 && f.sb == 0 && f.fn == 0
  | .ctlrd f => f.sa == 0 && f.ext.isNone
  | .ctlwr f => f.sd == 0 && f.ext.isNone
  | .capld f => f.ext.isNone && f.imm.getLsbD 13 && f.imm.extractLsb' 8 5 == 0
  | .capldMemory f => f.ext.isNone && !f.imm.getLsbD 13
  | .capst f => f.ext.isNone && !f.imm.getLsbD 13
  | .cnarrow f => f.fn == 0
  | .cquery f => f.sb == 0 && decide (f.fn.toNat ≤ 5)
  | .gld f | .gst f => f.ext.isNone
  | .phase f | .fenceE f | .tret f | .halt f => riZero f
  | .gbar f | .trap f | .dbgbrk f => riCode f 8
  | .idle f => riCode f 6
  | .qstatS f => f.nf == 0
  | .qflushS f => f.sd == 0 && f.nf == 0
  | .qpopV f | .qpeekV f => if f.qn = 7 then pgOk f.pg f.pz else pgNone f.pg f.pz
  | .qpushV f => pgNone f.pg f.pz
  | .qstatV f => f.nf == 0 && pgNone f.pg f.pz && f.gs == 0
  | .qflushV f => f.nf == 0 && pgNone f.pg f.pz && f.gs == 0 && f.vd == 0
  | .vadd f | .vsub f | .vmul f => intOk f 1 && f.vc == 0
  | .vmulh f | .vmin f | .vmax f | .vand f | .vor f | .vxor f => intOk f 0 && f.vc == 0
  | .vmadd f => intOk f 1
  | .vabs f | .vneg f => (intOk f 1 || fhbOk f (f.rm == 0) 0) && bothZero f
  | .vshl f | .vshr f | .vsha f => shiftOk f
  | .vcmp f => intOk f 5 && f.vc == 0 && f.gs == 0
  | .vfcmp f => fhbOk f (f.rm == 0) 7 && f.vc == 0 && f.gs == 0
  | .vsel f => vrOk f (tyAny f.ty) (f.rm == 0) (pgOk f.pg f.pz) 0
  | .vfadd f | .vfsub f | .vfmul f => fhbOk f (rmRound f.rm) 0 && f.vc == 0
  | .vfma f => fhbOk f (rmRound f.rm) 0
  | .vfmin f | .vfmax f => fhbOk f (f.rm == 0) 0 && f.vc == 0
  | .vcvt f =>
    let ws := (ety (f.fn.toNat % 16)).width
    let wd := (ety f.ty.toNat).width
    vrOk f (tyAny f.ty) (rmRound f.rm) (pgOk f.pg f.pz) 127 && decide (f.fn.toNat % 16 ≤ 12) && bothZero f &&
      decide (f.fn.toNat / 16 < Nat.max ws wd / Nat.min ws wd)
  | .vquant f =>
    vrOk f (tyFhb f.ty) (rmRound f.rm) (pgNone f.pg f.pz) 31 && (f.fn.getLsbD 4 || f.vc == 0)
  | .vdeq f => fhbOk f (rmRound f.rm) 15 && f.vc == 0
  | .vexp2 f | .vlog2 f | .vrcp f | .vrsq f => fhbOk f (f.rm == 0) 0 && bothZero f
  | .vred f =>
    let op := f.fn.toNat % 8
    let s := f.fn.toNat / 8
    let n := gsOf f * lanesOf f.ty
    let m := if s = 0 then n else 2 ^ s
    bothZero f && pgOk f.pg f.pz &&
      (if tyFhb f.ty then decide (op ≤ 2) && (if op = 0 then decide (f.rm.toNat ≤ 3) else f.rm == 0)
       else tyInt f.ty && decide (op ≤ 5) && f.rm == 0) &&
      decide (m ≤ n) && decide (n / m ≤ lanesOf f.ty)
  | .vperm f => intOk f 0 && f.vc == 0
  | .vshuf f =>
    vrOk f (tyAny f.ty) (f.rm == 0) (pgNone f.pg f.pz) 5 && f.gs == 0 &&
      (if f.fn.toNat < 4 then f.vc == 0
       else f.vb == 0 && (if f.fn = 5 then decide (f.vc.toNat < lanesOf f.ty) else f.vc == 0))
  | .vbcast f =>
    f.fn == 0 && f.va == 0 && tyAny f.ty && pgOk f.pg f.pz && (if tyInt f.ty then f.rm == 0 else rmRound f.rm)
  | .vbcastLane f =>
    f.fn == 1 && tyAny f.ty && pgOk f.pg f.pz && f.rm == 0 && decide (f.imm.toNat < 512) &&
      decide (f.imm.toNat < lanesOf f.ty)
  | .vextr f => plainOk f 0 && f.gs == 0 && decide (f.vc.toNat ≤ 255)
  | .vld f | .vst f => vmWhole f
  | .vlds f | .vsts f => vmStride f
  | .vgath f | .vscat f => vmIndex f
  | .pand f | .por f | .pxor f => predOk f
  | .pnot f => predOk f && f.vb == 0
  | .ppop f | .pfirst f =>
    vrOk f (tyAny f.ty) (f.rm == 0) (pgNone f.pg f.pz) 0 && f.gs == 0 && bothZero f
  | .accpop f =>
    (f.ty == 10 || f.ty == 2) && f.va == 0 && f.vb == 0 && f.gs == 0 && f.rm == 0 && f.fn == 0 && pgOk f.pg f.pz
  | .vordk f => vrOk f (tyIn f.ty 0 10) (f.rm == 0) (pgOk f.pg f.pz) 3 && bothZero f
  | .vdigit f =>
    intOk f 0 && decide (1 ≤ f.vb.toNat) && decide (f.vb.toNat ≤ 16) &&
      decide (f.vc.toNat + f.vb.toNat ≤ (ety f.ty.toNat).width)
  | .vcnt f => intOk f 2 && bothZero f
  | .vnwatch f => fhbOk f (f.rm == 0) 0 && f.vd == 0 && f.vb == 0
  | .dnorm f => fhbOk f (f.rm == 0) 0 && f.pz == 0 && bothZero f
  | .dexp f => (f.ty == 8 || f.ty == 10) && rmRound f.rm && pgOk f.pg f.pz && f.fn == 0 && bothZero f
  | .dexpRaw f => f.ty == 1 && f.rm == 0 && pgOk f.pg f.pz && f.fn == 1 && bothZero f
  | .ddot f => f.ty == 10 && decide (f.rm.toNat ≤ 3) && pgNone f.pg f.pz && f.fn == 0 && f.vc == 0
  | .ddotm f => f.ty == 10 && decide (f.rm.toNat ≤ 3) && pgOk f.pg f.pz && f.fn == 0
  | .dscale f => plainOk f 0 && f.gs == 0
  | .dscaleAdd f => plainOk f 1 && f.fn == 1 && f.gs == 0 && f.vc == 0
  | .dscaleSub f => plainOk f 2 && f.fn == 2 && f.gs == 0 && f.vc == 0
  | .dset f => plainOk f 0 && f.vc == 0
  | .dadd f => plainOk f 1 && f.vc == 0
  | .dneg f | .dmov f => plainOk f 0 && bothZero f
  | .dzero f => plainOk f 0 && f.va == 0 && bothZero f
  | .dnormq f => plainOk f 0 && f.gs == 0 && bothZero f
  | .dnormqDev f => plainOk f 1 && f.fn == 1 && bothZero f
  | .bmodeCompute f => noBank f && noAcc f && noS f && f.grp == 0 && f.fn == 1
  | .bmodeScratch f => noBank f && noAcc f && noS f && f.grp == 0 && f.fn == 0
  | .bplane f => bankRs f 15
  | .bload f => noAcc f && f.sb == 0 && f.grp == 0 && decide (f.fn.toNat ≤ 15)
  | .bprec f =>
    let act := f.fn.toNat / 16
    noAcc f && noS f && f.grp == 0 && weightOk (f.fn.toNat % 16) && actOk act &&
      (if act = 10 then decide (2 ≤ f.imm.toNat) && decide (f.imm.toNat ≤ 8) else f.imm == 0)
  | .bsparse f => noAcc f && f.sb == 0 && f.grp == 0 && decide (1 ≤ f.fn.toNat) && decide (f.fn.toNat ≤ 3)
  | .bsparseDense f => bankRs f 0
  | .boutl f => noAcc f && f.grp == 0 && f.imm == 0 && f.fn == 0
  | .btag f => noBank f && noAcc f && f.grp == 0 && decide (f.fn.toNat ≤ 15)
  | .brun f | .bacc f => noBank f && !f.fn.getLsbD 3 && (f.fn.getLsbD 0 || f.grp == 0)
  | .bstat f => bankRs f 0 && f.rs == 0
  | .bclr f => bankRs f 0
  | .bclrAll f => bankRs f 1 && f.fn == 1
  | .bdir f => noAcc f && noS f && f.grp == 0 && !f.imm.getLsbD 15 && decide (f.fn.toNat < 32)
  | .bzero f => bankRs f 0
  | .accalloc f => noBank f && noAcc f && f.sb == 0 && f.grp == 0 && f.fn == 0
  | .accfree f => noBank f && noAcc f && noS f && f.grp == 0 && f.fn == 0
  | .accband f => noBank f && noS f && f.imm == 0 && f.fn == 0
  | .accbandLocal f => noBank f && noS f && f.imm == 0 && f.fn == 1 && f.grp == 0
  | .accnorm f => noBank f && noS f && f.grp == 0 && decide (f.imm.toNat ≤ 255) && f.fn == 0
  | .accclr f => noBank f && f.sb == 0 && f.grp == 0 && decide (f.imm.toNat ≤ 31) && f.fn == 0
  | .accrd f => noBank f && noS f && f.grp == 0 && f.imm == 0 && (f.fn == 0 || f.fn == 2)
  | .accrdRemote f => noBank f && f.sa == 0 && f.imm == 0 && f.fn == 1
  | .accexp f =>
    noBank f && f.sb == 0 && f.grp == 0 && f.fn.toNat % 4 != 3 && decide (f.fn.toNat / 4 % 2 = 0) &&
      decide (f.fn.toNat < 16)
  | .accexpRemote f => noBank f && f.fn.toNat % 4 != 3 && decide (f.fn.toNat / 4 = 1)
  | .acchead f => accRow f
  | .accexport f => noBank f && noS f && f.imm == 0 && f.fn == 0
  | .cpset f => noScope f && f.sb == 0 && f.ca == 0 && f.cb == 0 && f.grp == 0 && f.fn == 0
  | .cpgo f => scopeOk f && f.grp == 0 && f.imm == 0 && fnIn f 0
  | .cpwait f | .cpfence f =>
    noScope f && f.ch == 0 && f.sa == 0 && f.sb == 0 && f.ca == 0 && f.cb == 0 && f.grp == 0 && f.fn == 0 &&
      decide (f.imm.toNat ≤ 255)
  | .cpmark f => noScope f && f.sa == 0 && f.sb == 0 && f.ca == 0 && f.cb == 0 && f.grp == 0 && f.fn == 0
  | .cpfollow f | .cpinv f =>
    noScope f && f.sa == 0 && f.sb == 0 && f.ca == 0 && f.cb == 0 && f.grp == 0 && f.imm == 0 && f.fn == 0
  | .cpmcast f => scopeOk f && f.cb == 0 && f.imm == 0 && fnIn f 0
  | .cpmcastMsg f => scopeOk f && f.sb == 0 && f.ca == 0 && f.cb == 0 && f.imm == 0 && fnIn f 1 && f.fn.getLsbD 0
  | .cpfill f => scopeOk f && f.ca == 0 && f.grp == 0 && f.imm == 0 && fnIn f 0
  | .cpshell f => scopeOk f && f.sb == 0 && f.cb == 0 && f.grp == 0 && f.imm == 0 && fnIn f 0
  | .cpacc f => scopeOk f && f.ca == 0 && f.grp == 0 && f.imm == 0 && fnIn f 7
  | .cpaccOne f => scopeOk f && f.ca == 0 && f.grp == 0 && f.imm == 0 && fnIn f 15 && f.fn.getLsbD 3
  | .memrowCopy f => scopeOk f && f.grp == 0 && fnIn f 0
  | .memrowZero f => scopeOk f && f.sa == 0 && f.ca == 0 && f.grp == 0 && fnIn f 1 && f.fn.getLsbD 0
  | .ewalk f => scopeOk f && f.imm == 0 && fnIn f 0
  | .cpexportRead f => noScope f && f.ch == 0 && f.ca == 0 && f.cb == 0 && f.imm == 0 && (f.fn == 0 || f.fn == 3)
  | .cpexportCarry f => noScope f && f.ch == 0 && f.ca == 0 && f.cb == 0 && f.imm == 0 && f.fn == 1
  | .cpexportReceive f => noScope f && f.ch == 0 && f.ca == 0 && f.cb == 0 && f.imm == 0 && f.fn == 2
  | .cpcoll f => scopeOk f && f.sb == 0 && f.imm == 0 && fnIn f 0
  | .carry f => noScope f && f.ch == 0 && f.ca == 0 && f.cb == 0 && f.grp == 0 && carryFn f false && decide (f.fn.toNat < 8)
  | .carryRemote f => noScope f && f.ch == 0 && f.ca == 0 && f.cb == 0 && carryFn f true && decide (8 ≤ f.fn.toNat)
  | .carryw f => noScope f && f.ch == 0 && f.ca == 0 && f.cb == 0 && f.grp == 0 && carryFn f false && decide (f.fn.toNat < 8)
  | .carryst f =>
    noScope f && f.ch == 0 && f.sa == 0 && f.sb == 0 && f.ca == 0 && f.cb == 0 && f.grp == 0 && f.imm == 0 && f.fn == 0
  | .filterExit f => f.fd == 0 && f.fa == 0 && f.fb == 0 && f.sub == 0
  | .filterBr f =>
    decide (f.fd.toNat ≤ 6) && (f.fd != 6 || (f.fa == 0 && f.fb == 0)) && decide (1 ≤ f.sub.toNat) &&
      decide (f.sub.toNat ≤ 63)
  | .filterLde f => f.fa == 0 && f.fb == 0 && decide (f.sub.toNat ≤ 9)
  | .filterLdi f => f.fa == 0 && f.sub == 0
  | .filterLih f | .filterAddi f | .filterTld f | .filterTst f | .filterTadd f => f.sub == 0
  | .filterAdd f | .filterSub f | .filterAnd f | .filterOr f | .filterXor f | .filterMin f | .filterMax f
  | .filterAbsd f => f.sub == 0
  | .filterShl f | .filterShr f | .filterSha f => f.sub == 0 && decide (f.imm.toNat ≤ 31)
  | .filterLog2 f => f.fb == 0 && f.sub == 0
  | .filterHash f => decide (f.sub.toNat ≤ 3) && decide (1 ≤ f.imm.toNat) && decide (f.imm.toNat ≤ 10)
  | .filterEwma f => f.sub == 0 && decide (f.imm.toNat ≤ 15)
  | .filterTrig f => f.fd == 0 && f.sub == 0 && decide (f.imm.toNat ≤ 255)
  | _ => true

end Sys2Proof
end

