-- ==== Sys2Proof/WellFormed.lean ====
section
/-! DEFINITION. Well-formed instructions: a slot operation whose fields pass rows 5 and 6 of R76, a
filter instruction whose fields are as its row of R440 gives, an event that names things the part has. -/

namespace Sys2Proof

/-- Ranges of the data an event brings: virtual functions 0 to 511 (R470), accesses of 8 or 4 bytes at a
window register (R471), AtomicOps of 4, 8 or 16 bytes (R376). -/
def Instr.eventOk : Instr → Bool
  | .vfmapWrite v _ => decide (v < 512)
  | .hostAtomic _ _ n _ _ => n == 4 || n == 8 || n == 16
  | _ => true

/-- Well-formed: rows 5 and 6 of R76, the limits of R440, and the ranges of events. -/
def Instr.wf (i : Instr) : Bool := i.fieldsOk && i.rangesOk && i.eventOk

abbrev Instr.WellFormed (i : Instr) : Prop := i.wf = true

end Sys2Proof
end

