-- ==== Sys2Proof/Decode.lean ====
section
/-! DEFINITION. Decoding and encoding. A slot operation's syllables (R72, R73, R75) and the opcode maps
(R79 to R82), the code line's bundles (R61 to R66, R70), and the filter instructions (R439, R440). The
encoder writes the words of a well-formed instruction from the same tables. -/

namespace Sys2Proof

/-- The slot classes of the opcode maps (R78). -/
inductive SlotClass where
  | s | v | m | c
  deriving DecidableEq, Repr

/-- The class of a slot's map (R75). -/
def slotClassOf (k : Nat) : SlotClass := if k = 0 then .s else if k < 3 then .v else if k = 3 then .m else .c

/-- Why decoding refuses (R76): row 4, the code is not assigned in its class; row 5, a reserved bit is
set. -/
inductive DecodeError where
  | unassigned
  | reserved
  deriving DecidableEq, Repr

/-- The operand record of a slot operation with its format (R72, R73). -/
inductive Form where
  | rrr (f : SRRR) | ri (f : SRI) | b (f : SB) | j (f : SJ) | sq (f : SQ)
  | vr (f : VR) | vi (f : VI) | vm (f : VM) | vq (f : VQ) | m (f : MF) | c (f : CF)
  deriving DecidableEq, Repr

/-- The format names of R72 and R73. -/
inductive FormatKind where
  | rrr | ri | b | j | sq | vr | vi | vm | vq | m | c
  deriving DecidableEq, Repr

/-- The format of each assigned code of the S map (R79). -/
def kindS (op : Nat) : Option FormatKind :=
  match op with
| 0x00 | 0x01 | 0x02 | 0x03 | 0x04 | 0x05 | 0x06 | 0x07 | 0x08 | 0x09 | 0x0A | 0x0B | 0x0C | 0x0D |
    0x0E | 0x0F | 0x10 | 0x38 | 0x39 | 0x46 | 0x47 => some .rrr
| 0x11 | 0x12 | 0x13 | 0x14 | 0x15 | 0x16 | 0x17 | 0x18 | 0x20 | 0x21 | 0x22 | 0x23 | 0x24 | 0x25 |
    0x26 | 0x28 | 0x29 | 0x2A | 0x2B | 0x40 | 0x41 | 0x44 | 0x45 | 0x48 | 0x49 | 0x50 | 0x51 | 0x52 |
    0x53 | 0x58 | 0x59 | 0x5A | 0x5B => some .ri
| 0x30 | 0x31 | 0x32 | 0x33 | 0x34 | 0x35 | 0x3A => some .b
| 0x36 | 0x37 => some .j
| 0x60 | 0x61 | 0x62 | 0x63 | 0x64 => some .sq
  | _ => none

/-- The format of each assigned code of the V map (R80). -/
def kindV (op : Nat) : Option FormatKind :=
  match op with
| 0x01 | 0x02 | 0x03 | 0x04 | 0x05 | 0x06 | 0x07 | 0x08 | 0x09 | 0x0A | 0x0B | 0x0C | 0x0D | 0x0E |
    0x0F | 0x10 | 0x11 | 0x18 | 0x19 | 0x1A | 0x1B | 0x1C | 0x1D | 0x1E | 0x20 | 0x21 | 0x22 | 0x24 |
    0x25 | 0x26 | 0x27 | 0x28 | 0x29 | 0x2A | 0x2C | 0x38 | 0x39 | 0x3A | 0x3B | 0x3C | 0x3D | 0x40 |
    0x41 | 0x42 | 0x43 | 0x44 | 0x48 | 0x49 | 0x4A | 0x4B | 0x4C | 0x4D | 0x4E | 0x4F | 0x50 | 0x51 |
    0x52 => some .vr
| 0x2B => some .vi
| 0x30 | 0x31 | 0x32 | 0x33 | 0x34 | 0x35 => some .vm
| 0x60 | 0x61 | 0x62 | 0x63 | 0x64 => some .vq
  | _ => none

/-- The format of each assigned code of the M map (R81). -/
def kindM (op : Nat) : Option FormatKind :=
  match op with
| 0x01 | 0x02 | 0x03 | 0x04 | 0x05 | 0x06 | 0x07 | 0x08 | 0x09 | 0x0A | 0x0B | 0x0C | 0x0D | 0x20 |
    0x21 | 0x22 | 0x23 | 0x24 | 0x25 | 0x26 | 0x27 | 0x28 => some .m
  | _ => none

/-- The format of each assigned code of the C map (R82). -/
def kindC (op : Nat) : Option FormatKind :=
  match op with
| 0x01 | 0x02 | 0x03 | 0x04 | 0x05 | 0x06 | 0x07 | 0x08 | 0x09 | 0x10 | 0x11 | 0x12 | 0x13 | 0x14 |
    0x15 | 0x20 | 0x21 | 0x22 => some .c
  | _ => none

/-- The instruction a code stands for, its operand record read; rows that share a code are told apart by
the bits their rule names. -/
def ofRrr (op : Nat) (f : SRRR) : Option Instr :=
  match op with
  | 0x00 => some (.nop f)
  | 0x01 => some (.add f)
  | 0x02 => some (.sub f)
  | 0x03 => some (.and f)
  | 0x04 => some (.or f)
  | 0x05 => some (.xor f)
  | 0x06 => some (.shl f)
  | 0x07 => some (.shr f)
  | 0x08 => some (.sha f)
  | 0x09 => some (.mul f)
  | 0x0A => some (.mulh f)
  | 0x0B => some (.div f)
  | 0x0C => some (.rem f)
  | 0x0D => some (.min f)
  | 0x0E => some (.max f)
  | 0x0F => some (.slt f)
  | 0x10 => some (.sltn f)
  | 0x38 => some (.jr f)
  | 0x39 => some (.ret f)
  | 0x46 => some (.cnarrow f)
  | 0x47 => some (.cquery f)
  | _ => none

def ofRi (op : Nat) (f : SRI) : Option Instr :=
  match op with
  | 0x11 => some (.addi f)
  | 0x12 => some (.andi f)
  | 0x13 => some (.ori f)
  | 0x14 => some (.xori f)
  | 0x15 => some (.shli f)
  | 0x16 => some (.shri f)
  | 0x17 => some (.shai f)
  | 0x18 => some (.lui f)
  | 0x20 => some (.ldb f)
  | 0x21 => some (.ldbz f)
  | 0x22 => some (.ldh f)
  | 0x23 => some (.ldhz f)
  | 0x24 => some (.ldw f)
  | 0x25 => some (.ldwz f)
  | 0x26 => some (.ldd f)
  | 0x28 => some (.stb f)
  | 0x29 => some (.sth f)
  | 0x2A => some (.stw f)
  | 0x2B => some (.std f)
  | 0x40 => some (.ctlrd f)
  | 0x41 => some (.ctlwr f)
  | 0x44 => some (if f.imm.getLsbD 13 then .capld f else .capldMemory f)
  | 0x45 => some (.capst f)
  | 0x48 => some (.gld f)
  | 0x49 => some (.gst f)
  | 0x50 => some (.phase f)
  | 0x51 => some (.gbar f)
  | 0x52 => some (.fenceE f)
  | 0x53 => some (.idle f)
  | 0x58 => some (.trap f)
  | 0x59 => some (.tret f)
  | 0x5A => some (.halt f)
  | 0x5B => some (.dbgbrk f)
  | _ => none

def ofB (op : Nat) (f : SB) : Option Instr :=
  match op with
  | 0x30 => some (.beq f)
  | 0x31 => some (.bne f)
  | 0x32 => some (.blt f)
  | 0x33 => some (.bge f)
  | 0x34 => some (.bltn f)
  | 0x35 => some (.bgen f)
  | 0x3A => some (.loopr f)
  | _ => none

def ofJ (op : Nat) (f : SJ) : Option Instr :=
  match op with
  | 0x36 => some (.jmp f)
  | 0x37 => some (.call f)
  | _ => none

def ofSq (op : Nat) (f : SQ) : Option Instr :=
  match op with
  | 0x60 => some (.qpopS f)
  | 0x61 => some (.qpeekS f)
  | 0x62 => some (.qpushS f)
  | 0x63 => some (.qstatS f)
  | 0x64 => some (.qflushS f)
  | _ => none

def ofVr (op : Nat) (f : VR) : Option Instr :=
  match op with
  | 0x01 => some (.vadd f)
  | 0x02 => some (.vsub f)
  | 0x03 => some (.vmul f)
  | 0x04 => some (.vmulh f)
  | 0x05 => some (.vmadd f)
  | 0x06 => some (.vmin f)
  | 0x07 => some (.vmax f)
  | 0x08 => some (.vabs f)
  | 0x09 => some (.vneg f)
  | 0x0A => some (.vand f)
  | 0x0B => some (.vor f)
  | 0x0C => some (.vxor f)
  | 0x0D => some (.vshl f)
  | 0x0E => some (.vshr f)
  | 0x0F => some (.vsha f)
  | 0x10 => some (.vcmp f)
  | 0x11 => some (.vsel f)
  | 0x18 => some (.vfadd f)
  | 0x19 => some (.vfsub f)
  | 0x1A => some (.vfmul f)
  | 0x1B => some (.vfma f)
  | 0x1C => some (.vfmin f)
  | 0x1D => some (.vfmax f)
  | 0x1E => some (.vfcmp f)
  | 0x20 => some (.vcvt f)
  | 0x21 => some (.vquant f)
  | 0x22 => some (.vdeq f)
  | 0x24 => some (.vexp2 f)
  | 0x25 => some (.vlog2 f)
  | 0x26 => some (.vrcp f)
  | 0x27 => some (.vrsq f)
  | 0x28 => some (.vred f)
  | 0x29 => some (.vperm f)
  | 0x2A => some (.vshuf f)
  | 0x2C => some (.vextr f)
  | 0x38 => some (.pand f)
  | 0x39 => some (.por f)
  | 0x3A => some (.pxor f)
  | 0x3B => some (.pnot f)
  | 0x3C => some (.ppop f)
  | 0x3D => some (.pfirst f)
  | 0x40 => some (.accpop f)
  | 0x41 => some (.vordk f)
  | 0x42 => some (.vdigit f)
  | 0x43 => some (.vcnt f)
  | 0x44 => some (.vnwatch f)
  | 0x48 => some (.dnorm f)
  | 0x49 => some (if f.fn.getLsbD 0 then .dexpRaw f else .dexp f)
  | 0x4A => some (.ddot f)
  | 0x4B => some (.ddotm f)
  | 0x4C => some (if f.fn == 1#7 then .dscaleAdd f else if f.fn == 2#7 then .dscaleSub f else .dscale f)
  | 0x4D => some (.dset f)
  | 0x4E => some (.dadd f)
  | 0x4F => some (.dneg f)
  | 0x50 => some (.dmov f)
  | 0x51 => some (.dzero f)
  | 0x52 => some (if f.fn.getLsbD 0 then .dnormqDev f else .dnormq f)
  | _ => none

def ofVi (op : Nat) (f : VI) : Option Instr :=
  match op with
  | 0x2B => some (if f.fn.getLsbD 0 then .vbcastLane f else .vbcast f)
  | _ => none

def ofVm (op : Nat) (f : VM) : Option Instr :=
  match op with
  | 0x30 => some (.vld f)
  | 0x31 => some (.vst f)
  | 0x32 => some (.vlds f)
  | 0x33 => some (.vsts f)
  | 0x34 => some (.vgath f)
  | 0x35 => some (.vscat f)
  | _ => none

def ofVq (op : Nat) (f : VQ) : Option Instr :=
  match op with
  | 0x60 => some (.qpopV f)
  | 0x61 => some (.qpeekV f)
  | 0x62 => some (.qpushV f)
  | 0x63 => some (.qstatV f)
  | 0x64 => some (.qflushV f)
  | _ => none

def ofM (op : Nat) (f : MF) : Option Instr :=
  match op with
  | 0x01 => some (if f.fn.getLsbD 0 then .bmodeCompute f else .bmodeScratch f)
  | 0x02 => some (.bplane f)
  | 0x03 => some (.bload f)
  | 0x04 => some (.bprec f)
  | 0x05 => some (if f.fn == 0#8 then .bsparseDense f else .bsparse f)
  | 0x06 => some (.boutl f)
  | 0x07 => some (.btag f)
  | 0x08 => some (.brun f)
  | 0x09 => some (.bacc f)
  | 0x0A => some (.bstat f)
  | 0x0B => some (if f.fn.getLsbD 0 then .bclrAll f else .bclr f)
  | 0x0C => some (.bdir f)
  | 0x0D => some (.bzero f)
  | 0x20 => some (.accalloc f)
  | 0x21 => some (.accfree f)
  | 0x22 => some (if f.fn.getLsbD 0 then .accbandLocal f else .accband f)
  | 0x23 => some (.accnorm f)
  | 0x24 => some (.accclr f)
  | 0x25 => some (if f.fn.getLsbD 0 then .accrdRemote f else .accrd f)
  | 0x26 => some (if f.fn.getLsbD 2 then .accexpRemote f else .accexp f)
  | 0x27 => some (.acchead f)
  | 0x28 => some (.accexport f)
  | _ => none

def ofC (op : Nat) (f : CF) : Option Instr :=
  match op with
  | 0x01 => some (.cpset f)
  | 0x02 => some (.cpgo f)
  | 0x03 => some (.cpwait f)
  | 0x04 => some (.cpmark f)
  | 0x05 => some (.cpfollow f)
  | 0x06 => some (if f.fn.getLsbD 0 then .cpmcastMsg f else .cpmcast f)
  | 0x07 => some (.cpfill f)
  | 0x08 => some (.cpshell f)
  | 0x09 => some (if f.fn.getLsbD 3 then .cpaccOne f else .cpacc f)
  | 0x10 => some (if f.fn.getLsbD 0 then .memrowZero f else .memrowCopy f)
  | 0x11 => some (.ewalk f)
  | 0x12 => some (.cpinv f)
  | 0x13 => some (.cpfence f)
  | 0x14 => some (if f.fn == 1#8 then .cpexportCarry f else if f.fn == 2#8 then .cpexportReceive f else .cpexportRead f)
  | 0x15 => some (.cpcoll f)
  | 0x20 => some (if f.fn.getLsbD 3 then .carryRemote f else .carry f)
  | 0x21 => some (.carryw f)
  | 0x22 => some (.carryst f)
  | _ => none

/-! Field extraction (R72, R73). -/

def readRrr (w : Word32) : SRRR :=
  { sd := w.extractLsb' 19 5, sa := w.extractLsb' 14 5, sb := w.extractLsb' 9 5, fn := w.extractLsb' 0 9 }
def readRi (w : Word32) (ext : Option Word32) : SRI :=
  { sd := w.extractLsb' 19 5, sa := w.extractLsb' 14 5, imm := w.extractLsb' 0 14, ext := ext }
def readB (w : Word32) (ext : Option Word32) : SB :=
  { sa := w.extractLsb' 19 5, sb := w.extractLsb' 14 5, off := w.extractLsb' 0 14, ext := ext }
def readJ (w : Word32) (ext : Option Word32) : SJ := { off := w.extractLsb' 0 24, ext := ext }
def readSq (w : Word32) : SQ := { sd := w.extractLsb' 19 5, qn := w.extractLsb' 15 4, nf := w.extractLsb' 14 1 }
def readVr (a b : Word32) : VR :=
  { vd := a.extractLsb' 16 9, va := a.extractLsb' 7 9, pg := a.extractLsb' 3 4, pz := a.extractLsb' 2 1,
    gs := a.extractLsb' 0 2, vb := b.extractLsb' 23 9, vc := b.extractLsb' 14 9, ty := b.extractLsb' 10 4,
    rm := b.extractLsb' 7 3, fn := b.extractLsb' 0 7 }
def readVi (a b : Word32) : VI :=
  { vd := a.extractLsb' 16 9, va := a.extractLsb' 7 9, pg := a.extractLsb' 3 4, pz := a.extractLsb' 2 1,
    gs := a.extractLsb' 0 2, imm := b.extractLsb' 14 18, ty := b.extractLsb' 10 4, rm := b.extractLsb' 7 3,
    fn := b.extractLsb' 0 7 }
def readVm (a b : Word32) : VM :=
  { vd := a.extractLsb' 16 9, va := a.extractLsb' 7 9, pg := a.extractLsb' 3 4, pz := a.extractLsb' 2 1,
    gs := a.extractLsb' 0 2, sa := b.extractLsb' 27 5, sb := b.extractLsb' 22 5, off := b.extractLsb' 10 12,
    ty := b.extractLsb' 6 4, fn := b.extractLsb' 0 6 }
def readVq (a : Word32) : VQ :=
  { vd := a.extractLsb' 16 9, qn := a.extractLsb' 12 4, nf := a.extractLsb' 11 1, pg := a.extractLsb' 3 4,
    pz := a.extractLsb' 2 1, gs := a.extractLsb' 0 2 }
def readM (a b : Word32) : MF :=
  { bk := a.extractLsb' 21 4, rs := a.extractLsb' 19 2, ab := a.extractLsb' 15 4, ar := a.extractLsb' 10 5,
    sa := a.extractLsb' 5 5, sb := a.extractLsb' 0 5, grp := b.extractLsb' 24 8, imm := b.extractLsb' 8 16,
    fn := b.extractLsb' 0 8 }
def readC (a b : Word32) : CF :=
  { ch := a.extractLsb' 22 3, sa := a.extractLsb' 17 5, sb := a.extractLsb' 12 5, ca := a.extractLsb' 8 4,
    cb := a.extractLsb' 4 4, acq := a.extractLsb' 3 1, rel := a.extractLsb' 2 1, scp := a.extractLsb' 0 2,
    grp := b.extractLsb' 24 8, imm := b.extractLsb' 8 16, fn := b.extractLsb' 0 8 }

/-- The opcode field OP. -/
def opOf (w : Word32) : Nat := (w.extractLsb' 25 7).toNat

/-- The X bit (R72). -/
def xBit (w : Word32) : Bool := w.getLsbD 24

/-- An assigned code's instruction, or the reason of refusal. -/
def assigned (i : Option Instr) : Except DecodeError Instr :=
  match i with
  | some i => .ok i
  | none => .error .unassigned

/-- Decodes the S operation (R72, R79); `ext` is the extension syllable, read when X is set. -/
def decodeS (w : Word32) (ext : Option Word32) : Except DecodeError Instr :=
  match kindS (opOf w) with
  | some .rrr => if xBit w then .error .reserved else assigned (ofRrr (opOf w) (readRrr w))
  | some .sq =>
    if xBit w || w.extractLsb' 0 14 != 0 then .error .reserved else assigned (ofSq (opOf w) (readSq w))
  | some .ri => assigned (ofRi (opOf w) (readRi w ext))
  | some .b => assigned (ofB (opOf w) (readB w ext))
  | some .j => assigned (ofJ (opOf w) (readJ w ext))
  | _ => .error .unassigned

/-- Decodes a two-syllable operation of a V, M or C class (R73, R80 to R82). -/
def decodeV (a b : Word32) : Except DecodeError Instr :=
  match kindV (opOf a) with
  | some .vr => assigned (ofVr (opOf a) (readVr a b))
  | some .vi => assigned (ofVi (opOf a) (readVi a b))
  | some .vm => assigned (ofVm (opOf a) (readVm a b))
  | some .vq =>
    if b != 0 || a.extractLsb' 7 4 != 0 then .error .reserved else assigned (ofVq (opOf a) (readVq a))
  | _ => .error .unassigned
def decodeM (a b : Word32) : Except DecodeError Instr :=
  match kindM (opOf a) with
  | some .m => assigned (ofM (opOf a) (readM a b))
  | _ => .error .unassigned
def decodeC (a b : Word32) : Except DecodeError Instr :=
  match kindC (opOf a) with
  | some .c => assigned (ofC (opOf a) (readC a b))
  | _ => .error .unassigned

/-! The encoder. -/

/-- The class, code and operand record of a slot operation; `none` for events and filter
instructions. -/
def Instr.form : Instr → Option (SlotClass × BitVec 7 × Form)
  | .nop f => some (.s, 0x00, .rrr f)
  | .add f => some (.s, 0x01, .rrr f)
  | .sub f => some (.s, 0x02, .rrr f)
  | .and f => some (.s, 0x03, .rrr f)
  | .or f => some (.s, 0x04, .rrr f)
  | .xor f => some (.s, 0x05, .rrr f)
  | .shl f => some (.s, 0x06, .rrr f)
  | .shr f => some (.s, 0x07, .rrr f)
  | .sha f => some (.s, 0x08, .rrr f)
  | .mul f => some (.s, 0x09, .rrr f)
  | .mulh f => some (.s, 0x0A, .rrr f)
  | .div f => some (.s, 0x0B, .rrr f)
  | .rem f => some (.s, 0x0C, .rrr f)
  | .min f => some (.s, 0x0D, .rrr f)
  | .max f => some (.s, 0x0E, .rrr f)
  | .slt f => some (.s, 0x0F, .rrr f)
  | .sltn f => some (.s, 0x10, .rrr f)
  | .addi f => some (.s, 0x11, .ri f)
  | .andi f => some (.s, 0x12, .ri f)
  | .ori f => some (.s, 0x13, .ri f)
  | .xori f => some (.s, 0x14, .ri f)
  | .shli f => some (.s, 0x15, .ri f)
  | .shri f => some (.s, 0x16, .ri f)
  | .shai f => some (.s, 0x17, .ri f)
  | .lui f => some (.s, 0x18, .ri f)
  | .ldb f => some (.s, 0x20, .ri f)
  | .ldbz f => some (.s, 0x21, .ri f)
  | .ldh f => some (.s, 0x22, .ri f)
  | .ldhz f => some (.s, 0x23, .ri f)
  | .ldw f => some (.s, 0x24, .ri f)
  | .ldwz f => some (.s, 0x25, .ri f)
  | .ldd f => some (.s, 0x26, .ri f)
  | .stb f => some (.s, 0x28, .ri f)
  | .sth f => some (.s, 0x29, .ri f)
  | .stw f => some (.s, 0x2A, .ri f)
  | .std f => some (.s, 0x2B, .ri f)
  | .beq f => some (.s, 0x30, .b f)
  | .bne f => some (.s, 0x31, .b f)
  | .blt f => some (.s, 0x32, .b f)
  | .bge f => some (.s, 0x33, .b f)
  | .bltn f => some (.s, 0x34, .b f)
  | .bgen f => some (.s, 0x35, .b f)
  | .jmp f => some (.s, 0x36, .j f)
  | .call f => some (.s, 0x37, .j f)
  | .jr f => some (.s, 0x38, .rrr f)
  | .ret f => some (.s, 0x39, .rrr f)
  | .loopr f => some (.s, 0x3A, .b f)
  | .ctlrd f => some (.s, 0x40, .ri f)
  | .ctlwr f => some (.s, 0x41, .ri f)
  | .capld f => some (.s, 0x44, .ri f)
  | .capldMemory f => some (.s, 0x44, .ri f)
  | .capst f => some (.s, 0x45, .ri f)
  | .cnarrow f => some (.s, 0x46, .rrr f)
  | .cquery f => some (.s, 0x47, .rrr f)
  | .gld f => some (.s, 0x48, .ri f)
  | .gst f => some (.s, 0x49, .ri f)
  | .phase f => some (.s, 0x50, .ri f)
  | .gbar f => some (.s, 0x51, .ri f)
  | .fenceE f => some (.s, 0x52, .ri f)
  | .idle f => some (.s, 0x53, .ri f)
  | .trap f => some (.s, 0x58, .ri f)
  | .tret f => some (.s, 0x59, .ri f)
  | .halt f => some (.s, 0x5A, .ri f)
  | .dbgbrk f => some (.s, 0x5B, .ri f)
  | .qpopS f => some (.s, 0x60, .sq f)
  | .qpeekS f => some (.s, 0x61, .sq f)
  | .qpushS f => some (.s, 0x62, .sq f)
  | .qstatS f => some (.s, 0x63, .sq f)
  | .qflushS f => some (.s, 0x64, .sq f)
  | .qpopV f => some (.v, 0x60, .vq f)
  | .qpeekV f => some (.v, 0x61, .vq f)
  | .qpushV f => some (.v, 0x62, .vq f)
  | .qstatV f => some (.v, 0x63, .vq f)
  | .qflushV f => some (.v, 0x64, .vq f)
  | .vadd f => some (.v, 0x01, .vr f)
  | .vsub f => some (.v, 0x02, .vr f)
  | .vmul f => some (.v, 0x03, .vr f)
  | .vmulh f => some (.v, 0x04, .vr f)
  | .vmadd f => some (.v, 0x05, .vr f)
  | .vmin f => some (.v, 0x06, .vr f)
  | .vmax f => some (.v, 0x07, .vr f)
  | .vabs f => some (.v, 0x08, .vr f)
  | .vneg f => some (.v, 0x09, .vr f)
  | .vand f => some (.v, 0x0A, .vr f)
  | .vor f => some (.v, 0x0B, .vr f)
  | .vxor f => some (.v, 0x0C, .vr f)
  | .vshl f => some (.v, 0x0D, .vr f)
  | .vshr f => some (.v, 0x0E, .vr f)
  | .vsha f => some (.v, 0x0F, .vr f)
  | .vcmp f => some (.v, 0x10, .vr f)
  | .vsel f => some (.v, 0x11, .vr f)
  | .vfadd f => some (.v, 0x18, .vr f)
  | .vfsub f => some (.v, 0x19, .vr f)
  | .vfmul f => some (.v, 0x1A, .vr f)
  | .vfma f => some (.v, 0x1B, .vr f)
  | .vfmin f => some (.v, 0x1C, .vr f)
  | .vfmax f => some (.v, 0x1D, .vr f)
  | .vfcmp f => some (.v, 0x1E, .vr f)
  | .vcvt f => some (.v, 0x20, .vr f)
  | .vquant f => some (.v, 0x21, .vr f)
  | .vdeq f => some (.v, 0x22, .vr f)
  | .vexp2 f => some (.v, 0x24, .vr f)
  | .vlog2 f => some (.v, 0x25, .vr f)
  | .vrcp f => some (.v, 0x26, .vr f)
  | .vrsq f => some (.v, 0x27, .vr f)
  | .vred f => some (.v, 0x28, .vr f)
  | .vperm f => some (.v, 0x29, .vr f)
  | .vshuf f => some (.v, 0x2A, .vr f)
  | .vbcast f => some (.v, 0x2B, .vi f)
  | .vbcastLane f => some (.v, 0x2B, .vi f)
  | .vextr f => some (.v, 0x2C, .vr f)
  | .vld f => some (.v, 0x30, .vm f)
  | .vst f => some (.v, 0x31, .vm f)
  | .vlds f => some (.v, 0x32, .vm f)
  | .vsts f => some (.v, 0x33, .vm f)
  | .vgath f => some (.v, 0x34, .vm f)
  | .vscat f => some (.v, 0x35, .vm f)
  | .pand f => some (.v, 0x38, .vr f)
  | .por f => some (.v, 0x39, .vr f)
  | .pxor f => some (.v, 0x3A, .vr f)
  | .pnot f => some (.v, 0x3B, .vr f)
  | .ppop f => some (.v, 0x3C, .vr f)
  | .pfirst f => some (.v, 0x3D, .vr f)
  | .accpop f => some (.v, 0x40, .vr f)
  | .vordk f => some (.v, 0x41, .vr f)
  | .vdigit f => some (.v, 0x42, .vr f)
  | .vcnt f => some (.v, 0x43, .vr f)
  | .vnwatch f => some (.v, 0x44, .vr f)
  | .dnorm f => some (.v, 0x48, .vr f)
  | .dexp f => some (.v, 0x49, .vr f)
  | .dexpRaw f => some (.v, 0x49, .vr f)
  | .ddot f => some (.v, 0x4A, .vr f)
  | .ddotm f => some (.v, 0x4B, .vr f)
  | .dscale f => some (.v, 0x4C, .vr f)
  | .dscaleAdd f => some (.v, 0x4C, .vr f)
  | .dscaleSub f => some (.v, 0x4C, .vr f)
  | .dset f => some (.v, 0x4D, .vr f)
  | .dadd f => some (.v, 0x4E, .vr f)
  | .dneg f => some (.v, 0x4F, .vr f)
  | .dmov f => some (.v, 0x50, .vr f)
  | .dzero f => some (.v, 0x51, .vr f)
  | .dnormq f => some (.v, 0x52, .vr f)
  | .dnormqDev f => some (.v, 0x52, .vr f)
  | .bmodeCompute f => some (.m, 0x01, .m f)
  | .bmodeScratch f => some (.m, 0x01, .m f)
  | .bplane f => some (.m, 0x02, .m f)
  | .bload f => some (.m, 0x03, .m f)
  | .bprec f => some (.m, 0x04, .m f)
  | .bsparse f => some (.m, 0x05, .m f)
  | .bsparseDense f => some (.m, 0x05, .m f)
  | .boutl f => some (.m, 0x06, .m f)
  | .btag f => some (.m, 0x07, .m f)
  | .brun f => some (.m, 0x08, .m f)
  | .bacc f => some (.m, 0x09, .m f)
  | .bstat f => some (.m, 0x0A, .m f)
  | .bclr f => some (.m, 0x0B, .m f)
  | .bclrAll f => some (.m, 0x0B, .m f)
  | .bdir f => some (.m, 0x0C, .m f)
  | .bzero f => some (.m, 0x0D, .m f)
  | .accalloc f => some (.m, 0x20, .m f)
  | .accfree f => some (.m, 0x21, .m f)
  | .accband f => some (.m, 0x22, .m f)
  | .accbandLocal f => some (.m, 0x22, .m f)
  | .accnorm f => some (.m, 0x23, .m f)
  | .accclr f => some (.m, 0x24, .m f)
  | .accrd f => some (.m, 0x25, .m f)
  | .accrdRemote f => some (.m, 0x25, .m f)
  | .accexp f => some (.m, 0x26, .m f)
  | .accexpRemote f => some (.m, 0x26, .m f)
  | .acchead f => some (.m, 0x27, .m f)
  | .accexport f => some (.m, 0x28, .m f)
  | .cpset f => some (.c, 0x01, .c f)
  | .cpgo f => some (.c, 0x02, .c f)
  | .cpwait f => some (.c, 0x03, .c f)
  | .cpmark f => some (.c, 0x04, .c f)
  | .cpfollow f => some (.c, 0x05, .c f)
  | .cpmcast f => some (.c, 0x06, .c f)
  | .cpmcastMsg f => some (.c, 0x06, .c f)
  | .cpfill f => some (.c, 0x07, .c f)
  | .cpshell f => some (.c, 0x08, .c f)
  | .cpacc f => some (.c, 0x09, .c f)
  | .cpaccOne f => some (.c, 0x09, .c f)
  | .memrowCopy f => some (.c, 0x10, .c f)
  | .memrowZero f => some (.c, 0x10, .c f)
  | .ewalk f => some (.c, 0x11, .c f)
  | .cpinv f => some (.c, 0x12, .c f)
  | .cpfence f => some (.c, 0x13, .c f)
  | .cpexportRead f => some (.c, 0x14, .c f)
  | .cpexportCarry f => some (.c, 0x14, .c f)
  | .cpexportReceive f => some (.c, 0x14, .c f)
  | .cpcoll f => some (.c, 0x15, .c f)
  | .carry f => some (.c, 0x20, .c f)
  | .carryRemote f => some (.c, 0x20, .c f)
  | .carryw f => some (.c, 0x21, .c f)
  | .carryst f => some (.c, 0x22, .c f)
  | .softError _ => none
  | .eventIntake _ => none
  | .filterExit _ => none
  | .filterBr _ => none
  | .filterLde _ => none
  | .filterLdi _ => none
  | .filterLih _ => none
  | .filterAddi _ => none
  | .filterAdd _ => none
  | .filterSub _ => none
  | .filterAnd _ => none
  | .filterOr _ => none
  | .filterXor _ => none
  | .filterMin _ => none
  | .filterMax _ => none
  | .filterAbsd _ => none
  | .filterShl _ => none
  | .filterShr _ => none
  | .filterSha _ => none
  | .filterLog2 _ => none
  | .filterHash _ => none
  | .filterEwma _ => none
  | .filterTld _ => none
  | .filterTst _ => none
  | .filterTadd _ => none
  | .filterTrig _ => none
  | .abstractCommand _ => none
  | .dmctlActive _ => none
  | .hostWrite _ _ => none
  | .hostAtomic _ _ _ _ _ => none
  | .hostRead _ _ => none
  | .hostTableWrite _ _ _ => none
  | .hostRegisterWrite _ _ _ => none
  | .vfmapWrite _ _ => none
  | .lrenew _ => none
  | .lrenewYield _ => none
  | .epwrWrite _ => none
  | .mpwrWrite _ => none
  | .abudgetWrite _ => none
  | .actlWrite _ => none
  | .aownWrite _ => none
  | .tctlWrite _ => none
  | .trlenWrite _ _ => none
  | .portLinkChange _ => none
  | .boxLinkNotice _ => none
  | .spdmRequest _ => none
  | .hostRegisterRead _ _ => none
  | .bundleIssue => none
  | .slackExhausted => none
  | .instructionFetch => none
  | .faultDelivery => none
  | .phaseStart => none
  | .phaseBoundary => none
  | .reckonerTick => none
  | .leaseExpiry => none
  | .bmodeSwitch => none
  | .mCommandStart => none
  | .passToken => none
  | .accumulate => none
  | .rowSetFull => none
  | .cpfollowHandover => none
  | .remoteDrain => none
  | .remoteRowImage => none
  | .copyCommandStart => none
  | .copyTransfer => none
  | .commandComplete => none
  | .resultRecord => none
  | .markerRecord => none
  | .translationMarker => none
  | .peerReadRequest => none
  | .delivery => none
  | .collective => none
  | .carryWindow => none
  | .remoteCarry => none
  | .carrystRecord => none
  | .seedWord => none
  | .atomic => none
  | .rowCopy => none
  | .zeroFill => none
  | .lookupRecord => none
  | .watchdogReset => none
  | .translation => none
  | .invreqGo => none
  | .invalidationComplete => none
  | .eventDispatch => none
  | .filterRun => none
  | .preemptionStop => none
  | .contextSave => none
  | .rowSetRestore => none
  | .resumeRestart => none
  | .debugStop => none
  | .dmctlHaltreq => none
  | .dmctlResumereq => none
  | .traceSample => none
  | .lctlGo => none
  | .lctlStop => none
  | .lctlPreempt => none
  | .lctlResume => none
  | .lctlUnload => none
  | .pctlCreate => none
  | .pctlDestroy => none
  | .resyncGo => none
  | .boxLinkDown => none
  | .farLaunchTimeout => none
  | .interfaceTorn => none
  | .lockInterface => none
  | .scrubComplete => none
  | .coldReset => none
  | .pfFunctionLevelReset => none
  | .vfFunctionLevelReset => none
  | .thermalShutdown => none
  | .deviceAccessComplete => none
  | .doubledRefresh => none
  | .boxLinkUp => none

/-- One bit, as a field. -/
def bitField (b : Bool) : BitVec 1 := if b then 1 else 0

/-- The syllables of an operand record under its code (R72, R73), the extension syllable last. -/
def Form.words (op : BitVec 7) : Form → List Word32
  | .rrr f => [op ++ 0#1 ++ f.sd ++ f.sa ++ f.sb ++ f.fn]
  | .ri f => (op ++ bitField f.ext.isSome ++ f.sd ++ f.sa ++ f.imm) :: f.ext.toList
  | .b f => (op ++ bitField f.ext.isSome ++ f.sa ++ f.sb ++ f.off) :: f.ext.toList
  | .j f => (op ++ bitField f.ext.isSome ++ f.off) :: f.ext.toList
  | .sq f => [op ++ 0#1 ++ f.sd ++ f.qn ++ f.nf ++ 0#14]
  | .vr f => [op ++ f.vd ++ f.va ++ f.pg ++ f.pz ++ f.gs, f.vb ++ f.vc ++ f.ty ++ f.rm ++ f.fn]
  | .vi f => [op ++ f.vd ++ f.va ++ f.pg ++ f.pz ++ f.gs, f.imm ++ f.ty ++ f.rm ++ f.fn]
  | .vm f => [op ++ f.vd ++ f.va ++ f.pg ++ f.pz ++ f.gs, f.sa ++ f.sb ++ f.off ++ f.ty ++ f.fn]
  | .vq f => [op ++ f.vd ++ f.qn ++ f.nf ++ 0#4 ++ f.pg ++ f.pz ++ f.gs, 0#32]
  | .m f => [op ++ f.bk ++ f.rs ++ f.ab ++ f.ar ++ f.sa ++ f.sb, f.grp ++ f.imm ++ f.fn]
  | .c f => [op ++ f.ch ++ f.sa ++ f.sb ++ f.ca ++ f.cb ++ f.acq ++ f.rel ++ f.scp, f.grp ++ f.imm ++ f.fn]

/-- Decodes the syllables of one operation of a class. -/
def decodeWords (cls : SlotClass) (ws : List Word32) : Except DecodeError Instr :=
  match cls, ws with
  | .s, [w] => if xBit w && kindS (opOf w) != some .rrr && kindS (opOf w) != some .sq then .error .reserved
    else decodeS w none
  | .s, [w, e] => if xBit w then decodeS w (some e) else .error .reserved
  | .v, [a, b] => decodeV a b
  | .m, [a, b] => decodeM a b
  | .c, [a, b] => decodeC a b
  | _, _ => .error .reserved

/-! The filter instructions (R439, R440). -/

def readFa (w : Word32) : FA :=
  { fd := w.extractLsb' 23 4, fa := w.extractLsb' 19 4, fb := w.extractLsb' 15 4, sub := w.extractLsb' 0 15 }
def readFi (w : Word32) : FI :=
  { fd := w.extractLsb' 23 4, fa := w.extractLsb' 19 4, sub := w.extractLsb' 16 3, imm := w.extractLsb' 0 16 }

/-- The instruction of a filter word's code (R440), its fields not yet validated. -/
def filterOf (w : Word32) : Option Instr :=
  match (w.extractLsb' 27 5).toNat with
  | 0x00 => some (.filterExit (readFa w))
  | 0x01 => some (.filterBr (readFa w))
  | 0x02 => some (.filterLde (readFa w))
  | 0x03 => some (.filterLdi (readFi w))
  | 0x04 => some (.filterLih (readFi w))
  | 0x05 => some (.filterAddi (readFi w))
  | 0x06 => some (.filterAdd (readFa w))
  | 0x07 => some (.filterSub (readFa w))
  | 0x08 => some (.filterAnd (readFa w))
  | 0x09 => some (.filterOr (readFa w))
  | 0x0A => some (.filterXor (readFa w))
  | 0x0B => some (.filterMin (readFa w))
  | 0x0C => some (.filterMax (readFa w))
  | 0x0D => some (.filterAbsd (readFa w))
  | 0x0E => some (.filterShl (readFi w))
  | 0x0F => some (.filterShr (readFi w))
  | 0x10 => some (.filterSha (readFi w))
  | 0x11 => some (.filterLog2 (readFa w))
  | 0x12 => some (.filterHash (readFi w))
  | 0x13 => some (.filterEwma (readFi w))
  | 0x14 => some (.filterTld (readFi w))
  | 0x15 => some (.filterTst (readFi w))
  | 0x16 => some (.filterTadd (readFi w))
  | 0x17 => some (.filterTrig (readFi w))
  | _ => none

/-- The word of a filter instruction; `none` for every other instruction. -/
def filterWord : Instr → Option Word32
  | .filterExit f => some (0x00#5 ++ f.fd ++ f.fa ++ f.fb ++ f.sub)
  | .filterBr f => some (0x01#5 ++ f.fd ++ f.fa ++ f.fb ++ f.sub)
  | .filterLde f => some (0x02#5 ++ f.fd ++ f.fa ++ f.fb ++ f.sub)
  | .filterLdi f => some (0x03#5 ++ f.fd ++ f.fa ++ f.sub ++ f.imm)
  | .filterLih f => some (0x04#5 ++ f.fd ++ f.fa ++ f.sub ++ f.imm)
  | .filterAddi f => some (0x05#5 ++ f.fd ++ f.fa ++ f.sub ++ f.imm)
  | .filterAdd f => some (0x06#5 ++ f.fd ++ f.fa ++ f.fb ++ f.sub)
  | .filterSub f => some (0x07#5 ++ f.fd ++ f.fa ++ f.fb ++ f.sub)
  | .filterAnd f => some (0x08#5 ++ f.fd ++ f.fa ++ f.fb ++ f.sub)
  | .filterOr f => some (0x09#5 ++ f.fd ++ f.fa ++ f.fb ++ f.sub)
  | .filterXor f => some (0x0A#5 ++ f.fd ++ f.fa ++ f.fb ++ f.sub)
  | .filterMin f => some (0x0B#5 ++ f.fd ++ f.fa ++ f.fb ++ f.sub)
  | .filterMax f => some (0x0C#5 ++ f.fd ++ f.fa ++ f.fb ++ f.sub)
  | .filterAbsd f => some (0x0D#5 ++ f.fd ++ f.fa ++ f.fb ++ f.sub)
  | .filterShl f => some (0x0E#5 ++ f.fd ++ f.fa ++ f.sub ++ f.imm)
  | .filterShr f => some (0x0F#5 ++ f.fd ++ f.fa ++ f.sub ++ f.imm)
  | .filterSha f => some (0x10#5 ++ f.fd ++ f.fa ++ f.sub ++ f.imm)
  | .filterLog2 f => some (0x11#5 ++ f.fd ++ f.fa ++ f.fb ++ f.sub)
  | .filterHash f => some (0x12#5 ++ f.fd ++ f.fa ++ f.sub ++ f.imm)
  | .filterEwma f => some (0x13#5 ++ f.fd ++ f.fa ++ f.sub ++ f.imm)
  | .filterTld f => some (0x14#5 ++ f.fd ++ f.fa ++ f.sub ++ f.imm)
  | .filterTst f => some (0x15#5 ++ f.fd ++ f.fa ++ f.sub ++ f.imm)
  | .filterTadd f => some (0x16#5 ++ f.fd ++ f.fa ++ f.sub ++ f.imm)
  | .filterTrig f => some (0x17#5 ++ f.fd ++ f.fa ++ f.sub ++ f.imm)
  | _ => none

/-- A valid filter instruction (R439): its code is assigned and its fields are as its row gives. -/
def decodeFilter (w : Word32) : Option Instr :=
  match filterOf w with
  | some i => if i.WellFormed then some i else none
  | none => none

/-- The words of a well-formed instruction: the syllables of a slot operation, the word of a filter
instruction. Events have no encoding. -/
def encode (i : Instr) : Option (List Word32) :=
  match i.form with
  | some (_, op, f) => some (f.words op)
  | none => (filterWord i).map fun w => [w]

/-- Decodes what `encode` writes, given the class of the slot (none for a filter program). -/
def decodeAs (cls : Option SlotClass) (ws : List Word32) : Option Instr :=
  match cls, ws with
  | none, [w] => decodeFilter w
  | some k, ws =>
    match decodeWords k ws with
    | .ok i => if i.WellFormed then some i else none
    | .error _ => none
  | _, _ => none

/-- The class of a slot operation's own map. -/
def Instr.slotClass (i : Instr) : Option SlotClass := i.form.map (·.1)

/-! Code lines and bundles (R61 to R66, R70, R75). -/

/-- Syllable `k` of a line held as 1024 bits (R61). -/
def syllable (line : BitVec 1024) (k : Nat) : Word32 := line.extractLsb' (32 * k) 32

/-- START and TARGET bits of start position `i` (R62). -/
def startBit (line : BitVec 1024) (i : Nat) : Bool := line.getLsbD i
def targetBit (line : BitVec 1024) (i : Nat) : Bool := line.getLsbD (16 + i)

/-- The syllable of start position `i`, and the position of a syllable (R62). -/
def posSyllable (i : Nat) : Nat := if i = 0 then 1 else 2 * i
def syllablePos (b : Nat) : Option Nat :=
  if b = 1 then some 0 else if b % 2 = 0 ∧ 2 ≤ b ∧ b ≤ 30 then some (b / 2) else none

/-- The lowest flagged start position of a line, and the next one after a syllable (R66). -/
def firstStart (line : BitVec 1024) : Option Nat := (List.range 16).find? (startBit line)
def nextStart (line : BitVec 1024) (b : Nat) : Option Nat :=
  (List.range 16).find? fun i => startBit line i && decide (b < posSyllable i)

/-- The length of the bundle whose head is `h` and whose S syllable is `s` (R64). -/
def bundleLen (h s : Word32) : Nat :=
  1 + (if h.getLsbD 0 then 1 + (if s.getLsbD 24 then 1 else 0) else 0) +
    2 * ((List.range 5).countP fun k => h.getLsbD (k + 1))

/-- A bundle's head fields (R70). -/
structure Head where
  present : BitVec 6
  stall   : Nat
  rep     : Nat
  rot     : Bool
  early   : Bool
  safe    : Bool
  hush    : Bool
  deriving DecidableEq, Repr

def readHead (h : Word32) : Head :=
  { present := h.extractLsb' 0 6, stall := (h.extractLsb' 6 4).toNat, rep := (h.extractLsb' 10 8).toNat,
    rot := h.getLsbD 18, early := h.getLsbD 19, safe := h.getLsbD 20, hush := h.getLsbD 21 }

/-- The head syllable of given fields (R70). -/
def headWord (h : Head) : Word32 :=
  0#10 ++ bitField h.hush ++ bitField h.safe ++ bitField h.early ++ bitField h.rot ++
    BitVec.ofNat 8 h.rep ++ BitVec.ofNat 4 h.stall ++ h.present

/-- The bundle at syllable `b` is well placed and its line header is consistent (R65). -/
def wellPlaced (line : BitVec 1024) (b : Nat) : Bool :=
  let e := b + bundleLen (syllable line b) (syllable line (b + 1))
  let stop := match nextStart line b with
    | some i => posSyllable i
    | none => 32
  decide (e ≤ stop) && ((List.range 32).all fun k => !(decide (e ≤ k) && decide (k < stop)) || syllable line k == 0) &&
    ((List.range 16).all fun i => !targetBit line i || startBit line i)

/-- A slot's operation as decode reads it: the instruction or the row of R76 that fails. -/
abbrev SlotRead := Nat × Except DecodeError Instr

/-- The operations present in a bundle, in slot order (R75): slot number and decoded operation. -/
def readSlots (line : BitVec 1024) (b : Nat) : List SlotRead :=
  let h := syllable line b
  let s := syllable line (b + 1)
  let x := s.getLsbD 24
  let sOps : List SlotRead :=
    if h.getLsbD 0 then [(0, decodeS s (if x then some (syllable line (b + 2)) else none))] else []
  let start := b + 1 + (if h.getLsbD 0 then 1 + (if x then 1 else 0) else 0)
  let rest := (List.range 5).filter fun k => h.getLsbD (k + 1)
  sOps ++ rest.mapIdx fun n k =>
    let a := syllable line (start + 2 * n)
    let c := syllable line (start + 2 * n + 1)
    (k + 1, if k < 2 then decodeV a c else if k = 2 then decodeM a c else decodeC a c)

/-- A code line from its syllables, syllable 0 first (R61). -/
def lineOf : List Word32 → Nat
  | [] => 0
  | w :: r => w.toNat + 2 ^ 32 * lineOf r

/-- The line that holds one bundle at syllable 1, entered by a branch: its head, then its operations. -/
def oneBundleLine (ws : List Word32) : BitVec 1024 := BitVec.ofNat 1024 (lineOf (0x00010001#32 :: ws))

/-- The words of the table's numbering: bits counted on from the first word (R3). -/
def tableWords : Nat → Nat → List Word32
  | 0, _ => []
  | n + 1, w => BitVec.ofNat 32 w :: tableWords n (w / 2 ^ 32)

/-- The instruction the decoder reads from an instruction of the opcode table. A word of up to 32 bits is
a filter instruction, the rows the table gives an encoding; a longer one is a bundle, its head first,
whose one operation is the instruction. -/
def decodeTableWord (nbits w : Nat) : Option Instr :=
  if nbits ≤ 32 then decodeFilter (BitVec.ofNat 32 w)
  else
    match readSlots (oneBundleLine (tableWords 14 w)) 1 with
    | [(_, .ok i)] => if i.WellFormed then some i else none
    | _ => none

end Sys2Proof
end

