-- ==== Sys2Proof/Machine/Tab.lean ====
section
/-! DEFINITION. The containers of the state: sparse tables by number, and byte memories in canonical
form. An unlisted number of a table holds the table's default; an unlisted address of a memory holds a
zero byte. Nothing here names the machine. -/

namespace Sys2Proof.Machine

/-- A sparse table: entries in rising order of their numbers. -/
abbrev Tab (α : Type) := List (Nat × α)

/-- The entry of number `k`, or `d` when none is listed. -/
def Tab.look {α : Type} (d : α) : Tab α → Nat → α
  | [], _ => d
  | (j, v) :: r, k => if j = k then v else Tab.look d r k

/-- Replaces or adds the entry of number `k`. -/
def Tab.store {α : Type} : Tab α → Nat → α → Tab α
  | [], k, v => [(k, v)]
  | (j, w) :: r, k, v =>
    if j = k then (k, v) :: r
    else if k < j then (k, v) :: (j, w) :: r
    else (j, w) :: Tab.store r k v

/-- Removes the entry of number `k`. -/
def Tab.drop {α : Type} (t : Tab α) (k : Nat) : Tab α := t.filter fun e => e.1 != k

/-- Whether number `k` is listed. -/
def Tab.has {α : Type} (t : Tab α) (k : Nat) : Bool := t.any fun e => e.1 == k

/-- A byte memory: the cells that differ from zero, addresses strictly rising (MEMORY of the model). -/
abbrev Memory := List Host.Cell

/-- The canonical form: addresses strictly rise and no listed byte is zero, what an unlisted address
reads as. -/
abbrev Memory.wf (m : Memory) : Prop :=
  m.Pairwise (fun x y => x.1 < y.1) ∧ ∀ c ∈ m, c.2 ≠ 0#8

/-- The byte at an address. -/
def Memory.byte (m : Memory) (a : Nat) : Byte := Tab.look 0#8 m a

/-- The `n` bytes from address `a` on. -/
def Memory.bytes (m : Memory) (a n : Nat) : List Byte :=
  (List.range n).map fun i => Memory.byte m (a + i)

/-- The cells of a run of bytes from address `a` on, zero bytes left out. -/
def cellsFrom : Nat → List Byte → Memory
  | _, [] => []
  | a, b :: r => if b = 0#8 then cellsFrom (a + 1) r else (a, b) :: cellsFrom (a + 1) r

/-- Writes a run of bytes at address `a`. -/
def Memory.write (m : Memory) (a : Nat) (bs : List Byte) : Memory :=
  m.filter (fun c => c.1 < a) ++ cellsFrom a bs ++ m.filter (fun c => a + bs.length ≤ c.1)

/-- Writes `n` zero bytes at address `a`. -/
def Memory.clear (m : Memory) (a n : Nat) : Memory :=
  m.filter fun c => c.1 < a ∨ a + n ≤ c.1

/-- The number that bytes give, the first the least significant (R3). -/
def leNat : List Byte → Nat
  | [] => 0
  | b :: r => b.toNat + 256 * leNat r

/-- The `n` low bytes of a number, the least significant first (R3). -/
def leBytes : Nat → Nat → List Byte
  | 0, _ => []
  | n + 1, x => BitVec.ofNat 8 x :: leBytes n (x / 256)

/-- The value of `n` bytes at `a` as a number. -/
def Memory.num (m : Memory) (a n : Nat) : Nat := leNat (Memory.bytes m a n)

/-- The bytes at the address of `bs` replaced where `keep` is false. -/
def maskBytes (old : List Byte) (new : List Byte) (sel : Nat → Bool) : List Byte :=
  (old.zip new).mapIdx fun i p => if sel i then p.2 else p.1

/-- Sets element `i` of a list, when it has one. -/
def setNth {α : Type} (l : List α) (i : Nat) (v : α) : List α := l.set i v

/-- Whether two ranges `[a, a+n)` and `[b, b+m)` share an address. -/
def rangesMeet (a n b m : Nat) : Bool := decide (a < b + m) && decide (b < a + n) && decide (0 < n) && decide (0 < m)

end Sys2Proof.Machine
end

