-- ==== Sys2Proof/Machine/EngineState.lean ====
section
/-! DEFINITION. The state of a core's engines: compute banks, accumulator memory, the M engine and fill
sequencer, the copy channels, the export table, the carry engine, the scoreboard and the ports. -/

namespace Sys2Proof.Machine

/-- A capability register (R150). -/
structure Cap where
  base   : Word := 0
  length : BitVec 48 := 0
  perm   : BitVec 10 := 0
  type   : BitVec 6 := 0
  tag    : Bool := false
  entry  : BitVec 8 := 0
  deriving DecidableEq, Repr

/-- An accumulator row (R281, R282): X of each element, zero where none is listed, and the header. A row
image of R289 may carry the exponent −32768, the code 0x8000. -/
structure AccRow where
  elems : Tab Int := []
  e     : Int := 0
  h     : Nat := 0
  ovf   : Bool := false
  /-- NANMARK. -/
  nan   : Nat := 0
  deriving DecidableEq, Repr

/-- A fault on its way to a core (R450): cause, detail, SRC, CHAN, SEQ, and the bundle that issued the
command; the cycle after the one in which it arrived, 0 until that cycle has passed. -/
structure FaultRec where
  cause : Nat
  det   : Word := 0
  src   : Nat := 0
  chan  : Nat := 0
  seq   : Nat := 0
  cmd   : Word := 0
  when_ : Nat := 0
  deriving DecidableEq, Repr

/-- One level of a nest (R325). -/
structure Level where
  count : Nat := 1
  sstr  : Int := 0
  dstr  : Int := 0
  deriving DecidableEq, Repr

/-- A descriptor: the fields of a nest block (R324). -/
structure Nest where
  skind  : Nat := 0
  dkind  : Nat := 0
  swz    : Nat := 0
  fmt    : Nat := 0
  b96    : Bool := false
  sck    : Nat := 0
  bank   : Nat := 0
  rs     : Nat := 0
  peer   : Nat := 0
  pgrp   : Nat := 0
  frame  : Nat := 0
  inner  : Nat := 1
  scaddr : Nat := 0
  levels : List Level := []
  deriving DecidableEq, Repr

/-- Where a row set filled from device memory came from (R243). -/
structure Prov where
  cap     : Cap
  off     : Int
  nest    : Nest
  sheller : Bool
  deriving DecidableEq, Repr

/-- A row set (R242, R243): its state (0 EMPTY, 1 FILLING, 2 FULL), formats, storage (0 dense; 1, 2, 3
for N = 4, 8, 12), tag, plane image, weight scales by column × B + block, index table, and provenance
(`none`: local). -/
structure RowSet where
  state   : Nat := 0
  wfmt    : Nat := 0
  afmt    : Nat := 0
  planes  : Nat := 8
  storage : Nat := 0
  tag     : Nat := 0
  image   : Memory := []
  scales  : Tab Nat := []
  idx     : Tab Nat := []
  prov    : Option Prov := none
  deriving DecidableEq, Repr

/-- An entry of a bank's outlier list (R259); once a command has discarded it at its issue, that command's number:
the commands before it still see the entry. -/
structure Outlier where
  gone : Option Nat := none
  rs  : Nat
  row : Nat
  col : Nat
  v   : Int
  deriving DecidableEq, Repr

/-- A compute bank (R236, R241): its mode (true: compute), the mode a BMODE of the issue under way gives
it from the next cycle on and that command's number (R240), the active row set, its row sets, the generation that a
mode change advances, and the outlier list. -/
structure Bank where
  mode : Bool := false
  turn : Option (Bool × Nat) := none
  act  : Nat := 0
  gen  : Nat := 0
  sets : Tab RowSet := []
  outl : List Outlier := []
  deriving DecidableEq, Repr

/-- What a bank held before a mode change whose switch still waits (R240): the commands issued before
`upto` still use it. -/
structure Retired where
  bank : Nat
  gen  : Nat
  upto : Nat
  sets : Tab RowSet
  outl : List Outlier
  mem  : Memory
  deriving DecidableEq, Repr

/-- A bank of a pass with the generation and row set it uses (R250). -/
structure PassBank where
  bank : Nat
  gen  : Nat
  rs   : Nat
  deriving DecidableEq, Repr

/-- A token on its way to the accumulator (R255): the cycle its addends arrive, its number, its operand
bytes and its activation scales. -/
structure TokenJob where
  due    : Nat
  tok    : Nat
  bytes  : List Byte
  scales : List Nat
  deriving DecidableEq, Repr

/-- A pass (R250 to R255). -/
structure Pass where
  /-- BACC: every token accumulates into the same rows. -/
  onto   : Bool
  banks  : List PassBank
  ab     : Nat
  ar     : Nat
  count  : Nat
  /-- The operand address, and the logical core it lies in when remote. -/
  addr   : Int
  remote : Option Nat
  grp    : Nat
  planar : Bool
  half   : Nat
  tag    : Nat
  /-- Format, planes and storage the banks share (R250). -/
  afmt   : Nat
  planes : Nat
  storage : Nat
  /-- The next token, and the first cycle in which its operand may be read. -/
  next   : Nat := 0
  at_    : Nat := 0
  jobs   : List TokenJob := []
  /-- Operand bytes: of the next token when local, of every token when remote; and a remote pass's
  request has gone out. -/
  bytes  : Option (List Byte) := none
  /-- The rows of the next token that have been read. -/
  part   : List Byte := []
  asked  : Bool := false
  deriving DecidableEq, Repr

/-- A direction converted for BDIR (R279): the sixteen-bit components of the 256 rows and the scale of
each block. -/
structure DirColumn where
  vals   : List Int
  scales : List Nat
  deriving DecidableEq, Repr

/-- What an M command does once started. Row sets are named by bank, generation and number. -/
inductive MWork where
  | pass (p : Pass)
  | bload (b : PassBank) (addr tag : Nat)
  | bprec (b : PassBank) (wfmt afmt planes : Nat)
  | bsparse (b : PassBank) (kind addr : Nat)
  | boutl (b : PassBank) (row col : Nat) (v : Int)
  | btag (addr n tag : Nat)
  | bclr (b : PassBank) (all : Bool)
  /-- `fresh`: its row set is EMPTY as it issues, and takes mxint16 with zero weights first. -/
  | bdir (b : PassBank) (col : Nat) (dirs : List DirColumn) (fresh : Bool)
  | bzero (b : PassBank)
  | bmode (mask : Nat)
  | accalloc (mask : Nat) (e : Int)
  | accfree (mask : Nat)
  | accband (bank band : Nat) (owner : Option Nat)
  | accnorm (bank row h : Nat)
  | accclr (bank row n : Nat) (e : Int)
  /-- `h`: H of the row as counted at the command's issue (R286). -/
  | accrd (bank row h : Nat) (clr : Bool)
  | accexp (bank row h fmt addr : Nat) (clr : Bool)
  /-- A remote drain (R292): the holder, the group, and the destination of ACCEXP. -/
  | drain (holder bank row grp : Nat) (dest : Option (Nat × Nat))
  | accexport (bank band grp : Nat)
  /-- What ACCEXP has drained and still has to write, a row a cycle (R299, R303). -/
  | put (addr : Nat) (bytes : List Byte)
  deriving DecidableEq, Repr

/-- An M command (R263): its number in the core's issue order, its issue for the records that name it,
the copy command it follows (R346), its work, its resources, and how far it is. -/
structure MCmd where
  id     : Nat
  bundle : Word
  scyc   : Nat
  /-- The cycle of its issue. -/
  at_    : Nat
  /-- Channel, SEQ and bundle of the copy command it followed. -/
  follow : Option (Nat × Nat × Word) := none
  work   : MWork
  uses   : List Nat
  /-- It has started. -/
  begun  : Bool := false
  /-- The cycle its work ends, when the start fixes it. -/
  due    : Option Nat := none
  deriving DecidableEq, Repr

/-- The fill that holds or waits for the fill sequencer (R264): the command, the channel for a copy fill,
its row set, the columns and blocks that it finds there as it starts, and the weight scales taken. -/
structure Fill where
  id    : Nat
  chan  : Option Nat
  set   : PassBank
  /-- The number that the core's next command had at the hand-over of a copy fill, its place among the M commands. -/
  ord   : Nat := 0
  cols  : Nat := 0
  blocks : Nat := 0
  /-- The source of a BLOAD. -/
  addr  : Nat := 0
  /-- The tag the row set takes. -/
  tag   : Nat := 0
  /-- Rows of 256 bytes that a BLOAD has read. -/
  rows  : Nat := 0
  taken : Nat := 0
  /-- The cycle the fill started; it holds the sequencer. -/
  start : Option Nat := none
  /-- Every byte of the image is there. -/
  full  : Bool := false
  deriving DecidableEq, Repr

/-- A page that a translation found (R386): its first address, size, physical address, level and
attributes. -/
structure Page where
  va    : Nat
  size  : Nat
  pa    : Nat
  level : Nat
  mx    : Bool
  cache : Bool
  host  : Bool
  wr    : Bool
  loc   : Nat
  deriving DecidableEq, Repr

/-- The commands of the copy channels (R341). -/
inductive CopyKind where
  | go
  | mcast
  | msg
  | fill
  | shell
  | acc (op : Nat)
  | accOne (op : Nat)
  | rowCopy
  | rowZero
  | walk
  | coll
  | mark (tag : Nat)
  | inv
  deriving DecidableEq, Repr

/-- A collective plan (R356). -/
structure Plan where
  kind  : Nat := 0
  type  : Nat := 0
  op    : Nat := 0
  count : Nat := 0
  soff  : Nat := 0
  doff  : Nat := 0
  deriving DecidableEq, Repr

/-- A command in a copy channel (R323, R332). -/
structure CopyCmd where
  id     : Nat
  slot   : Nat
  bundle : Word
  /-- SEQ of R332 and PIDX at issue. -/
  seq    : Nat
  pidx   : Nat
  code   : Nat
  kind   : CopyKind
  note   : Bool := false
  nest   : Nest := {}
  /-- Source and destination offsets, the register value of a fill, atomic or message, and a count. -/
  src    : Int := 0
  dst    : Int := 0
  value  : Word := 0
  n      : Nat := 0
  sc     : Cap := {}
  dc     : Cap := {}
  scr    : Nat := 0
  dcr    : Nat := 0
  grp    : Nat := 0
  acq    : Bool := false
  rel    : Bool := false
  scp    : Nat := 0
  /-- Collectives complete at its issue whose blocks the far module has still to apply (R369), and the blocks of the far
  module that its acquire waits for, by group, member and number, once that has begun (R370). -/
  relOut : List Nat := []
  began  : Option (List (Nat × Nat × Nat)) := none
  plan   : Plan := {}
  gen    : Nat := 0
  /-- The pages probed for the source and the destination (R329). -/
  spages : List Page := []
  dpages : List Page := []
  /-- The command must probe afresh before its next access (R353, R399). -/
  stale  : Bool := false
  started : Bool := false
  /-- The first cycle of its next transfer. -/
  at_    : Nat := 0
  /-- Bytes of the nest moved, in nest order; scale units moved; rows, records or windows done. -/
  moved  : Nat := 0
  units  : Nat := 0
  /-- Scale bytes that have been read and not yet written or pushed. -/
  scq    : List Byte := []
  /-- The source of a sheller stream or of a collective, as far as it is there. -/
  buf    : Option (List Byte) := none
  /-- Bytes read and not yet written, in nest order; and the scale slots of the whole bursts among them, by byte of
  the nest (R134). -/
  ahead  : List Byte := []
  aheadSlots : List (Nat × BitVec 32) := []
  /-- Requests or deliveries under way. -/
  open_  : Nat := 0
  /-- STATUS of R332; `none` while the command runs. -/
  status : Option Nat := none
  /-- Local rows that have taken its tag (R338). -/
  tagged : List Nat := []
  /-- The cycle it started; the last safe point of the in-memory unit that works for it (R397). -/
  since  : Nat := 0
  safe   : Nat := 0
  /-- Its core has stopped: its channel ends the copy under way and goes no further (R458). -/
  halt   : Bool := false
  /-- That unit has reached a safe point since its core stopped (R399). -/
  rest   : Bool := false
  /-- The invalidations whose markers the host placed behind it (R353). -/
  hostMarks : List Nat := []
  deriving DecidableEq, Repr

/-- A frozen watermark (R360): the destination range and the highest address below which every byte has
been written, plus one. -/
structure Frozen where
  lo  : Nat
  len : Nat
  wm  : Nat
  deriving DecidableEq, Repr

/-- A copy channel (R323, R324). -/
structure Channel where
  desc   : Option Nest := none
  queue  : List CopyCmd := []
  /-- Commands that named the channel since launch. -/
  seq    : Nat := 0
  frozen : List Frozen := []
  /-- The numbers of its commands that a fault stopped (R344). -/
  faults : List Nat := []
  /-- The data command issued last on it (R346): its number, SEQ and bundle. -/
  lastData : Option (Nat × Nat × Word) := none
  deriving DecidableEq, Repr

/-- An M operation carried by CPFOLLOW (R346): the operation with its fields, its register operands, and
the command it is attached to. -/
structure Follow where
  /-- Its number in the core's issue order (R163). -/
  id   : Nat
  op   : Instr
  a    : Word
  b    : Word
  chan : Nat
  cmd  : Option Nat
  /-- SEQ and bundle of that command; of the CPFOLLOW itself when there is none. -/
  seq  : Nat
  cmdBundle : Word
  bundle : Word
  scyc : Nat
  deriving DecidableEq, Repr

/-- An entry of the export table (R339): region, group, kind (0 read, 1 carry, 2 receive), the number of
the CPEXPORT, the first cycle it may come into force, and whether it is in force. -/
structure Export where
  addr : Nat
  len  : Nat
  grp  : Nat
  kind : Nat
  id   : Nat
  from_ : Nat
  live : Bool
  deriving DecidableEq, Repr

/-- A result record of q0 or q1 (R333): a CPWAIT with its mask, or a single CPACC of a channel whose value arrives. -/
inductive Result where
  | wait (id mask : Nat)
  | value (id chan : Nat) (v : Option Word)
  deriving DecidableEq, Repr

/-- Commands of the carry engine (R318). -/
inductive CarryKind where
  /-- CARRY: table address, length in words, windows. -/
  | table (addr len n : Nat)
  /-- A remote CARRY: target, group, table address, length, windows. -/
  | remote (target grp addr len n : Nat)
  /-- CARRYW: address and value. -/
  | word (addr : Nat) (v : Word32)
  | status
  deriving DecidableEq, Repr

structure CarryCmd where
  id     : Nat
  bundle : Word
  kind   : CarryKind
  op     : Nat
  /-- Windows taken, and the first cycle of the next. -/
  done   : Nat := 0
  at_    : Nat := 0
  /-- Remote windows sent and not yet answered. -/
  open_  : Nat := 0
  /-- The merged pairs of the window under way that have not been applied. -/
  left   : Option (List (Nat × Nat)) := none
  /-- A fault has stopped it; windows already sent are still on their way. -/
  failed : Bool := false
  deriving DecidableEq, Repr

/-- The carry engine (R313, R321): its commands, the counts since the last CARRYST, and pairs that
arrived from other cores. -/
structure Carry where
  queue   : List CarryCmd := []
  /-- The number of the message whose window it is applying (R316). -/
  remote  : Option Nat := none
  applied : Nat := 0
  merged  : Nat := 0
  fault   : Bool := false
  nan     : Bool := false
  deriving DecidableEq, Repr

/-- A scoreboard entry (R308): the command's number, and its read and write extents as first address and
length. -/
structure SbEntry where
  id : Nat
  rd : Option (Nat × Nat)
  wr : Option (Nat × Nat)
  deriving DecidableEq, Repr

/-- A result of the M slot on its way to q3 or q6 (R95, R298): BSTAT and ACCHEAD show the state of the
cycle before they land, and are records from its end on; an image of ACCRD is pending until its command starts. -/
inductive Post where
  | bstat (due bank : Nat)
  | head (due bank row h : Nat)
  | shown (due : Nat) (v : Word)
  | image (due : Option Nat) (id : Nat) (row : AccRow)
  deriving DecidableEq, Repr

/-- A slot that holds a port (R197), until `upto` exclusive. -/
structure PortHold where
  port  : Nat
  write : Bool
  slot  : Nat
  from_ : Nat
  upto  : Nat
  deriving DecidableEq, Repr

/-- An engine request that lost a port to slot accesses in consecutive cycles (R306); at 32 the port is
reserved for it in the next cycle. -/
structure Starved where
  port  : Nat
  write : Bool
  req   : Nat
  count : Nat
  last  : Nat
  deriving DecidableEq, Repr

/-- The engines of a core. -/
structure Engines where
  banks   : Tab Bank := []
  retired : List Retired := []
  /-- ACCSTAT.ALLOC (R283), and the rows of allocated banks by bank × 32 + row. -/
  alloc   : Nat := 0
  acc     : Tab AccRow := []
  /-- The owning group of a band, by bank × 4 + band; unlisted: local (R291). -/
  owners  : Tab Nat := []
  /-- The bands exported in the running phase with their group (R293). -/
  bandExports : Tab Nat := []
  /-- Those of them whose export has started. -/
  bandLive : List Nat := []
  /-- The number of the next M or C command (R308). -/
  nextId  : Nat := 0
  mq      : List MCmd := []
  fills   : List Fill := []
  posts   : List Post := []
  sb      : List SbEntry := []
  chans   : Tab Channel := []
  /-- Blocks of its CPCOLLs sent over the box link and not yet applied there: command, group and number
  (R369). -/
  farOut  : List (Nat × Nat × Nat) := []
  follows : List Follow := []
  exports : List Export := []
  results : Tab (List Result) := []
  /-- CPFENCE: number and mask (R354). -/
  fences  : List (Nat × Nat) := []
  carry   : Carry := {}
  ports   : List PortHold := []
  starved : List Starved := []
  /-- Ports an engine has used in the cycle given: port, direction, cycle (R305). -/
  used    : List (Nat × Bool × Nat) := []
  deriving DecidableEq, Repr

end Sys2Proof.Machine
end

