-- ==== Sys2Proof/Machine/CoreState.lean ====
section
/-! DEFINITION. The state of one core: its sequencer, registers, queues, local memory and engines. Plain
data; every field names the rule that gives it. -/

namespace Sys2Proof.Machine

/-- What one slot result writes when it becomes visible (R92, R95). Vector and predicate targets are
physical numbers (R94). -/
inductive WriteBack where
  | scalar (r : Nat) (v : Word)
  | cap (r : Nat) (v : Cap)
  /-- The bits of `en` are written; the others keep their value (R173). -/
  | vec (r : Nat) (v en : VReg)
  | pred (r : Nat) (v en : PReg)
  | dir (r : Nat) (v : VReg)
  | norm (r : Nat) (v : Word32)
  /-- CTLWR of a value to a control register (R139). -/
  | ctlWrite (num : Nat) (v : Word)
  /-- The rotation of RRB or SPRED (R171, R174): the whole register. -/
  | rotate (num : Nat) (v : Word)
  /-- FLAGS.Q (R227). -/
  | flagQ (v : Bool)
  /-- Bytes of local memory (R198). -/
  | mem (addr : Nat) (bytes : List Byte)
  /-- A conversion's report to NUMSTAT (R121, R122). -/
  | numstat (sat nan : Bool) (zblk : Nat)
  /-- Scale bytes entering q8 or q9 (R230). -/
  | scales (q : Nat) (bytes : List Byte)
  /-- An entry of q12 or q13 (R230). -/
  | stream (q : Nat) (v : VReg)
  /-- QFLUSH taking effect (R232). -/
  | flush (q : Nat)
  deriving DecidableEq, Repr

/-- A result in flight: the pipeline cycle from which it is visible, and what it writes. -/
structure InFlight where
  due : Nat
  wb  : WriteBack
  deriving DecidableEq, Repr

/-- What the steps of R100 have added to the stepped fields of a slot's operation: VD, VA (or the operand
address, or the source offset), VB, VC and the byte offset; 48-bit signed integers. -/
structure Steps where
  d : Int := 0
  a : Int := 0
  b : Int := 0
  c : Int := 0
  o : Int := 0
  deriving DecidableEq, Repr

/-- A slot's sticky operation (R98). -/
structure Sticky where
  op : Instr
  dv : Steps
  deriving DecidableEq, Repr

/-- What keeps a bundle from issuing (R107): the cause's code, its slot (6 for fetch) and DETAIL. -/
structure WaitCause where
  code   : Nat
  slot   : Nat
  detail : Nat
  deriving DecidableEq, Repr

/-- A wait in progress (R108, R109): deviation cycles lost so far, and the causes found at the last
attempt in slot order. -/
structure Waiting where
  lost   : Nat
  causes : List WaitCause
  deriving DecidableEq, Repr

/-- A trap about to be taken: the cause code and TRAPDET of R442, and TRAPSLOT. -/
structure Trap where
  cause : Nat
  det   : Word := 0
  slot  : Nat := 7
  deriving DecidableEq, Repr

/-- What the sequencer does (R49 to R56, R457, R468). -/
inductive RunState where
  /-- No phase runs on the core. -/
  | idle
  | running
  /-- It has issued PHASE and waits for the boundary. -/
  | atPhase
  /-- It stopped for a pre-emption; KIND of R461. -/
  | stopped (kind : Nat)
  /-- Its phase was aborted. -/
  | aborted
  deriving DecidableEq, Repr

/-- How the sequencer came to the bundle it is about to issue (R65 to R67, R452). -/
inductive Arrival where
  /-- From the bundle before it on the same line, or already issuing. -/
  | sequential
  /-- A new line of R66: the bundle at its lowest start position. -/
  | newLine
  /-- A branch, or a phase start, to this address (R67). -/
  | branch
  /-- JR or RET to this address (R147). -/
  | register
  deriving DecidableEq, Repr

/-- An open access of the waiting bundle (R161, R157, R158). -/
structure DevAccess where
  slot  : Nat
  op    : Instr
  due   : Nat
  /-- Whether it has completed. -/
  ready : Bool
  write : Bool
  /-- The bytes a read returned. -/
  data  : List Byte
  /-- The fault found on its way, delivered at the waiting bundle. -/
  fault : Option FaultRec
  /-- The pages it translated to, with the bytes on each: address, length, page. -/
  pages : List (Nat × Nat × Page)
  deriving DecidableEq, Repr

/-- The sequencer of a core (R35). -/
structure Seq where
  run      : RunState := .idle
  pc       : Word := 0
  arrive   : Arrival := .branch
  /-- An issue of the current bundle has been made, or REM and IDX are those of a resumed bundle. -/
  begun    : Bool := false
  idx      : Nat := 0
  rem      : Nat := 0
  /-- Planned stall cycles still to pass (R71). -/
  stall    : Nat := 0
  /-- The address of the successor bundle of R66, and whether it opens a new line. -/
  succ     : Word := 0
  succNew  : Bool := false
  /-- The target of the branch the bundle has taken. -/
  redirect : Option (Word × Bool) := none
  /-- The bundle has ended the segment (PHASE). -/
  ended    : Bool := false
  /-- The core waited at its PHASE when the fault that its service code serves was delivered (R450, log 13). -/
  parked   : Bool := false
  /-- The trap that follows the whole bundle (TRAP, DBGBRK; R454), and DBGBRK's debug stop. -/
  after    : Option Trap := none
  /-- TRET of the bundle being issued (R452). -/
  tret     : Bool := false
  /-- HALT of the bundle being issued (R453). -/
  haltOp   : Bool := false
  /-- A pipeline cycle has passed whose results become visible before the next one (R92). -/
  passed   : Bool := false
  /-- Pipeline cycles: issues and planned stalls, of service code too (R92, R449). -/
  tick     : Nat := 0
  flight   : List InFlight := []
  sticky   : Tab (Option Sticky) := []
  /-- The S slot's sticky operation of service code (R449). -/
  svcSticky : Option Sticky := none
  wait     : Option Waiting := none
  access   : Option DevAccess := none
  /-- The cycle after the one in which the core acted last (R36). -/
  acted    : Nat := 0
  /-- The bundle that issued last (R469). -/
  last     : Word := 0
  /-- GBAR arrivals and GBARs issued in the running phase, by group (R165). -/
  arrivals : Tab Nat := []
  barred   : Tab Nat := []
  /-- FENCE.E (R163): whether earlier commands still hold back scalar accesses. -/
  fenced   : List Nat := []
  /-- Faults that have arrived and wait for the bundle boundary; pending faults (R450). -/
  arrivedFaults : List FaultRec := []
  pending  : List FaultRec := []
  /-- Halted for the debug core (R468); BRKHALT and a stop request (R466). -/
  halted   : Bool := false
  brkHalt  : Bool := false
  haltReq  : Bool := false
  /-- A pre-emption request has reached the core (R457). -/
  preempt  : Bool := false
  /-- A bundle with SAFE has made its last issue and nothing has issued since. -/
  safePt   : Bool := false
  /-- A soft error's replay delays the next issue: cause and DETAIL of R107 (R444). -/
  replay   : Option (Nat × Nat) := none
  /-- The operations that the bundle under way has issued last, by slot (R100). -/
  made     : Tab Sticky := []
  deriving DecidableEq, Repr

/-- The register files (R136, R150, R167, R172, R204, R205). -/
structure Regs where
  s : Tab Word := []
  c : Tab Cap := []
  v : Tab VReg := []
  p : Tab PReg := []
  d : Tab VReg := []
  n : Tab Word32 := []
  deriving DecidableEq, Repr

/-- The queues (R221). -/
structure Queues where
  /-- q0 to q5, q10 and q11: visible records, front first. -/
  recs  : Tab (List Word) := []
  /-- Records that engines hold for a full queue (R221). -/
  held  : Tab (List Word) := []
  /-- q6. -/
  rows  : List AccRow := []
  /-- q7: visible draws, and draws set aside (R226). -/
  draws : List (BitVec 16) := []
  aside : List (BitVec 16) := []
  /-- The draws the waiting issue needs (R226). -/
  need  : Nat := 0
  /-- Draws that the pops of the attempt under way have taken beyond those there. -/
  owed  : Nat := 0
  /-- q8 and q9: scale bytes with the frame mark of each (R461). -/
  scales : Tab (List (Byte × BitVec 2)) := []
  /-- q12 and q13. -/
  streams : Tab (List VReg) := []
  deriving DecidableEq, Repr

/-- A deviation record of R109: its 256 bits. -/
abbrev DevRecord := BitVec 256

/-- The counts of the balance record (R58), of the running phase. -/
structure Balance where
  busy     : Tab Nat := []
  bank     : Nat := 0
  copy     : Nat := 0
  carry    : Nat := 0
  /-- One more than the cycle last counted in each. -/
  copyAt   : Nat := 0
  carryAt  : Nat := 0
  /-- The cycle at which the core issued PHASE, and its schedule cycle there; in a saved core, the cycles
  from that PHASE to the save. -/
  phaseAt  : Nat := 0
  sched    : Nat := 0
  deriving DecidableEq, Repr

/-- A core (R14). -/
structure Core where
  num    : Nat
  /-- The partition that holds the core; 63 when none. -/
  part   : Nat := 63
  seq    : Seq := {}
  regs   : Regs := {}
  /-- The control registers that hold storage of their own, by number (R138); fields that are views of
  other state are not stored. -/
  ctl    : Tab Word := []
  /-- What the updates of the current cycle add to NUMSTAT.ZBLK when it ends (R122). -/
  zNew   : Nat := 0
  /-- The seeding state (R234). -/
  seeding : Bool := false
  q      : Queues := {}
  mem    : Memory := []
  /-- Row tags, by the row's local address divided by 256 (R249). -/
  tags   : Tab (BitVec 4) := []
  eng    : Engines := {}
  /-- Instruction-cache lines by line number (R68), and lines on their way with the cycle they are due;
  a line whose fetch failed. -/
  icache : Tab (BitVec 1024) := []
  fetches : Tab Nat := []
  badLines : List Nat := []
  devLog : List DevRecord := []
  bal    : Balance := {}
  /-- Events sent and on their way to the Abacus (R429). -/
  events : List AbEvent := []
  /-- What GST and CAPST have written in the running phase (R162): bytes by place, the physical address plus LOC × 2^52. -/
  own    : Tab Byte := []
  /-- CPCOLLs issued in the running phase, by group (R357). -/
  colls  : Tab Nat := []
  /-- The model's own: free values taken so far (log 11). -/
  free   : Nat := 0
  deriving DecidableEq, Repr

end Sys2Proof.Machine
end

