-- ==== Sys2Proof/Machine/CoreOps.lean ====
section
/-! DEFINITION. The named operations over one core's registers, control registers, queues and results in
flight, and the answer of a slot operation: it goes through, traps, or waits. -/

namespace Sys2Proof.Machine

/-- What an attempt to issue a slot operation answers: the state after it, a trap in its place (R447), or
causes to wait for with the state that the attempt itself leaves (R107). -/
inductive Res (α : Type) where
  | ok (a : α)
  | trap (t : Trap)
  | wait (w : List WaitCause) (a : α)
  deriving Repr

def Res.bind {α β : Type} (r : Res α) (f : α → Res β) (g : α → β) : Res β :=
  match r with
  | .ok a => f a
  | .trap t => .trap t
  | .wait w a => .wait w (g a)

/-- Continues when the operation went through; a wait keeps the state it left. -/
def Res.andThen {α : Type} (r : Res α) (f : α → Res α) : Res α := r.bind f id

def Res.map {α β : Type} (f : α → β) : Res α → Res β
  | .ok a => .ok (f a)
  | .trap t => .trap t
  | .wait w a => .wait w (f a)

/-- Raises a trap when a check fails, else continues. -/
def guardTrap {α : Type} (ok : Bool) (t : Trap) (k : Res α) : Res α := if ok then k else .trap t

/-- Where an operation acts: the core and slot, what stepping has added (R100), and the cycle. -/
structure Focus where
  core : Nat := 0
  slot : Nat := 0
  dv   : Steps := {}
  /-- The cycle (R426). -/
  now  : Nat := 0
  /-- The number an event names: a partition, stack, pod, channel, message, context or command. -/
  idx  : Nat := 0
  /-- The host function a request arrives through. -/
  fn   : HostFn := { port := 0, vf := none }
  deriving DecidableEq, Repr

/-- A trap of the slot the operation sits in. -/
def Focus.trap (fo : Focus) (cause : Nat) (det : Nat := 0) : Trap :=
  { cause := cause, det := BitVec.ofNat 64 det, slot := fo.slot }

/-- A wait of the slot the operation sits in. -/
def Focus.waits {α : Type} (fo : Focus) (code detail : Nat) (a : α) : Res α :=
  .wait [{ code := code, slot := fo.slot, detail := detail }] a

/-! Cause codes of R442. -/
namespace Cause
def illegalOperation : Nat := 0x01
def illegalOperand : Nat := 0x02
def writeConflict : Nat := 0x03
def earlyRead : Nat := 0x04
def unmarkedTarget : Nat := 0x05
def fetchFault : Nat := 0x06
def phaseOverrun : Nat := 0x07
def slackExhausted : Nat := 0x08
def scheduleDeviation : Nat := 0x09
def localAddress : Nat := 0x0A
def misaligned : Nat := 0x0B
def bankMode : Nat := 0x0C
def bankConflict : Nat := 0x0D
def exportViolation : Nat := 0x0E
def capability : Nat := 0x0F
def translation : Nat := 0x10
def queueOverflow : Nat := 0x11
def queueUnderflow : Nat := 0x12
def accUnallocated : Nat := 0x13
def accHeadroom : Nat := 0x14
def bandOwnership : Nat := 0x15
def rowSetState : Nat := 0x16
def prematureSwap : Nat := 0x17
def overlappingNest : Nat := 0x18
def software : Nat := 0x19
def breakpoint : Nat := 0x1A
def bankModeFault : Nat := 0x40
def layoutMismatch : Nat := 0x41
def streamDesync : Nat := 0x42
def malformedStream : Nat := 0x43
def planeIntegrity : Nat := 0x44
def sparseIndex : Nat := 0x45
def unexportedRead : Nat := 0x46
def unexportedWrite : Nat := 0x47
def unexportedCarry : Nat := 0x48
def carryIndex : Nat := 0x49
def collectiveMismatch : Nat := 0x4A
def commandBlock : Nat := 0x4B
def walkFault : Nat := 0x4C
def dataCheck : Nat := 0x4D
def hostLinkTorn : Nat := 0x4E
def balanceWrite : Nat := 0x50
def machineCheck : Nat := 0x51
end Cause

/-! Control-register numbers (R138, R234, R244, R283, R312, R321, R359, R445). -/
namespace Ctl
def flags : Nat := 0x000
def coreloc : Nat := 0x010
def phaseinfo : Nat := 0x011
def scyc : Nat := 0x012
def devcnt : Nat := 0x013
def devslack : Nat := 0x014
def chkmode : Nat := 0x015
def numstat : Nat := 0x016
def stepS : Nat := 0x020
def rrb : Nat := 0x030
def spred : Nat := 0x031
def seed0 : Nat := 0x060
def seed3 : Nat := 0x063
def entr : Nat := 0x064
def qdrop : Nat := 0x065
def trapcause : Nat := 0x080
def trapaddr : Nat := 0x081
def trapcyc : Nat := 0x082
def traprep : Nat := 0x083
def trapslot : Nat := 0x084
def trapdet : Nat := 0x085
def trapcmd : Nat := 0x086
def trapvec : Nat := 0x087
def tstat : Nat := 0x088
def tscratch0 : Nat := 0x089
end Ctl

/-- Field `[hi:lo]` of a word as a number (R3). -/
def bits (x : Nat) (hi lo : Nat) : Nat := x / 2 ^ lo % 2 ^ (hi + 1 - lo)

/-- Field `[hi:lo]` of a word replaced. -/
def setBits (x : Nat) (hi lo v : Nat) : Nat :=
  x - bits x hi lo * 2 ^ lo + v % 2 ^ (hi + 1 - lo) * 2 ^ lo

/-- A stored control register. -/
def Core.ctlOf (c : Core) (n : Nat) : Word := Tab.look 0 c.ctl n
def Core.ctlNat (c : Core) (n : Nat) : Nat := (c.ctlOf n).toNat
def Core.setCtl (c : Core) (n : Nat) (v : Word) : Core := { c with ctl := Tab.store c.ctl n v }
def Core.setCtlBits (c : Core) (n hi lo v : Nat) : Core :=
  c.setCtl n (BitVec.ofNat 64 (setBits (c.ctlNat n) hi lo v))
def Core.ctlBits (c : Core) (n hi lo : Nat) : Nat := bits (c.ctlNat n) hi lo

/-- A scalar register; s0 reads zero (R136). -/
def Core.sreg (c : Core) (r : Nat) : Word := if r = 0 then 0 else Tab.look 0 c.regs.s r
def Core.cap (c : Core) (r : Nat) : Cap := Tab.look {} c.regs.c r
def Core.preg (c : Core) (r : Nat) : PReg := Tab.look 0 c.regs.p r
def Core.dreg (c : Core) (r : Nat) : VReg := Tab.look 0 c.regs.d r
/-- A norm register; it holds the zero code at launch (R205). -/
def Core.nreg (c : Core) (r : Nat) : Word32 := Tab.look 0x80000000#32 c.regs.n r
/-- The physical number of a vector register (R170). -/
def Core.physV (c : Core) (r : Nat) : Nat :=
  if r < 256 then r else 256 + (r - 256 + c.ctlBits Ctl.rrb 6 0) % 128
def Core.vphys (c : Core) (r : Nat) : VReg := Tab.look 0 c.regs.v r
def Core.vreg (c : Core) (r : Nat) : VReg := c.vphys (c.physV r)

/-- Whether service code runs (TSTAT.SVC, R445). -/
def Core.svc (c : Core) : Bool := c.ctlBits Ctl.tstat 0 0 == 1
def Core.lcore (c : Core) : Nat := c.ctlBits Ctl.coreloc 7 0
def Core.pidx (c : Core) : Nat := c.ctlBits Ctl.phaseinfo 15 0
def Core.strict (c : Core) : Bool := c.ctlBits Ctl.phaseinfo 18 18 == 1
def Core.starts (c : Core) : Nat := c.ctlBits Ctl.phaseinfo 63 32
def Core.scycle (c : Core) : Nat := c.ctlBits Ctl.scyc 31 0

/-- A result that becomes visible `L` pipeline cycles from now (R92). -/
def Core.emit (c : Core) (L : Nat) (w : WriteBack) : Core :=
  { c with seq := { c.seq with flight := c.seq.flight ++ [{ due := c.seq.tick + L, wb := w }] } }

/-- A scalar result; a write to s0 is performed and discarded (R136). -/
def Core.putS (c : Core) (L r : Nat) (v : Word) : Core := c.emit L (.scalar r v)

def Core.queue (c : Core) (q : Nat) : List Word := Tab.look [] c.q.recs q
def Core.setQueue (c : Core) (q : Nat) (l : List Word) : Core :=
  { c with q := { c.q with recs := Tab.store c.q.recs q l } }
def Core.scaleQ (c : Core) (q : Nat) : List (Byte × BitVec 2) := Tab.look [] c.q.scales q
def Core.setScaleQ (c : Core) (q : Nat) (l : List (Byte × BitVec 2)) : Core :=
  { c with q := { c.q with scales := Tab.store c.q.scales q l } }
def Core.streamQ (c : Core) (q : Nat) : List VReg := Tab.look [] c.q.streams q
def Core.setStreamQ (c : Core) (q : Nat) (l : List VReg) : Core :=
  { c with q := { c.q with streams := Tab.store c.q.streams q l } }

/-- A sum that stays at `2^32 − 1` (R110, R121, R234). -/
def satAdd32 (x n : Nat) : Nat := min (x + n) (2 ^ 32 - 1)

/-- NUMSTAT's updates by a conversion (R121); ZBLK takes this cycle's increments when the cycle ends (R122). -/
def Core.addNumstat (c : Core) (sat nan : Bool) (zblk : Nat) : Core :=
  let x := c.ctlNat Ctl.numstat
  let x := if sat then setBits x 0 0 1 else x
  let x := if nan then setBits x 1 1 1 else x
  { c.setCtl Ctl.numstat (BitVec.ofNat 64 x) with zNew := satAdd32 c.zNew zblk }

/-- The cycle's increments enter ZBLK (R121, R122). -/
def Core.endZblk (c : Core) : Core :=
  if c.zNew = 0 then c
  else { c.setCtlBits Ctl.numstat 63 32 (satAdd32 (c.ctlBits Ctl.numstat 63 32) c.zNew) with zNew := 0 }

/-- What CTLWR may write in each control register (R138, R139 and the registers' tables): the RW bits,
the W1C bits, the RC bits, and the bits that exist; `svc` marks the registers written from service code
only. `none`: the number is unassigned. -/
structure CtlInfo where
  rw  : Nat := 0
  w1c : Nat := 0
  rc  : Nat := 0
  all : Nat := 2 ^ 64 - 1
  svc : Bool := false
  deriving DecidableEq, Repr

/-- Removes what is flushed by QFLUSH (R232): the visible units, and pending pushes issued before it. -/
def Core.flushQueue (c : Core) (q : Nat) : Core :=
  let q' := c.q
  let q' :=
    if q = 6 then { q' with rows := [] }
    else if q = 7 then { q' with draws := [], aside := [] }
    else if q = 8 ∨ q = 9 then { q' with scales := Tab.store q'.scales q [] }
    else if q = 12 ∨ q = 13 then { q' with streams := Tab.store q'.streams q [] }
    else { q' with recs := Tab.store q'.recs q [] }
  { c with q := q' }

/-- The queue a pending push of this core is for, and its units (R223). -/
def WriteBack.pushes : WriteBack → Option (Nat × Nat)
  | .scales q bs => some (q, bs.length)
  | .stream q _ => some (q, 1)
  | _ => none

/-- The results of BSTAT, ACCHEAD and ACCRD pending for q3 or q6 (R223). -/
def Post.queue : Post → Nat
  | .bstat _ _ => 3
  | .head _ _ _ _ => 3
  | .shown _ _ => 3
  | .image _ _ _ => 6

/-- The units of this core's own pushes pending for a queue (R223). -/
def Core.pendingUnits (c : Core) (q : Nat) : Nat :=
  (c.seq.flight.map fun e =>
    match e.wb.pushes with
    | some (p, n) => if p = q then n else 0
    | none => 0).sum + (c.eng.posts.filter fun p => p.queue == q).length

/-- Writes to SEED0 to SEED3 empty q7 and set or end the seeding state (R234). -/
def Core.seedWrite (c : Core) (n : Nat) (v : Word) : Core :=
  { c.setCtl n v with
    seeding := n != Ctl.seed3
    q := { c.q with draws := [], aside := [] } }

/-- A CTLWR taking effect (R139): RW fields take the value, W1C bits are cleared where it has 1. TRAPADDR
sets TSTAT.MOVED (R445). -/
def Core.ctlEffect (info : Nat → Option CtlInfo) (c : Core) (n : Nat) (v : Word) : Core :=
  if Ctl.seed0 ≤ n ∧ n ≤ Ctl.seed3 then c.seedWrite n v
  else
    match info n with
    | none => c
    | some i =>
      let old := c.ctlOf n
      let rw := BitVec.ofNat 64 i.rw
      let w1c := BitVec.ofNat 64 i.w1c
      let c' := c.setCtl n (((old &&& ~~~rw) ||| (v &&& rw)) &&& ~~~(v &&& w1c))
      if n = Ctl.trapaddr then c'.setCtlBits Ctl.tstat 7 7 1 else c'

/-- A store from a slot: its rows take tag 0 (R198, R249). -/
def Core.storeBytes (c : Core) (a : Nat) (bs : List Byte) : Core :=
  { c with
    mem := c.mem.write a bs
    tags := c.tags.filter fun t => !rangesMeet (t.1 * 256) 256 a bs.length }

/-- A result becoming visible (R92, R223). -/
def Core.apply (info : Nat → Option CtlInfo) (c : Core) : WriteBack → Core
  | .scalar r v => if r = 0 then c else { c with regs := { c.regs with s := Tab.store c.regs.s r v } }
  | .cap r v => { c with regs := { c.regs with c := Tab.store c.regs.c r v } }
  | .vec r v en =>
    { c with regs := { c.regs with v := Tab.store c.regs.v r ((c.vphys r &&& ~~~en) ||| (v &&& en)) } }
  | .pred r v en =>
    { c with regs := { c.regs with p := Tab.store c.regs.p r ((c.preg r &&& ~~~en) ||| (v &&& en)) } }
  | .dir r v => { c with regs := { c.regs with d := Tab.store c.regs.d r v } }
  | .norm r v => { c with regs := { c.regs with n := Tab.store c.regs.n r v } }
  | .ctlWrite n v => c.ctlEffect info n v
  | .rotate n v => c.setCtl n v
  | .flagQ b => c.setCtlBits Ctl.flags 0 0 (if b then 1 else 0)
  | .mem a bs => c.storeBytes a bs
  | .numstat s n z => c.addNumstat s n z
  | .scales q bs => c.setScaleQ q (c.scaleQ q ++ bs.map fun b => (b, 0#2))
  | .stream q v => c.setStreamQ q (c.streamQ q ++ [v])
  | .flush q => c.flushQueue q

/-- Updates of NUMSTAT take effect after the other results of a cycle (R122). -/
def WriteBack.isNumstat : WriteBack → Bool
  | .numstat _ _ _ => true
  | _ => false

/-- The results of one cycle in the order in which they are written. -/
def cycleOrder (l : List InFlight) : List InFlight :=
  l.filter (fun e => !e.wb.isNumstat) ++ l.filter (fun e => e.wb.isNumstat)

/-- Makes the results of one pipeline cycle visible, in issue order (R93). -/
def Core.commitAt (info : Nat → Option CtlInfo) (c : Core) (t : Nat) : Core :=
  let now := c.seq.flight.filter fun e => e.due == t
  let rest := c.seq.flight.filter fun e => e.due != t
  (cycleOrder now).foldl (fun c e => c.apply info e.wb) { c with seq := { c.seq with flight := rest } }

/-- One pipeline cycle passes: the results due at the next one become visible (R92). -/
def Core.advance (info : Nat → Option CtlInfo) (c : Core) : Core :=
  let t := c.seq.tick + 1
  ({ c.endZblk with seq := { c.seq with tick := t } } : Core).commitAt info t

/-- The pipeline cycles at which results in flight are due, each once. -/
def dueCycles (l : List InFlight) : List Nat :=
  ((l.map (·.due)).mergeSort (fun a b => decide (a ≤ b))).eraseDups

/-- The drain of R447 step 2: every result in flight becomes visible, in the order of the cycles in which
they would have. -/
def Core.drain (info : Nat → Option CtlInfo) (c : Core) : Core :=
  (dueCycles c.seq.flight).foldl (fun c t => c.commitAt info t) c

/-- The draws that takers see: the set-aside draws first (R226). -/
def Core.drawsSeen (c : Core) : List (BitVec 16) := c.q.aside ++ c.q.draws

/-- Removes the first `n` draws. -/
def Core.dropDraws (c : Core) (n : Nat) : Core :=
  let a := c.q.aside
  { c with q := { c.q with aside := a.drop n, draws := c.q.draws.drop (n - a.length) } }

/-- A taker of `n` draws finds too few: what the issue lacks is noted, and a taker that removes its draws leaves none
for the next one, while a peek leaves them (R226). -/
def Core.missDraws (c : Core) (n : Nat) (pop : Bool) : Core :=
  let lack := c.q.owed + n - c.drawsSeen.length
  let q := { c.q with need := max c.q.need lack }
  { c with q := if pop then { q with aside := [], draws := [], owed := lack } else q }

/-- Takes `n` draws, or waits for q7 (R225, R226). -/
def Core.takeDraws (fo : Focus) (c : Core) (n : Nat) (k : List Nat → Core → Res Core) : Res Core :=
  if n ≤ c.drawsSeen.length then k ((c.drawsSeen.take n).map (·.toNat)) (c.dropDraws n)
  else fo.waits 1 7 (c.missDraws n true)

/-- An event of this core for the Abacus (R426). -/
def Core.event (c : Core) (now : Nat) (cls : Nat) (payload : Nat) : Core :=
  { c with events := c.events ++ [{
      cls := BitVec.ofNat 3 cls, part := BitVec.ofNat 6 c.part, pcore := BitVec.ofNat 7 c.num,
      nocore := false, time := BitVec.ofNat 32 now, payload := BitVec.ofNat 256 payload }] }

/-- A payload from its words e2, e3, … (R426). -/
def words32 : List Nat → Nat
  | [] => 0
  | w :: r => w % 2 ^ 32 + 2 ^ 32 * words32 r

/-- A fault arrives at the core (R450). -/
def Core.postFault (c : Core) (f : FaultRec) : Core :=
  { c with seq := { c.seq with arrivedFaults := c.seq.arrivedFaults ++ [f] } }

end Sys2Proof.Machine
end

