-- ==== Sys2Proof/Machine/Nest.lean ====
section
/-! DEFINITION. Nests of copies (R325 to R327): the nest block, the addresses of the copies in nest order,
extents, density, and the watermark of a command (R331). -/

namespace Sys2Proof.Machine

/-- The number of innermost copies. -/
def Nest.copies (n : Nest) : Nat := (n.levels.map (·.count)).foldl (· * ·) 1

/-- B, the bytes a nest moves (R325). -/
def Nest.total (n : Nest) : Nat := n.inner * n.copies

/-- Σ ik × strides for copy `k`; i0 runs fastest (R326). -/
def strideSum (str : Level → Int) : List Level → Nat → Int
  | [], _ => 0
  | l :: r, k => (k % l.count : Nat) * str l + strideSum str r (k / l.count)

def Nest.srcAt (n : Nest) (base : Int) (k : Nat) : Int := base + strideSum (·.sstr) n.levels k
def Nest.dstAt (n : Nest) (base : Int) (k : Nat) : Int := base + strideSum (·.dstr) n.levels k

/-- The smallest interval that a side covers: its first address and length (R308, R329). -/
def sideExtent (str : Level → Int) (n : Nest) (base : Int) : Int × Nat :=
  let lo := n.levels.foldl (fun x l => x + min 0 (((l.count : Int) - 1) * str l)) base
  let hi := n.levels.foldl (fun x l => x + max 0 (((l.count : Int) - 1) * str l)) base
  (lo, (hi - lo).toNat + n.inner)

def Nest.srcExtent (n : Nest) (base : Int) : Int × Nat := sideExtent (·.sstr) n base
def Nest.dstExtent (n : Nest) (base : Int) : Int × Nat := sideExtent (·.dstr) n base

/-- A side is dense when copy k starts at base + k × INNER for every k (R326): each level that repeats
steps by what the levels below it cover. -/
def denseFrom (str : Level → Int) : List Level → Nat → Bool
  | [], _ => true
  | l :: r, span => (l.count == 1 || str l == (span : Int)) && denseFrom str r (span * l.count)

def Nest.srcDense (n : Nest) : Bool := denseFrom (·.sstr) n.levels n.inner
def Nest.dstDense (n : Nest) : Bool := denseFrom (·.dstr) n.levels n.inner

/-- The least destination address of a byte that the nest has still to write after `moved` bytes. -/
def Nest.leastLeft (n : Nest) (base : Int) (moved : Nat) : Option Int :=
  if n.total ≤ moved then none
  else
    let k := moved / n.inner
    let first := n.dstAt base k + (moved % n.inner : Nat)
    some ((List.range (n.copies - k - 1)).foldl (fun x i => min x (n.dstAt base (k + 1 + i))) first)

/-- A signed 48-bit field. -/
def signed48 (x : Nat) : Int := signExt (x % 2 ^ 48) 48

/-- Level k of a nest block (R325), from the block's 16 bytes as a number. -/
def readLevel (x : Nat) : Level :=
  { count := bits x 31 0, sstr := signed48 (bits x 79 32), dstr := signed48 (bits x 127 80) }

/-- The first level at which the total passes 2^40 (R325). -/
def overLevel : List Level → Nat → Nat → Option Nat
  | [], _, _ => none
  | l :: r, i, acc => if acc * l.count > 2 ^ 40 then some i else overLevel r (i + 1) (acc * l.count)

/-- A nest block read from its bytes, or the byte offset of its first failing field (R325, R442). SIZE
counts among the bytes given. -/
def readNest (bs : List Byte) : Nest ⊕ Nat :=
  let x := leNat bs
  let size := bits x 31 16
  let ls := (List.range 6).map fun k => readLevel (bits x (32 * 8 + 128 * k + 127) (32 * 8 + 128 * k))
  let n : Nest := {
    skind := bits x 35 32, dkind := bits x 39 36, swz := bits x 43 40, fmt := bits x 47 44,
    b96 := bits x 48 48 == 1, sck := bits x 51 49, bank := bits x 55 52, rs := bits x 57 56,
    peer := bits x 71 64, pgrp := bits x 79 72, frame := bits x 95 80, inner := bits x 127 96,
    scaddr := bits x 151 128, levels := ls }
  if bits x 15 0 ≠ 1 then .inr 0
  else if size ≠ 128 ∧ size ≠ 256 then .inr 2
  else if n.skind > 2 then .inr 4
  else if n.dkind > 3 then .inr 4
  else if n.fmt > 8 then .inr 5
  else if n.sck > 3 then .inr 6
  else if bits x 63 58 ≠ 0 then .inr 7
  else if n.inner = 0 then .inr 12
  else if bits x 255 152 ≠ 0 then .inr 19
  else
    match (List.range 6).find? fun k => (ls.getD k {}).count == 0 with
    | some k => .inr (32 + 16 * k)
    | none =>
      match overLevel ls 0 n.inner with
      | some k => .inr (32 + 16 * k)
      | none =>
        match (List.range (size - 128)).find? fun i => bs.getD (128 + i) 0 != 0 with
        | some i => .inr (128 + i)
        | none => .inl n

/-- A nest as the 256 bytes of the context record's engine area (log 19). -/
def Nest.bytes (n : Nest) : List Byte :=
  leBytes 32 (1 + 128 * 2 ^ 16 + n.skind * 2 ^ 32 + n.dkind * 2 ^ 36 + n.swz * 2 ^ 40 + n.fmt * 2 ^ 44 +
    (if n.b96 then 2 ^ 48 else 0) + n.sck * 2 ^ 49 + n.bank * 2 ^ 52 + n.rs * 2 ^ 56 + n.peer * 2 ^ 64 +
    n.pgrp * 2 ^ 72 + n.frame * 2 ^ 80 + n.inner * 2 ^ 96 + n.scaddr * 2 ^ 128) ++
  (n.levels.map fun l =>
    leBytes 16 (l.count + (l.sstr % 2 ^ 48).toNat * 2 ^ 32 + (l.dstr % 2 ^ 48).toNat * 2 ^ 80)).flatten

/-- Elements of an MX block of a nest, bits per element, and bytes per block (R125). -/
def Nest.blockLen (n : Nest) : Nat := if n.b96 then 96 else 32

/-- The element width of FMT (R324, R245). -/
def fmtWidth (fmt : Nat) : Nat :=
  match fmt with
  | 2 | 6 | 7 => 6
  | 3 | 8 => 4
  | _ => 8

def Nest.blockBytes (n : Nest) : Nat := n.blockLen * fmtWidth n.fmt / 8

/-- The period of R133: the least common multiple of the block and the burst. -/
def Nest.period (n : Nest) : Nat := Nat.lcm n.blockBytes 64

/-- The scale slot of block `k` of a stream: its burst and slot number (R133). -/
def scaleSlot (block k : Nat) : Nat × Nat :=
  let a := k * block
  let u := a / 64
  let firstHere := (64 * u + block - 1) / block
  (u, k - firstHere)

/-- The watermark rule applies to a command with a local destination (R331). -/
def CopyCmd.localDst (m : CopyCmd) : Bool :=
  match m.kind with
  | .go | .fill => m.nest.dkind == 0
  | _ => false

/-- The command writes scales at SCADDR (R328, R335). -/
def CopyCmd.writesScales (m : CopyCmd) : Bool :=
  m.kind == .go && m.nest.fmt != 0 && m.nest.sck == 1 && m.nest.dkind == 0

/-- The command reads its scales at SCADDR. -/
def CopyCmd.readsScales (m : CopyCmd) : Bool :=
  m.kind == .go && m.nest.fmt != 0 && m.nest.sck == 1 && m.nest.dkind == 1

/-- The blocks of an MX command. -/
def CopyCmd.blocks (m : CopyCmd) : Nat :=
  if m.nest.fmt = 0 then 0 else m.nest.total / m.nest.blockBytes

/-- An extent that names no byte is empty (R308). -/
def extent (a n : Nat) : Option (Nat × Nat) := if n = 0 then none else some (a, n)

/-- The smallest interval over two. -/
def hull (a b : Option (Nat × Nat)) : Option (Nat × Nat) :=
  match a, b with
  | some x, some y => some (min x.1 y.1, max (x.1 + x.2) (y.1 + y.2) - min x.1 y.1)
  | some x, none => some x
  | none, y => y

/-- The scale region of SCK 1. -/
def CopyCmd.scaleExtent (m : CopyCmd) : Option (Nat × Nat) := extent m.nest.scaddr m.blocks

/-- The write extent of a command (R328). -/
def CopyCmd.writeExtent (m : CopyCmd) : Option (Nat × Nat) :=
  let e := m.nest.dstExtent m.dst
  let wr := if m.localDst then extent e.1.toNat e.2 else none
  if m.writesScales then hull wr m.scaleExtent else wr

/-- The destination range of a command with a local destination: its write extent (R331). -/
def CopyCmd.dstRange (m : CopyCmd) : Nat × Nat := m.writeExtent.getD (0, 0)

/-- The first address above a command's watermark (R331): the least one at which it has still to write a byte or a
scale; past the range when none is left. -/
def CopyCmd.markEnd (m : CopyCmd) : Nat :=
  let data := (m.nest.leastLeft m.dst m.moved).map Int.toNat
  let scale := if m.writesScales && decide (m.units < m.blocks) then some (m.nest.scaddr + m.units) else none
  match data, scale with
  | some a, some b => min a b
  | some a, none => a
  | none, some b => b
  | none, none => m.dstRange.1 + m.dstRange.2

/-- Whether any of `n` bytes at `a` lies above the watermark of the command (R331). -/
def CopyCmd.above (m : CopyCmd) (a n : Nat) : Bool :=
  (m.localDst && m.status.isNone &&
    (let w := m.markEnd
     rangesMeet a n w (m.dstRange.1 + m.dstRange.2 - w))) ||
  (m.writesScales && m.status.isNone && rangesMeet a n m.nest.scaddr m.blocks)

end Sys2Proof.Machine
end

