-- ==== Sys2Proof/Machine/Operands.lean ====
section
/-! DEFINITION. The operand forms of the slot operations (R72, R73, R100, R168, R173): immediates and
offsets with their extension syllables, stepped offsets, grouped vector operands as one run of elements,
masked elements, and the writes of vector, predicate, direction and scalar results. -/

namespace Sys2Proof.Machine

/-- Stepped fields are exact signed integers of 48 bits (R100). -/
def wrap48 (x : Int) : Int := (x + 2 ^ 47) % 2 ^ 48 - 2 ^ 47

/-- IMM14 of S-RI, extended by X (R72). -/
def sriValue (f : SRI) : Int :=
  match f.ext with
  | none => signExt f.imm.toNat 14
  | some e => signExt (e.toNat * 2 ^ 14 + f.imm.toNat) 46

/-- OFF14 of S-B, in syllables (R72). -/
def sbValue (f : SB) : Int :=
  match f.ext with
  | none => signExt f.off.toNat 14
  | some e => signExt (e.toNat * 2 ^ 14 + f.off.toNat) 46

/-- OFF24 of S-J, in syllables (R72). -/
def sjValue (f : SJ) : Int :=
  match f.ext with
  | none => signExt f.off.toNat 24
  | some e => signExt (e.toNat * 2 ^ 24 + f.off.toNat) 56

/-- The low 64 bits of an exact integer as a word. -/
def word (x : Int) : Word := BitVec.ofInt 64 x

/-- The byte offset of a local load or store: OFF with its steps (R143, R100). -/
def sriOffset (fo : Focus) (f : SRI) : Int := wrap48 (sriValue f + fo.dv.o)

/-- The offset of a VM access: OFF12 × 256 with its steps (R195). -/
def vmOffset (fo : Focus) (f : VM) : Int := wrap48 (signExt f.off.toNat 12 * 256 + fo.dv.o)

/-- The group size of GS (R74). -/
def gsize (gs : BitVec 2) : Nat := 2 ^ gs.toNat

/-- `k` registers read as one run of bits: element `i` of a grouped operand lies at bit `i·w` (R168). -/
def runBits (read : Nat → VReg) (r k : Nat) : Nat :=
  (List.range k).foldr (fun j acc => (read (r + j)).toNat + 2 ^ 2048 * acc) 0

/-- Element `i` of width `w` of a run. -/
def elt (w x i : Nat) : Nat := x / 2 ^ (w * i) % 2 ^ w

/-- The elements of a run of `n`. -/
def elts (w x n : Nat) : List Nat := (List.range n).map (elt w x)

/-- A run from its elements, the first the lowest. -/
def packElts (w : Nat) : List Nat → Nat
  | [] => 0
  | e :: r => e % 2 ^ w + 2 ^ w * packElts w r

/-- Member `j` of a run. -/
def member (x j : Nat) : VReg := BitVec.ofNat 2048 (x / 2 ^ (2048 * j))

/-- All bits of a vector register. -/
def allBits : VReg := BitVec.allOnes 2048

/-- Whether element `i` is unmasked: its lowest byte's bit in the predicate (R172). -/
def maskBit (p : PReg) (w i : Nat) : Bool := p.getLsbD (i % (2048 / w) * w / 8)

/-- The guard of PG: no predicate means every element is active (R74). -/
def active (c : Core) (pg : BitVec 4) (w i : Nat) : Bool :=
  if pg = 0 then true else maskBit (c.preg pg.toNat) w i

/-- The elements of a result under PG and PZ (R173): a run of values and the run of bits written. -/
def maskRun (c : Core) (pg : BitVec 4) (pz : BitVec 1) (w : Nat) (es : List Nat) : Nat × Nat :=
  let on := es.mapIdx fun i e => (active c pg w i, e)
  (packElts w (on.map fun p => if p.1 then p.2 else 0),
   packElts w (on.map fun p => if p.1 || pz == 1 then 2 ^ w - 1 else 0))

/-- Writes a run to `k` vector registers from `r` on, visible after `L` (R94, R173). -/
def putRun (c : Core) (L r k : Nat) (x en : Nat) : Core :=
  (List.range k).foldl (fun c j => c.emit L (.vec (c.physV (r + j)) (member x j) (member en j))) c

/-- Writes a grouped result of elements of width `w` under PG and PZ. -/
def putElts (c : Core) (L r k : Nat) (pg : BitVec 4) (pz : BitVec 1) (w : Nat) (es : List Nat) : Core :=
  let x := maskRun c pg pz w es
  putRun c L r k x.1 x.2

/-- Writes whole registers. -/
def putWhole (c : Core) (L r k : Nat) (x : Nat) : Core :=
  putRun c L r k x (2 ^ (2048 * k) - 1)

/-- A grouped source operand as a run. -/
def Core.group (c : Core) (r k : Nat) : Nat := runBits c.vreg r k

/-- A direction group as a run of components (R206). -/
def Core.dgroup (c : Core) (r k : Nat) : Nat := runBits c.dreg r k

/-- The predicate bits of an element's bytes (R180). -/
def eltBytes (w i : Nat) : Nat := (2 ^ (w / 8) - 1) * 2 ^ (i * w / 8)

end Sys2Proof.Machine
end

