-- ==== Sys2Proof/Machine/Local.lean ====
section
/-! DEFINITION. Local memory (R302 to R312): the checks of a slot access in their order (R144, R196), ports
with slot priority and the reserve for a starved engine (R197, R303 to R307), row tags (R249), exports
(R339) and the range-overlap scoreboard (R308 to R310). -/

namespace Sys2Proof.Machine

/-- The first address past private memory (R302). -/
def localTop : Nat := 0x140000

/-- The port of an address (R303). -/
def portOf (a : Nat) : Nat := a / 65536

def Core.bank (c : Core) (b : Nat) : Bank := Tab.look {} c.eng.banks b
def Core.setBank (c : Core) (b : Nat) (x : Bank) : Core :=
  { c with eng := { c.eng with banks := Tab.store c.eng.banks b x } }

/-- Writes bytes of local memory and the tag of every row they touch (R249). -/
def Core.writeLocal (c : Core) (a : Nat) (bs : List Byte) (tag : Nat) : Core :=
  if bs.isEmpty then c
  else
    let r := a / 256
    let rows := (List.range ((a + bs.length - 1) / 256 - r + 1)).map (r + ·)
    { c with
      mem := c.mem.write a bs
      tags := rows.foldl (fun t i => if tag % 16 = 0 then Tab.drop t i else Tab.store t i (BitVec.ofNat 4 tag)) c.tags }

/-- The tag of the row that holds an address. -/
def Core.tagAt (c : Core) (a : Nat) : Nat := (Tab.look (0 : BitVec 4) c.tags (a / 256)).toNat

/-- The banks that a range of local addresses reaches. -/
def banksOf (a n : Nat) : List Nat :=
  if n = 0 then []
  else ((List.range 16).filter fun b => rangesMeet a n (b * 65536) 65536)

/-- The first compute-mode bank that a range reaches (R238). -/
def Core.computeBank (c : Core) (a n : Nat) : Option Nat := (banksOf a n).find? fun b => (c.bank b).mode

/-- The first byte of a range that the holder's exports forbid it (R144 check 4, R339): any export for a
write, a carry or receive export for a read. -/
def Core.exportHit (c : Core) (a n : Nat) (write : Bool) : Option Nat :=
  let hits := (c.eng.exports.filter fun e =>
    (write || e.kind != 0) && rangesMeet a n e.addr e.len).map fun e => max a e.addr
  hits.min?

/-- A slot access (R195, R196): its pieces as address and size, in element order. -/
structure SlotAccess where
  write  : Bool
  align  : Bool := true
  pieces : List (Int × Nat)
  deriving DecidableEq, Repr

/-- The word of an address, for TRAPDET. -/
def addrWord (a : Int) : Nat := (BitVec.ofInt 64 a).toNat

/-- Checks 1 to 4 of R144, each over every piece before the next (R196). -/
def Core.checkPieces (c : Core) (x : SlotAccess) : Option (Nat × Nat) :=
  match x.pieces.find? fun p => p.1 < 0 ∨ (localTop : Int) < p.1 + p.2 with
  | some p => some (Cause.localAddress, addrWord p.1)
  | none =>
    match if x.align then x.pieces.find? fun p => p.1 % (p.2 : Int) != 0 else none with
    | some p => some (Cause.misaligned, addrWord p.1)
    | none =>
      match x.pieces.findSome? fun p => c.computeBank p.1.toNat p.2 with
      | some b => some (Cause.bankMode, b)
      | none =>
        match x.pieces.findSome? fun p => c.exportHit p.1.toNat p.2 x.write with
        | some a => some (Cause.exportViolation, a)
        | none => none

/-- The rows that an access needs behind each port, ports rising (R197). -/
def accessRows (x : SlotAccess) : List (Nat × Nat) :=
  let rows := (x.pieces.map fun p =>
    let a := p.1.toNat
    (List.range ((a + p.2 - 1) / 256 - a / 256 + 1)).map (a / 256 + ·)).flatten.eraseDups
  (List.range 20).filterMap fun port =>
    let n := (rows.filter fun r => r / 256 == port).length
    if n = 0 then none else some (port, n)

/-- The requester that a slot access needing a port for `rows` cycles from `now` on would meet: an engine
for which it is reserved (R306), or a slot that holds it (R197). -/
def Core.portTaken (c : Core) (now port rows : Nat) (write : Bool) : Option Nat :=
  match c.eng.starved.find? fun e => e.port == port && e.write == write && decide (32 ≤ e.count) &&
      decide (now ≤ e.last + 1) && decide (e.last + 1 < now + rows) with
  | some e => some e.req
  | none =>
    (c.eng.ports.find? fun h => h.port == port && h.write == write && decide (h.from_ ≤ now) &&
      decide (now < h.upto)).map (·.slot)

/-- The detail word of the bank-conflict trap (R307). -/
def conflictDetail (port : Nat) (write : Bool) (a b : Nat) : Nat :=
  port + (if write then 32 else 0) + a * 64 + b * 2048

/-- Check 5: the ports of the access; `most` bounds the rows behind one port (R197). -/
def Core.conflict (c : Core) (now slot : Nat) (x : SlotAccess) (most : Option Nat) : Option Nat :=
  (accessRows x).findSome? fun p =>
    match c.portTaken now p.1 p.2 x.write with
    | some b => some (conflictDetail p.1 x.write slot b)
    | none =>
      match most with
      | some m => if m < p.2 then some (conflictDetail p.1 x.write slot slot) else none
      | none => none

/-- The ports of the access are held (R197); holds that have ended go. -/
def Core.holdPorts (c : Core) (now slot : Nat) (x : SlotAccess) : Core :=
  let new := (accessRows x).map fun p => ({
    port := p.1, write := x.write, slot := slot, from_ := now, upto := now + p.2 } : PortHold)
  { c with eng := { c.eng with ports := (c.eng.ports.filter fun h => now < h.upto) ++ new } }

def Core.chan (c : Core) (ch : Nat) : Channel := Tab.look {} c.eng.chans ch
def Core.setChan (c : Core) (ch : Nat) (x : Channel) : Core :=
  { c with eng := { c.eng with chans := Tab.store c.eng.chans ch x } }

/-- The first channel above whose watermark a piece lies (R144 check 6, R331). DESIGN CHOICE (log 81): the lowest-numbered
one, where the access lies above the watermarks of several. -/
def Core.watermark (c : Core) (x : SlotAccess) : Option Nat :=
  (List.range 8).find? fun ch => (c.chan ch).queue.any fun m => x.pieces.any fun p => m.above p.1.toNat p.2

/-- The first channel above whose frozen watermark a piece lies (R360, R456). -/
def Core.frozenAt (c : Core) (x : SlotAccess) : Option Nat :=
  (List.range 8).find? fun ch => (c.chan ch).frozen.any fun f =>
    x.pieces.any fun p => rangesMeet p.1.toNat p.2 f.wm (f.lo + f.len - f.wm)

/-- A slot access: the checks of R144 in order, then its effect `k` with the ports held. -/
def Core.slotAccess (fo : Focus) (c : Core) (x : SlotAccess) (most : Option Nat) (k : Core → Res Core) :
    Res Core :=
  match c.checkPieces x with
  | some t => .trap (fo.trap t.1 t.2)
  | none =>
    match c.conflict fo.now fo.slot x most with
    | some d => .trap (fo.trap Cause.bankConflict d)
    | none =>
      match c.frozenAt x with
      | some ch => .trap (fo.trap Cause.hostLinkTorn (2 ^ ch))
      | none =>
        let c' := c.holdPorts fo.now fo.slot x
        match c.watermark x with
        | some ch => fo.waits 2 ch c'
        | none => k c'

/-- What a port request of an engine meets (R305, R306). -/
inductive PortState where
  | free
  /-- A slot access holds the port. -/
  | slot
  /-- Another engine has it, or it is reserved for another request. -/
  | engine
  deriving DecidableEq, Repr

/-- A request of requester `req` for a port in cycle `now`. -/
def Core.portState (c : Core) (now req : Nat) (x : Nat × Bool) : PortState :=
  match c.eng.starved.find? fun e =>
      e.port == x.1 && e.write == x.2 && decide (32 ≤ e.count) && decide (e.last + 1 = now) with
  | some e => if e.req = req then .free else .engine
  | none =>
    if c.eng.ports.any fun h => h.port == x.1 && h.write == x.2 && decide (h.from_ ≤ now) && decide (now < h.upto) then
      .slot
    else if c.eng.used.any fun u => u.1 == x.1 && u.2.1 == x.2 && u.2.2 == now then .engine
    else .free

/-- A request that did not get all its ports (R306): the cycles in which a slot access took one of them count, one
after another; a wait behind engines leaves the count. -/
def Core.starve (c : Core) (now req : Nat) (ports : List (Nat × Bool)) (slot : Bool) : Core :=
  let mine (e : Starved) : Bool := e.req == req && ports.contains (e.port, e.write)
  let seen := c.eng.starved.filter fun e => mine e && decide (now ≤ e.last + 1)
  let n := if slot then (seen.map fun e => if e.last = now then e.count else e.count + 1).max?.getD 1
    else (seen.map (·.count)).max?.getD 0
  if n = 0 then c
  else { c with eng := { c.eng with
    starved := (c.eng.starved.filter fun e => !mine e) ++
      ports.map fun p => { port := p.1, write := p.2, req := req, count := n, last := now } } }

/-- An engine asks for ports in cycle `now` (R305, R306): it is served only when it gets every one. -/
def Core.enginePorts (c : Core) (now req : Nat) (ports : List (Nat × Bool)) : Bool × Core :=
  let met := ports.map (c.portState now req)
  if met.all (· == .free) then
    (true, { c with eng := { c.eng with
      starved := c.eng.starved.filter fun e => !(e.req == req && ports.contains (e.port, e.write))
      used := (c.eng.used.filter fun u => u.2.2 == now) ++ ports.map fun p => (p.1, p.2, now) } })
  else (false, c.starve now req ports (met.contains .slot))

/-! The scoreboard. -/

def extentsMeet : Option (Nat × Nat) → Option (Nat × Nat) → Bool
  | some a, some b => rangesMeet a.1 a.2 b.1 b.2
  | _, _ => false

/-- A conflicts with an earlier entry (R309). -/
def SbEntry.conflicts (e x : SbEntry) : Bool :=
  extentsMeet e.wr x.rd || extentsMeet e.wr x.wr || extentsMeet e.rd x.wr

/-- Whether the entry of command `id` conflicts with no earlier entry still held. -/
def Core.sbClear (c : Core) (id : Nat) : Bool :=
  match c.eng.sb.find? fun x => x.id == id with
  | none => true
  | some x => c.eng.sb.all fun e => decide (id ≤ e.id) || !e.conflicts x

/-- Takes an entry; SBSTAT.PEAK follows (R310, R312). -/
def Core.sbTake (c : Core) (id : Nat) (rd wr : Option (Nat × Nat)) : Core :=
  let sb := c.eng.sb ++ [{ id := id, rd := rd, wr := wr }]
  let c := { c with eng := { c.eng with sb := sb } }
  if c.ctlBits 0x07C 9 5 < sb.length then c.setCtlBits 0x07C 9 5 sb.length else c

def Core.sbDrop (c : Core) (id : Nat) : Core :=
  { c with eng := { c.eng with sb := c.eng.sb.filter fun x => x.id != id } }

/-- The extent of an existing entry narrowed to its release: used once a command has made its last local
access (R310). -/
def Core.sbHeld (c : Core) (id : Nat) : Bool := c.eng.sb.any fun x => x.id == id

/-! Local bytes as an engine command sees them: a command issued before a mode change of a bank still sees
the bank of before (R240). -/

def Core.retiredFor (c : Core) (id b : Nat) : Option Retired :=
  c.eng.retired.find? fun r => r.bank == b && decide (id < r.upto)

def Core.engineByte (c : Core) (id a : Nat) : Byte :=
  match c.retiredFor id (a / 65536) with
  | some r => Memory.byte r.mem a
  | none => Memory.byte c.mem a

def Core.engineBytes (c : Core) (id a n : Nat) : List Byte :=
  if c.eng.retired.isEmpty then Memory.bytes c.mem a n
  else (List.range n).map fun i => c.engineByte id (a + i)

/-- An engine writes bytes of one bank. -/
def Core.engineWriteIn (c : Core) (id a : Nat) (bs : List Byte) (tag : Nat) : Core :=
  match c.retiredFor id (a / 65536) with
  | some r =>
    { c with eng := { c.eng with retired := c.eng.retired.map fun x =>
      if x = r then { x with mem := x.mem.write a bs } else x } }
  | none => c.writeLocal a bs tag

/-- An engine writes bytes, bank by bank. -/
def Core.engineWrite (c : Core) (id a : Nat) (bs : List Byte) (tag : Nat) : Core :=
  let k := 65536 - a % 65536
  if bs.length ≤ k then c.engineWriteIn id a bs tag
  else (c.engineWriteIn id a (bs.take k) tag).engineWriteIn id (a + k) (bs.drop k) tag

/-- The detail of the bank-mode fault that an engine access of a command takes (R238, R442): the bank is in compute
mode for it. -/
def Core.engineFault (c : Core) (id a n req : Nat) : Option Nat :=
  ((banksOf a n).find? fun b => (c.bank b).mode && (c.retiredFor id b).isNone).map fun b => b + req * 2 ^ 8

end Sys2Proof.Machine
end

