-- ==== Sys2Proof/Machine/LoadStore.lean ====
section
/-! DEFINITION. The local loads and stores of the S slot (R143, R144) and of the V slots (R195 to R198). A
register in an address is read as an unsigned number (log 20). -/

namespace Sys2Proof.Machine

/-- The address s[SA] + OFF of a scalar access (R144). -/
def sriAddr (fo : Focus) (f : SRI) (c : Core) : Int := ((c.sreg f.sa.toNat).toNat : Int) + sriOffset fo f

/-- A scalar load of `n` bytes; the value is visible from t + 4. -/
def scalarLoad (n : Nat) (signed : Bool) (fo : Focus) (f : SRI) (c : Core) : Res Core :=
  let a := sriAddr fo f c
  c.slotAccess fo { write := false, pieces := [(a, n)] } none fun c' =>
    let x := Memory.num c.mem a.toNat n
    .ok (c'.putS 4 f.sd.toNat (if signed then word (signExt x (8 * n)) else BitVec.ofNat 64 x))

/-- A scalar store of `n` bytes, visible from t + 1. -/
def scalarStore (n : Nat) (fo : Focus) (f : SRI) (c : Core) : Res Core :=
  let a := sriAddr fo f c
  c.slotAccess fo { write := true, pieces := [(a, n)] } none fun c' =>
    .ok (c'.emit 1 (.mem a.toNat (leBytes n (c.sreg f.sd.toNat).toNat)))

def opLdb : Focus → SRI → Core → Res Core := scalarLoad 1 true
def opLdbz : Focus → SRI → Core → Res Core := scalarLoad 1 false
def opLdh : Focus → SRI → Core → Res Core := scalarLoad 2 true
def opLdhz : Focus → SRI → Core → Res Core := scalarLoad 2 false
def opLdw : Focus → SRI → Core → Res Core := scalarLoad 4 true
def opLdwz : Focus → SRI → Core → Res Core := scalarLoad 4 false
def opLdd : Focus → SRI → Core → Res Core := scalarLoad 8 false
def opStb : Focus → SRI → Core → Res Core := scalarStore 1
def opSth : Focus → SRI → Core → Res Core := scalarStore 2
def opStw : Focus → SRI → Core → Res Core := scalarStore 4
def opStd : Focus → SRI → Core → Res Core := scalarStore 8

/-- s[SA] + o of a vector access (R195). -/
def vmAddr (fo : Focus) (f : VM) (c : Core) : Int := ((c.sreg f.sa.toNat).toNat : Int) + vmOffset fo f

/-- The pieces of VLD and VST: one register each. -/
def wholePieces (fo : Focus) (f : VM) (c : Core) : List (Int × Nat) :=
  (List.range (gsize f.gs)).map fun (j : Nat) => (vmAddr fo f c + 256 * (j : Int), 256)

def opVld (fo : Focus) (f : VM) (c : Core) : Res Core :=
  let k := gsize f.gs
  let a := vmAddr fo f c
  c.slotAccess fo { write := false, pieces := wholePieces fo f c } none fun c' =>
    .ok (putWhole c' 6 f.vd.toNat k (Memory.num c.mem a.toNat (256 * k)))

def opVst (fo : Focus) (f : VM) (c : Core) : Res Core :=
  let k := gsize f.gs
  let a := vmAddr fo f c
  c.slotAccess fo { write := true, pieces := wholePieces fo f c } none fun c' =>
    .ok (c'.emit 2 (.mem a.toNat (leBytes (256 * k) (c.group f.vd.toNat k))))

/-- The element width of TY in bits (R74). -/
def vmWidth (f : VM) : Nat := (ety f.ty.toNat).width

/-- The unmasked elements of an element-wise access: number and address (R195). -/
def elementAddrs (fo : Focus) (f : VM) (c : Core) (at_ : Nat → Int) : List (Nat × Int) :=
  let w := vmWidth f
  ((List.range (2048 * gsize f.gs / w)).filter fun i => active c f.pg w i).map fun i =>
    (i, vmAddr fo f c + at_ i)

/-- Element i of a strided access lies i × SignExt(s[SB], 64) on. -/
def strided (f : VM) (c : Core) (i : Nat) : Int := (i : Int) * (c.sreg f.sb.toNat).toInt

/-- Element i of a gather or scatter lies ZeroExt(va.e[i], w) elements on. -/
def gathered (f : VM) (c : Core) (i : Nat) : Int :=
  let w := vmWidth f
  (elt w (c.group f.va.toNat (gsize f.gs)) i * w / 8 : Nat)

/-- A load by elements; masked elements follow R173. -/
def elementLoad (L : Nat) (at_ : VM → Core → Nat → Int) (fo : Focus) (f : VM) (c : Core) : Res Core :=
  let w := vmWidth f
  let es := elementAddrs fo f c (at_ f c)
  c.slotAccess fo { write := false, pieces := es.map fun e => (e.2, w / 8) } (some 4) fun c' =>
    let vals := (List.range (2048 * gsize f.gs / w)).map fun i =>
      if active c f.pg w i then Memory.num c.mem (vmAddr fo f c + at_ f c i).toNat (w / 8) else 0
    .ok (putElts c' L f.vd.toNat (gsize f.gs) f.pg f.pz w vals)

/-- A store by elements, in ascending index order (R198). -/
def elementStore (L : Nat) (at_ : VM → Core → Nat → Int) (fo : Focus) (f : VM) (c : Core) : Res Core :=
  let w := vmWidth f
  let es := elementAddrs fo f c (at_ f c)
  let x := c.group f.vd.toNat (gsize f.gs)
  c.slotAccess fo { write := true, pieces := es.map fun e => (e.2, w / 8) } (some 4) fun c' =>
    .ok (es.foldl (fun c e => c.emit L (.mem e.2.toNat (leBytes (w / 8) (elt w x e.1)))) c')

def opVlds : Focus → VM → Core → Res Core := elementLoad 6 strided
def opVsts : Focus → VM → Core → Res Core := elementStore 2 strided
def opVgath : Focus → VM → Core → Res Core := elementLoad 12 gathered
def opVscat : Focus → VM → Core → Res Core := elementStore 6 gathered

end Sys2Proof.Machine
end

