-- ==== Sys2Proof/Config.lean ====
section
/-! DEFINITION. What one device fixes and the manual leaves open: constants without a body, so that no proof
can see their value (log 11). -/

namespace Sys2Proof.Config

/-- The entropy source behind ENTR (R234): bits by core and by reads made so far. -/
opaque entropy : Nat → Nat → Word

/-- The 120-bit seal of a capability record (R158): by launch, bits [135:0] and device address. -/
opaque capSeal : Nat → BitVec 136 → Nat → BitVec 120

/-- The 120-bit seal of a context record (R461): by launch and the record's other bytes. -/
opaque recordSeal : Nat → List (Nat × Byte) → BitVec 120

/-- The engine area of a context record, whose layout belongs to the device (R461): by free values taken and
offset. -/
opaque engineByte : Nat → Nat → Byte

/-- Energy metered for a partition by the on-die sensors since the last reading (R421), by readings made
so far; and the unattributed energy. -/
opaque metered : Nat → Nat

/-- The hottest on-die sensor, in whole degrees Celsius (R419), by ticks made so far. -/
opaque hottest : Nat → Nat

/-- The stepping, serial number and firmware version of the identity record (R485). -/
opaque stepping : Byte
opaque serial : Word
opaque firmware : Word32

/-- Measurements 1 and 3, the certificate chain and the signatures of the SPDM responder (R485). -/
opaque measurement : Nat → BitVec 512
opaque certificate : Nat → List Byte
opaque spdmSign : BitVec 512 → BitVec 4096

/-- Whether a signature is one of the firmware's RSA-4096 key over a SHA-512 digest (R485). -/
opaque firmwareSigned : BitVec 512 → BitVec 4096 → Bool

/-- Whether port 0, port 1 or the box link (2) trains within 1 s of a reset (R477, R489), by resets so far. -/
opaque trains : Nat → Nat → Bool

/-- The local-address field of the unexported-read fault of a remote drain, whose target has no local address
(R292, R442): by bank and row. -/
opaque drainAddress : Nat → Nat → BitVec 24

/-- The result record of a single-form CPACC whose work the watchdog reset (R333, R398), by free values
taken. -/
opaque resetResult : Nat → Word

/-- Whether a 64-byte unit that a reset work item wrote holds its new value rather than its old one (R398), by
free values taken. -/
opaque oldOrNew : Nat → Bool

end Sys2Proof.Config
end

