-- ==== Sys2Proof/Machine/State.lean ====
section
/-! DEFINITION. The state of the whole module: cores, partitions, translation units, memory stacks and
memories, the networks, the reckoner, the Abacus, the host side, security, the box link and the debug core;
the stops of the model; and the state right after reset. Plain data throughout. -/

namespace Sys2Proof.Machine

/-- Why the machine stops with a fault. -/
inductive Fault where
  /-- Raised by every meaning that acts on a numbered unit, when the focus names a core above 127, a
  partition above 39, a stack above 15, a pod above 7, a context above 63, a port above 1 or a VF above 511:
  the module has no such unit (R15, R24, R478, R430, R470). Safe: no run of the scheduler names one. -/
  | noSuchUnit
  /-- Raised by step when an active filter run stands at a word that is no filter instruction. A program that
  is enabled never holds one (R439), so no run of the machine meets it. Safe. -/
  | badFilterWord
  deriving DecidableEq, Repr

/-- Why the model refuses. -/
inductive Refusal where
  /-- Raised by an arm of exec that has no meaning yet; none has. Safe. -/
  | notModelled (mnemonic : String)
  deriving DecidableEq, Repr

/-- An entry of the capability table (R153). -/
structure CapEntry where
  cap     : Cap := {}
  wcore   : Nat := 0
  wg      : Bool := false
  wfirst  : Nat := 0
  wlast   : Nat := 0
  holders : Nat := 0
  used    : Bool := false
  deriving DecidableEq, Repr

/-- A grade of a phase (R39). -/
structure Grade where
  segoff : Nat := 0
  length : Nat := 0
  energy : Nat := 0
  deriving DecidableEq, Repr

/-- A phase record (R39); `entries` are the first code lines of each grade's segments, by logical core
(R40). -/
structure PhaseRec where
  cores   : Nat := 0
  next    : Nat := 0xFFFF
  strict  : Bool := false
  slack   : Nat := 0
  grades  : List Grade := []
  entries : List (Tab Nat) := []
  deriving DecidableEq, Repr

/-- A loaded timetable (R37 to R46). -/
structure Timetable where
  base    : Nat := 0
  phases  : List PhaseRec := []
  first   : Nat := 0
  groups  : Tab Nat := []
  caps    : List CapEntry := []
  balcap  : Nat := 0xFF
  balcount : Nat := 0
  twobox  : Bool := false
  code    : Nat := 0
  codelen : Nat := 0
  capoff  : Nat := 0
  caplen  : Nat := 0
  /-- Physical cores by logical core (R43). -/
  binding : Tab Nat := []
  /-- The launch's number, which keys its sealed records (R158). -/
  launch  : Nat := 0
  deriving DecidableEq, Repr

/-- A phase that waits to start (R420): its index, ticks waited, and the grade a resume is restricted
to. -/
structure Ready where
  idx    : Nat
  waited : Nat := 0
  only   : Option Nat := none
  /-- It restarts from context records: KIND 1 starts afresh, others where they stopped (R464). -/
  resume : Option Nat := none
  deriving DecidableEq, Repr

/-- A running phase: index, grade, the cycle it started, and the energy its start charged. -/
structure PhaseRun where
  idx     : Nat
  grade   : Nat
  started : Nat
  energy  : Nat
  deriving DecidableEq, Repr

/-- A saved core (R461): the core, and the record's bytes by offset. -/
structure SavedCore where
  lcore  : Nat
  core   : Core
  record : Memory
  deriving DecidableEq, Repr

/-- What travels between cores (R292, R316, R340, R347): the sender's command is named by its number. -/
inductive MsgBody where
  | peerRead (cmd chan : Nat) (addr : Int) (len grp : Nat)
  /-- `got`: the bytes before `addr` that the holder has read. -/
  | operand (cmd : Nat) (addr : Int) (len grp tag : Nat) (got : List Byte)
  /-- Bytes of one row; `tag`: the tag that the row takes, when this is the command's first byte in it. -/
  | data (cmd chan : Nat) (addr : Int) (bytes : List Byte) (tag : Option Nat) (grp : Nat)
  | word (cmd chan : Nat) (v : Word)
  | drain (cmd bank row grp : Nat)
  | image (cmd : Nat) (row : AccRow)
  /-- `pairs`: the updates of the window that have still to be made. -/
  | carry (cmd addr len op grp : Nat) (pairs : List (Nat × Nat))
  deriving DecidableEq, Repr

/-- A message: its number, the cycle it arrives, and its ends as physical cores. -/
structure Msg where
  no   : Nat
  at_  : Nat
  src  : Nat
  dst  : Nat
  body : MsgBody
  deriving DecidableEq, Repr

/-- An invalidation in progress (R395): its range, and its number. -/
structure Inval where
  all   : Bool
  base  : Nat
  units : Nat
  no    : Nat
  /-- The cycle it began, for the watchdog (R398). -/
  at_   : Nat
  deriving DecidableEq, Repr

/-- A partition (R478) with the registers of its window (R471). -/
structure Partition where
  pairs   : Nat := 0
  limg    : Nat := 0
  state   : Nat := 0
  qfull   : Bool := false
  queue   : List Nat := []
  code    : Nat := 0
  pidx    : Nat := 0
  starts  : Nat := 0
  digest  : BitVec 512 := 0
  tcen    : Bool := false
  tcroot  : Nat := 0
  invAll  : Bool := false
  invBase : Nat := 0
  invLen  : Nat := 0
  invDrop : Bool := false
  invAborts : Nat := 0
  invDone : Nat := 0
  inval   : Option Inval := none
  watts   : Nat := 0
  cap     : Nat := 1000000
  bal     : Int := 0
  rho     : Nat := 0
  prio    : Nat := 2
  pin     : Nat := 0
  /-- EMEAS.TOTAL up to the last reconciliation, and what readings have shown of the running phase since
  (R424). -/
  meas    : Nat := 0
  metered : Nat := 0
  waiting : Bool := false
  refused : Bool := false
  credit  : Bool := false
  tf      : Nat := 0
  budget  : Nat := 0
  bused   : Nat := 0
  brefused : Bool := false
  tvec    : Nat := 0
  savebase : Nat := 0
  trbase  : Nat := 0
  trlen   : Nat := 0
  trnext  : Nat := 0
  dsamp   : Nat := 0
  trdrop  : Nat := 0
  mwbase  : Nat := 0
  arbase  : Nat := 0
  arslots : Nat := 0
  arhead  : Nat := 0
  artail  : Nat := 0
  refwr   : Nat := 0
  pfCause : Nat := 0
  pfDet   : Nat := 0
  pfNew   : Bool := false
  tt      : Option Timetable := none
  /-- The image being loaded and waiting for a translation, or for the far module (R396, R488). -/
  loading : Option Nat := none
  loadAt  : Nat := 0
  ready   : Option Ready := none
  run     : Option PhaseRun := none
  /-- Balance records written since the launch (R57). -/
  balPos  : Nat := 0
  saved   : List SavedCore := []
  saveKind : Nat := 0
  preemptAt : Option Nat := none
  /-- Ports whose interface was torn (R484), one bit each. -/
  torn    : Nat := 0
  /-- Memory waits for a scrub, or is being scrubbed (R484). -/
  needScrub : Bool := false
  scrubbing : Bool := false
  /-- The cycle a core of it last wrote a trace sample (R469). -/
  sampled : Nat := 0
  /-- The far module's launch digest and binding and the cycle they came, its save and check results, and the
  boundaries it has reported that this module has not taken (R380, R465, R488). -/
  farLaunch : Option (BitVec 512 × Bool) := none
  farLaunchAt : Nat := 0
  farSaved : Option Bool := none
  farChecked : Option Bool := none
  farBoundary : Nat := 0
  /-- The phases in which every far core has issued PHASE (R337, R358) and that this module has not ended; it has told the
  far one the same of its own cores. -/
  farPhased : Nat := 0
  phasedSent : Bool := false
  /-- A boundary of one module met the other's request to pre-empt on the link, so both reach it (R465). -/
  crossed : Bool := false
  /-- The link went down since the request to pre-empt (R465). -/
  linkBroke : Bool := false
  /-- This module has told the far one that it has reached the boundary (R380), that its cores have stopped
  inside the phase, and that its records have passed their check (R465). -/
  farSent : Bool := false
  heldSent : Bool := false
  farTold : Bool := false
  /-- A pre-emption request has crossed the link both ways, and far cores have stopped inside the phase
  (R465). -/
  farAsked : Bool := false
  farHeld : Bool := false
  /-- The run a save interrupted, with the cycles it had run in place of its start (R464). -/
  savedRun : Option PhaseRun := none
  /-- Messages between the saved cores that had not arrived (R458). -/
  savedMsgs : List Msg := []
  /-- The phase that a resume makes ready, and the logical cores whose records it checks. -/
  resumeIdx : Nat := 0
  saveSet  : List Nat := []
  /-- A resume waits for a translation, or for the far module (R396, R465), since this cycle plus one. -/
  resumeAt : Nat := 0
  /-- Cores whose row sets a resume has still to restore (R462). -/
  restore : List Nat := []
  deriving DecidableEq, Repr

/-- A request in the queue of a translation unit (R391): the partition, the 4 KiB unit asked for, the cycle its
walk ends once one of the 128 walks serves it, and the result of a walk that failed in this cycle: LEVEL and REASON
of R387. -/
structure Walk where
  part  : Nat
  unit  : Nat
  due   : Option Nat := none
  /-- It met an entry with WAIT and restarts when an invalidation completes (R396). -/
  held  : Bool := false
  /-- A read shares it. -/
  read  : Bool := true
  fail  : Option (Nat × Nat) := none
  deriving DecidableEq, Repr

/-- An entry of a walk cache (R391): the partition, the address bits above its level, and the table below it. -/
structure WalkEntry where
  part  : Nat
  top   : Nat
  table : Nat
  deriving DecidableEq, Repr

/-- A translation unit (R391): cached pages with their partition, the walk caches by level, newest first, and its
requests. -/
structure TransUnit where
  cache : List (Nat × Page) := []
  walkCache : Tab (List WalkEntry) := []
  walks : List Walk := []
  deriving DecidableEq, Repr

/-- A memory stack's base die (R397 to R414). -/
structure Stack where
  /-- STKSUM [7:0] and CORRCNT. -/
  sum     : Nat := 0
  corrcnt : Nat := 0
  cycles  : Nat := 23000
  erraddr : Nat := 0
  /-- BANKSTAT by 2 × channel + (HI). -/
  bankstat : Tab Nat := []
  /-- Lines of the stack cache, most recently used first, with their dirty mark (R402). -/
  lines   : List (Nat × Bool) := []
  doubled : Bool := false
  deriving DecidableEq, Repr

/-- A run of a filter program (R436). -/
structure FilterRun where
  pc : Nat
  ev : AbEvent
  deriving DecidableEq, Repr

/-- A filter context (R430 to R432). -/
structure Context where
  owner  : Option Nat := none
  /-- PART of AOWN, kept while VALID is 0. -/
  apart  : Nat := 0
  prog   : Tab Word32 := []
  regs   : Tab Word32 := []
  table  : Tab Word32 := []
  queue  : List AbEvent := []
  run    : Option FilterRun := none
  en     : Bool := false
  cls    : Nat := 0
  len    : Nat := 0
  tdest  : Nat := 0
  tcore  : Nat := 0
  cmatch : Bool := false
  mcore  : Nat := 0
  runs   : Nat := 0
  drop   : Nat := 0
  faults : Nat := 0
  susp   : Bool := false
  badprog : Bool := false
  badpc  : Nat := 0
  tdrop  : Nat := 0
  deriving DecidableEq, Repr

/-- What the module sends out: completions of host requests (R475), interrupts (R486), error signals,
SPDM answers and box-link messages. -/
inductive Out where
  | data (fn : HostFn) (bytes : List Byte)
  | unsupported (fn : HostFn)
  | aborted (fn : HostFn)
  | aer (fn : HostFn)
  | msix (port vec : Nat)
  | spdm (req : SpdmReq) (answer : List Byte) (sign : Option (BitVec 4096))
  | far (n : FarNotice)
  deriving DecidableEq, Repr

/-- The firmware image in the module's flash, as the boot ROM verifies it (R485): its SHA-512 digest, signature and
rollback counter. -/
structure Firmware where
  digest   : BitVec 512 := 0
  sign     : BitVec 4096 := 0
  rollback : Nat := 0
  deriving DecidableEq, Repr

/-- A selective IDE stream of a port (R483): its key, and whether it secures traffic. -/
structure IdeStream where
  key  : BitVec 256 := 0
  live : Bool := false
  deriving DecidableEq, Repr

/-- Durations and depths that the spec leaves open (log 4). -/
structure Params where
  mem     : Nat := 100
  accept  : Nat := 8
  walk    : Nat := 20
  hop     : Nat := 4
  fetch   : Nat := 60
  mdepth  : Nat := 16
  cdepth  : Nat := 8
  row     : Nat := 40
  deriving DecidableEq, Repr

/-- An event or input still to come, and where it strikes; `none`: the filter instruction that the run of
context `at_.idx` fetches next (log 3). -/
structure Due where
  at_ : Focus
  what : Option Instr
  deriving DecidableEq, Repr

/-- The state of the module. -/
structure State where
  /-- Cycles since module reset (R426). -/
  now     : Nat := 0
  agenda  : List Due := []
  /-- The stage of the cycle whose events the agenda holds (log 3). -/
  stage   : Nat := 0
  focus   : Focus := {}
  cores   : Tab Core := []
  parts   : Tab Partition := []
  units   : Tab TransUnit := []
  memStacks : Tab Stack := []
  msgs    : List Msg := []
  nextMsg : Nat := 0
  /-- Device memory by DPA (R388); scale slots and the difference of the stored check code from the right
  one, by burst (R132); errors that the next read of a burst finds (R135, log 70): on-die ECC corrects it (1), or
  its first read mismatches (2); errors that the next access of a stack-cache line finds (R403): correctable (1)
  or not (2); poisoned cache lines with their dirty mark (R403). -/
  dev     : Memory := []
  slots   : Tab (BitVec 32) := []
  bad     : Tab (BitVec 32) := []
  weak    : Tab Nat := []
  lineErr : Tab Nat := []
  poison  : Tab Bool := []
  /-- Host memory behind each port (R388). -/
  host0   : Memory := []
  host1   : Memory := []
  /-- The sealed records that CAPST wrote, by launch and device address (R158). -/
  seals   : Tab (List (BitVec 256)) := []
  pool    : Int := 0
  poolRho : Nat := 0
  ticks   : Nat := 0
  tf      : Nat := 0
  /-- The partition that last took a loan, by class (R420). -/
  lent    : Tab Nat := []
  launches : Nat := 0
  ctxs    : Tab Context := []
  intake  : List AbEvent := []
  adrop   : Nat := 0
  /-- Events of the module on their way to the Abacus (R428). -/
  events  : List AbEvent := []
  ready   : Bool := false
  /-- Powered off by a sensor (R489), and the cause recorded for the next cold reset. -/
  off     : Bool := false
  offCause : Bool := false
  owner   : Nat := 0
  link0   : Bool := false
  link1   : Bool := false
  epoch   : Nat := 1
  stale   : Nat := 0
  lremain : Nat := 100000
  llen    : Nat := 100000
  /-- A valid YIELD hands the lease over at the next tick. -/
  yield   : Bool := false
  pctlErr : Bool := false
  pmask   : Nat := 0
  vfmap   : Tab Nat := []
  rsaddr  : Nat := 0
  /-- A summary record asked for, and its port (R482). -/
  resync  : Option Nat := none
  mpwr    : Nat := 850
  boxSide : Nat := 0
  boxUp   : Bool := false
  /-- Far logical cores' barrier arrivals (partition, group, core, STARTS), and their collective blocks. -/
  farArr  : List (Nat × Nat × Nat × Nat) := []
  farColl : List FarBlock := []
  /-- TDISP states by port × 512 + VF: 0 CONFIG_UNLOCKED, 1 CONFIG_LOCKED, 2 RUN, 3 ERROR. -/
  tdisp   : Tab Nat := []
  spdm    : Tab Bool := []
  /-- IDE streams by port × 256 + stream (R483). -/
  ide     : Tab IdeStream := []
  /-- The Unsupported Request bit of each function's PCIe error status, by `fnNum` (R475). -/
  urLog   : Tab Bool := []
  /-- The firmware and the fused rollback counter (R485); resets so far. -/
  firmware : Firmware := {}
  fused   : Nat := 0
  resets  : Nat := 0
  dmCore  : Nat := 0
  dmActive : Bool := false
  dmErr   : Nat := 0
  dmBusy  : Bool := false
  adata   : Tab Word32 := []
  out     : List Out := []
  params  : Params := {}
  /-- The model's own: free values taken so far (log 11). -/
  nFree   : Nat := 0
  deriving DecidableEq, Repr

/-- The state right after reset: power has come and the boot ROM has not run (R489, log 7). -/
def State.reset : State := {}

end Sys2Proof.Machine
end

