-- ==== Sys2Proof/Machine/Device.lean ====
section
/-! DEFINITION. Access to the parts of the module; device memory with its bursts, check codes and status
(R132 to R135, R388 to R390, R402, R403, R412 to R415); page tables and translation units (R382 to R396);
and the check of an access through a capability (R155). -/

namespace Sys2Proof.Machine

/-! Parts of the state by number. -/

def State.core (s : State) (n : Nat) : Core := Tab.look { num := n } s.cores n
def State.setCore (s : State) (n : Nat) (c : Core) : State := { s with cores := Tab.store s.cores n c }
def State.onCore (s : State) (n : Nat) (f : Core → Core) : State := s.setCore n (f (s.core n))
def State.part (s : State) (p : Nat) : Partition := Tab.look {} s.parts p
def State.setPart (s : State) (p : Nat) (x : Partition) : State := { s with parts := Tab.store s.parts p x }
def State.onPart (s : State) (p : Nat) (f : Partition → Partition) : State := s.setPart p (f (s.part p))
def State.stack (s : State) (k : Nat) : Stack := Tab.look {} s.memStacks k
def State.onStack (s : State) (k : Nat) (f : Stack → Stack) : State :=
  { s with memStacks := Tab.store s.memStacks k (f (s.stack k)) }
def State.unit (s : State) (p : Nat) : TransUnit := Tab.look {} s.units p
def State.onUnit (s : State) (p : Nat) (f : TransUnit → TransUnit) : State :=
  { s with units := Tab.store s.units p (f (s.unit p)) }
def State.ctx (s : State) (k : Nat) : Context := Tab.look {} s.ctxs k
def State.onCtx (s : State) (k : Nat) (f : Context → Context) : State :=
  { s with ctxs := Tab.store s.ctxs k (f (s.ctx k)) }

/-- The pod of a physical core (R15). -/
def podOf (n : Nat) : Nat := n / 16

/-- The physical cores of a partition: pair k holds cores 2k and 2k + 1 (R478). -/
def Partition.cores (p : Partition) : List Nat := (List.range 128).filter fun n => p.pairs.testBit (n / 2)

/-- The partition that holds a physical core (PMAP, R478); 63 when none. -/
def State.partOf (s : State) (n : Nat) : Nat :=
  match s.parts.find? fun e => e.2.pairs.testBit (n / 2) with
  | some e => e.1
  | none => 63

/-- An event of the module (R426). -/
def State.event (s : State) (cls part payload : Nat) : State :=
  { s with events := s.events ++ [{
      cls := BitVec.ofNat 3 cls, part := BitVec.ofNat 6 part, pcore := 0, nocore := true,
      time := BitVec.ofNat 32 s.now, payload := BitVec.ofNat 256 payload }] }

def State.emitOut (s : State) (o : Out) : State := { s with out := s.out ++ [o] }

/-! Physical placement (R388, R389). -/

/-- The first DPA beyond device memory. -/
def dpaEnd : Nat := 0xC000000000
def stackSize : Nat := 0xC00000000
def stackOf (dpa : Nat) : Nat := dpa / stackSize

structure DramPlace where
  channel : Nat
  bank    : Nat
  rank    : Nat
  row     : Nat
  subarray : Nat
  deriving DecidableEq, Repr

/-- The DRAM location of a byte (R389). -/
def dramPlace (dpa : Nat) : DramPlace :=
  let u := dpa % stackSize / 4096
  let v := u / 6
  { channel := u % 6, bank := v % 16, rank := v / 16 % 8, row := v / 128, subarray := v / 128 / 512 }

/-- The detail word of the data-check fault (R412). -/
def dataCheckDetail (dpa : Nat) : Nat :=
  let p := dramPlace dpa
  dpa + stackOf dpa * 2 ^ 40 + p.channel * 2 ^ 44 + p.bank * 2 ^ 47 + p.rank * 2 ^ 51

/-- Sets a sticky bit of STKSUM; a change from 0 to 1 sends one event, and the owner port hears of it (R413, R415,
R486). DEDUCED (log 77): CHAN and CORRCNT, which send no event, send no notice. -/
def State.stick (s : State) (k b : Nat) : State :=
  if (s.stack k).sum.testBit b then s
  else ((s.onStack k fun x => { x with sum := x.sum + 2 ^ b }).event 4 63 (words32 [k + b * 16])).emitOut (.msix s.owner 0)

/-- The bank status bit of an address (R414). -/
def State.bankStatus (s : State) (dpa : Nat) : State :=
  let p := dramPlace dpa
  let i := 2 * p.channel + p.rank / 4
  let b := 16 * (p.rank % 4) + p.bank
  s.onStack (stackOf dpa) fun x => { x with
    bankstat := Tab.store x.bankstat i (Tab.look 0 x.bankstat i ||| 2 ^ b) }

/-- A correction of any kind counts (R413). -/
def State.corrected (s : State) (dpa bit : Nat) : State :=
  ((s.onStack (stackOf dpa) fun x => { x with corrcnt := satAdd32 x.corrcnt 1 }).stick (stackOf dpa)
    bit).bankStatus dpa

/-- The four scale slots of a burst, sideband bytes 0 to 3 (R132). -/
def State.slotBytes (s : State) (u : Nat) : List Byte := leBytes 4 (Tab.look (0 : BitVec 32) s.slots u).toNat

/-- The check code of a burst's contents: the CRC-32 of its 64 data bytes and its scale slots (R132). -/
def State.checkCode (s : State) (u : Nat) : BitVec 32 :=
  BitVec.ofNat 32 (crc32 (Memory.bytes s.dev (64 * u) 64 ++ s.slotBytes u))

/-- The check code stored in sideband bytes 4 to 7 (R132). -/
def State.storedCode (s : State) (u : Nat) : BitVec 32 := s.checkCode u ^^^ Tab.look 0 s.bad u

/-- The eight sideband bytes of a burst (R132). -/
def State.sideband (s : State) (u : Nat) : List Byte := s.slotBytes u ++ leBytes 4 (s.storedCode u).toNat

/-- The stored check code is that of the contents: `State.codeOk_iff` in Laws/Device.lean. -/
def State.codeOk (s : State) (u : Nat) : Bool := Tab.look 0 s.bad u == 0

/-- The stack cache holds a line, and whether it is dirty. -/
def State.lineOf (s : State) (u : Nat) : Option Bool :=
  ((s.stack (stackOf (64 * u))).lines.find? fun l => l.1 == u).map (·.2)

/-- An access finds an error of the line that holds its burst (R403): corrected; or poisoned, when a clean line is
dropped and fetched again. -/
def State.meetLine (s : State) (u : Nat) : State :=
  let k := stackOf (64 * u)
  let e := Tab.look 0 s.lineErr u
  let s := { s with lineErr := Tab.drop s.lineErr u }
  match s.lineOf u with
  | none => s
  | some dirty =>
    if e = 1 then (s.onStack k fun x => { x with corrcnt := satAdd32 x.corrcnt 1 }).stick k 3
    else if e = 2 then
      let s := s.stick k 4
      if dirty then { s with poison := Tab.store s.poison u true }
      else s.onStack k fun x => { x with lines := x.lines.filter fun l => l.1 != u }
    else s

/-- The read of one burst (R135, R401, R403): whether its bytes may be delivered. DESIGN CHOICE (log 70): an error
that ECC corrects or that a second read cures is gone afterwards. -/
def State.readBurst (s : State) (u : Nat) : Bool × State :=
  let dpa := 64 * u
  let k := stackOf dpa
  let failed (s : State) : Bool × State :=
    (false, ((s.stick k 2).bankStatus dpa).onStack k fun x => { x with erraddr := dpa })
  let s := if Tab.has s.lineErr u then s.meetLine u else s
  if Tab.has s.poison u && Tab.look false s.poison u then failed s
  else
    let s := { s with poison := Tab.drop s.poison u }
    let s := match Tab.look 0 s.weak u with
      | 1 => { s.corrected dpa 0 with weak := Tab.drop s.weak u }
      | 2 => { s.corrected dpa 1 with weak := Tab.drop s.weak u }
      | _ => s
    if s.codeOk u then (true, s) else failed s

/-- The bursts that `n` bytes touch. -/
def burstsOf (dpa n : Nat) : List Nat :=
  if n = 0 then [] else (List.range ((dpa + n - 1) / 64 - dpa / 64 + 1)).map (dpa / 64 + ·)

/-- The set of the stack cache that holds a line: 32 768 sets of 16 ways (R402). DESIGN CHOICE (log 16): the low
bits of the line's number name it. -/
def cacheSet (u : Nat) : Nat := u % 32768

/-- A line enters the stack cache, most recently used; a full set gives up its least recently used line (R402). -/
def addLine (l : Nat × Bool) (lines : List (Nat × Bool)) : List (Nat × Bool) :=
  let mates := lines.filter fun x => cacheSet x.1 == cacheSet l.1
  match mates.getLast? with
  | some old => l :: (if 16 ≤ mates.length then lines.filter fun x => x.1 != old.1 else lines)
  | none => l :: lines

/-- Lines of the stack cache that an access leaves (R402, R390): a cacheable page allocates. -/
def State.touchLines (s : State) (dpa n : Nat) (cache dirty : Bool) : State :=
  if !cache && (s.stack (stackOf dpa)).lines.isEmpty then s
  else
    (burstsOf dpa n).foldl (fun s u => s.onStack (stackOf (64 * u)) fun x =>
      match x.lines.find? fun l => l.1 == u with
      | some l => { x with lines := (u, l.2 || dirty) :: x.lines.filter fun l => l.1 != u }
      | none => if cache then { x with lines := addLine (u, dirty) x.lines } else x) s

/-- Reads `n` bytes of device memory; a burst that fails gives its data-check detail (R135, R412). -/
def State.devRead (s : State) (dpa n : Nat) (cache : Bool) : (List Byte ⊕ Nat) × State :=
  let go := (burstsOf dpa n).foldl (fun (acc : Option Nat × State) u =>
    match acc.1 with
    | some d => (some d, acc.2)
    | none =>
      let r := acc.2.readBurst u
      (if r.1 then none else some (dataCheckDetail (64 * u)), r.2)) (none, s.touchLines dpa n cache false)
  match go.1 with
  | some d => (.inr d, go.2)
  | none => (.inl (Memory.bytes go.2.dev dpa n), go.2)

/-- Writes bytes of device memory: the base die computes the check code anew; a page without MX holds zero
scale slots, so that a whole burst replaces its line with the sideband and ends poisoning; on an MX page the slots stay
(R132, R134, R403). -/
def State.devWrite (s : State) (dpa : Nat) (bs : List Byte) (mx cache : Bool) : State :=
  let us := burstsOf dpa bs.length
  let whole := us.filter fun u => decide (dpa ≤ 64 * u) && decide (64 * u + 64 ≤ dpa + bs.length)
  let s := s.touchLines dpa bs.length cache true
  { s with
    dev := s.dev.write dpa bs
    bad := s.bad.filter fun e => !us.contains e.1
    slots := if mx then s.slots else s.slots.filter fun e => !us.contains e.1
    weak := s.weak.filter fun e => !whole.contains e.1
    lineErr := if mx then s.lineErr else s.lineErr.filter fun e => !whole.contains e.1
    poison := if mx then s.poison else s.poison.filter fun e => !whole.contains e.1 }

/-- The sideband of bursts whose data a write has replaced is replaced as well: their lines are new (R403). -/
def State.newLines (s : State) (us : List Nat) : State :=
  { s with
    lineErr := s.lineErr.filter fun e => !us.contains e.1
    poison := s.poison.filter fun e => !us.contains e.1 }

/-- Sets scale slot `j` of a burst (R133). -/
def State.setSlot (s : State) (u j v : Nat) : State :=
  let old := (Tab.look (0 : BitVec 32) s.slots u).toNat
  let new := setBits old (8 * j + 7) (8 * j) v
  { s with slots := if new = 0 then Tab.drop s.slots u else Tab.store s.slots u (BitVec.ofNat 32 new) }

def State.slotOf (s : State) (u j : Nat) : Nat :=
  bits (Tab.look (0 : BitVec 32) s.slots u).toNat (8 * j + 7) (8 * j)

/-- Host memory behind a port (R388). -/
def State.hostMem (s : State) (port : Nat) : Memory := if port = 0 then s.host0 else s.host1
def State.hostWrite (s : State) (port a : Nat) (bs : List Byte) : State :=
  if port = 0 then { s with host0 := s.host0.write a bs } else { s with host1 := s.host1.write a bs }

/-! Translation (R383 to R386). -/

/-- The answer of a walk: a page, an entry with WAIT, or a failure at a level for a reason (R387). -/
inductive WalkRes where
  | page (p : Page)
  | wait
  | fail (level reason : Nat)
  deriving DecidableEq, Repr

/-- The size of a SIZE code and the entries of its group, by level (R383, R385). -/
def leafSize (level size : Nat) : Option (Nat × Nat) :=
  match level, size with
  | 0, 0 => some (2 ^ 12, 1)
  | 0, 1 => some (2 ^ 16, 16)
  | 1, 2 => some (2 ^ 21, 1)
  | 1, 3 => some (2 ^ 26, 32)
  | 2, 4 => some (2 ^ 31, 2)
  | _, _ => none

/-- The page that a leaf entry `x` at level `l` gives (R386); the check of WR follows where the page is used. -/
def leafAttrs (a l x size : Nat) : WalkRes :=
  let pa := bits x 51 12 * 4096
  let loc := bits x 10 9
  if loc = 3 ∨ (loc ≠ 0 ∧ (bits x 5 5 = 1 ∨ bits x 6 6 = 1)) then .fail l 5
  else if loc = 0 ∧ dpaEnd < pa + size then .fail l 3
  else .page {
    va := a - a % size, size := size, pa := pa, level := l, mx := bits x 5 5 == 1,
    cache := bits x 6 6 == 1, host := bits x 7 7 == 1, wr := bits x 8 8 == 1, loc := loc }

/-- A leaf entry `x`, the `i`-th of table `t`, at level `l` (R386): its whole group is read, whose entries are identical
and hold an aligned PA (R385). -/
def leafPage (s : State) (a t i l x : Nat) : WalkRes × State :=
  match leafSize l (bits x 4 2) with
  | none => (.fail l 2, s)
  | some (size, n) =>
    let check (bs : List Byte) : WalkRes :=
      let same := (List.range n).all fun j => leNat ((bs.drop (8 * j)).take 8) == x
      if !same || (n != 1 && bits x 51 12 * 4096 % size != 0) then .fail l 2 else leafAttrs a l x size
    if n = 1 then (check (leBytes 8 x), s)
    else match s.devRead (t + 8 * (i - i % n)) (8 * n) true with
      | (.inl bs, s) => (check bs, s)
      | (.inr _, s) => (.fail l 7, s)

/-- The address bits that an entry of a walk cache at a level stands for. -/
def walkTop (a l : Nat) : Nat := a / 2 ^ (12 + 9 * l)

/-- A table pointer enters the walk cache of its level, which keeps its newest 1024 (R391, log 16). -/
def TransUnit.learn (u : TransUnit) (part l a table : Nat) : TransUnit :=
  let e : WalkEntry := { part := part, top := walkTop a l, table := table }
  { u with walkCache := Tab.store u.walkCache l ((e :: Tab.look [] u.walkCache l).take 1024) }

/-- The walk caches lose every entry of a partition (R395). -/
def TransUnit.forgetWalks (u : TransUnit) (part : Nat) : TransUnit :=
  { u with walkCache := u.walkCache.map fun l => (l.1, l.2.filter fun e => e.part != part) }

/-- The table that a walk may start from: the level below the lowest walk cache that holds the address. -/
def TransUnit.start (u : TransUnit) (part a : Nat) : Option (Nat × Nat) :=
  [1, 2, 3, 4].findSome? fun l =>
    ((Tab.look [] u.walkCache l).find? fun e => e.part == part && e.top == walkTop a l).map fun e => (l, e.table)

/-- The walk for `a` through the unit of a pod at table `t`; `fuel` is the table's level plus one. -/
def walkFrom (pod part : Nat) : Nat → State → Nat → Nat → WalkRes × State
  | 0, s, _, _ => (.fail 0 2, s)
  | l + 1, s, a, t =>
    let i := bits a (20 + 9 * l) (12 + 9 * l)
    match s.devRead (t + 8 * i) 8 true with
    | (.inr _, s) => (.fail l 7, s)
    | (.inl bs, s) =>
      let x := leNat bs
      if bits x 0 0 = 0 then (if bits x 11 11 = 1 then .wait else .fail l 1, s)
      else if bits x 63 52 ≠ 0 then (.fail l 6, s)
      else if bits x 1 1 = 0 then
        if bits x 10 2 ≠ 0 then (.fail l 6, s)
        else if l = 0 then (.fail 0 2, s)
        else
          let t := bits x 51 12 * 4096
          walkFrom pod part l (s.onUnit pod fun u => u.learn part l a t) a t
      else leafPage s a t i l x

/-- A walk for a partition (R386), from the walk caches where they hold the address (R391). -/
def State.walk (s : State) (pod part a : Nat) : WalkRes × State :=
  let p := s.part part
  if !p.tcen then (.fail 4 1, s)
  else match (s.unit pod).start part a with
    | some (l, t) => walkFrom pod part l s a t
    | none => walkFrom pod part 5 s a (p.tcroot * 4096)

/-- The detail word of the translation fault (R387). -/
def translationDetail (a level reason : Nat) (write : Bool) : Nat :=
  a % 2 ^ 57 + (if write then 2 ^ 57 else 0) + level * 2 ^ 58 + reason * 2 ^ 61

def Page.covers (p : Page) (a : Nat) : Bool := decide (p.va ≤ a) && decide (a < p.va + p.size)

/-- The cached page of a partition that covers an address; none while its translation is disabled (R386). -/
def State.cachedPage (s : State) (pod part a : Nat) : Option Page :=
  if (s.part part).tcen then (((s.unit pod).cache.find? fun e => e.1 == part && e.2.covers a).map (·.2)) else none

/-- A page enters the translation cache, which keeps its newest 16 384 (R391, log 16). -/
def TransUnit.keepPage (u : TransUnit) (part : Nat) (p : Page) : TransUnit :=
  { u with cache := ((part, p) :: u.cache).take 16384 }

/-- The request of a partition for a 4 KiB unit. -/
def TransUnit.request (u : TransUnit) (part a : Nat) : Option Walk :=
  u.walks.find? fun w => w.part == part && w.unit == a / 4096

/-- A request enters the queue. -/
def TransUnit.ask (u : TransUnit) (part a : Nat) (held read : Bool) : TransUnit :=
  { u with walks := u.walks ++ [{ part := part, unit := a / 4096, held := held, read := read }] }

/-- A read joins the request for its page. -/
def TransUnit.joinRead (u : TransUnit) (part a : Nat) : TransUnit :=
  { u with walks := u.walks.map fun w => if w.part == part && w.unit == a / 4096 then { w with read := true } else w }

/-- Why a translation waits: for its walk; since the unit's queue has no room (R391); or at an entry with WAIT (R396). -/
inductive TransWait where
  | walk
  | full
  | held
  deriving DecidableEq, Repr

/-- What a translation through a unit answers: the page, a fault's detail, or a wait (R391). -/
inductive Trans where
  | page (p : Page)
  | fault (detail : Nat)
  | wait (why : TransWait)
  deriving DecidableEq, Repr

/-- Translates for a slot access, a probe, fetch or the walker through the unit of a pod (R391): a miss asks for a walk,
which requests for the same page share. A walk that failed only for a write says nothing to a read. -/
def State.translate (s : State) (pod part a : Nat) (write : Bool) : Trans × State :=
  match s.cachedPage pod part a with
  | some p => (if write && !p.wr then .fault (translationDetail a p.level 4 true) else .page p, s)
  | none =>
    match (s.unit pod).request part a with
    | some w => match w.fail with
      | some (l, r) => (if !write && r == 4 then .wait .walk else .fault (translationDetail a l r write), s)
      | none => (.wait (if w.held then .held else .walk),
          if write || w.read then s else s.onUnit pod fun u => u.joinRead part a)
    | none =>
      if 1024 ≤ (s.unit pod).walks.length then (.wait .full, s)
      else (.wait .walk, s.onUnit pod fun u => u.ask part a false !write)

/-- A walk ends (R386, R391): a page enters the cache and serves every request for it; a failure is there for its
requesters in this cycle and is not kept, a page without WR that only writes asked for included; an entry with WAIT
holds the request (R396). -/
def State.endWalk (s : State) (pod : Nat) (w : Walk) : State :=
  let same (x : Walk) : Bool := x.part == w.part && x.unit == w.unit
  match s.walk pod w.part (w.unit * 4096) with
  | (.page p, s) => s.onUnit pod fun u =>
    let mine (x : Walk) : Bool := x.part == w.part && p.covers (x.unit * 4096)
    if p.wr || u.walks.any fun x => mine x && x.read then
      { u.keepPage w.part p with walks := u.walks.filter fun x => !mine x }
    else { u with walks := u.walks.map fun x => if mine x then { x with fail := some (p.level, 4) } else x }
  | (.wait, s) => s.onUnit pod fun u => { u with
      walks := u.walks.map fun x => if same x then { x with held := true } else x }
  | (.fail l r, s) => s.onUnit pod fun u => { u with
      walks := u.walks.map fun x => if same x then { x with fail := some (l, r) } else x }

/-- The requests that a walk serves: the first 128 that neither wait for an invalidation nor have failed (R391). -/
def TransUnit.serving (u : TransUnit) : List Walk := (u.walks.filter fun w => !w.held && w.fail.isNone).take 128

/-- The end of a cycle for a unit: failures are gone, and waiting requests find a free walk, which ends at
`due`. -/
def TransUnit.cycle (u : TransUnit) (due : Nat) : TransUnit :=
  let u := { u with walks := u.walks.filter fun w => w.fail.isNone }
  let now := u.serving
  { u with walks := u.walks.map fun w => if w.due.isNone && now.contains w then { w with due := some due } else w }

/-- A translation that reads the tables at once (R382): that of the loader, of host windows and of the module's own
records, which are none of those that R391 has the unit of a pod serve. With `hold`, one that meets an entry with WAIT
is a queue entry until an invalidation completes (R396). A walk that faults caches nothing (R391). -/
def State.resolve (s : State) (pod part a : Nat) (write hold : Bool) : WalkRes × State :=
  match s.cachedPage pod part a with
  | some p => (if write && !p.wr then .fail p.level 4 else .page p, s)
  | none =>
    if hold && ((s.unit pod).request part a).any Walk.held then (.wait, s)
    else match s.walk pod part a with
      | (.page p, s) =>
        if write && !p.wr then (.fail p.level 4, s) else (.page p, s.onUnit pod fun u => u.keepPage part p)
      | (.wait, s) =>
        (.wait, if hold && decide ((s.unit pod).walks.length < 1024) then s.onUnit pod fun u => u.ask part a true !write else s)
      | r => r

/-- A port passes traffic between a partition and its host memory (R483, R484): an interface of the partition there
is in RUN inside a live session, and none has been torn since. -/
def State.portOpen (s : State) (part port : Nat) : Bool :=
  !(s.part part).torn.testBit port && Tab.look false s.spdm port &&
    s.tdisp.any fun e => e.1 / 512 == port && e.2 == 2 && Tab.look 0 s.vfmap (e.1 % 512) == part + 64

/-- A page may be reached: device memory, or host memory behind a port that passes the partition's traffic. -/
def State.reaches (s : State) (part : Nat) (p : Page) : Bool := p.loc == 0 || s.portOpen part (p.loc - 1)

/-- The physical address of a device virtual address on its page. -/
def Page.at (p : Page) (a : Nat) : Nat := p.pa + (a - p.va)

/-- The pieces of `n` bytes at `a` page by page of 4 KiB, as address and length. -/
def pageChunks : Nat → Nat → Nat → List (Nat × Nat)
  | 0, _, _ => []
  | fuel + 1, a, n =>
    if n = 0 then []
    else
      let k := min n (4096 - a % 4096)
      (a, k) :: pageChunks fuel (a + k) (n - k)

/-- Why an access of the module's own units to a partition's memory fails. -/
inductive MemErr where
  /-- A translation waits, `held` at an entry with WAIT (R396). -/
  | wait (held : Bool)
  | trans (detail : Nat)
  | data (detail : Nat)
  /-- Host memory behind a port that passes no traffic (R483, R484). -/
  | torn
  deriving DecidableEq, Repr

/-- How an access of a unit other than a slot or channel translates. -/
inductive Walker where
  /-- Through the queue of its pod's unit (R391): fetch and the walker. -/
  | queue
  /-- At once; an entry with WAIT makes it a queue entry (R396). -/
  | hold
  /-- At once; an entry with WAIT refuses it (R396). -/
  | pass
  deriving DecidableEq, Repr

/-- The page of an access by a unit other than a slot or channel. -/
def State.ownPage (s : State) (pod part a : Nat) (write : Bool) (how : Walker) : (Page ⊕ MemErr) × State :=
  let reached (p : Page) (s : State) : (Page ⊕ MemErr) × State := (if s.reaches part p then .inl p else .inr .torn, s)
  if how = .queue then
    match s.translate pod part a write with
    | (.wait why, s) => (.inr (.wait (why == .held)), s)
    | (.fault d, s) => (.inr (.trans d), s)
    | (.page p, s) => reached p s
  else
    match s.resolve pod part a write (how == .hold) with
    | (.wait, s) => (.inr (.wait true), s)
    | (.fail l r, s) => (.inr (.trans (translationDetail a l r write)), s)
    | (.page p, s) => reached p s

/-- Reads bytes at a device virtual address through the tables (R57, R480). -/
def State.readVirtual (s : State) (pod part a n : Nat) (how : Walker := .hold) : (List Byte ⊕ MemErr) × State :=
  (pageChunks (n / 4096 + 2) a n).foldl (fun (acc : (List Byte ⊕ MemErr) × State) ch =>
    match acc with
    | (.inr e, s) => (.inr e, s)
    | (.inl bs, s) =>
      match s.ownPage pod part ch.1 false how with
      | (.inr e, s) => (.inr e, s)
      | (.inl p, s) =>
        if p.loc = 0 then
          match s.devRead (p.at ch.1) ch.2 p.cache with
          | (.inr d, s) => (.inr (.data d), s)
          | (.inl x, s) => (.inl (bs ++ x), s)
        else (.inl (bs ++ Memory.bytes (s.hostMem (p.loc - 1)) (p.at ch.1) ch.2), s)) (.inl [], s)

/-- Writes bytes at a device virtual address through the tables; nothing is written when a page fails. -/
def State.writeVirtual (s : State) (pod part a : Nat) (bs : List Byte) (how : Walker := .hold) : Option MemErr × State :=
  let chunks := pageChunks (bs.length / 4096 + 2) a bs.length
  let found := chunks.foldl (fun (acc : Option MemErr × List (Nat × Nat × Page) × State) ch =>
    match acc with
    | (some e, l, s) => (some e, l, s)
    | (none, l, s) =>
      match s.ownPage pod part ch.1 true how with
      | (.inr e, s) => (some e, l, s)
      | (.inl p, s) => (none, l ++ [(ch.1, ch.2, p)], s)) (none, [], s)
  match found with
  | (some e, _, s) => (some e, s)
  | (none, l, s) =>
    (none, l.foldl (fun s (x : Nat × Nat × Page) =>
      let part := (bs.drop (x.1 - a)).take x.2.1
      if x.2.2.loc = 0 then s.devWrite (x.2.2.at x.1) part x.2.2.mx x.2.2.cache
      else s.hostWrite (x.2.2.loc - 1) (x.2.2.at x.1) part) s)

/-! Capabilities (R151 to R155). -/

namespace Perm
def rd : Nat := 1
def wr : Nat := 2
def at_ : Nat := 4
def cl : Nat := 8
def cs : Nat := 16
def row : Nat := 32
def walk : Nat := 64
def coll : Nat := 128
end Perm

/-- The timetable loaded in the partition of a core. -/
def State.ttOf (s : State) (c : Core) : Timetable := ((s.part c.part).tt).getD {}

/-- The entry grants write to `lcore` in phase `pidx` (R154, R155). -/
def CapEntry.grants (e : CapEntry) (lcore pidx : Nat) : Bool :=
  e.wg && e.wcore == lcore && decide (e.wfirst ≤ pidx) && decide (pidx ≤ e.wlast)

/-- PERM as R155 reduces it. -/
def State.effectivePerm (s : State) (c : Core) (x : Cap) : Nat :=
  let e := (s.ttOf c).caps.getD x.entry.toNat {}
  let p := x.perm.toNat
  if e.grants c.lcore c.pidx then p else setBits p 1 1 0

/-- The detail word of the capability fault (R443). -/
def capDetail (creg test : Nat) (off : Int) : Nat :=
  creg + test * 16 + (off % 2 ^ 56).toNat * 256

/-- The check of R155: the device virtual address, or the detail of the capability fault. -/
def State.capCheck (s : State) (c : Core) (creg : Nat) (x : Cap) (need : Nat) (types : List Nat)
    (off : Int) (n : Nat) : Nat ⊕ Nat :=
  if !x.tag then .inr (capDetail creg 1 off)
  else if off < 0 ∨ (x.length.toNat : Int) < off + n then .inr (capDetail creg 2 off)
  else if s.effectivePerm c x &&& need ≠ need ∨ ¬ types.contains x.type.toNat then
    .inr (capDetail creg 3 off)
  else
    let a := x.base.toNat + off.toNat
    let other := (s.ttOf c).caps.any fun f =>
      f.wg && f.wcore != c.lcore && decide (f.wfirst ≤ c.pidx) && decide (c.pidx ≤ f.wlast) &&
        rangesMeet a n f.cap.base.toNat f.cap.length.toNat
    if other then .inr (capDetail creg 4 off)
    else .inl a

/-- A device write meets the code area or the capability table of the loaded image (R69, R153). -/
def State.hitsCode (s : State) (part a n : Nat) : Bool :=
  match (s.part part).tt with
  | some t => rangesMeet a n (t.base + t.code) t.codelen || rangesMeet a n (t.base + t.capoff) t.caplen
  | none => false

end Sys2Proof.Machine
end

