-- ==== Sys2Proof/Machine/Flags.lean ====
section
/-! DEFINITION. The flag and numeric-status computations: FLAGS.Q of the queue operations (R227), and
NUMSTAT with the converter events of a vector operation (R121, R128). -/

namespace Sys2Proof.Machine

/-- FLAGS.Q, visible from t + 1 (R227). -/
def Core.putQ (c : Core) (b : Bool) : Core := c.emit 1 (.flagQ b)

/-- What the elements of a conversion report to NUMSTAT: the bits are ORed (R121). -/
def roundedSat (l : List Rounded) : Bool := l.any (·.sat)
def roundedNan (l : List Rounded) : Bool := l.any (·.nan)

/-- NUMSTAT's update, visible with the conversion's latency (R122); nothing is sent when nothing
happened. -/
def Core.putNumstat (c : Core) (L : Nat) (sat nan : Bool) (zblk : Nat) : Core :=
  if sat || nan || zblk != 0 then c.emit L (.numstat sat nan zblk) else c

/-- The payload of a converter event (R427): bundle address, SCYC, KIND, UNIT, ROW, LCORE, PIDX,
STARTS. -/
def Core.converterEvent (c : Core) (now : Nat) (addr scyc kind unit row : Nat) : Core :=
  c.event now 2 (words32 [addr, addr / 2 ^ 32, scyc, kind + unit * 2 ^ 8 + row * 2 ^ 16,
    c.lcore + c.pidx * 2 ^ 16, c.starts, 0, 0])

/-- The event kind of a quantised block (R128, R427); none when it reports nothing. -/
def blockKind (sat nan zblk : Bool) : Option Nat :=
  if nan then some 1 else if zblk then some 2 else if sat then some 0 else none

end Sys2Proof.Machine
end

