-- ==== Sys2Proof/Machine/Queue.lean ====
section
/-! DEFINITION. The queue registers (R221 to R235): depths and kinds, the queue instructions of both slot
classes, and the seed generator. -/

namespace Sys2Proof.Machine

/-- Depth in units (R221). -/
def queueDepth (q : Nat) : Nat :=
  if q = 6 then 4 else if q = 7 then 512 else if q = 8 ∨ q = 9 then 32 else if q = 10 then 16 else 8

/-- KIND of R231: 0 engine-fed, 1 scheduled, 2 consumed. -/
def queueKind (q : Nat) : Nat :=
  if q = 3 ∨ q = 6 then 1 else if q = 8 ∨ q = 9 ∨ q = 12 ∨ q = 13 then 2 else 0

/-- Visible units (R223). -/
def Core.visibleUnits (c : Core) (q : Nat) : Nat :=
  if q = 6 then c.q.rows.length
  else if q = 7 then c.q.draws.length
  else if q = 8 ∨ q = 9 then (c.scaleQ q).length
  else if q = 12 ∨ q = 13 then (c.streamQ q).length
  else (c.queue q).length

/-- A pop or peek of a record queue with too few units (R225, R227). -/
def Core.emptyQueue (fo : Focus) (c : Core) (q : Nat) (nf : Bool) : Res Core :=
  if nf then .ok (c.putQ true)
  else if queueKind q = 1 && c.pendingUnits q == 0 then .trap (fo.trap Cause.queueUnderflow q)
  else fo.waits 1 q c

/-- FLAGS.Q after an operation that was performed (R227). -/
def Core.performed (c : Core) (nf : Bool) : Core := if nf then c.putQ false else c

/-- Takes or reads the front record of a queue (R229). -/
def Core.frontRecord (fo : Focus) (c : Core) (q : Nat) (nf pop : Bool) (k : Word → Core → Core) : Res Core :=
  match c.queue q with
  | [] => c.emptyQueue fo q nf
  | v :: r => .ok ((k v (if pop then c.setQueue q r else c)).performed nf)

/-- Takes or reads `n` draws (R226, R229). -/
def Core.frontDraws (fo : Focus) (c : Core) (n : Nat) (nf pop : Bool) (k : Nat → Core → Core) : Res Core :=
  if c.drawsSeen.length < n then
    if nf then .ok (c.putQ true) else fo.waits 1 7 (c.missDraws n pop)
  else
    let x := packElts 16 ((c.drawsSeen.take n).map (·.toNat))
    .ok ((k x (if pop then c.dropDraws n else c)).performed nf)

def takeS (pop : Bool) (fo : Focus) (f : SQ) (c : Core) : Res Core :=
  let q := f.qn.toNat
  let nf := f.nf == 1
  if q = 7 then c.frontDraws fo 4 nf pop fun x c => c.putS 2 f.sd.toNat (BitVec.ofNat 64 x)
  else c.frontRecord fo q nf pop fun v c => c.putS 2 f.sd.toNat v

def opQpopS : Focus → SQ → Core → Res Core := takeS true
def opQpeekS : Focus → SQ → Core → Res Core := takeS false

def takeV (pop : Bool) (fo : Focus) (f : VQ) (c : Core) : Res Core :=
  let q := f.qn.toNat
  let nf := f.nf == 1
  let k := gsize f.gs
  if q = 7 then
    c.frontDraws fo (128 * k) nf pop fun x c =>
      putElts c 3 f.vd.toNat k f.pg f.pz 16 (elts 16 x (128 * k))
  else c.frontRecord fo q nf pop fun v c => putWhole c 3 f.vd.toNat 1 v.toNat

def opQpopV : Focus → VQ → Core → Res Core := takeV true
def opQpeekV : Focus → VQ → Core → Res Core := takeV false

/-- A push of `units` units (R224, R227, R230). -/
def Core.push (fo : Focus) (c : Core) (q units : Nat) (nf : Bool) (k : Core → Core) : Res Core :=
  if queueDepth q < c.visibleUnits q + c.pendingUnits q + units then
    if nf then .ok (c.putQ true) else .trap (fo.trap Cause.queueOverflow q)
  else .ok ((k c).performed nf)

def opQpushS (fo : Focus) (f : SQ) (c : Core) : Res Core :=
  let q := f.qn.toNat
  c.push fo q 8 (f.nf == 1) fun c => c.emit 2 (.scales q (leBytes 8 (c.sreg f.sd.toNat).toNat))

def opQpushV (fo : Focus) (f : VQ) (c : Core) : Res Core :=
  let q := f.qn.toNat
  if q = 8 ∨ q = 9 then
    c.push fo q 32 (f.nf == 1) fun c => c.emit 2 (.scales q (leBytes 32 (c.vreg f.vd.toNat).toNat))
  else
    let g := gsize f.gs
    c.push fo q g (f.nf == 1) fun c =>
      (List.range g).foldl (fun c j => c.emit 2 (.stream q (c.vreg (f.vd.toNat + j)))) c

/-- The status word of R231. -/
def Core.queueStatus (c : Core) (q : Nat) : Nat :=
  c.visibleUnits q + c.pendingUnits q * 2 ^ 16 + queueDepth q * 2 ^ 32 + queueKind q * 2 ^ 48

def opQstatS (_ : Focus) (f : SQ) (c : Core) : Res Core :=
  .ok (c.putS 1 f.sd.toNat (BitVec.ofNat 64 (c.queueStatus f.qn.toNat)))
def opQstatV (_ : Focus) (f : VQ) (c : Core) : Res Core :=
  .ok (putWhole c 1 f.vd.toNat 1 (c.queueStatus f.qn.toNat))

/-- A command that consumes the queue is issued and not complete (R232). -/
def Core.queueInUse (c : Core) (q : Nat) : Bool :=
  if q = 8 then c.eng.mq.any fun m => match m.work with | .pass _ => true | _ => false
  else if q = 9 then
    (c.eng.mq.any fun m => match m.work with | .bload _ _ _ => true | _ => false) ||
    ((List.range 8).any fun ch => (Tab.look {} c.eng.chans ch).queue.any fun m =>
      m.status.isNone && ((m.kind == .go && m.nest.dkind == 2) || m.kind == .shell))
  else if q = 12 ∨ q = 13 then !c.eng.carry.queue.isEmpty
  else false

/-- QFLUSH: pending pushes issued before it are cancelled at once; the units visible at t + 1 go then
(R232). -/
def Core.flushAt (c : Core) (fo : Focus) (q : Nat) : Res Core :=
  if c.queueInUse q then .trap (fo.trap Cause.illegalOperand)
  else
    let keep (e : InFlight) : Bool := match e.wb.pushes with | some (p, _) => p != q | none => true
    let c := { c with
      seq := { c.seq with flight := c.seq.flight.filter keep }
      eng := { c.eng with posts := c.eng.posts.filter fun p => p.queue != q } }
    .ok (c.emit 1 (.flush q))

def opQflushS (fo : Focus) (f : SQ) (c : Core) : Res Core := c.flushAt fo f.qn.toNat
def opQflushV (fo : Focus) (f : VQ) (c : Core) : Res Core := c.flushAt fo f.qn.toNat

/-! Records that engines post (R221). -/

/-- An engine holds a record for which the queue has no room (R221). -/
def Core.heldIn (c : Core) (q : Nat) : Bool := !(Tab.look [] c.q.held q).isEmpty

/-- An engine posts a record: it enters the queue, or is held while the queue is full. -/
def Core.post (c : Core) (q : Nat) (v : Word) : Core :=
  let held := Tab.look [] c.q.held q
  if held.isEmpty && decide ((c.queue q).length < queueDepth q) then c.setQueue q (c.queue q ++ [v])
  else { c with q := { c.q with held := Tab.store c.q.held q (held ++ [v]) } }

/-- Held records enter the queue as room comes (R221). -/
def Core.unhold (c : Core) (q : Nat) : Core :=
  let held := Tab.look [] c.q.held q
  let n := queueDepth q - (c.queue q).length
  if held.isEmpty ∨ n = 0 then c
  else
    let rest := held.drop n
    let c := c.setQueue q (c.queue q ++ held.take n)
    { c with q := { c.q with
        held := if rest.isEmpty then Tab.drop c.q.held q else Tab.store c.q.held q rest } }

/-- A notice for q4 or q5: dropped and counted in QDROP when the queue is full (R221, R234). -/
def Core.notice (c : Core) (q : Nat) (v : Word) : Core :=
  if (c.queue q).length < queueDepth q then c.setQueue q (c.queue q ++ [v])
  else
    let hi := if q = 4 then 31 else 63
    let lo := if q = 4 then 0 else 32
    c.setCtlBits Ctl.qdrop hi lo (satAdd32 (c.ctlBits Ctl.qdrop hi lo) 1)

/-! The seed generator (R233). -/

structure Seed where
  a : Word
  b : Word
  c : Word
  d : Word
  deriving DecidableEq, Repr

/-- Step() of R233. -/
def Seed.step (x : Seed) : Word × Seed :=
  let a := if x.a == 0 && x.b == 0 && x.c == 0 && x.d == 0 then 0x9E3779B97F4A7C15#64 else x.a
  let b := x.b
  let out := (a + x.d).rotateLeft 23 + a
  let t := b <<< 17
  let c := x.c ^^^ a
  let d := x.d ^^^ b
  let b' := b ^^^ c
  let a' := a ^^^ d
  (out, { a := a', b := b', c := c ^^^ t, d := d.rotateLeft 45 })

/-- `n` steps: the draws, four for each step, and the state after them. -/
def Seed.draws : Nat → Seed → List (BitVec 16) × Seed
  | 0, x => ([], x)
  | n + 1, x =>
    let s := x.step
    let r := Seed.draws n s.2
    ((List.range 4).map (fun j => BitVec.ofNat 16 (s.1.toNat / 2 ^ (16 * j))) ++ r.1, r.2)

def Core.seed (c : Core) : Seed :=
  { a := c.ctlOf 0x060, b := c.ctlOf 0x061, c := c.ctlOf 0x062, d := c.ctlOf 0x063 }

/-- Whether the generator appends a word in this cycle (R233, R234). -/
def Core.seedReady (c : Core) : Bool :=
  !c.seeding && (decide (c.q.draws.length + 128 ≤ 512) || decide (c.q.aside.length < c.q.need))

/-- A word of 32 steps enters q7; an issue that waits gets its draws first (R226, R233). -/
def Core.seedWord (c : Core) : Core :=
  let w := Seed.draws 32 c.seed
  let n := c.q.need - c.q.aside.length
  let c := (((c.setCtl 0x060 w.2.a).setCtl 0x061 w.2.b).setCtl 0x062 w.2.c).setCtl 0x063 w.2.d
  { c with q := { c.q with aside := c.q.aside ++ w.1.take n, draws := c.q.draws ++ w.1.drop n } }

end Sys2Proof.Machine
end

