-- ==== Sys2Proof/Machine/Ops.lean ====
section
/-! DEFINITION. The shared operations of the module: groups and bindings (R41 to R43, R54), the energy account
at a reconciliation (R422), notices and trace records, the abort of a phase (R56), TAKING A TRAP OR FAULT
(R447, R450) and the return from service code (R452). -/

namespace Sys2Proof.Machine

/-! Groups. -/

def State.phaseOf (s : State) (c : Core) : PhaseRec := (s.ttOf c).phases.getD c.pidx {}

/-- The set of logical cores of group gk (R41). -/
def State.group (s : State) (c : Core) (k : Nat) : Nat := Tab.look 0 (s.ttOf c).groups k

/-- gk is used and every member takes part in the running phase (R54). -/
def State.groupOk (s : State) (c : Core) (k : Nat) : Bool :=
  let g := s.group c k
  g != 0 && g &&& (s.phaseOf c).cores == g

def State.isMember (s : State) (c : Core) (k l : Nat) : Bool := (s.group c k).testBit l

def membersOf (g : Nat) : List Nat := (List.range 256).filter g.testBit

/-- The physical core bound to a logical core of this box (R43). -/
def State.physOf (s : State) (c : Core) (l : Nat) : Option Nat :=
  if Tab.has (s.ttOf c).binding l then some (Tab.look 0 (s.ttOf c).binding l) else none

/-- A logical core is a core of this core's pod. -/
def State.inPod (s : State) (c : Core) (l : Nat) : Bool :=
  match s.physOf c l with
  | some n => podOf n == podOf c.num
  | none => false

/-- The timetable spans two modules (R45). -/
def Partition.twoBox (x : Partition) : Bool := x.tt.any (·.twobox)

/-- The boundary of the phase has taken effect, and the partition is being saved there (R60). -/
def Partition.savesBoundary (x : Partition) : Bool := x.state == 6 && x.saveKind == 1

/-- The participating cores of the running phase of a partition, in this box, as physical cores in ascending
logical order. -/
def State.participants (s : State) (p : Nat) : List Nat :=
  let x := s.part p
  match x.tt, x.run with
  | some t, some r =>
    let cores := (t.phases.getD r.idx {}).cores
    (t.binding.filter fun b => cores.testBit b.1).map (·.2)
  | _, _ => []

/-! Energy (R416, R422). -/

def minBalance : Int := -(2 ^ 47)

/-- A balance after a gain: a signed number of 48 bits, at least −2^47, with the excess over the ceiling apart (R416,
R417). DEDUCED (log 76): a ceiling that 48 signed bits do not hold acts as 2^47 − 1. -/
def capBalance (bal : Int) (cap : Nat) : Int × Int :=
  let b := max bal minBalance
  let cap := min cap (2 ^ 47 - 1)
  if (cap : Int) < b then (cap, b - cap) else (b, 0)

def poolCap (s : State) : Nat := 1000 * s.mpwr

def State.poolGain (s : State) (x : Int) : State :=
  { s with pool := min (max (s.pool + x) minBalance) (poolCap s) }

/-- The reconciliation of a phase (R422): at a boundary, an abort or a save. -/
def State.reconcile (s : State) (p : Nat) (abort save : Bool) : State :=
  let x := s.part p
  match x.run with
  | none => s
  | some r =>
    let m := Config.metered s.nFree
    let m := x.metered + m
    let b := capBalance (x.bal + r.energy - m) x.cap
    let s := { s with nFree := s.nFree + 1 }
    let s := (s.setPart p { x with bal := b.1, meas := (x.meas + m) % 2 ^ 64, metered := 0 }).poolGain b.2
    let flags := (if abort then 2 ^ 18 else 0) + (if save then 2 ^ 19 else 0)
    let clamp := min (max b.1 (-(2 ^ 31))) (2 ^ 31 - 1)
    s.event 1 p (words32 [r.idx + r.grade * 2 ^ 16 + flags, r.energy, min m (2 ^ 32 - 1),
      (clamp % 2 ^ 32).toNat, s.tf])

/-- The sensors are read (R421, R424): the energy metered since the last reading adds up, to M of the running phase up to
its boundary (R422), and to the total alone outside one. -/
def State.meterNow (s : State) (p : Nat) : State :=
  let m := Config.metered s.nFree
  { s.onPart p fun x =>
      if x.run.isSome && !x.savesBoundary then { x with metered := x.metered + m }
      else { x with meas := (x.meas + m) % 2 ^ 64 } with
    nFree := s.nFree + 1 }

/-- An event of a partition happens next, in this cycle. -/
def State.soon (s : State) (p : Nat) (what : Instr) : State :=
  { s with agenda := { at_ := { idx := p }, what := some what } :: s.agenda }

/-! Notices (R486) and the trace (R469). -/

def State.notify (s : State) (p : Nat) : State := s.emitOut (.msix s.owner (1 + p))

/-- A trace record of a core: the bundle it names, type and datum (R469, R474). DESIGN CHOICE (log 81): a TRBASE that aims
it at the code area is obeyed. -/
def State.traceAt (s : State) (n : Nat) (addr : Word) (type datum : Nat) : State :=
  let c := s.core n
  let x := s.part c.part
  if x.trlen = 0 then s
  else
    let rec_ := type + c.num * 2 ^ 4 + c.lcore * 2 ^ 16 + c.pidx * 2 ^ 48 + addr.toNat * 2 ^ 64 +
      c.scycle * 2 ^ 128 + datum % 2 ^ 64 * 2 ^ 192
    match s.writeVirtual (podOf n) c.part (x.trbase + 32 * x.trnext) (leBytes 32 rec_) .pass with
    | (none, s) => s.onPart c.part fun x => { x with trnext := (x.trnext + 1) % x.trlen }
    | (some _, s) => s.onPart c.part fun x => { x with trdrop := satAdd32 x.trdrop 1 }

/-- A trace record that names the bundle at the program counter. -/
def State.trace (s : State) (n type datum : Nat) : State := s.traceAt n (s.core n).seq.pc type datum

/-! The end of a phase by abort (R56). -/

/-- The engines lose every command; a row set whose fill is cancelled is EMPTY (log 15). -/
def Core.cancelAll (c : Core) : Core :=
  let e := c.eng
  { c with eng := { e with
      mq := [], fills := [], posts := [], sb := [], follows := [], results := [], fences := []
      carry := { e.carry with queue := [] }
      chans := e.chans.map fun x => (x.1, { x.2 with queue := [] })
      retired := []
      banks := e.banks.map fun b => (b.1, { b.2 with
        sets := b.2.sets.map fun r => (r.1, if r.2.state = 1 then { r.2 with state := 0 } else r.2) }) } }

/-- The entries that no issued command has discarded count (R259, R277). -/
def countOutliers (l : List Outlier) : Nat := (l.filter fun o => o.gone.isNone).length

/-- What BSTAT shows of a bank (R277); the first fill has the sequencer, and the fills behind it wait for it (R264). -/
def Core.bstatRecord (c : Core) (b : Nat) : Word :=
  let x := c.bank b
  let set (i : Nat) : RowSet := if x.mode then Tab.look {} x.sets i else {}
  let a := set x.act
  let st := (List.range 4).foldr (fun i acc => (set i).state + 4 * acc) 0
  let uses (m : MCmd) : Bool := match m.work with
    | .pass p => p.banks.any fun k => k.bank == b
    | _ => false
  let passes := min 255 (c.eng.mq.filter uses).length
  let fillq := c.eng.fills.tail.any fun f => f.set.bank == b
  BitVec.ofNat 64 ((if x.mode then 1 else 0) + x.act * 2 + st * 8 + a.wfmt * 2 ^ 11 + a.afmt * 2 ^ 15 +
    (a.planes - 1) * 2 ^ 19 + a.storage * 2 ^ 23 + a.tag * 2 ^ 25 + countOutliers x.outl * 2 ^ 29 +
    c.ctlBits 0x045 b b * 2 ^ 36 + passes * 2 ^ 37 + (if fillq then 2 ^ 45 else 0) + b * 2 ^ 46)

def Core.accRow (c : Core) (bank row : Nat) : AccRow := Tab.look {} c.eng.acc (bank * 32 + row)
def Core.setAccRow (c : Core) (bank row : Nat) (r : AccRow) : Core :=
  { c with eng := { c.eng with acc := Tab.store c.eng.acc (bank * 32 + row) r } }

/-- Every element of a row is NaN. -/
def allNan : Nat := 2 ^ 64 - 1

/-- The largest magnitude among the non-NaN elements (R288, R300). -/
def AccRow.peak (r : AccRow) : Nat :=
  (r.elems.filter fun e => !r.nan.testBit e.1).foldl (fun m e => max m e.2.natAbs) 0

/-- What ACCHEAD shows of a row (R300); `h` is H as counted at its issue. -/
def Core.headRecord (c : Core) (bank row h : Nat) : Word :=
  let r := c.accRow bank row
  let band := bank * 4 + row / 8
  let e := if r.nan = allNan then 0x8000 else (r.e % 2 ^ 16).toNat
  let nans := ((List.range 64).filter r.nan.testBit).length
  BitVec.ofNat 64 (e + h * 2 ^ 16 + (if r.ovf then 2 ^ 24 else 0) + (if r.peak = 0 then 2 ^ 25 else 0) +
    (if r.peak = 0 then 0 else Nat.log2 r.peak) * 2 ^ 26 + nans * 2 ^ 32 +
    (if c.eng.bandLive.contains band then 2 ^ 39 else 0) + bank * 2 ^ 40 + row * 2 ^ 44 +
    Tab.look 0 c.eng.owners band * 2 ^ 49 + (if Tab.has c.eng.owners band then 0 else 2 ^ 57))

/-- What a status record shows of the core as it stands. -/
def Core.showPost (c : Core) : Post → Post
  | .bstat d b => .shown d (c.bstatRecord b)
  | .head d b r h => .shown d (c.headRecord b r h)
  | p => p

/-- A result of the M slot lands in q3 or q6 (R95, R298). -/
def Core.land (c : Core) (p : Post) : Core :=
  let c := { c with eng := { c.eng with posts := c.eng.posts.filter fun x => x != p } }
  match c.showPost p with
  | .shown _ v => c.setQueue 3 (c.queue 3 ++ [v])
  | .image _ _ r => { c with q := { c.q with rows := c.q.rows ++ [r] } }
  | _ => c

/-- The cycle at which a result of the M slot lands, once it is known. -/
def Post.due : Post → Option Nat
  | .bstat d _ => some d
  | .head d _ _ _ => some d
  | .shown d _ => some d
  | .image d _ _ => d

/-- The status records that land at `now` show the state of the cycle that ends (R277, R300). -/
def Core.showDue (c : Core) (now : Nat) : Core :=
  { c with eng := { c.eng with posts := c.eng.posts.map fun p =>
      if (p.due.any fun d => decide (d ≤ now)) then c.showPost p else p } }

/-- The results due by `now` land. -/
def Core.landDue (c : Core) (now : Nat) : Core :=
  (c.eng.posts.filter fun p => match p.due with | some d => decide (d ≤ now) | none => false).foldl
    (fun c p => c.land p) c

/-- The control-register information that results in flight need. -/
abbrev CtlTable := Nat → Option CtlInfo

end Sys2Proof.Machine
end

