-- ==== Sys2Proof/Machine/Ctl.lean ====
section
/-! DEFINITION. The control registers (R138, R139): their fields, what CTLRD returns of each, and the two
instructions. -/

namespace Sys2Proof.Machine

def all32 : Nat := 2 ^ 32 - 1
def all64 : Nat := 2 ^ 64 - 1

/-- The access of each register's fields (R5, R138 and the registers' tables); `none`: unassigned. -/
def ctlInfo (n : Nat) : Option CtlInfo :=
  match n with
  | 0x000 => some { rw := 1, all := 1 }
  | 0x010 => some { all := 2 ^ 52 - 1 }
  | 0x011 => some { all := 2 ^ 19 - 1 + all32 * 2 ^ 32 }
  | 0x012 => some { all := all32 }
  | 0x013 => some {}
  | 0x014 => some { rw := all32, all := all32 }
  | 0x015 => some { rw := 3, all := 3 }
  | 0x016 => some { w1c := 3, rc := all32 * 2 ^ 32, all := 3 + all32 * 2 ^ 32 }
  | 0x020 => some { rw := all32, all := all32 }
  | 0x021 => some { rw := all64 }
  | 0x022 => some { rw := all64 }
  | 0x023 => some { rw := all32, all := all32 }
  | 0x024 => some { rw := all64 }
  | 0x025 => some { rw := all64 }
  | 0x030 => some { rw := 127, all := 127 }
  | 0x031 => some { rw := 2 ^ 54 - 1, all := 2 ^ 54 - 1 }
  | 0x040 => some { all := 0xFFFF }
  | 0x041 => some {}
  | 0x042 => some {}
  | 0x043 => some {}
  | 0x044 => some {}
  | 0x045 => some { w1c := 0xFFFF, all := 0xFFFF }
  | 0x050 => some { all := all32 }
  | 0x051 => some { w1c := all32, all := all32 }
  | 0x060 => some { rw := all64 }
  | 0x061 => some { rw := all64 }
  | 0x062 => some { rw := all64 }
  | 0x063 => some { rw := all64 }
  | 0x064 => some {}
  | 0x065 => some { rc := all64 }
  | 0x078 => some { all := 15 }
  | 0x07C => some { rc := 0x3E0, all := 0x3FF }
  | 0x080 => some { all := all32 - 0x8000, svc := true }
  | 0x081 => some { rw := all64, svc := true }
  | 0x082 => some { all := all32, svc := true }
  | 0x083 => some { all := 0xFFFF, svc := true }
  | 0x084 => some { all := 7, svc := true }
  | 0x085 => some { svc := true }
  | 0x086 => some { svc := true }
  | 0x087 => some { rw := all64, svc := true }
  | 0x088 => some { w1c := 0x40, all := 0xFF, svc := true }
  | 0x089 => some { rw := all64, svc := true }
  | 0x08A => some { rw := all64, svc := true }
  | 0x08B => some { rw := all64, svc := true }
  | 0x08C => some { rw := all64, svc := true }
  | n => if 0x070 ≤ n ∧ n ≤ 0x077 then some { all := 2 ^ 29 - 1 + 0xFFFF * 2 ^ 32 } else none

/-- BANKMODE (R236). -/
def Core.bankModes (c : Core) : Nat :=
  (List.range 16).foldr (fun b acc => (if (c.bank b).mode then 1 else 0) + 2 * acc) 0

/-- A row set as a status shows it: EMPTY while its bank is in scratchpad mode (R242). -/
def Core.setState (c : Core) (b r : Nat) : Nat :=
  let x := c.bank b
  if x.mode then (Tab.look ({} : RowSet) x.sets r).state else 0

/-- A pass or a fill is in progress on a bank (R244). -/
def Core.bankBusy (c : Core) (b : Nat) : Bool :=
  (c.eng.mq.any fun m => m.begun && match m.work with
    | .pass p => p.banks.any fun k => k.bank == b
    | _ => false) ||
  (c.eng.fills.any fun f => f.set.bank == b && f.start.isSome)

/-- The sixteen bits of a bank in RSSTATE (R244). -/
def Core.rsField (c : Core) (b : Nat) : Nat :=
  (c.bank b).act + c.setState b 0 * 4 + c.setState b 1 * 16 + c.setState b 2 * 64 + c.setState b 3 * 256 +
    (if c.bankBusy b then 1024 else 0)

/-- RSSTATEi. -/
def Core.rsState (c : Core) (i : Nat) : Nat :=
  (List.range 4).foldr (fun k acc => c.rsField (4 * i + k) + 2 ^ 16 * acc) 0

/-- ACCSTAT.EXPD: banks with a band whose export has started (R283, R293). -/
def Core.expd (c : Core) : Nat :=
  (List.range 16).foldr (fun b acc =>
    (if c.eng.bandLive.any fun e => e / 4 == b then 1 else 0) + 2 * acc) 0

/-- CHSTAT of a channel (R359). -/
def Core.chanStatus (c : Core) (ch : Nat) : Nat :=
  let x := c.chan ch
  let wm := match x.queue.find? fun m => m.localDst && m.status.isNone with
    | some m => some m.markEnd
    | none => x.frozen.getLast?.map (·.wm)
  let wmBits := match wm with
    | some w => ((w + 2 ^ 24 - 1) % 2 ^ 24) + 2 ^ 24
    | none => 0
  wmBits + (min x.queue.length 4) * 2 ^ 25 + (if x.frozen.isEmpty then 0 else 2 ^ 28) + x.seq % 2 ^ 16 * 2 ^ 32

/-- What a read of a control register returns (R139). -/
def Core.ctlView (c : Core) (n : Nat) : Nat :=
  let x := c.ctlNat n
  match n with
  | 0x010 => setBits x 14 8 c.num
  | 0x040 => c.bankModes
  | 0x041 => c.rsState 0
  | 0x042 => c.rsState 1
  | 0x043 => c.rsState 2
  | 0x044 => c.rsState 3
  | 0x050 => c.eng.alloc + c.expd * 2 ^ 16
  | 0x064 => (Config.entropy c.num c.free).toNat
  | 0x078 => c.eng.exports.length
  | 0x07C => c.eng.sb.length + bits x 9 5 * 32
  | 0x088 => setBits x 5 1 c.seq.pending.length
  | n => if 0x070 ≤ n ∧ n ≤ 0x077 then c.chanStatus (n - 0x070) else x

/-- The register number of CTLRD and CTLWR. -/
def ctlNumber (f : SRI) : Nat := f.imm.toNat

/-- A read of an assigned register: its value, and what the read clears (R5). -/
def Core.readCtl (c : Core) (n : Nat) (i : CtlInfo) : Nat × Core :=
  let v := c.ctlView n
  let c := if i.rc = 0 then c else
    (c.setCtl n (c.ctlOf n &&& ~~~(BitVec.ofNat 64 i.rc)) : Core)
  let c := if n = 0x07C then c.setCtlBits n 9 5 c.eng.sb.length else c
  (v, if n = Ctl.entr then { c with free := c.free + 1 } else c)

def opCtlrd (fo : Focus) (f : SRI) (c : Core) : Res Core :=
  match ctlInfo (ctlNumber f) with
  | none => .trap (fo.trap Cause.illegalOperand)
  | some i =>
    let r := c.readCtl (ctlNumber f) i
    .ok (r.2.putS 2 f.sd.toNat (BitVec.ofNat 64 r.1))

def opCtlwr (fo : Focus) (f : SRI) (c : Core) : Res Core :=
  let n := ctlNumber f
  let v := c.sreg f.sa.toNat
  match ctlInfo n with
  | none => .trap (fo.trap Cause.illegalOperand)
  | some i =>
    if (i.rw = 0 ∧ i.w1c = 0) ∨ (i.svc ∧ !c.svc) ∨ v.toNat &&& i.all ≠ v.toNat then
      .trap (fo.trap Cause.illegalOperand)
    else .ok (c.emit 2 (.ctlWrite n v))

/-- The drain of R447 step 2: results in flight become visible, own queue entries included. -/
def Core.drainAll (c : Core) (now : Nat) : Core :=
  let c := c.drain ctlInfo
  let c := (c.eng.posts.filter fun p => match p.due with | some _ => true | none => false).foldl
    (fun c p => c.land p) c
  { c with seq := { c.seq with passed := false } } |>.landDue now

/-- A cycle passes for a core: results that become visible before the next pipeline cycle do, and results
of the M slot land (R92, R95). A core that waits at PHASE, or between phases, does not deviate, so its pipelines run on
(log 13). -/
def Core.clock (c : Core) (now : Nat) : Core :=
  let runs := c.seq.passed || ((c.seq.run == .atPhase || c.seq.run == .idle) && !c.seq.flight.isEmpty)
  let c := if runs then ({ c with seq := { c.seq with passed := false } } : Core).advance ctlInfo else c.endZblk
  c.landDue now

end Sys2Proof.Machine
end

