-- ==== Sys2Proof/Machine/Traps.lean ====
section
/-! DEFINITION. TAKING A TRAP OR A FAULT as one shared operation (R447, R450), the abort of a phase (R56),
the return from service code (R452), partition faults (R455), and the trap instructions TRAP, TRET, HALT and
DBGBRK (R451 to R454). -/

namespace Sys2Proof.Machine

/-- Class A of R442: the phase-overrun trap and the machine-check fault. -/
def classA (cause : Nat) : Bool := cause == Cause.phaseOverrun || cause == Cause.machineCheck

/-- A core stops with its phase aborted: results in flight land, its commands are cancelled. -/
def Core.abort (c : Core) (now : Nat) : Core :=
  let c := (c.drainAll now).cancelAll
  { c with seq := { c.seq with run := .aborted, wait := none, access := none, stall := 0 } }

/-- The running phase of a partition is aborted (R56): every participating core stops, commands are
cancelled, the phase is reconciled, and no boundary takes effect. -/
def State.abortPhase (s : State) (p : Nat) : State :=
  let cores := s.participants p
  let s := s.reconcile p true false
  let s := cores.foldl (fun s n => s.onCore n fun c => c.abort s.now) s
  let s := { s with msgs := s.msgs.filter fun m => !(cores.contains m.src || cores.contains m.dst) }
  let two := (s.part p).twoBox
  let s := s.onPart p fun x => { x with
      state := 5, run := none, ready := none, preemptAt := none, waiting := false }
  let s := if two then s.emitOut (.far (.control p .stop)) else s
  s.notify p

/-- The trap registers of R445, written at entry; MOVED is cleared. -/
def Core.trapRegs (c : Core) (t : Trap) (f : Option FaultRec) (addr : Word) (rem idx cyc : Nat) : Core :=
  let w (x : Nat) : Word := BitVec.ofNat 64 x
  let cause := match f with
    | none => t.cause
    | some f => t.cause + 2 ^ 8 + f.src * 2 ^ 9 + f.chan * 2 ^ 12 + f.seq % 2 ^ 16 * 2 ^ 16
  let c := c.setCtl Ctl.trapcause (w cause)
  let c := c.setCtl Ctl.trapaddr addr
  let c := c.setCtl Ctl.trapcyc (w cyc)
  let c := c.setCtl Ctl.traprep (w (rem + idx * 2 ^ 8))
  let c := c.setCtl Ctl.trapslot (w t.slot)
  let c := c.setCtl Ctl.trapdet t.det
  let c := c.setCtl Ctl.trapcmd (match f with | some f => f.cmd | none => 0)
  c.setCtlBits Ctl.tstat 7 7 0

/-- The trap event of R427. -/
def Core.trapEvent (c : Core) (now : Nat) : Core :=
  let addr := c.ctlNat Ctl.trapaddr
  c.event now 6 (words32 [addr, addr / 2 ^ 32, c.ctlNat Ctl.trapcyc,
    c.ctlBits Ctl.trapcause 7 0 + c.ctlNat Ctl.trapslot * 2 ^ 8 + c.ctlNat Ctl.traprep * 2 ^ 11,
    c.lcore + c.pidx * 2 ^ 16, c.starts, 0, 0])

/-- The sequencer goes to an address by a branch (R67). -/
def Seq.goTo (q : Seq) (a : Word) (by_ : Arrival) : Seq :=
  { q with pc := a, arrive := by_, begun := false, idx := 0, rem := 0, stall := 0, redirect := none,
           wait := none, access := none, after := none, tret := false, haltOp := false, made := [] }

/-- Service code begins (R447 step 6). -/
def Core.enterService (c : Core) : Core :=
  let c := c.setCtlBits Ctl.tstat 0 0 1
  { c with
    seq := { c.seq.goTo (c.ctlOf Ctl.trapvec) .branch with
      svcSticky := none, run := .running, safePt := false, ended := false, parked := c.seq.run == .atPhase }
    q := { c.q with need := 0 } }

/-- Takes a trap or fault at a core (R447): drain, trap registers, event and trace, then abort or service
code. `addr`, `rem`, `idx` and `cyc` say which issue it stands for. -/
def State.enterTrap (s : State) (n : Nat) (t : Trap) (f : Option FaultRec) (addr : Word)
    (rem idx cyc : Nat) : State :=
  let s := s.onCore n fun c => ((c.drainAll s.now).trapRegs t f addr rem idx cyc).trapEvent s.now
  let s := s.traceAt n addr (if t.cause = Cause.breakpoint then 2 else 1) t.det.toNat
  let c := s.core n
  if classA t.cause || c.ctlOf Ctl.trapvec == 0 || c.svc then
    let s := s.onCore n fun c => { c with seq := { c.seq with run := .aborted, wait := none, access := none } }
    s.abortPhase c.part
  else s.onCore n Core.enterService

/-- Takes a trap at the bundle that is due (R445): its address, the issues it has still to make, the index
of the trapped one, and the schedule cycle. -/
def State.takeTrap (s : State) (n : Nat) (t : Trap) : State :=
  let c := s.core n
  s.enterTrap n t none c.seq.pc c.seq.rem c.seq.idx c.scycle

def FaultRec.trap (f : FaultRec) : Trap := { cause := f.cause, det := f.det, slot := 7 }

/-- Delivers a fault at a bundle boundary (R450). -/
def State.deliverFault (s : State) (n : Nat) (f : FaultRec) (addr : Word) (rem idx : Nat) : State :=
  s.enterTrap n f.trap (some f) addr rem idx (s.core n).scycle

/-- A fault that cannot be delivered yet becomes pending; a seventeenth is lost (R450). -/
def Core.pend (c : Core) (f : FaultRec) : Core :=
  if 16 ≤ c.seq.pending.length then c.setCtlBits Ctl.tstat 6 6 1
  else { c with seq := { c.seq with pending := c.seq.pending ++ [f] } }

/-- A fault comes before another (R450): it arrived in an earlier cycle, or in the same one with the lower SRC,
then CHAN. -/
def FaultRec.before (a b : FaultRec) : Bool :=
  if a.when_ ≠ b.when_ then a.when_ != 0 && (b.when_ == 0 || decide (a.when_ < b.when_))
  else decide (a.src < b.src) || (decide (a.src = b.src) && decide (a.chan ≤ b.chan))

/-- Faults in the order of their delivery (R450). -/
def faultOrder (l : List FaultRec) : List FaultRec := l.mergeSort FaultRec.before

/-- The cycle passes in which faults have arrived. -/
def Core.stampFaults (c : Core) (now : Nat) : Core :=
  if c.seq.arrivedFaults.isEmpty then c
  else { c with seq := { c.seq with
    arrivedFaults := c.seq.arrivedFaults.map fun f => if f.when_ = 0 then { f with when_ := now } else f } }

/-- The faults that have arrived join the pending ones. -/
def Core.pendArrived (c : Core) : Core :=
  let l := faultOrder c.seq.arrivedFaults
  l.foldl Core.pend { c with seq := { c.seq with arrivedFaults := [] } }

/-- A fault finds the core waiting at its PHASE: TRAPADDR is the PHASE bundle and REM is 0 (R337, log 13). -/
def State.deliverAtPhase (s : State) (n : Nat) (f : FaultRec) : State :=
  s.deliverFault n f (s.core n).seq.pc 0 0

/-- A class P fault: the partition's fault record, the event and the notice (R455, R472). -/
def State.partitionFault (s : State) (p cause det : Nat) : State :=
  let s := s.onPart p fun x => { x with pfCause := cause, pfDet := det % 2 ^ 32, pfNew := true }
  let x := s.part p
  let s := s.event 6 p (words32 [0, 0, 0, cause + 7 * 2 ^ 8, 0xFF + x.pidx * 2 ^ 16, x.starts, 0, 0])
  s.notify p

/-! The instructions. -/

/-- The code of TRAP and DBGBRK (R451). -/
def trapCode (f : SRI) : Word := BitVec.ofNat 64 (bits f.imm.toNat 7 0)

/-- TRAP: the software trap follows the whole issue of its bundle (R454). -/
def opTrap (fo : Focus) (f : SRI) (c : Core) : Res Core :=
  .ok { c with seq := { c.seq with
    after := some { cause := Cause.software, det := trapCode f, slot := fo.slot } } }

def opDbgbrk (fo : Focus) (f : SRI) (c : Core) : Res Core :=
  .ok { c with seq := { c.seq with
    after := some { cause := Cause.breakpoint, det := trapCode f, slot := fo.slot } } }

/-- TRET is legal in service code alone (R452). -/
def opTret (fo : Focus) (_ : SRI) (c : Core) : Res Core :=
  guardTrap c.svc (fo.trap Cause.illegalOperation) (.ok { c with seq := { c.seq with tret := true } })

def opHalt (fo : Focus) (_ : SRI) (c : Core) : Res Core :=
  guardTrap c.svc (fo.trap Cause.illegalOperation) (.ok { c with seq := { c.seq with haltOp := true } })

end Sys2Proof.Machine
end

