-- ==== Sys2Proof/Machine/Special.lean ====
section
/-! DEFINITION. The special functions (R188, R189) and the logarithms of R203 and the norm file: the
magnitude of an irrational result is enclosed between two integers at a rising precision until both ends
truncate alike (log 10). Rational results are computed exactly. -/

namespace Sys2Proof.Machine

/-- The first answer of a function over a list of arguments. -/
def firstAnswer {α β : Type} (f : α → Option β) : List α → Option β
  | [] => none
  | a :: r => match f a with
    | some b => some b
    | none => firstAnswer f r

/-- The working precisions tried, in bits (log 10). -/
def precisions : List Nat := [72, 144, 288, 576, 1152]

/-- `ln 2 · 2^P` from below by the series `Σ 1/(k·2^k)`; it lies less than `P + 2` below. -/
def ln2Low (P : Nat) : Nat := (List.range P).foldl (fun acc i => acc + 2 ^ P / ((i + 1) * 2 ^ (i + 1))) 0

/-- `e^(t/2^P) · 2^P` from below for `0 ≤ t < 2^P`; it lies less than `2·P + 4` below. -/
def expLow (P t : Nat) : Nat :=
  ((List.range P).foldl (fun acc i =>
    let term := acc.2 * t / 2 ^ P / (i + 1)
    (acc.1 + term, term)) (2 ^ P, 2 ^ P)).1

/-- `2·atanh(z/2^P) · 2^P` from below for `0 ≤ z ≤ 2^P/3`; it lies less than `4·P + 4` below. -/
def lnRatioLow (P z : Nat) : Nat :=
  let z2 := z * z / 2 ^ P
  2 * ((List.range P).foldl (fun acc i =>
    (acc.1 + acc.2 / (2 * i + 1), acc.2 * z2 / 2 ^ P)) (0, z)).1

/-- An enclosure of `2^f · 2^P`, `f = num/2^p < 1`. -/
def exp2Frac (num p P : Nat) : Nat × Nat :=
  let t := num * ln2Low P / 2 ^ p
  let s := expLow P t
  (s, s + 8 * P + 32)

/-- An enclosure of `log2(m/2^a) · 2^P`, `a = floor(log2 m)`. -/
def log2Frac (m P : Nat) : Nat × Nat :=
  let a := ilog2 m
  let z := (m - 2 ^ a) * 2 ^ P / (m + 2 ^ a)
  let s := lnRatioLow P z
  let l := ln2Low P
  (s * 2 ^ P / (l + P + 2), (s + 8 * P + 32) * 2 ^ P / l + 1)

/-- The truncation of R188: with the magnitude `x·2^e` the largest count of `2^(k−7)` not above it, and
that weight. -/
def truncMag (F : FFmt) (x : Nat) (e : Int) : Nat × Int :=
  let w := F.lastBit x e - 7
  ((quotient x e w).1, w)

/-- The truncation when both ends of an enclosure agree on it. -/
def truncBoth (F : FFmt) (lo hi : Nat) (e : Int) : Option (Nat × Int) :=
  if lo = 0 then none
  else
    let a := truncMag F lo e
    if a = truncMag F hi e then some a else none

/-- RoundTo(t, TY, RNE, 0) of R188. -/
def roundTrunc (F : FFmt) (neg : Bool) (t : Nat × Int) : Nat := (roundFloat F (.num neg t.1 t.2) .rne 0).code

/-- 2^x for a finite non-zero dyadic. -/
def exp2Code (F : FFmt) (neg : Bool) (m : Nat) (e : Int) : Nat :=
  if 12 < floorLog2 m e then (if neg then 0 else (F.overflow false .rne).code)
  else
    -- x = n + num/2^p
    let p := if e < 0 then (-e).toNat else 0
    let x : Int := alignTo neg m e (-(p : Int))
    let n : Int := x / (2 ^ p : Nat)
    let num := (x % (2 ^ p : Nat)).toNat
    if num = 0 then (roundFloat F (.num false 1 n) .rne 0).code
    else
      match firstAnswer (fun P =>
          let (lo, hi) := exp2Frac num p P
          truncBoth F lo hi (n - P)) precisions with
      | some t => roundTrunc F false t
      | none => roundTrunc F false (truncMag F (exp2Frac num p 1152).1 (n - 1152))

/-- log2 of a positive dyadic. -/
def log2Code (F : FFmt) (m : Nat) (e : Int) : Nat :=
  let a := ilog2 m
  let n : Int := a + e
  if m = 2 ^ a then (roundFloat F (Val.ofInt n 0) .rne 0).code
  else
    -- y = n + g, 0 < g < 1; for n < 0 the magnitude is -n - g
    let enclose := fun P =>
      let (lo, hi) := log2Frac m P
      if n < 0 then ((-n).toNat * 2 ^ P - hi, (-n).toNat * 2 ^ P - lo)
      else (n.toNat * 2 ^ P + lo, n.toNat * 2 ^ P + hi)
    match firstAnswer (fun P =>
        let (lo, hi) := enclose P
        truncBoth F lo hi (-(P : Int))) precisions with
    | some t => roundTrunc F (decide (n < 0)) t
    | none => roundTrunc F (decide (n < 0)) (truncMag F (enclose 1152).1 (-1152))

/-- `floor(log2(2^c/m))` of a ratio. -/
def ratioLog2 (m : Nat) (c : Int) : Int :=
  let a := ilog2 m
  if m = 2 ^ a then c - a else c - a - 1

/-- 1/x for a finite non-zero dyadic `m·2^e`. -/
def rcpCode (F : FFmt) (neg : Bool) (m : Nat) (e : Int) : Nat :=
  let w := F.lastBit 1 (ratioLog2 m (-e)) - 7
  let c := -e - w
  roundTrunc F neg (if c < 0 then 0 else 2 ^ c.toNat / m, w)

/-- 1/sqrt(x) for a positive dyadic `m·2^e`. -/
def rsqCode (F : FFmt) (m : Nat) (e : Int) : Nat :=
  let w := F.lastBit 1 (ratioLog2 m (-e) / 2) - 7
  let c := -e - 2 * w
  roundTrunc F false (if c < 0 then 0 else isqrt (2 ^ c.toNat / m), w)

/-- The four functions (R188). -/
inductive SpecialFn where
  | exp2 | log2 | rcp | rsq
  deriving DecidableEq, Repr

/-- A special function with the cases of R189. -/
def special (fn : SpecialFn) (F : FFmt) (x : Val) : Nat :=
  let one := F.encodeMag (2 ^ F.mw) (-(F.mw : Int))
  match fn, x with
  | _, .nan => F.nanCode
  | .exp2, .inf neg => if neg then 0 else F.infCode
  | .exp2, .num _ 0 _ => one
  | .exp2, .num neg m e => exp2Code F neg m e
  | .log2, .inf neg => if neg then F.nanCode else F.infCode
  | .log2, .num _ 0 _ => F.signBit true + F.infCode
  | .log2, .num neg m e => if neg then F.nanCode else log2Code F m e
  | .rcp, .inf neg => F.signBit neg
  | .rcp, .num neg 0 _ => F.signBit neg + F.infCode
  | .rcp, .num neg m e => rcpCode F neg m e
  | .rsq, .inf neg => if neg then F.nanCode else 0
  | .rsq, .num neg 0 _ => F.signBit neg + F.infCode
  | .rsq, .num neg m e => if neg then F.nanCode else rsqCode F m e

/-- `floor(2^bits · log2(m·2^e))` of a positive dyadic. -/
def floorLog2Scaled (bits m : Nat) (e : Int) : Int :=
  let a := ilog2 m
  let n : Int := (a + e) * (2 ^ bits : Nat)
  if m = 2 ^ a then n
  else
    match firstAnswer (fun P =>
        let (lo, hi) := log2Frac m P
        if lo * 2 ^ bits / 2 ^ P = hi * 2 ^ bits / 2 ^ P then some (lo * 2 ^ bits / 2 ^ P) else none)
        precisions with
    | some g => n + g
    | none => n + ((log2Frac m 1152).1 * 2 ^ bits / 2 ^ 1152 : Nat)

end Sys2Proof.Machine
end

