-- ==== Sys2Proof/Machine/Vector.lean ====
section
/-! DEFINITION. The vector arithmetic of the V slots (07_vector): integer, compare and select,
floating point, conversion, quantisation, special functions, reduction, permutation, predicates, keys
and the norm watch. Each operation is a function of the issuing core. -/

namespace Sys2Proof.Machine

/-- Lanes of a register for an element width (R167). -/
def lanes (w : Nat) : Nat := 2048 / w

/-- An element-wise result over a grouped destination: element `i` is `g i` of it. -/
def mapElts (c : Core) (L : Nat) (f : VR) (w : Nat) (g : Nat → Nat) : Core :=
  putElts c L f.vd.toNat (gsize f.gs) f.pg f.pz w ((List.range (gsize f.gs * lanes w)).map g)

/-- The source operands va, vb and vc of a VR operation as grouped runs (R168). -/
def runA (c : Core) (f : VR) : Nat := c.group f.va.toNat (gsize f.gs)
def runB (c : Core) (f : VR) : Nat := c.group f.vb.toNat (gsize f.gs)
def runC (c : Core) (f : VR) : Nat := c.group f.vc.toNat (gsize f.gs)

def tyOf (f : VR) : ETy := ety f.ty.toNat
def rmOf (f : VR) : RMode := (rmode? f.rm.toNat).getD .rne

/-! Integer instructions (R179). -/

/-- Narrows an exact result: clamped with `.sat`, else its low bits (R179). -/
def narrow (t : ETy) (satBit : Bool) (x : Int) : Rounded :=
  if satBit then
    let y := sat x t.lo t.hi
    { code := lowBits y t.width, sat := decide (y ≠ x) }
  else { code := lowBits x t.width }

/-- An integer operation whose exact result `op a b c` is narrowed (R179). -/
def intOp (L : Nat) (f : VR) (c : Core) (op : Int → Int → Int → Int) : Res Core :=
  let t := tyOf f
  let w := t.width
  let (xa, xb, xc) := (runA c f, runB c f, runC c f)
  let rs := (List.range (gsize f.gs * lanes w)).map fun i =>
    narrow t (f.fn.getLsbD 0) (op (t.toInt (elt w xa i)) (t.toInt (elt w xb i)) (t.toInt (elt w xc i)))
  let clamped := rs.mapIdx fun i r => r.sat && active c f.pg w i
  .ok ((putElts c L f.vd.toNat (gsize f.gs) f.pg f.pz w (rs.map (·.code))).putNumstat L
    (clamped.any id) false 0)

def opVadd (_ : Focus) (f : VR) (c : Core) : Res Core := intOp 2 f c fun a b _ => a + b
def opVsub (_ : Focus) (f : VR) (c : Core) : Res Core := intOp 2 f c fun a b _ => a - b
def opVmul (_ : Focus) (f : VR) (c : Core) : Res Core := intOp 4 f c fun a b _ => a * b
def opVmulh (_ : Focus) (f : VR) (c : Core) : Res Core :=
  intOp 4 f c fun a b _ => a * b / (2 ^ (tyOf f).width : Nat)
def opVmadd (_ : Focus) (f : VR) (c : Core) : Res Core := intOp 4 f c fun a b d => a * b + d
def opVmin (_ : Focus) (f : VR) (c : Core) : Res Core := intOp 2 f c fun a b _ => if a ≤ b then a else b
def opVmax (_ : Focus) (f : VR) (c : Core) : Res Core := intOp 2 f c fun a b _ => if a ≤ b then b else a

/-- An operation on the bits of each element. -/
def bitOp (L : Nat) (f : VR) (c : Core) (op : Nat → Nat → Nat) : Res Core :=
  let w := (tyOf f).width
  let (xa, xb) := (runA c f, runB c f)
  .ok (mapElts c L f w fun i => op (elt w xa i) (elt w xb i))

/-- VABS and VNEG on .f, .h and .b act on the sign bit; a NaN gives the canonical NaN (R179). -/
def signOp (L : Nat) (f : VR) (c : Core) (F : FFmt) (op : Nat → Nat) : Res Core :=
  bitOp L f c fun a _ => if (F.decode a).isNan then F.nanCode else op a

def opVabs (_ : Focus) (f : VR) (c : Core) : Res Core :=
  match (tyOf f).fmt? with
  | some F => signOp 2 f c F fun a => a % 2 ^ (F.width - 1)
  | none => intOp 2 f c fun a _ _ => (a.natAbs : Int)
def opVneg (_ : Focus) (f : VR) (c : Core) : Res Core :=
  match (tyOf f).fmt? with
  | some F => signOp 2 f c F fun a => a ^^^ 2 ^ (F.width - 1)
  | none => intOp 2 f c fun a _ _ => -a

def opVand (_ : Focus) (f : VR) (c : Core) : Res Core := bitOp 2 f c (· &&& ·)
def opVor (_ : Focus) (f : VR) (c : Core) : Res Core := bitOp 2 f c (· ||| ·)
def opVxor (_ : Focus) (f : VR) (c : Core) : Res Core := bitOp 2 f c (· ^^^ ·)

/-- The shift count: the low log2(w) bits of b, or VC with `.imm` (R179). -/
def shiftOp (f : VR) (c : Core) (op : Nat → Nat → Nat) : Res Core :=
  bitOp 2 f c fun a b => op a (if f.fn.getLsbD 0 then f.vc.toNat else b % (tyOf f).width)

def opVshl (_ : Focus) (f : VR) (c : Core) : Res Core := shiftOp f c fun a m => a * 2 ^ m
def opVshr (_ : Focus) (f : VR) (c : Core) : Res Core := shiftOp f c fun a m => a / 2 ^ m
def opVsha (_ : Focus) (f : VR) (c : Core) : Res Core :=
  shiftOp f c fun a m => lowBits (signExt a (tyOf f).width / (2 ^ m : Nat)) (tyOf f).width

/-! Compare and select (R180, R181). -/

/-- Writes a comparison's result to every bit of each element's bytes, masked elements by R173. -/
def putCompare (c : Core) (f : VR) (w : Nat) (test : Nat → Bool) : Core :=
  let on := (List.range (lanes w)).map fun i => (active c f.pg w i, test i, i)
  let val := on.foldl (fun a p => if p.1 && p.2.1 then a + eltBytes w p.2.2 else a) 0
  let en := on.foldl (fun a p => if p.1 || f.pz == 1 then a + eltBytes w p.2.2 else a) 0
  c.emit 2 (.pred f.vd.toNat (BitVec.ofNat 256 val) (BitVec.ofNat 256 en))

def opVcmp (_ : Focus) (f : VR) (c : Core) : Res Core :=
  let t := tyOf f
  let w := t.width
  let (xa, xb) := (runA c f, runB c f)
  .ok (putCompare c f w fun i =>
    let a := t.toInt (elt w xa i)
    let b := t.toInt (elt w xb i)
    match f.fn.toNat with
    | 0 => a == b
    | 1 => a != b
    | 2 => decide (a < b)
    | 3 => decide (a ≤ b)
    | 4 => decide (a > b)
    | _ => decide (a ≥ b))

def opVfcmp (_ : Focus) (f : VR) (c : Core) : Res Core :=
  let t := tyOf f
  let w := t.width
  let (xa, xb) := (runA c f, runB c f)
  .ok (putCompare c f w fun i =>
    let a := t.val (elt w xa i)
    let b := t.val (elt w xb i)
    let un := a.isNan || b.isNan
    match f.fn.toNat with
    | 0 => a.eqv b
    | 1 => !a.eqv b
    | 2 => a.lt b
    | 3 => a.lt b || a.eqv b
    | 4 => b.lt a
    | 5 => b.lt a || a.eqv b
    | 6 => un
    | _ => !un)

def opVsel (_ : Focus) (f : VR) (c : Core) : Res Core :=
  let w := (tyOf f).width
  let (xa, xb) := (runA c f, runB c f)
  let p := c.preg f.vc.toNat
  .ok (mapElts c 2 f w fun i => if maskBit p w i then elt w xa i else elt w xb i)

/-! Floating point (R182 to R184). -/

/-- The draws an operation over `n` results takes: one each in mode SR, none otherwise (R177). -/
def withDraws (fo : Focus) (rm : RMode) (c : Core) (n : Nat) (k : List Nat → Core → Res Core) : Res Core :=
  if rm = .sr then c.takeDraws fo n k else k [] c

/-- A rounded operation: the exact value of each element is rounded once to TY (R182). -/
def floatOp (fo : Focus) (f : VR) (c : Core) (op : Val → Val → Val → Val) : Res Core :=
  let t := tyOf f
  let w := t.width
  let n := gsize f.gs * lanes w
  let (xa, xb, xc) := (runA c f, runB c f, runC c f)
  withDraws fo (rmOf f) c n fun bs c =>
    let rs := (List.range n).map fun i =>
      roundTo t (op (t.val (elt w xa i)) (t.val (elt w xb i)) (t.val (elt w xc i))) (rmOf f) (bs.getD i 0)
    .ok (putElts c 4 f.vd.toNat (gsize f.gs) f.pg f.pz w (rs.map (·.code)))

def isRdn (f : VR) : Bool := rmOf f == .rdn

def opVfadd (fo : Focus) (f : VR) (c : Core) : Res Core := floatOp fo f c fun a b _ => addVal (isRdn f) a b
def opVfsub (fo : Focus) (f : VR) (c : Core) : Res Core := floatOp fo f c fun a b _ => addVal (isRdn f) a b.negate
def opVfmul (fo : Focus) (f : VR) (c : Core) : Res Core := floatOp fo f c fun a b _ => mulVal a b
def opVfma (fo : Focus) (f : VR) (c : Core) : Res Core :=
  floatOp fo f c fun a b d => addVal (isRdn f) (mulVal a b) d

/-- VFMIN and VFMAX return the operand's own bits, −0 below +0 (R184). -/
def minMax (F : FFmt) (max : Bool) (a b : Nat) : Nat :=
  let (x, y) := (F.decode a, F.decode b)
  if x.isNan || y.isNan then F.nanCode
  else
    let less := x.lt y || (x.eqv y && x.isNeg && !y.isNeg)
    if less then (if max then b else a) else (if max then a else b)

/-- The floating-point format of an operation's type; binary32 for a type that decode refuses. -/
def fmtOf (f : VR) : FFmt := ((tyOf f).fmt?).getD .f32

def opVfmin (_ : Focus) (f : VR) (c : Core) : Res Core := bitOp 4 f c (minMax (fmtOf f) false)
def opVfmax (_ : Focus) (f : VR) (c : Core) : Res Core := bitOp 4 f c (minMax (fmtOf f) true)

/-! Conversion and quantisation (R185 to R187). -/

/-- The destination lane and source lane of conversion `i` of a member (R185). -/
def cvtLanes (ws wd part i : Nat) : Nat × Nat :=
  let n := 2048 / max ws wd
  if wd ≤ ws then (part * n + i, i) else (i, part * n + i)

def opVcvt (fo : Focus) (f : VR) (c : Core) : Res Core :=
  let td := tyOf f
  let ts := ety (f.fn.toNat % 16)
  let part := f.fn.toNat / 16
  let (ws, wd) := (ts.width, td.width)
  let n := 2048 / max ws wd
  let g := gsize f.gs
  let src := runA c f
  withDraws fo (rmOf f) c (g * n) fun bs c =>
    let conv := fun (j i : Nat) =>
      let (ld, ls) := cvtLanes ws wd part i
      let r := roundTo td (ts.val (elt ws src (j * lanes ws + ls))) (rmOf f) (bs.getD (j * n + i) 0)
      (ld, r, active c f.pg wd ld)
    let perMember := (List.range g).map fun j => (List.range n).map (conv j)
    let val := fun (l : List (Nat × Rounded × Bool)) =>
      l.foldl (fun a p => if p.2.2 then a + p.2.1.code * 2 ^ (wd * p.1) else a) 0
    let en := fun (l : List (Nat × Rounded × Bool)) =>
      l.foldl (fun a p => if p.2.2 || f.pz == 1 then a + (2 ^ wd - 1) * 2 ^ (wd * p.1) else a) 0
    let c := (List.range g).foldl (fun c j =>
      let l := perMember.getD j []
      c.emit 4 (.vec (c.physV (f.vd.toNat + j)) (BitVec.ofNat 2048 (val l)) (BitVec.ofNat 2048 (en l)))) c
    let done := perMember.flatten.filter (·.2.2)
    .ok (c.putNumstat 4 (done.any (·.2.1.sat)) (done.any (·.2.1.nan)) 0)

/-- The number of elements of a quantising operation's unpacked operand (R186). -/
def quantN (f : VR) : Nat :=
  let per := lanes (tyOf f).width
  if f.fn.getLsbD 3 then 3 * per else gsize f.gs * per

/-- The registers of the unpacked operand: the group, or the triple of .96 (R186). -/
def quantRegs (f : VR) : Nat := if f.fn.getLsbD 3 then 3 else gsize f.gs

/-- Elements of a block (R124). -/
def quantBlockLen (f : VR) : Nat := if f.fn.getLsbD 3 then 96 else 32

/-- Bytes of the packed elements, Bp, and the D registers that hold them (R186). -/
def packedBytes (f : VR) : Nat := quantN f * (mxElt f.fn.toNat).width / 8
def packedRegs (f : VR) : Nat :=
  let b := packedBytes f
  if b ≤ 256 then 1 else if b ≤ 512 then 2 else if b ≤ 1024 then 4 else 8

/-- The elements of block `k`. -/
def blockElts {α : Type} (l : List α) (len k : Nat) : List α := (l.drop (len * k)).take len

def opVquant (fo : Focus) (f : VR) (c : Core) : Res Core :=
  let t := tyOf f
  let F := mxElt f.fn.toNat
  let n := quantN f
  let bl := quantBlockLen f
  let nb := n / bl
  let src := c.group f.va.toNat (quantRegs f)
  let forced := c.vreg f.vc.toNat
  withDraws fo (rmOf f) c n fun bs c =>
    let xs := (elts t.width src n).map t.val
    let qs := (List.range nb).map fun k =>
      quantBlock F (rmOf f) (if f.fn.getLsbD 4 then some (elt 8 forced.toNat k) else none)
        (blockElts xs bl k) (blockElts bs bl k)
    let packed := packCodes F.width (qs.map (·.codes)).flatten
    let c := putWhole c 6 f.vd.toNat (packedRegs f) packed
    let c := putWhole c 6 f.vb.toNat 1 (packElts 8 (qs.map (·.scale)))
    let c := c.putNumstat 6 (qs.any (·.sat)) (qs.any (·.nan)) (qs.countP (·.zblk))
    .ok ((List.range nb).foldl (fun c k =>
      match (qs.map fun q => blockKind q.sat q.nan q.zblk).getD k none with
      | some kind => c.converterEvent fo.now c.seq.pc.toNat c.scycle kind k 0
      | none => c) c)

def opVdeq (fo : Focus) (f : VR) (c : Core) : Res Core :=
  let t := tyOf f
  let F := mxElt f.fn.toNat
  let n := quantN f
  let bl := quantBlockLen f
  let packed := c.group f.va.toNat (packedRegs f)
  let scales := (c.vreg f.vb.toNat).toNat
  withDraws fo (rmOf f) c n fun bs c =>
    let rs := (List.range n).map fun i =>
      roundTo t (deqVal F (elt 8 scales (i / bl)) (unpackCode F.width packed i)) (rmOf f) (bs.getD i 0)
    .ok (putElts c 4 f.vd.toNat (quantRegs f) f.pg f.pz t.width (rs.map (·.code)))

/-! Special functions (R188, R189). -/

def specialOp (f : VR) (c : Core) (fn : SpecialFn) : Res Core :=
  let F := fmtOf f
  bitOp 10 f c fun a _ => special fn F (F.decode a)

def opVexp2 (_ : Focus) (f : VR) (c : Core) : Res Core := specialOp f c .exp2
def opVlog2 (_ : Focus) (f : VR) (c : Core) : Res Core := specialOp f c .log2
def opVrcp (_ : Focus) (f : VR) (c : Core) : Res Core := specialOp f c .rcp
def opVrsq (_ : Focus) (f : VR) (c : Core) : Res Core := specialOp f c .rsq

/-! Reduction (R190). -/

/-- One level of the addition tree: neighbours are added and rounded. -/
def pairUp (add : Nat → Nat → Nat) : List Nat → List Nat
  | a :: b :: r => add a b :: pairUp add r
  | l => l

/-- `k` levels of the addition tree. -/
def addTree (add : Nat → Nat → Nat) : Nat → List Nat → List Nat
  | 0, l => l
  | k + 1, l => addTree add k (pairUp add l)

/-- The identity that replaces a masked element (R190). -/
def redIdentity (t : ETy) (op : Nat) : Nat :=
  match op, t.fmt? with
  | 0, none => 0
  | 0, some F => F.signBit true
  | 1, none => lowBits t.hi t.width
  | 1, some F => F.infCode
  | 2, none => lowBits t.lo t.width
  | 2, some F => F.signBit true + F.infCode
  | 3, _ => 2 ^ t.width - 1
  | _, _ => 0

/-- A segment reduced (R190). -/
def reduceSeg (t : ETy) (op : Nat) (rm : RMode) (l : List Nat) : Nat :=
  let w := t.width
  match t.fmt? with
  | some F =>
    match op with
    | 0 =>
      let add := fun a b => (roundFloat F (addVal (rm == .rdn) (F.decode a) (F.decode b)) rm 0).code
      (addTree add (ilog2 l.length) l).headD 0
    | 1 => l.foldl (minMax F false) (redIdentity t 1)
    | _ => l.foldl (minMax F true) (redIdentity t 2)
  | none =>
    match op with
    | 0 => l.foldl (fun a b => (a + b) % 2 ^ w) 0
    | 1 => l.foldl (fun a b => if t.toInt b ≤ t.toInt a then b else a) (redIdentity t 1)
    | 2 => l.foldl (fun a b => if t.toInt a ≤ t.toInt b then b else a) (redIdentity t 2)
    | 3 => l.foldl (· &&& ·) (2 ^ w - 1)
    | 4 => l.foldl (· ||| ·) 0
    | _ => l.foldl (· ^^^ ·) 0

/-- The segment length m of VRED (R190). -/
def redSegLen (f : VR) : Nat :=
  let n := gsize f.gs * lanes (tyOf f).width
  let s := f.fn.toNat / 8
  if s = 0 then n else 2 ^ s

def opVred (_ : Focus) (f : VR) (c : Core) : Res Core :=
  let t := tyOf f
  let w := t.width
  let n := gsize f.gs * lanes w
  let m := redSegLen f
  let op := f.fn.toNat % 8
  let src := runA c f
  let xs := (List.range n).map fun i => if active c f.pg w i then elt w src i else redIdentity t op
  let segs := (List.range (n / m)).map fun j => reduceSeg t op (rmOf f) (blockElts xs m j)
  .ok (putWhole c 8 f.vd.toNat 1 (packElts w segs))

/-! Permutation and broadcast (R191 to R194). -/

def opVperm (_ : Focus) (f : VR) (c : Core) : Res Core :=
  let w := (tyOf f).width
  let table := runA c f
  let idx := (c.vreg f.vb.toNat).toNat
  let size := gsize f.gs * lanes w
  .ok (putElts c 3 f.vd.toNat 1 f.pg f.pz w ((List.range (lanes w)).map fun i =>
    let j := elt w idx i
    if j < size then elt w table j else 0))

def opVshuf (_ : Focus) (f : VR) (c : Core) : Res Core :=
  let w := (tyOf f).width
  let n := lanes w
  let a := (c.vreg f.va.toNat).toNat
  let b := (c.vreg f.vb.toNat).toNat
  let both := a + 2 ^ 2048 * b
  .ok (putWhole c 3 f.vd.toNat 1 (packElts w ((List.range n).map fun i =>
    match f.fn.toNat with
    | 0 => if i % 2 = 0 then elt w a (i / 2) else elt w b (i / 2)
    | 1 => if i % 2 = 0 then elt w a (i / 2 + n / 2) else elt w b (i / 2 + n / 2)
    | 2 => elt w both (2 * i)
    | 3 => elt w both (2 * i + 1)
    | 4 => elt w a (n - 1 - i)
    | _ => elt w a ((i + f.vc.toNat) % n))))

/-- The immediate form of VBCAST: the element every lane receives (R193). -/
def bcastElt (t : ETy) (imm : BitVec 18) (rm : RMode) (b : Nat) : Rounded :=
  if t.isInt then { code := lowBits (signExt imm.toNat 18) t.width }
  else roundTo t (FFmt.f32.decode (imm.toNat * 2 ^ 14)) rm b

def opVbcast (fo : Focus) (f : VI) (c : Core) : Res Core :=
  let t := ety f.ty.toNat
  let rm := (rmode? f.rm.toNat).getD .rne
  let n := gsize f.gs * lanes t.width
  withDraws fo rm c n fun bs c =>
    let rs := (List.range n).map fun i => bcastElt t f.imm rm (bs.getD i 0)
    let on := rs.mapIdx fun i r => (active c f.pg t.width i, r)
    .ok ((putElts c 2 f.vd.toNat (gsize f.gs) f.pg f.pz t.width (rs.map (·.code))).putNumstat 2
      (on.any fun p => p.1 && p.2.sat) (on.any fun p => p.1 && p.2.nan) 0)

def opVbcastLane (_ : Focus) (f : VI) (c : Core) : Res Core :=
  let w := (ety f.ty.toNat).width
  let e := elt w (c.vreg f.va.toNat).toNat (f.imm.toNat % 512)
  .ok (putElts c 2 f.vd.toNat (gsize f.gs) f.pg f.pz w (List.replicate (gsize f.gs * lanes w) e))

def opVextr (_ : Focus) (f : VR) (c : Core) : Res Core :=
  let both := (c.vreg f.va.toNat).toNat + 2 ^ 2048 * (c.vreg f.vb.toNat).toNat
  .ok (putWhole c 2 f.vd.toNat 1 (both / 2 ^ (8 * f.vc.toNat) % 2 ^ 2048))

/-! Predicates (R199). -/

def predOp (f : VR) (c : Core) (v : PReg) : Res Core :=
  .ok (c.emit 1 (.pred f.vd.toNat v (BitVec.allOnes 256)))

def opPand (_ : Focus) (f : VR) (c : Core) : Res Core := predOp f c (c.preg f.va.toNat &&& c.preg f.vb.toNat)
def opPor (_ : Focus) (f : VR) (c : Core) : Res Core := predOp f c (c.preg f.va.toNat ||| c.preg f.vb.toNat)
def opPxor (_ : Focus) (f : VR) (c : Core) : Res Core := predOp f c (c.preg f.va.toNat ^^^ c.preg f.vb.toNat)
def opPnot (_ : Focus) (f : VR) (c : Core) : Res Core := predOp f c (~~~c.preg f.va.toNat)

def opPpop (_ : Focus) (f : VR) (c : Core) : Res Core :=
  let w := (tyOf f).width
  let p := c.preg f.va.toNat
  .ok (c.putS 2 f.vd.toNat (word ((List.range (lanes w)).countP (maskBit p w))))

def opPfirst (_ : Focus) (f : VR) (c : Core) : Res Core :=
  let w := (tyOf f).width
  let p := c.preg f.va.toNat
  .ok (c.putS 2 f.vd.toNat (word (((List.range (lanes w)).find? (maskBit p w)).getD (lanes w))))

/-! Keys, digits and counts (R200 to R202). -/

/-- The order-preserving key (R200). -/
def orderKey (t : ETy) (desc z : Bool) (x : Nat) : Nat :=
  let w := t.width
  let top := 2 ^ (w - 1)
  let k :=
    match t.fmt? with
    | none => if t.isSigned then x ^^^ top else x
    | some F =>
      let x := if z && x == top then 0 else x
      let x := if (F.decode x).isNan then F.nanCode else x
      if x < top then x + top else 2 ^ w - 1 - x
  if desc then 2 ^ w - 1 - k else k

def opVordk (_ : Focus) (f : VR) (c : Core) : Res Core :=
  bitOp 3 f c fun a _ => orderKey (tyOf f) (f.fn.getLsbD 0) (f.fn.getLsbD 1) a

def opVdigit (_ : Focus) (f : VR) (c : Core) : Res Core :=
  let w := (tyOf f).width
  let src := runA c f
  .ok (mapElts c 3 f w fun i => elt w src i / 2 ^ f.vc.toNat % 2 ^ f.vb.toNat)

/-- Set bits, leading zeros, trailing zeros of a `w`-bit element (R202). -/
def popCount (w x : Nat) : Nat := (List.range w).countP fun i => x.testBit i
def leadZeros (w x : Nat) : Nat := if x = 0 then w else w - 1 - ilog2 x
def trailZeros (w x : Nat) : Nat := ((List.range w).find? fun i => x.testBit i).getD w

def opVcnt (_ : Focus) (f : VR) (c : Core) : Res Core :=
  let w := (tyOf f).width
  bitOp 3 f c fun a _ =>
    match f.fn.toNat with
    | 0 => popCount w a
    | 1 => leadZeros w a
    | _ => trailZeros w a

/-! Norm watch (R203). -/

/-- The exact sum of the squares of finite values, as a dyadic. -/
def sumSquares (xs : List Val) : Nat × Int :=
  let f := xs.foldl (fun a x => match x with
    | .num _ m e => if m ≠ 0 ∧ e < a then e else a
    | _ => a) 0
  (xs.foldl (fun acc x => match x with
    | .num _ m e => if m = 0 then acc else acc + (m * 2 ^ (e - f).toNat) ^ 2
    | _ => acc) 0, 2 * f)

/-- L of R203 with its flags NONFIN and CLAMP. -/
def normWatch (xs : List Val) : Nat × Bool × Bool :=
  if xs.any fun x => !x.isNum then (0x7FFFFFFF, true, false)
  else
    let (s, e) := sumSquares xs
    if s = 0 then (0x80000000, false, false)
    else
      let l := floorLog2Scaled 23 s e
      let y := sat l (-2 ^ 31 + 1) (2 ^ 31 - 2)
      (lowBits y 32, false, decide (y ≠ l))

def opVnwatch (fo : Focus) (f : VR) (c : Core) : Res Core :=
  let t := tyOf f
  let w := t.width
  let src := runA c f
  let is := (List.range (gsize f.gs * lanes w)).filter (active c f.pg w)
  let (l, nonfin, clamp) := normWatch (is.map fun i => t.val (elt w src i))
  .ok (c.event fo.now 3 (words32 [c.seq.pc.toNat, c.seq.pc.toNat / 2 ^ 32, c.scycle,
    f.vc.toNat + (if nonfin then 2 ^ 9 else 0) + (if clamp then 2 ^ 10 else 0) + is.length * 2 ^ 16,
    l, c.lcore + c.pidx * 2 ^ 16, c.starts, 0]))

end Sys2Proof.Machine
end

