-- ==== Sys2Proof/Machine/Accum.lean ====
section
/-! DEFINITION. Accumulator rows (11_accumulators): adding a pass's addends (R285), normalisation (R288),
row images and their conversion (R289, R290, R299), and ACCPOP in its V slot. -/

namespace Sys2Proof.Machine

/-- The range of X (R282). -/
def accLo : Int := -(2 ^ 63)
def accHi : Int := 2 ^ 63 - 1

/-- An addend of R251: its value is `s × 2^e`. -/
structure Addend where
  s   : Int
  e   : Int
  nan : Bool := false
  deriving DecidableEq, Repr

/-- One addend arrives at element `i` (R285). -/
def AccRow.add (r : AccRow) (i : Nat) (x : Addend) : AccRow :=
  if r.nan.testBit i then r
  else if x.nan then { r with elems := Tab.store r.elems i 3, nan := r.nan ||| 2 ^ i }
  else
    let a := roundRNE x.s (x.e - r.e + 16) 0
    let b := sat a accLo accHi
    let y := Tab.look 0 r.elems i + b
    let z := sat y accLo accHi
    { r with
      elems := if z = 0 then Tab.drop r.elems i else Tab.store r.elems i z
      ovf := r.ovf || b != a || z != y }

/-- The addends of one element in order. -/
def AccRow.addAll (r : AccRow) (i : Nat) (xs : List Addend) : AccRow :=
  xs.foldl (fun r x => if x.s = 0 ∧ !x.nan then r else r.add i x) r

/-- A row changes under an accumulate or a normalisation `f` (R285, R288): ACCEVT follows, and an OVF that
rises under a pass sends its event. -/
def Core.updateRow (c : Core) (now bank row : Nat) (pass : Option (Nat × Nat)) (f : AccRow → AccRow) : Core :=
  let old := c.accRow bank row
  let r := f { old with ovf := false }
  let c := c.setAccRow bank row { r with ovf := old.ovf || r.ovf }
  let c := if r.nan = old.nan then c else c.setCtlBits 0x051 (16 + bank) (16 + bank) 1
  let c := if r.ovf then c.setCtlBits 0x051 bank bank 1 else c
  match pass with
  | some (addr, scyc) => if r.ovf && !old.ovf then c.converterEvent now addr scyc 4 bank row else c
  | none => c

/-- ACCNORM on a row (R288), H apart. -/
def AccRow.normalise (r : AccRow) : AccRow :=
  let m := r.peak
  if m = 0 then r
  else
    let e2 := sat (r.e - (56 - (Nat.log2 m : Int))) (-32767) 32767
    let d := r.e - e2
    let live (p : Nat × Int) : Bool := !r.nan.testBit p.1
    let conv (x : Int) : Int := roundRNE x d 0
    { r with
      e := e2
      elems := (r.elems.map fun p =>
        if live p then (p.1, sat (conv p.2) accLo accHi) else p).filter fun p => p.2 != 0
      ovf := r.ovf || r.elems.any fun p => live p && sat (conv p.2) accLo accHi != conv p.2 }

/-- A row as ACCALLOC and ACCCLR write it (R295, R297), from a row setting. -/
def freshRow (setting : Nat) : AccRow := { e := signExt setting 16, h := bits setting 23 16 }

/-- A row setting that ACCALLOC and ACCCLR refuse (R295, R297). -/
def badSetting (x : Nat) : Bool := decide (2 ^ 24 ≤ x) || bits x 15 0 == 0x8000

/-- What `.clr` leaves of a row (R298). -/
def AccRow.cleared (r : AccRow) : AccRow := { e := r.e, h := r.h }

/-- The row image (R289), with H as counted when its command issued (R286). -/
def AccRow.image (r : AccRow) (h : Nat) : AccRow :=
  { r with h := h, e := if r.nan = allNan then -32768 else r.e }

/-- Element `i` of an image converted to `t` (R290). -/
def AccRow.convert (r : AccRow) (t : ETy) (j : Int) (i : Nat) : Rounded :=
  let x : Val := if r.nan.testBit i then .nan else Val.ofInt (Tab.look 0 r.elems i) (r.e + j - 16)
  roundTo t x .rne 0

/-- The 64 lanes of an image. -/
def AccRow.lanes (r : AccRow) (t : ETy) (j : Int) : List Rounded := (List.range 64).map (r.convert t j)

/-- The 768 bytes of ACCEXP.raw (R299). -/
def AccRow.rawBytes (r : AccRow) : List Byte :=
  ((List.range 64).map fun i => leBytes 8 (Tab.look 0 r.elems i % 2 ^ 64).toNat).flatten ++
    leBytes 2 (r.e % 2 ^ 16).toNat ++ [BitVec.ofNat 8 r.h, if r.ovf then 1 else 0] ++ leBytes 4 0 ++
    leBytes 8 r.nan ++ List.replicate 240 0

/-- A row image read back from its raw bytes (R289, R461). -/
def rawRow (x : Nat) : AccRow :=
  { elems := (List.range 64).filterMap fun i =>
      let v := signExt (x / 2 ^ (64 * i)) 64
      if v = 0 then none else some (i, v)
    e := signExt (x / 2 ^ 4096) 16
    h := bits x (4096 + 23) (4096 + 16)
    ovf := x.testBit (4096 + 24)
    nan := bits x (4096 + 127) (4096 + 64) }

/-- The bytes ACCEXP writes, and what the conversion reports (R299). -/
def AccRow.drained (r : AccRow) (fmt : Nat) : List Byte × List Rounded :=
  if fmt = 2 then (r.rawBytes, [])
  else
    let l := r.lanes (if fmt = 0 then .f else .i32) 0
    ((l.map fun x => leBytes 4 x.code).flatten, l)

/-- ACCPOP (R290): pops one row image, whole, and converts its elements. -/
def opAccpop (fo : Focus) (f : VR) (c : Core) : Res Core :=
  match c.q.rows with
  | [] => c.emptyQueue fo 6 false
  | r :: rest =>
    let l := r.lanes (tyOf f) (signExt f.vc.toNat 9)
    let on := (l.mapIdx fun i x => (active c f.pg 32 i, x)).filter (·.1) |>.map (·.2)
    let c := { c with q := { c.q with rows := rest } }
    .ok ((putElts c 6 f.vd.toNat 1 f.pg f.pz 32 (l.map (·.code))).putNumstat 6 (roundedSat on) (roundedNan on) 0)

end Sys2Proof.Machine
end

