-- ==== Sys2Proof/Machine/Caps.lean ====
section
/-! DEFINITION. Capability instructions (R157 to R160), scalar access to device memory (R161 to R163), and
the completion of a device access. -/

namespace Sys2Proof.Machine

/-- Runs an operation of one core inside the module. -/
def State.liftCore (s : State) (fo : Focus) (r : Core → Res Core) : Res State :=
  (r (s.core fo.core)).map (s.setCore fo.core)

/-- The commands of a core that are issued and not complete. -/
def Core.openIds (c : Core) : List Nat :=
  c.eng.mq.map (·.id) ++
  (c.eng.chans.map fun x => (x.2.queue.filter fun m => m.status.isNone).map (·.id)).flatten ++
  c.eng.carry.queue.map (·.id) ++ c.eng.follows.map (·.id) ++
  (c.eng.exports.filter fun e => !e.live).map (·.id) ++
  (c.eng.results.map fun x => x.2.map fun r => match r with | .wait i _ => i | .value i _ _ => i).flatten

/-- FENCE.E holds back scalar device accesses while an earlier command is open (R163). -/
def Core.fencedOff (c : Core) : Bool :=
  !c.seq.fenced.isEmpty && c.openIds.any c.seq.fenced.contains

/-- Translates `n` bytes at `a` for a slot access: the pages, a fault, or a wait (R161, R391). -/
def State.translateAll (s : State) (pod part : Nat) (write : Bool) :
    List (Nat × Nat) → (List (Nat × Nat × Page) ⊕ Trans) × State
  | [] => (.inl [], s)
  | ch :: r =>
    match s.translate pod part ch.1 write with
    | (.page p, s) =>
      match s.translateAll pod part write r with
      | (.inl l, s) => (.inl ((ch.1, ch.2, p) :: l), s)
      | x => x
    | (t, s) => (.inr t, s)

/-- Reads the bytes of translated pieces; a burst that fails gives its detail. -/
def State.readPages (s : State) : List (Nat × Nat × Page) → (List Byte ⊕ Nat) × State
  | [] => (.inl [], s)
  | x :: r =>
    let one := if x.2.2.loc = 0 then s.devRead (x.2.2.at x.1) x.2.1 x.2.2.cache
      else (.inl (Memory.bytes (s.hostMem (x.2.2.loc - 1)) (x.2.2.at x.1) x.2.1), s)
    match one with
    | (.inr d, s) => (.inr d, s)
    | (.inl bs, s) =>
      match s.readPages r with
      | (.inl rest, s) => (.inl (bs ++ rest), s)
      | y => y

/-- Writes bytes to translated pieces. -/
def State.writePages (s : State) : List (Nat × Nat × Page) → List Byte → State
  | [], _ => s
  | x :: r, bs =>
    let now := bs.take x.2.1
    let s := if x.2.2.loc = 0 then s.devWrite (x.2.2.at x.1) now x.2.2.mx x.2.2.cache
      else s.hostWrite (x.2.2.loc - 1) (x.2.2.at x.1) now
    s.writePages r (bs.drop x.2.1)

/-- The places of the bytes of translated pieces: LOC and physical address (R162). -/
def pagePlaces (l : List (Nat × Nat × Page)) : List Nat :=
  (l.map fun x => (List.range x.2.1).map fun i => x.2.2.loc * 2 ^ 52 + x.2.2.at x.1 + i).flatten

/-- GST and CAPST write, and the bytes are this core's own for the rest of the phase (R162). -/
def State.writeOwn (s : State) (n : Nat) (pages : List (Nat × Nat × Page)) (bs : List Byte) : State :=
  (s.writePages pages bs).onCore n fun c => { c with
    own := ((pagePlaces pages).zip bs).foldl (fun t e => Tab.store t e.1 e.2) c.own }

/-- What a GLD returns of the bytes that its stack reads (R162): for a byte that this core's GST or CAPST wrote in the
phase, what the last of them wrote. -/
def Core.ownBytes (c : Core) (pages : List (Nat × Nat × Page)) (bs : List Byte) : List Byte :=
  if c.own.isEmpty then bs else ((pagePlaces pages).zip bs).map fun e => Tab.look e.2 c.own e.1

/-- A scalar device access of the waiting bundle: it starts, waits with cause 4, and goes on as `k` says
once it is ready, with the bytes read and the pages (R161). -/
def State.deviceAccess (s : State) (fo : Focus) (op : Instr) (a n : Nat) (write : Bool)
    (k : List Byte → List (Nat × Nat × Page) → State → Res State) : Res State :=
  let c := s.core fo.core
  match c.seq.access with
  | some x => if x.ready then k x.data x.pages s else fo.waits 4 0 s
  | none =>
    if c.fencedOff then fo.waits 4 0 s
    else
      match s.translateAll (podOf fo.core) c.part write (pageChunks (n / 4096 + 2) a n) with
      | (.inr (.fault d), _) => .trap (fo.trap Cause.translation d)
      | (.inr (.wait .full), s) => fo.waits 7 (podOf fo.core) s
      | (.inr _, s) => fo.waits 4 0 s
      | (.inl pages, s) =>
        -- R484, item 6 (log 72)
        if pages.any fun x => !s.reaches c.part x.2.2 then .trap (fo.trap Cause.hostLinkTorn) else
        let x : DevAccess := {
          slot := fo.slot, op := op, due := s.now + (if write then s.params.accept else s.params.mem),
          ready := false, write := write, data := [], fault := none, pages := pages }
        fo.waits 4 0 (s.onCore fo.core fun c => { c with seq := { c.seq with access := some x } })

/-- A device access ends (R161, R363): a read returns its bytes or the data-check fault, a write is
accepted. -/
def State.endAccess (s : State) (n : Nat) : State :=
  match (s.core n).seq.access with
  | some x =>
    if x.ready || decide (s.now < x.due) then s
    else if !x.write then
      match s.readPages x.pages with
      | (.inl bs, s) => s.onCore n fun c => { c with seq := { c.seq with
          access := some { x with
            ready := true
            data := match x.op with
              | .gld _ => c.ownBytes x.pages bs
              | _ => bs } } }
      | (.inr d, s) => s.onCore n fun c => { c with seq := { c.seq with
          access := some { x with ready := true, fault := some {
            cause := Cause.dataCheck, det := BitVec.ofNat 64 d, src := 4, cmd := c.seq.pc } } } }
    else s.onCore n fun c => { c with seq := { c.seq with access := some { x with ready := true } } }
  | none => s

/-- The access has served its bundle. -/
def State.closeAccess (s : State) (n : Nat) : State :=
  s.onCore n fun c => { c with seq := { c.seq with access := none } }

/-! GLD and GST (R161). -/

def gldReg (f : SRI) : Nat := bits f.imm.toNat 13 10
def gldOffset (fo : Focus) (f : SRI) (c : Core) : Int :=
  ((c.sreg f.sa.toNat).toNat : Int) + wrap48 (signExt (bits f.imm.toNat 9 0) 10 * 8 + fo.dv.o)

/-- The checks of a device access through a capability in the order of R161: R155, code lines (R69),
alignment. -/
def State.accessChecks (s : State) (fo : Focus) (creg need : Nat) (types : List Nat) (off : Int) (n : Nat)
    (write : Bool) (misaligned : Trap) (k : Nat → Res State) : Res State :=
  let c := s.core fo.core
  match s.capCheck c creg (c.cap creg) need types off n with
  | .inr d => .trap (fo.trap Cause.capability d)
  | .inl a =>
    if write && s.hitsCode c.part a n then .trap (fo.trap Cause.capability (capDetail creg 6 off))
    else if off % (n : Int) ≠ 0 then .trap misaligned
    else k a

def opGld (fo : Focus) (f : SRI) (s : State) : Res State :=
  let c := s.core fo.core
  let off := gldOffset fo f c
  s.accessChecks fo (gldReg f) Perm.rd [0, 2] off 8 false (fo.trap Cause.misaligned (addrWord off)) fun a =>
    s.deviceAccess fo (.gld f) a 8 false fun bs _ s =>
      .ok (s.onCore fo.core fun c => c.putS 4 f.sd.toNat (BitVec.ofNat 64 (leNat bs)))

def opGst (fo : Focus) (f : SRI) (s : State) : Res State :=
  let c := s.core fo.core
  let off := gldOffset fo f c
  s.accessChecks fo (gldReg f) Perm.wr [0] off 8 true (fo.trap Cause.misaligned (addrWord off)) fun a =>
    s.deviceAccess fo (.gst f) a 8 true fun _ pages s =>
      .ok (s.writeOwn fo.core pages (leBytes 8 (c.sreg f.sd.toNat).toNat))

/-! CAPLD and CAPST (R157, R158). -/

/-- The table form. -/
def opCapld (fo : Focus) (f : SRI) (s : State) : Res State :=
  let c := s.core fo.core
  let i := (c.sreg f.sa.toNat).toNat + bits f.imm.toNat 7 0
  let e := (s.ttOf c).caps.getD i {}
  if (s.ttOf c).caps.length ≤ i ∨ !e.used ∨ !e.holders.testBit c.lcore then
    .trap (fo.trap Cause.capability (capDetail f.sd.toNat 5 i))
  else .ok (s.onCore fo.core fun c =>
    c.emit 4 (.cap f.sd.toNat { e.cap with tag := true, entry := BitVec.ofNat 8 i }))

def recordReg (f : SRI) : Nat := bits f.imm.toNat 12 9
def recordOffset (f : SRI) (c : Core) : Int :=
  ((c.sreg f.sa.toNat).toNat : Int) + signExt (bits f.imm.toNat 8 0) 9 * 32

/-- The 128 visible bits of a capability (R150). -/
def Cap.visible (x : Cap) : Nat :=
  x.base.toNat + x.length.toNat * 2 ^ 64 + x.perm.toNat * 2 ^ 112 + x.type.toNat * 2 ^ 122

/-- A capability from its 128 bits. -/
def capOfBits (x : Nat) : Cap := {
  base := BitVec.ofNat 64 x, length := BitVec.ofNat 48 (x / 2 ^ 64), perm := BitVec.ofNat 10 (x / 2 ^ 112),
  type := BitVec.ofNat 6 (x / 2 ^ 122) }

/-- Where a sealed record of a launch is noted. -/
def sealKey (launch a : Nat) : Nat := launch * 2 ^ 57 + a

/-- A record verifies when CAPST of the running launch wrote its 256 bits at that address (R158). -/
def State.verifies (s : State) (launch a x : Nat) : Bool :=
  (Tab.look [] s.seals (sealKey launch a)).contains (BitVec.ofNat 256 x)

/-- The memory form. -/
def opCapldMemory (fo : Focus) (f : SRI) (s : State) : Res State :=
  let c := s.core fo.core
  let off := recordOffset f c
  let r := recordReg f
  s.accessChecks fo r (Perm.rd + Perm.cl) [1] off 32 false (fo.trap Cause.capability (capDetail r 7 off))
    fun a => s.deviceAccess fo (.capldMemory f) a 32 false fun bs _ s =>
      let x := leNat bs
      let cap := { capOfBits x with
        entry := BitVec.ofNat 8 (x / 2 ^ 128), tag := s.verifies (s.ttOf c).launch a x }
      .ok (s.onCore fo.core fun c => c.emit 4 (.cap f.sd.toNat cap))

def opCapst (fo : Focus) (f : SRI) (s : State) : Res State :=
  let c := s.core fo.core
  let off := recordOffset f c
  let r := recordReg f
  let x := c.cap f.sd.toNat
  if !x.tag then .trap (fo.trap Cause.capability (capDetail f.sd.toNat 1 off))
  else
    s.accessChecks fo r (Perm.wr + Perm.cs) [1] off 32 true (fo.trap Cause.capability (capDetail r 7 off))
      fun a => s.deviceAccess fo (.capst f) a 32 true fun _ pages s =>
        let launch := (s.ttOf c).launch
        let body := x.visible + x.entry.toNat * 2 ^ 128
        let rec_ := body + (Config.capSeal launch (BitVec.ofNat 136 body) a).toNat * 2 ^ 136
        let s := s.writeOwn fo.core pages (leBytes 32 rec_)
        let key := sealKey launch a
        .ok { s with seals := Tab.store s.seals key (BitVec.ofNat 256 rec_ :: Tab.look [] s.seals key) }

/-- CNARROW (R159). -/
def opCnarrow (fo : Focus) (f : SRRR) (c : Core) : Res Core :=
  let m := (c.sreg (f.sb.toNat + 1)).toNat
  let o := (c.sreg f.sb.toNat).toNat
  let len := bits m 47 0
  let x := c.cap f.sa.toNat
  if bits m 63 58 ≠ 0 then .trap (fo.trap Cause.illegalOperand)
  else if !x.tag then .trap (fo.trap Cause.capability (capDetail f.sa.toNat 1 o))
  else if x.length.toNat < o + len then .trap (fo.trap Cause.capability (capDetail f.sa.toNat 2 o))
  else .ok (c.emit 2 (.cap f.sd.toNat { x with
    base := x.base + BitVec.ofNat 64 o, length := BitVec.ofNat 48 len
    perm := x.perm &&& BitVec.ofNat 10 (bits m 57 48), tag := true }))

/-- CQUERY (R160); decode has refused other FN values. -/
def opCquery (fo : Focus) (f : SRRR) (s : State) : Res State :=
  let c := s.core fo.core
  let x := c.cap f.sa.toNat
  let v := match f.fn.toNat with
    | 0 => x.base.toNat
    | 1 => x.length.toNat
    | 2 => x.perm.toNat
    | 3 => s.effectivePerm c x
    | 4 => x.type.toNat
    | _ => (if x.tag then 1 else 0) + x.entry.toNat * 256
  .ok (s.setCore fo.core (c.putS 2 f.sd.toNat (BitVec.ofNat 64 v)))

/-- FENCE.E never waits itself (R163). -/
def opFenceE (_ : Focus) (_ : SRI) (c : Core) : Res Core :=
  .ok { c with seq := { c.seq with fenced := (c.openIds ++ c.seq.fenced).eraseDups } }

end Sys2Proof.Machine
end

