-- ==== Sys2Proof/Machine/Banks.lean ====
section
/-! DEFINITION. The arithmetic of a compute bank (R241 to R257): geometry, images, segment sums and the
addends of a token; the view of row sets that issue checks use; outlier lists (R259); the sheller stream
(R261). -/

namespace Sys2Proof.Machine

/-! Geometry (R241, R245, R257). -/

/-- w of a weight format. -/
def weightSlices (wfmt : Nat) : Nat :=
  match wfmt with
  | 2 | 7 => 2
  | 8 => 8
  | 9 => 1
  | _ => 4

/-- Planes a of an activation format; `n` for mxintn. -/
def actPlanes (afmt n : Nat) : Nat :=
  match afmt with
  | 1 | 5 | 6 => 6
  | 2 | 7 => 4
  | 8 => 16
  | 10 => n
  | 11 => 1
  | _ => 8

/-- Output columns C. -/
def RowSet.cols (r : RowSet) : Nat := 256 / weightSlices r.wfmt

/-- Rows an accumulate of one token reaches (R252). -/
def RowSet.accRows (r : RowSet) : Nat := if weightSlices r.wfmt = 8 then 1 else r.cols / 64

/-- Weights kept of each group of 24. -/
def keptOf (storage : Nat) : Nat := 4 * storage

/-- Kd. -/
def tokenElems (storage : Nat) : Nat :=
  match storage with
  | 0 => 256 | 1 => 1536 | 2 => 768 | _ => 512

/-- Blocks per token B. -/
def tokenBlocks (storage : Nat) : Nat :=
  match storage with
  | 0 => 8 | 1 => 16 | 2 => 8 | _ => 6

/-- Block of segment k. -/
def segmentBlock (storage k : Nat) : Nat :=
  match storage with
  | 1 => k
  | 3 => if k = 15 then 5 else k / 3
  | _ => k / 2

/-- Bytes of one token, TB. -/
def tokenBytes (storage planes : Nat) : Nat := tokenElems storage * planes / 8

/-- First element and length of activation block β. -/
def actBlock (storage b : Nat) : Nat × Nat :=
  if storage = 0 then (32 * b, 32) else (96 * b, if storage = 3 ∧ b = 5 then 32 else 96)

/-- First stored row and number of rows of weight block β (R257). -/
def weightBlock (storage b : Nat) : Nat × Nat :=
  match storage with
  | 1 => (16 * b, 16)
  | 3 => if b = 5 then (240, 16) else (48 * b, 48)
  | _ => (32 * b, 32)

/-- Src(r) (R257). -/
def RowSet.src (r : RowSet) (row : Nat) : Nat :=
  if r.storage = 0 then row
  else 24 * (row / keptOf r.storage) + Tab.look 0 r.idx row

/-! Images (R130, R131, R245, R246). -/

/-- The images of a block of codes of format `fmt`, `n` bits for mxintn: images, unit exponent, and whether
the block counts as one with the NaN scale. -/
def formatImages (fmt n : Nat) (codes : List Nat) : List Int × Int × Bool :=
  match fmt with
  | 0 => blockImages .int8 codes
  | 1 => blockImages .int6 (codes.map (· % 64))
  | 2 => blockImages .int4 codes
  | 3 => blockImages .fp8e4 codes
  | 4 => blockImages .fp8e5 codes
  | 5 => blockImages .fp6e2 (codes.map (· % 64))
  | 6 => blockImages .fp6e3 (codes.map (· % 64))
  | 7 => blockImages .fp4 codes
  | 8 => (codes.map fun c => signExt c 16, -14, false)
  | 9 => (codes.map fun c => signExt c 2, 0, false)
  | 10 => (codes.map fun c => signExt c n, -((n : Int) - 2), false)
  | _ => (codes.map fun c => (c % 2 : Nat), 0, false)

/-- Element `i` of a token of `kd` elements: packed, or the bits of its planes (R248). -/
def tokenCode (planar : Bool) (planes kd x i : Nat) : Nat :=
  if planar then
    (List.range planes).foldl (fun v p => 2 * v + (if x.testBit (p * kd + i) then 1 else 0)) 0
  else elt planes x i

/-- A token's activation images by block: the images, f, and NaN. -/
def tokenImages (storage afmt planes : Nat) (planar : Bool) (bs : List Byte) : List (List Int × Int × Bool) :=
  let x := leNat bs
  (List.range (tokenBlocks storage)).map fun b =>
    let e := actBlock storage b
    formatImages afmt planes ((List.range e.2).map fun i =>
      tokenCode planar planes (tokenElems storage) x (e.1 + i))

/-- The stored weight of row `r` and column `j` (R241). -/
def RowSet.code (r : RowSet) (rows : List Nat) (row j : Nat) : Nat :=
  let w := weightSlices r.wfmt
  elt (2 * w) (rows.getD row 0) j

/-- The image's rows as numbers. -/
def RowSet.rowWords (r : RowSet) : List Nat := (List.range 256).map fun i => Memory.num r.image (64 * i) 64

/-- A column's weight images by block. -/
def RowSet.column (r : RowSet) (rows : List Nat) (j : Nat) : List (List Int × Int × Bool) :=
  (List.range (tokenBlocks r.storage)).map fun b =>
    let e := weightBlock r.storage b
    formatImages r.wfmt 0 ((List.range e.2).map fun i => r.code rows (e.1 + i) j)

/-- The 16 addends of one column for one token (R251). -/
def columnAddends (r : RowSet) (outl : List Outlier) (act : List (List Int × Int × Bool))
    (x : List Int) (ca : List Nat) (rows : List Nat) (j : Nat) : List Addend :=
  let wb := r.column rows j
  (List.range 16).map fun k =>
    let b := segmentBlock r.storage k
    let first := (weightBlock r.storage b).1
    let w := wb.getD b ([], 0, false)
    let a := act.getD b ([], 0, false)
    let cw := Tab.look 0 r.scales (j * tokenBlocks r.storage + b)
    let cact := ca.getD b 0
    let xr (row : Nat) : Int := x.getD (r.src row) 0
    let wr (row : Nat) : Int := w.1.getD (row - first) 0
    let s := (List.range 16).foldl (fun s i => s + xr (16 * k + i) * wr (16 * k + i)) 0
    let e := ((cact : Int) - 127 + a.2.1) + ((cw : Int) - 127 + w.2.1)
    let here := outl.filter fun o => o.col == j && o.row / 16 == k
    let nan := cact == 0xFF || cw == 0xFF || a.2.2 || w.2.2
    if here.isEmpty then { s := s, e := e, nan := nan }
    else
      { s := here.foldl (fun s o => s + xr o.row * (o.v - wr o.row * 2 ^ 8)) (s * 2 ^ 8)
        e := e - 8
        nan := nan }

/-- The accumulator row and element of column `j` (R252). -/
def columnPlace (r : RowSet) (base half j : Nat) : Nat × Nat :=
  if weightSlices r.wfmt = 8 then (base, 32 * half + j) else (base + j / 64, j % 64)

/-! Row sets as commands and checks see them. -/

/-- The row set a command names: of the bank as it is, or of before a mode change (R240). -/
def Core.setOf (c : Core) (b : PassBank) : RowSet :=
  let x := c.bank b.bank
  if x.gen = b.gen then Tab.look {} x.sets b.rs
  else match c.eng.retired.find? fun r => r.bank == b.bank && r.gen == b.gen with
    | some r => Tab.look {} r.sets b.rs
    | none => {}

/-- The outlier list of the bank that a command names. -/
def Core.outlList (c : Core) (b : PassBank) : List Outlier :=
  let x := c.bank b.bank
  if x.gen = b.gen then x.outl
  else match c.eng.retired.find? fun r => r.bank == b.bank && r.gen == b.gen with
    | some r => r.outl
    | none => []

/-- The entries of a row set that command `id` sees: those that no command before it has discarded (R259, R263). -/
def Core.outliersOf (c : Core) (b : PassBank) (id : Nat) : List Outlier :=
  (c.outlList b).filter fun o => o.rs == b.rs && (o.gone.all fun k => decide (id < k))

/-- Changes a row set where it stands. -/
def Core.onSet (c : Core) (b : PassBank) (f : RowSet → RowSet) : Core :=
  let x := c.bank b.bank
  if x.gen = b.gen then c.setBank b.bank { x with sets := Tab.store x.sets b.rs (f (Tab.look {} x.sets b.rs)) }
  else { c with eng := { c.eng with retired := c.eng.retired.map fun r =>
      if r.bank = b.bank ∧ r.gen = b.gen then
        { r with sets := Tab.store r.sets b.rs (f (Tab.look {} r.sets b.rs)) } else r } }

/-- Changes the outlier list a command sees. -/
def Core.onOutliers (c : Core) (b : PassBank) (f : List Outlier → List Outlier) : Core :=
  let x := c.bank b.bank
  if x.gen = b.gen then c.setBank b.bank { x with outl := f x.outl }
  else { c with eng := { c.eng with retired := c.eng.retired.map fun r =>
      if r.bank = b.bank ∧ r.gen = b.gen then { r with outl := f r.outl } else r } }

/-- Command `id` discards the entries of a row set as it issues (R259); the commands before it still see them. -/
def Core.discardOutliers (c : Core) (b : PassBank) (id : Nat) : Core :=
  c.onOutliers b fun l => l.map fun o => if o.rs = b.rs ∧ o.gone.isNone then { o with gone := some id } else o

/-- Command `id` starts: no command before it is left that sees the entries it discarded. -/
def Core.dropOutliers (c : Core) (b : PassBank) (id : Nat) : Core :=
  c.onOutliers b fun l => l.filter fun o => !(o.rs == b.rs && (o.gone.any fun k => decide (k ≤ id)))

/-- A row set by bank and number, in the bank's present generation. -/
def Core.nameSet (c : Core) (bank rs : Nat) : PassBank := { bank := bank, gen := (c.bank bank).gen, rs := rs }

/-- What a waiting M command will leave of a row set's formats and storage (R263). -/
def MWork.reshape (b : PassBank) (r : RowSet) : MWork → RowSet
  | .bprec t w a n => if t = b then { r with wfmt := w, afmt := a, planes := n } else r
  | .bsparse t k _ => if t = b then { r with storage := k } else r
  | .bclr t true => if t = b then { r with wfmt := 0, afmt := 0, planes := 8, storage := 0, tag := 0 } else r
  | .bdir t _ _ fresh => if t = b ∧ fresh then { r with wfmt := 8, afmt := 8, planes := 16 } else r
  | _ => r

/-- A row set as the commands already issued leave its formats and storage. -/
def Core.viewSet (c : Core) (b : PassBank) : RowSet :=
  c.eng.mq.foldl (fun r m => m.work.reshape b r) (c.setOf b)

/-- A row set is EMPTY for a BDIR that issues now (R279): no BDIR issued since it was emptied has still to end. -/
def Core.emptyForDir (c : Core) (b : PassBank) : Bool :=
  c.eng.mq.foldl (fun e m => match m.work with
    | .bdir t _ _ _ => if t = b then false else e
    | .bclr t _ => if t = b then true else e
    | _ => e) ((c.setOf b).state == 0)

/-- A copy command that fills a row set, and which (R262). -/
def CopyCmd.fills (m : CopyCmd) : Option PassBank :=
  let set := m.nest.dkind == 2
  match m.kind with
  | .go => if set then some { bank := m.nest.bank, gen := m.gen, rs := m.nest.rs } else none
  | .shell => some { bank := m.nest.bank, gen := m.gen, rs := m.nest.rs }
  | _ => none

/-- The first command issued after `id` that discards the entries of a row set (R259). -/
def Core.nextDiscard (c : Core) (b : PassBank) (id : Nat) : Option Nat :=
  let inM := c.eng.mq.filterMap fun m => match m.work with
    | .bclr t _ => if t = b then some m.id else none
    | .bzero t => if t = b then some m.id else none
    | .bload t _ _ => if t = b then some m.id else none
    | _ => none
  let inCopy := ((List.range 8).map fun ch => ((c.chan ch).queue.filter fun m => m.fills == some b).map (·.id)).flatten
  ((inM ++ inCopy).filter fun k => decide (id < k)).min?

/-! The sheller (R261). -/

/-- Why a sheller stream is refused: malformed at a byte offset, or a plane that fails its CRC. -/
inductive Shell where
  | plane (bytes : List Byte)
  | malformed (at_ : Nat)
  | integrity
  deriving DecidableEq, Repr

/-- The decoder: bytes left, the offset of the next, chunks written in reverse order, and the
dictionary. `fuel` bounds the codes. -/
def shellDecode : Nat → List Byte → Nat → List (List Byte) → Option (List (List Byte)) → Shell
  | 0, _, at_, _, _ => .malformed at_
  | fuel + 1, bs, at_, out, dict =>
    let n := out.length
    let k := (dict.getD []).length
    match bs with
    | [] => .malformed at_
    | code :: r =>
      let c := code.toNat
      if c = 0x08 ∧ n = 0 ∧ k = 0 then
        match r with
        | [] => .malformed (at_ + 1)
        | kb :: r =>
          let k := kb.toNat
          if k < 1 ∨ 16 < k then .malformed (at_ + 1)
          else if r.length < 64 * k then .malformed (at_ + 2 + r.length)
          else
            let d := (List.range k).map fun i => (r.drop (64 * i)).take 64
            shellDecode fuel (r.drop (64 * k)) (at_ + 2 + 64 * k) out (some d)
      else if c = 0x0F ∧ n = 256 then
        if r.length < 4 then .malformed (at_ + 1 + r.length)
        else if 4 < r.length then .malformed (at_ + 5)
        else
          let plane := out.reverse.flatten
          if leNat r = crc32 plane then .plane plane else .integrity
      else if n = 256 then .malformed at_
      else if c = 0x00 then
        if r.length < 64 then .malformed (at_ + 1 + r.length)
        else shellDecode fuel (r.drop 64) (at_ + 65) (r.take 64 :: out) dict
      else if c = 0x01 then shellDecode fuel r (at_ + 1) (List.replicate 64 0 :: out) dict
      else if c = 0x02 ∧ n ≠ 0 then shellDecode fuel r (at_ + 1) (out.headD [] :: out) dict
      else if 0x10 ≤ c ∧ c ≤ 0x1F ∧ c - 0x10 < k then
        shellDecode fuel r (at_ + 1) ((dict.getD []).getD (c - 0x10) [] :: out) dict
      else .malformed at_

/-- A whole sheller stream: at most a dictionary, 256 chunks and the end code. -/
def shellPlane (bs : List Byte) : Shell := shellDecode 258 bs 0 [] none

end Sys2Proof.Machine
end

