-- ==== Sys2Proof/Machine/Direction.lean ====
section
/-! DEFINITION. The direction instructions (08_directions): renormalisation, conversion, products, norm
arithmetic, sums, moves and queries. -/

namespace Sys2Proof.Machine

/-- The zero and the non-finite norm codes (R205). -/
def zeroCode : Nat := 0x80000000
def nonFiniteCode : Nat := 0x7FFFFFFF

/-- Component `i` of a direction run, as a signed integer in units of 2^−15 (R204). -/
def comp (x i : Nat) : Int := signExt (elt 16 x i) 16

/-- A positive real enclosed between `lo·2^e` and `hi·2^e`, truncated 7 bits below 24 significant bits
and rounded (Faith24, R208), as a dyadic; none when the ends differ. -/
def faithBoth (lo hi : Nat) (e : Int) : Option (Nat × Int) :=
  let t := fun x =>
    let w := floorLog2 x e - 30
    ((quotient x e w).1, w)
  if lo = 0 then none else if t lo = t hi then
    let (q, w) := t lo
    some (roundMag false q w (w + 7) .rne 0, w + 7)
  else none

/-- Faith24(1/sqrt(S)) for `S = s·2^e`, exact by integer square root (R208). -/
def faithRsq (s : Nat) (e : Int) : Nat × Int :=
  let w := ratioLog2 s (-e) / 2 - 30
  let q := isqrt (2 ^ (-e - 2 * w).toNat / s)
  (roundMag false q w (w + 7) .rne 0, w + 7)

/-- Faith24(2^(−t·2^−24)) for `t ≥ 0` (R218). -/
def faithExp2 (t : Nat) : Nat × Int :=
  let n : Int := -(t : Int) / 2 ^ 24
  let num := (-(t : Int) % 2 ^ 24).toNat
  if num = 0 then (2 ^ 23, n - 23)
  else
    match firstAnswer (fun P =>
        let (lo, hi) := exp2Frac num 24 P
        faithBoth lo hi (n - P)) precisions with
    | some r => r
    | none => (2 ^ 23, n - 23)

/-- A norm value: a real length's code, or the zero code (R208). -/
inductive NormVal where
  | zero
  | value (l : Int)
  deriving DecidableEq, Repr

/-- Renormalise (R208) over the exact values `xs(i)·2^e`: components and the norm value. -/
def renormalise (xs : List Int) (e : Int) : List Int × NormVal :=
  let s := xs.foldl (fun a x => a + x.natAbs * x.natAbs) 0
  if s = 0 then (xs.map fun _ => 0, .zero)
  else
    let l := floorLog2Scaled 23 s (2 * e)
    let (r, er) := faithRsq s (2 * e)
    (xs.map fun x => sat (roundRNE (x * r) (e + er + 15) 0) (-32768) 32767, .value l)

/-- NormCode (R208): components, code and whether SAT is set; `keep` keeps the components on an underflow
(R217). -/
def normCode (keep : Bool) (cs : List Int) (v : Int) : List Int × Nat × Bool :=
  if v < -2 ^ 31 + 1 then (if keep then cs else cs.map fun _ => 0, zeroCode, false)
  else if 2 ^ 31 - 2 < v then (cs, lowBits (2 ^ 31 - 2) 32, true)
  else (cs, lowBits v 32, false)

/-- The run of components. -/
def packComps (cs : List Int) : Nat := packElts 16 (cs.map fun x => lowBits x 16)

/-- Writes a direction group, visible after `L`. -/
def putDir (c : Core) (L r g : Nat) (x : Nat) : Core :=
  (List.range g).foldl (fun c j => c.emit L (.dir (r + j) (member x j))) c

def putNorm (c : Core) (L r : Nat) (n : Nat) : Core := c.emit L (.norm r (BitVec.ofNat 32 n))

/-- The values `xs` with one common exponent. -/
def commonExp (xs : List Val) : List Int × Int :=
  let f := xs.foldl (fun a x => match x with
    | .num _ m e => if m ≠ 0 ∧ e < a then e else a
    | _ => a) 0
  (xs.map fun x => match x with
    | .num neg m e => if m = 0 then 0 else alignTo neg m e f
    | _ => 0, f)

def opDnorm (_ : Focus) (f : VR) (c : Core) : Res Core :=
  let t := tyOf f
  let w := t.width
  let g := gsize f.gs
  let src := c.group f.va.toNat (if w = 32 then 2 * g else g)
  let xs := (List.range (128 * g)).map fun i =>
    if active c f.pg w i then t.val (elt w src i) else .num false 0 0
  if xs.any fun x => !x.isNum then
    .ok (putNorm (putDir c 14 f.vd.toNat g 0) 16 f.vd.toNat nonFiniteCode)
  else
    let (ys, e) := commonExp xs
    match renormalise ys e with
    | (_, .zero) => .ok (putNorm (putDir c 14 f.vd.toNat g 0) 16 f.vd.toNat zeroCode)
    | (cs, .value l) =>
      let (cs, n, s) := normCode false cs l
      .ok ((putNorm (putDir c 14 f.vd.toNat g (packComps cs)) 16 f.vd.toNat n).putNumstat 16 s false 0)

/-- `c × 2^−15 × 2^(N·2^−24)` truncated 7 bits below TY's last bit (R214). -/
def dexpTrunc (F : FFmt) (m : Nat) (n : Int) : Nat × Int :=
  let ip : Int := n / 2 ^ 24
  let num := (n % 2 ^ 24).toNat
  if num = 0 then truncMag F m (ip - 15)
  else
    let enclose := fun P => let (lo, hi) := exp2Frac num 24 P; (m * lo, m * hi)
    match firstAnswer (fun P =>
        let (lo, hi) := enclose P
        truncBoth F lo hi (ip - 15 - P)) precisions with
    | some t => t
    | none => truncMag F (enclose 1152).1 (ip - 15 - 1152)

/-- The registers of a run of 128 components per member of element width `w` (R210). -/
def dirRun (w g : Nat) : Nat := if w = 32 then 2 * g else g

def opDexp (fo : Focus) (f : VR) (c : Core) : Res Core :=
  let t := tyOf f
  let w := t.width
  let F := fmtOf f
  let g := gsize f.gs
  let src := c.dgroup f.va.toNat g
  let n := (c.nreg f.va.toNat).toNat
  withDraws fo (rmOf f) c (128 * g) fun bs c =>
    let rs := (List.range (128 * g)).map fun i =>
      let x := comp src i
      if n = nonFiniteCode then { code := F.nanCode }
      else if n = zeroCode ∨ x = 0 then { code := 0 }
      else
        let (q, k) := dexpTrunc F x.natAbs (signExt n 32)
        roundFloat F (.num (decide (x < 0)) q k) (rmOf f) (bs.getD i 0)
    .ok (putElts c 8 f.vd.toNat (dirRun w g) f.pg f.pz w (rs.map (·.code)))

def opDexpRaw (_ : Focus) (f : VR) (c : Core) : Res Core :=
  let g := gsize f.gs
  let src := c.dgroup f.va.toNat g
  .ok (putElts c 8 f.vd.toNat g f.pg f.pz 16 ((List.range (128 * g)).map (elt 16 src)))

/-- The cosine of two directions (R215) as a binary32 code. -/
def cosine (rm : RMode) (g : Nat) (xa na xb nb : Nat) : Nat :=
  if na = nonFiniteCode ∨ nb = nonFiniteCode then FFmt.f32.nanCode
  else if na = zeroCode ∨ nb = zeroCode then 0
  else
    let d := (List.range (128 * g)).foldl (fun a i => a + comp xa i * comp xb i) 0
    (roundFloat .f32 (Val.ofInt (sat d (-2 ^ 30) (2 ^ 30)) (-30)) rm 0).code

def opDdot (_ : Focus) (f : VR) (c : Core) : Res Core :=
  let g := gsize f.gs
  .ok (c.putS 10 f.vd.toNat (BitVec.ofNat 64 (cosine (rmOf f) g
    (c.dgroup f.va.toNat g) (c.nreg f.va.toNat).toNat (c.dgroup f.vb.toNat g) (c.nreg f.vb.toNat).toNat)))

def opDdotm (_ : Focus) (f : VR) (c : Core) : Res Core :=
  let g := gsize f.gs
  let m := f.vc.toNat + 1
  let xa := c.dgroup f.va.toNat g
  let na := (c.nreg f.va.toNat).toNat
  .ok (putElts c 12 f.vd.toNat 1 f.pg f.pz 32 ((List.range 64).map fun j =>
    if j < m then
      let r := f.vb.toNat + j * g
      cosine (rmOf f) g xa na (c.dgroup r g) (c.nreg r).toNat
    else 0))

/-- DSCALE's norm code (R217): an addend, or a special code of either norm. -/
def scaleNorm (c : Core) (vd : Nat) (a : Nat) (other : Option Nat) (e : Int) : Res Core :=
  let special := fun code => decide (a = code) || decide (other = some code)
  if special nonFiniteCode then .ok (putNorm c 3 vd nonFiniteCode)
  else if special zeroCode then .ok (putNorm c 3 vd zeroCode)
  else
    let (_, n, s) := normCode true [] (signExt a 32 + e)
    .ok ((putNorm c 3 vd n).putNumstat 3 s false 0)

def opDscale (_ : Focus) (f : VR) (c : Core) : Res Core :=
  scaleNorm c f.vd.toNat (c.nreg f.va.toNat).toNat none (signExt (f.vb.toNat * 2 ^ 9 + f.vc.toNat) 18 * 2 ^ 12)
def opDscaleAdd (_ : Focus) (f : VR) (c : Core) : Res Core :=
  let b := (c.nreg f.vb.toNat).toNat
  scaleNorm c f.vd.toNat (c.nreg f.va.toNat).toNat (some b) (signExt b 32)
def opDscaleSub (_ : Focus) (f : VR) (c : Core) : Res Core :=
  let b := (c.nreg f.vb.toNat).toNat
  scaleNorm c f.vd.toNat (c.nreg f.va.toNat).toNat (some b) (-signExt b 32)

/-- The direction write of DADD (R218). -/
def putDirNorm (c : Core) (f : VR) (cs : List Int) (n : Nat) : Core :=
  putNorm (putDir c 16 f.vd.toNat (gsize f.gs) (packComps cs)) 18 f.vd.toNat n

def opDadd (_ : Focus) (f : VR) (c : Core) : Res Core :=
  let g := gsize f.gs
  let (xa, xb) := (c.dgroup f.va.toNat g, c.dgroup f.vb.toNat g)
  let (na, nb) := ((c.nreg f.va.toNat).toNat, (c.nreg f.vb.toNat).toNat)
  let ca := (List.range (128 * g)).map (comp xa)
  let cb := (List.range (128 * g)).map (comp xb)
  let σ : Int := if f.fn.getLsbD 0 then -1 else 1
  if na = nonFiniteCode ∨ nb = nonFiniteCode then .ok (putDirNorm c f (ca.map fun _ => 0) nonFiniteCode)
  else if na = zeroCode ∧ nb = zeroCode then .ok (putDirNorm c f (ca.map fun _ => 0) zeroCode)
  else if na = zeroCode then .ok (putDirNorm c f (cb.map fun x => sat (σ * x) (-32768) 32767) nb)
  else if nb = zeroCode then .ok (putDirNorm c f ca na)
  else
    let (a, b) := (signExt na 32, signExt nb 32)
    let (r, er) := faithExp2 (a - b).natAbs
    -- the larger operand is brought to the exponent of the scaled one
    let up : Int := 2 ^ (-er).toNat
    let xs := if b ≤ a then (ca.zip cb).map fun p => p.1 * up + σ * r * p.2
      else (ca.zip cb).map fun p => r * p.1 + σ * up * p.2
    match renormalise xs (er - 15) with
    | (cs, .zero) => .ok (putDirNorm c f cs zeroCode)
    | (cs, .value l) =>
      let (cs, n, s) := normCode false cs ((if b ≤ a then a else b) + l)
      .ok ((putDirNorm c f cs n).putNumstat 18 s false 0)

/-- `Σ c(i)^2 − 2^30` over a run of components (R219). -/
def unitDeviation (x g : Nat) : Int :=
  (List.range (128 * g)).foldl (fun a i => a + comp x i * comp x i) 0 - 2 ^ 30

def opDset (_ : Focus) (f : VR) (c : Core) : Res Core :=
  let g := gsize f.gs
  let x := c.group f.va.toNat g
  let n := (c.sreg f.vb.toNat).toNat % 2 ^ 32
  let r := if n = zeroCode ∨ n = nonFiniteCode then (0, n)
    else if 2 ^ 20 < (unitDeviation x g).natAbs then (0, nonFiniteCode)
    else (x, n)
  .ok (putNorm (putDir c 2 f.vd.toNat g r.1) 2 f.vd.toNat r.2)

def opDneg (_ : Focus) (f : VR) (c : Core) : Res Core :=
  let g := gsize f.gs
  let x := c.dgroup f.va.toNat g
  .ok (putDir c 2 f.vd.toNat g (packComps ((List.range (128 * g)).map fun i => sat (-comp x i) (-32768) 32767)))

def opDmov (_ : Focus) (f : VR) (c : Core) : Res Core :=
  let g := gsize f.gs
  .ok (putNorm (putDir c 2 f.vd.toNat g (c.dgroup f.va.toNat g)) 2 f.vd.toNat (c.nreg f.va.toNat).toNat)

def opDzero (_ : Focus) (f : VR) (c : Core) : Res Core :=
  .ok (putNorm (putDir c 1 f.vd.toNat (gsize f.gs) 0) 1 f.vd.toNat zeroCode)

def opDnormq (_ : Focus) (f : VR) (c : Core) : Res Core :=
  .ok (c.putS 3 f.vd.toNat (word (signExt (c.nreg f.va.toNat).toNat 32)))

def opDnormqDev (_ : Focus) (f : VR) (c : Core) : Res Core :=
  .ok (c.putS 3 f.vd.toNat (word (unitDeviation (c.dgroup f.va.toNat (gsize f.gs)) (gsize f.gs))))

end Sys2Proof.Machine
end

