-- ==== Sys2Proof/Machine/BankOps.lean ====
section
/-! DEFINITION. The bank instructions at issue (R263, R268 to R280): their checks in order, and the command
each gives the M engine. -/

namespace Sys2Proof.Machine

/-! Names of resources (R263, R287): row sets, and accumulator rows. -/

def setKey (bank rs : Nat) : Nat := bank * 4 + rs
def rowKey (bank row : Nat) : Nat := 64 + bank * 32 + row
def PassBank.key (b : PassBank) : Nat := setKey b.bank b.rs

/-- An M command enters the engine (R263, R308). -/
def Core.mPush (c : Core) (now : Nat) (bundle : Word) (scyc : Nat) (follow : Option (Nat × Nat × Word))
    (work : MWork) (uses : List Nat) (rd wr : Option (Nat × Nat)) : Core :=
  let id := c.eng.nextId
  let m : MCmd := { id := id, bundle := bundle, scyc := scyc, at_ := now, follow := follow, work := work, uses := uses }
  let c := { c with eng := { c.eng with nextId := id + 1, mq := c.eng.mq ++ [m] } }
  if rd.isSome || wr.isSome then c.sbTake id rd wr else c

/-- The M engine's queue has no room (R107, cause 8). -/
def State.mFull (s : State) (c : Core) : Bool := decide (s.params.mdepth ≤ c.eng.mq.length)

/-- An M instruction gives the engine a command, or waits for room in its queue or in the scoreboard
(R268); `k` is its effect at issue. -/
def State.mIssue (s : State) (fo : Focus) (work : MWork) (uses : List Nat) (rd wr : Option (Nat × Nat))
    (k : Core → Core) : Res State :=
  let c := s.core fo.core
  if s.mFull c then fo.waits 8 0 s
  else if (rd.isSome || wr.isSome) && decide (16 ≤ c.eng.sb.length) then fo.waits 6 0 s
  else .ok (s.setCore fo.core (k (c.mPush s.now c.seq.pc c.scycle none work uses rd wr)))

/-- An M instruction without a command of its own. -/
def State.mDirect (s : State) (fo : Focus) (k : Core → Core) : Res State :=
  let c := s.core fo.core
  if s.mFull c then fo.waits 8 0 s else .ok (s.setCore fo.core (k c))

def mMask (f : MF) : Nat := f.imm.toNat
def maskBanks (m : Nat) : List Nat := (List.range 16).filter m.testBit

/-- s[SA] + SignExt(IMM16, 16) × 256, stepped (R271). -/
def mAddr (fo : Focus) (f : MF) (c : Core) : Int :=
  ((c.sreg f.sa.toNat).toNat : Int) + signExt f.imm.toNat 16 * 256 + fo.dv.a

/-- AR, stepped (R268). -/
def mRow (fo : Focus) (f : MF) : Nat := ((f.ar.toNat : Int) + fo.dv.d).toNat

/-- The alignment, range and mode checks of a local region of `n` bytes (R271, checks 3 to 5). -/
def Core.regionTrap (c : Core) (q : Int) (align n : Nat) : Option (Nat × Nat) :=
  if q % (align : Int) ≠ 0 then some (Cause.misaligned, addrWord q)
  else if q < 0 ∨ (localTop : Int) < q + n then some (Cause.localAddress, addrWord q)
  else (c.computeBank q.toNat n).map fun b => (Cause.bankMode, b)

/-- The holder may not read a region that it has exported for carry or to receive (R144 check 4, R317, R339). -/
def Core.readTrap (c : Core) (q : Int) (n : Nat) : Option (Nat × Nat) :=
  (c.exportHit q.toNat n false).map fun a => (Cause.exportViolation, a)

/-- The tag check of a region: the detail of the layout-mismatch fault (R249, R442). -/
def Core.tagTrap (c : Core) (q n tag : Nat) : Option (Nat × Nat) :=
  if n = 0 then none
  else
    ((List.range ((q + n - 1) / 256 - q / 256 + 1)).find? fun i => c.tagAt (q / 256 * 256 + 256 * i) != tag).map
      fun i => (Cause.layoutMismatch, tag + c.tagAt (q / 256 * 256 + 256 * i) * 16)

def Focus.raise {α : Type} (fo : Focus) (t : Nat × Nat) : Res α := .trap (fo.trap t.1 t.2)

/-- A bank that an instruction needs in compute mode. -/
def Core.computeTrap (c : Core) (b : Nat) : Option (Nat × Nat) :=
  if (c.bank b).mode then none else some (Cause.bankMode, b)

/-- The detail of the row-set traps (R442). -/
def setDetail (bank rs : Nat) : Nat := bank + rs * 16

/-- The row set is a shadow one and not FILLING (R262). -/
def Core.shadowTrap (c : Core) (bank rs : Nat) : Option (Nat × Nat) :=
  let x := c.bank bank
  if x.act = rs ∨ (Tab.look ({} : RowSet) x.sets rs).state = 1 then
    some (Cause.rowSetState, setDetail bank rs) else none

def firstTrap (l : List (Option (Nat × Nat))) : Option (Nat × Nat) := l.findSome? id

/-- Continues when none of the checks, in order, fails. -/
def Focus.checked {α : Type} (fo : Focus) (l : List (Option (Nat × Nat))) (k : Res α) : Res α :=
  match firstTrap l with
  | some t => fo.raise t
  | none => k

def illegalIf (b : Bool) : Option (Nat × Nat) := if b then some (Cause.illegalOperand, 0) else none

/-! BMODE (R269). -/

/-- The interval of the ranges of the banks of a mask. -/
def maskExtent (m : Nat) : Option (Nat × Nat) :=
  match maskBanks m with
  | [] => none
  | b :: r => some (b * 65536, ((r.getLast?.getD b) - b + 1) * 65536)

def bmode (compute : Bool) (fo : Focus) (f : MF) (s : State) : Res State :=
  let c := s.core fo.core
  let m := (mMask f)
  let switched := (maskBanks m).filter fun b => (c.bank b).mode != compute
  let hit := if compute then switched.findSome? fun b => c.exportHit (b * 65536) 65536 true else none
  fo.checked [illegalIf (m == 0), hit.map fun a => (Cause.exportViolation, a)]
    (s.mIssue fo (.bmode m) ((maskBanks m).map fun b => (List.range 4).map (setKey b)).flatten none (maskExtent m)
      fun c => switched.foldl (fun c' b =>
        c'.setBank b { c'.bank b with turn := some (compute, c.eng.nextId - 1) }) c)

def opBmodeCompute : Focus → MF → State → Res State := bmode true
def opBmodeScratch : Focus → MF → State → Res State := bmode false

/-- The mode changes of an issue take effect from the next cycle on (R239, R240): the commands issued
before keep the bank of before while the switch waits, and the bytes in flight to a bank that turns to compute mode are
lost with its contents. -/
def Core.settleBank (c : Core) (b : Nat) : Core :=
  let x := c.bank b
  match x.turn with
  | none => c
  | some (compute, id) =>
    let old : Retired := {
      bank := b, gen := x.gen, upto := id, sets := x.sets, outl := x.outl
      mem := c.mem.filter fun e => decide (b * 65536 ≤ e.1) && decide (e.1 < (b + 1) * 65536) }
    let left (e : InFlight) : List InFlight := match e.wb with
      | .mem a bs =>
        if compute && rangesMeet a bs.length (b * 65536) 65536 then
          let end_ := (b + 1) * 65536
          [{ e with wb := .mem a (bs.take (b * 65536 - a)) }, { e with wb := .mem (max a end_) (bs.drop (end_ - a)) }]
        else [e]
      | _ => [e]
    { c.setBank b { mode := compute, gen := x.gen + 1 } with
      mem := c.mem.clear (b * 65536) 65536
      tags := c.tags.filter fun t => t.1 / 256 != b
      seq := { c.seq with flight := (c.seq.flight.map left).flatten }
      eng := { (c.setBank b { mode := compute, gen := x.gen + 1 }).eng with
        retired := c.eng.retired ++ if c.eng.mq.any fun m => m.id == id then [old] else [] } }

def Core.settle (c : Core) : Core :=
  if c.eng.banks.any fun b => b.2.turn.isSome then (List.range 16).foldl Core.settleBank c else c

/-! BPLANE (R270). -/

/-- The checks of BPLANE. -/
def Core.bplaneTrap (c : Core) (f : MF) : Option (Nat × Nat) :=
  let bank := f.bk.toNat
  let r := Tab.look ({} : RowSet) (c.bank bank).sets f.rs.toNat
  let tag := f.fn.toNat % 16
  firstTrap [c.computeTrap bank,
    if r.state = 2 then none else some (Cause.prematureSwap, setDetail bank f.rs.toNat),
    if r.tag = tag then none else some (Cause.layoutMismatch, tag + r.tag * 16)]

def Core.setActive (c : Core) (bank rs : Nat) : Core := c.setBank bank { c.bank bank with act := rs }

def opBplane (fo : Focus) (f : MF) (s : State) : Res State :=
  fo.checked [(s.core fo.core).bplaneTrap f] (s.mDirect fo fun c => c.setActive f.bk.toNat f.rs.toNat)

/-! BLOAD (R271). -/

/-- A row set enters FILLING at the issue of its fill (R242). -/
def Core.beginFill (c : Core) (b : PassBank) : Core := c.onSet b fun r => { r with state := 1 }

def opBload (fo : Focus) (f : MF) (s : State) : Res State :=
  let c := s.core fo.core
  let bank := f.bk.toNat
  let rs := f.rs.toNat
  let q := mAddr fo f c
  let tag := f.fn.toNat % 16
  let b := c.nameSet bank rs
  fo.checked [c.computeTrap bank, c.shadowTrap bank rs, c.regionTrap q 256 16384, c.readTrap q 16384,
      c.tagTrap q.toNat 16384 tag]
    (s.mIssue fo (.bload b q.toNat tag) [b.key] (extent q.toNat 16384) none fun c =>
      let fill : Fill := { id := c.eng.nextId - 1, chan := none, set := b, addr := q.toNat, tag := tag }
      let c := (c.beginFill b).discardOutliers b (c.eng.nextId - 1)
      { c with eng := { c.eng with fills := c.eng.fills ++ [fill] } })

/-! BPREC, BSPARSE, BOUTL, BTAG (R272 to R275). -/

/-- RS must be EMPTY. -/
def Core.emptyTrap (c : Core) (bank rs : Nat) (also : Bool) : Option (Nat × Nat) :=
  if (Tab.look ({} : RowSet) (c.bank bank).sets rs).state ≠ 0 ∨ also then
    some (Cause.rowSetState, setDetail bank rs) else none

def opBprec (fo : Focus) (f : MF) (s : State) : Res State :=
  let c := s.core fo.core
  let bank := f.bk.toNat
  let rs := f.rs.toNat
  let wfmt := f.fn.toNat % 16
  let afmt := f.fn.toNat / 16
  let b := c.nameSet bank rs
  fo.checked [c.computeTrap bank, c.emptyTrap bank rs false,
      c.emptyTrap bank rs ((c.viewSet b).storage != 0 && (wfmt == 8 || afmt == 8))]
    (s.mIssue fo (.bprec b wfmt afmt (actPlanes afmt f.imm.toNat)) [b.key] none none id)

/-- The form of BSPARSE with kind 0 (dense) or 1 to 3, and the table's address. -/
def bsparse (fo : Focus) (f : MF) (kind : Nat) (s : State) : Res State :=
  let c := s.core fo.core
  let bank := f.bk.toNat
  let rs := f.rs.toNat
  let b := c.nameSet bank rs
  let v := c.viewSet b
  let q := if kind = 0 then 0 else mAddr fo f c
  fo.checked [c.computeTrap bank, c.emptyTrap bank rs (kind != 0 && (v.wfmt == 8 || v.afmt == 8)),
      if kind = 0 then none else c.regionTrap q 256 256, if kind = 0 then none else c.readTrap q 256]
    (s.mIssue fo (.bsparse b kind q.toNat) [b.key] (if kind = 0 then none else extent q.toNat 256) none id)

def opBsparse (fo : Focus) (f : MF) (s : State) : Res State := bsparse fo f (f.fn.toNat % 4) s
def opBsparseDense (fo : Focus) (f : MF) (s : State) : Res State := bsparse fo f 0 s

def opBoutl (fo : Focus) (f : MF) (s : State) : Res State :=
  let c := s.core fo.core
  let bank := f.bk.toNat
  let rs := f.rs.toNat
  let a := (c.sreg f.sa.toNat).toNat
  let row := bits a 7 0
  let col := bits a 15 8
  let b := c.nameSet bank rs
  let st := (Tab.look ({} : RowSet) (c.bank bank).sets rs).state
  fo.checked [illegalIf (decide (2 ^ 16 ≤ a) || decide ((c.viewSet b).cols ≤ col)), c.computeTrap bank,
      if st = 2 then none else some (Cause.rowSetState, setDetail bank rs)]
    (s.mIssue fo (.boutl b row col (signExt (c.sreg f.sb.toNat).toNat 16)) [b.key] none none id)

def opBtag (fo : Focus) (f : MF) (s : State) : Res State :=
  let c := s.core fo.core
  let n := (c.sreg f.sb.toNat).toNat
  let q := mAddr fo f c
  fo.checked [illegalIf (decide (2 ^ 13 ≤ n)), c.regionTrap q 256 (256 * n),
      (c.exportHit q.toNat (256 * n) true).map fun a => (Cause.exportViolation, a)]
    (s.mIssue fo (.btag q.toNat n (f.fn.toNat % 16)) [] none (extent q.toNat (256 * n)) id)

/-! BRUN and BACC (R276). -/

/-- The operand register SB of a pass: T, and the source core. -/
def passTokens (x : Nat) : Nat := bits x 5 0
def passSource (x : Nat) : Nat := bits x 15 8

/-- SB breaks its layout (R276, check 1). -/
def passLayoutBad (f : MF) (x : Nat) : Bool :=
  passTokens x == 0 || decide (32 < passTokens x) || bits x 7 6 != 0 || decide (2 ^ 16 ≤ x) ||
    (!f.fn.getLsbD 0 && passSource x != 0)

/-- The accumulator rows a pass reaches, with the accumulates it makes into each (R252, R286). -/
def passRows (onto : Bool) (ab ar count : Nat) (sets : List RowSet) : List (Nat × Nat × Nat) :=
  (sets.mapIdx fun i r =>
    let nr := r.accRows
    if onto then (List.range nr).map fun k => (ab + i, ar + k, count)
    else (List.range (nr * count)).map fun k => (ab + i, ar + k, 1)).flatten

/-- The detail word of an accumulator row (R442). -/
def rowDetail (bank row : Nat) : Nat := bank + row * 16
/-- The detail word of an exported band (R442). -/
def bandDetail (bank row : Nat) : Nat := 2 ^ 63 + bank + row / 8 * 8 * 16

/-- The first row whose band is exported (R293). -/
def Core.bandTrap (c : Core) (rows : List (Nat × Nat)) : Option (Nat × Nat) :=
  (rows.find? fun r => Tab.has c.eng.bandExports (r.1 * 4 + r.2 / 8)).map fun r =>
    (Cause.exportViolation, bandDetail r.1 r.2)

def Core.allocated (c : Core) (bank : Nat) : Bool := c.eng.alloc.testBit bank

/-- The first bank that is not allocated (R284). -/
def Core.unallocTrap (c : Core) (banks : List Nat) : Option (Nat × Nat) :=
  (banks.find? fun b => !c.allocated b).map fun b => (Cause.accUnallocated, b)

/-- The pass that a BRUN or BACC makes of its operand words, or the check that fails, in the order of R276
and R286. -/
def State.passPlan (s : State) (c : Core) (fo : Focus) (onto : Bool) (f : MF) (a b : Word) :
    (Nat × Nat) ⊕ (Pass × List (Nat × Nat × Nat)) :=
  let x := b.toNat
  let remote := f.fn.getLsbD 0
  let banks := maskBanks (mMask f)
  let src := passSource x
  let grp := f.grp.toNat
  let t := passTokens x
  let actOf (k : Nat) : PassBank := c.nameSet k (c.bank k).act
  let sets := banks.map fun k => c.setOf (actOf k)
  let r0 := sets.headD {}
  let ab := f.ab.toNat
  let ar := mRow fo f
  let rows := passRows onto ab ar t sets
  let q : Int := (a.toNat : Int) + fo.dv.a
  let n := t * tokenBytes r0.storage r0.planes
  let tag := f.fn.toNat / 16
  let pair := rows.map fun r => (r.1, r.2.1)
  let checks := [
    illegalIf ((mMask f) == 0 || passLayoutBad f x ||
      (remote && (!s.inPod c src || !s.groupOk c grp || !s.isMember c grp c.lcore))),
    banks.findSome? c.computeTrap,
    (banks.find? fun k => (c.setOf (actOf k)).state != 2).map fun k =>
      (Cause.rowSetState, setDetail k (c.bank k).act),
    (banks.find? fun k =>
      let r := c.setOf (actOf k)
      r.afmt != r0.afmt || r.planes != r0.planes || r.storage != r0.storage).map fun k =>
        (Cause.rowSetState, setDetail k (c.bank k).act),
    illegalIf (decide (15 < ab + banks.length - 1) || pair.any fun r => decide (31 < r.2)),
    if remote then none else c.regionTrap q 64 n,
    if remote then none else c.readTrap q n,
    if remote then none else c.tagTrap q.toNat n tag,
    c.unallocTrap ((List.range banks.length).map (ab + ·)),
    if c.ctlBits Ctl.chkmode 1 1 = 1 then
      (rows.find? fun r => decide ((c.accRow r.1 r.2.1).h < r.2.2)).map fun r =>
        (Cause.accHeadroom, rowDetail r.1 r.2.1)
    else none,
    c.bandTrap pair]
  match firstTrap checks with
  | some e => .inl e
  | none => .inr ({
      onto := onto, banks := banks.map actOf, ab := ab, ar := ar, count := t
      addr := q, remote := if remote then some src else none, grp := grp
      planar := f.fn.getLsbD 1, half := if f.fn.getLsbD 2 then 1 else 0, tag := tag
      afmt := r0.afmt, planes := r0.planes, storage := r0.storage }, rows)

/-- H of each row the pass reaches decreases at its issue (R286). -/
def Core.lowerH (c : Core) (rows : List (Nat × Nat × Nat)) : Core :=
  rows.foldl (fun c r =>
    let x := c.accRow r.1 r.2.1
    c.setAccRow r.1 r.2.1 { x with h := x.h - r.2.2 }) c

/-- What a pass uses (R263). -/
def Pass.uses (p : Pass) (rows : List (Nat × Nat × Nat)) : List Nat :=
  p.banks.map PassBank.key ++ rows.map fun r => rowKey r.1 r.2.1

/-- The scoreboard read extent of a pass with a local operand. -/
def Pass.extent (p : Pass) : Option (Nat × Nat) :=
  if p.remote.isSome then none else Machine.extent p.addr.toNat (p.count * tokenBytes p.storage p.planes)

def runPass (onto : Bool) (fo : Focus) (f : MF) (s : State) : Res State :=
  let c := s.core fo.core
  match s.passPlan c fo onto f (c.sreg f.sa.toNat) (c.sreg f.sb.toNat) with
  | .inl t => fo.raise t
  | .inr (p, rows) => s.mIssue fo (.pass p) (p.uses rows) p.extent none fun c => c.lowerH rows

def opBrun : Focus → MF → State → Res State := runPass false
def opBacc : Focus → MF → State → Res State := runPass true

/-! BSTAT, BCLR, BDIR, BZERO (R277 to R280). -/

/-- A push into q3 with no room overflows it (R224). -/
def Core.roomTrap (c : Core) (q : Nat) : Option (Nat × Nat) :=
  if queueDepth q < c.visibleUnits q + c.pendingUnits q + 1 then some (Cause.queueOverflow, q) else none

def Core.addPost (c : Core) (p : Post) : Core := { c with eng := { c.eng with posts := c.eng.posts ++ [p] } }

def opBstat (fo : Focus) (f : MF) (s : State) : Res State :=
  fo.checked [(s.core fo.core).roomTrap 3]
    (s.mDirect fo fun c => c.addPost (.bstat (s.now + 4) f.bk.toNat))

def bclr (all : Bool) (fo : Focus) (f : MF) (s : State) : Res State :=
  let c := s.core fo.core
  let b := c.nameSet f.bk.toNat f.rs.toNat
  fo.checked [c.computeTrap b.bank, c.shadowTrap b.bank b.rs]
    (s.mIssue fo (.bclr b all) [b.key] none none fun c =>
      (c.onSet b fun r => { r with state := 0 }).discardOutliers b (c.eng.nextId - 1))

def opBclr : Focus → MF → State → Res State := bclr false
def opBclrAll : Focus → MF → State → Res State := bclr true

/-- The fields of BDIR (R279). -/
def bdirFirst (f : MF) : Nat := bits f.imm.toNat 5 0
def bdirCount (f : MF) : Nat := bits f.imm.toNat 10 6 + 1
def bdirGroup (f : MF) : Nat := 2 ^ bits f.imm.toNat 12 11
def bdirPart (f : MF) : Nat := bits f.imm.toNat 14 13

/-- A direction converted for a column (R220, R279). -/
def Core.dirColumn (c : Core) (d g h : Nat) : DirColumn :=
  let n := (c.nreg d).toNat
  let x := c.dgroup d g
  let v (r : Nat) : Int := if 256 * h + r < 128 * g then comp x (256 * h + r) else 0
  if n = zeroCode then { vals := List.replicate 256 0, scales := List.replicate 8 0 }
  else if n = nonFiniteCode then { vals := List.replicate 256 0, scales := List.replicate 8 0xFF }
  else { vals := (List.range 256).map v, scales := List.replicate 8 0x7E }

def opBdir (fo : Focus) (f : MF) (s : State) : Res State :=
  let c := s.core fo.core
  let bank := f.bk.toNat
  let rs := f.rs.toNat
  let b := c.nameSet bank rs
  let v := c.viewSet b
  let bad := (v.state == 2 && (v.wfmt != 8 || v.afmt != 8)) || v.storage != 0
  let g := bdirGroup f
  let dirs := (List.range (bdirCount f)).map fun i => c.dirColumn (bdirFirst f + i * g) g (bdirPart f)
  fo.checked [c.computeTrap bank, c.shadowTrap bank rs,
      if bad then some (Cause.rowSetState, setDetail bank rs) else none]
    (s.mIssue fo (.bdir b (f.fn.toNat % 32) dirs (c.emptyForDir b)) [b.key] none none id)

def opBzero (fo : Focus) (f : MF) (s : State) : Res State :=
  let c := s.core fo.core
  let b := c.nameSet f.bk.toNat f.rs.toNat
  fo.checked [c.computeTrap b.bank, c.shadowTrap b.bank b.rs]
    (s.mIssue fo (.bzero b) [b.key] none none fun c => c.discardOutliers b (c.eng.nextId - 1))

end Sys2Proof.Machine
end

