-- ==== Sys2Proof/Machine/AccOps.lean ====
section
/-! DEFINITION. The accumulator instructions at issue (R284, R291 to R300): their checks in order, and the
command each gives the M engine. -/

namespace Sys2Proof.Machine

/-- Every row of the banks of a mask. -/
def maskRows (m : Nat) : List (Nat × Nat) :=
  ((maskBanks m).map fun b => (List.range 32).map fun r => (b, r)).flatten

def keysOf (l : List (Nat × Nat)) : List Nat := l.map fun r => rowKey r.1 r.2

/-- H of a row, counted at issue (R286). -/
def Core.setH (c : Core) (bank row h : Nat) : Core := c.setAccRow bank row { c.accRow bank row with h := h }

def opAccalloc (fo : Focus) (f : MF) (s : State) : Res State :=
  let c := s.core fo.core
  let m := mMask f
  let x := (c.sreg f.sa.toNat).toNat
  fo.checked [illegalIf (m == 0 || badSetting x || m &&& c.eng.alloc != 0)]
    (s.mIssue fo (.accalloc m (signExt x 16)) (keysOf (maskRows m)) none none fun c =>
      let c := (maskRows m).foldl (fun c r => c.setH r.1 r.2 (bits x 23 16)) c
      { c with eng := { c.eng with
          alloc := c.eng.alloc ||| m, owners := c.eng.owners.filter fun o => !m.testBit (o.1 / 4) } })

def opAccfree (fo : Focus) (f : MF) (s : State) : Res State :=
  let c := s.core fo.core
  let m := mMask f
  fo.checked [illegalIf (m == 0), c.unallocTrap (maskBanks m), c.bandTrap (maskRows m)]
    (s.mIssue fo (.accfree m) (keysOf (maskRows m)) none none fun c =>
      { c with eng := { c.eng with
          alloc := c.eng.alloc &&& (65535 - m), owners := c.eng.owners.filter fun o => !m.testBit (o.1 / 4) } })

/-- The rows of the band whose first row is `ar`. -/
def bandRows (ab ar : Nat) : List (Nat × Nat) := (List.range 8).map fun i => (ab, ar + i)

/-- ACCBAND to a group, or to the holder alone (R296). -/
def accband (owner : Option Nat) (fo : Focus) (f : MF) (s : State) : Res State :=
  let c := s.core fo.core
  let ab := f.ab.toNat
  let ar := f.ar.toNat
  let band := ab * 4 + ar / 8
  let bad := match owner with
    | some k => !s.groupOk c k
    | none => false
  fo.checked [c.unallocTrap [ab], illegalIf (ar % 8 != 0 || bad), c.bandTrap [(ab, ar)]]
    (s.mIssue fo (.accband ab (ar / 8) owner) (keysOf (bandRows ab ar)) none none fun c =>
      { c with eng := { c.eng with owners := match owner with
          | some k => Tab.store c.eng.owners band k
          | none => Tab.drop c.eng.owners band } })

def opAccband (fo : Focus) (f : MF) (s : State) : Res State := accband (some f.grp.toNat) fo f s
def opAccbandLocal (fo : Focus) (f : MF) (s : State) : Res State := accband none fo f s

def opAccnorm (fo : Focus) (f : MF) (s : State) : Res State :=
  let c := s.core fo.core
  let ab := f.ab.toNat
  let row := mRow fo f
  let h := bits f.imm.toNat 7 0
  fo.checked [c.unallocTrap [ab], c.bandTrap [(ab, row)]]
    (s.mIssue fo (.accnorm ab row h) [rowKey ab row] none none fun c => c.setH ab row h)

def opAccclr (fo : Focus) (f : MF) (s : State) : Res State :=
  let c := s.core fo.core
  let ab := f.ab.toNat
  let row := mRow fo f
  let n := bits f.imm.toNat 4 0 + 1
  let x := (c.sreg f.sa.toNat).toNat
  let rows := (List.range n).map fun i => (ab, row + i)
  fo.checked [c.unallocTrap [ab], illegalIf (decide (31 < row + n - 1) || badSetting x), c.bandTrap rows]
    (s.mIssue fo (.accclr ab row n (signExt x 16)) (keysOf rows) none none fun c =>
      rows.foldl (fun c r => c.setH r.1 r.2 (bits x 23 16)) c)

/-- Whether the holder may drain the row: its band is local, or it is a member of the owner (R292). -/
def State.drainTrap (s : State) (c : Core) (bank row : Nat) : Option (Nat × Nat) :=
  let band := bank * 4 + row / 8
  if Tab.has c.eng.owners band ∧ ¬ s.isMember c (Tab.look 0 c.eng.owners band) c.lcore then
    some (Cause.bandOwnership, rowDetail bank row)
  else none

/-- The checks of a remote drain (R298). -/
def State.remoteTrap (s : State) (c : Core) (x grp : Nat) : Option (Nat × Nat) :=
  illegalIf (decide (256 ≤ x) || !s.inPod c x || !s.groupOk c grp || !s.isMember c grp c.lcore)

def opAccrd (fo : Focus) (f : MF) (s : State) : Res State :=
  let c := s.core fo.core
  let ab := f.ab.toNat
  let row := mRow fo f
  let clr := f.fn.getLsbD 1
  let h := (c.accRow ab row).h
  fo.checked [c.unallocTrap [ab], s.drainTrap c ab row, if clr then c.bandTrap [(ab, row)] else none,
      c.roomTrap 6]
    (s.mIssue fo (.accrd ab row h clr) [rowKey ab row] none none fun c =>
      c.addPost (.image none (c.eng.nextId - 1) {}))

def opAccrdRemote (fo : Focus) (f : MF) (s : State) : Res State :=
  let c := s.core fo.core
  let x := (c.sreg f.sb.toNat).toNat
  fo.checked [s.remoteTrap c x f.grp.toNat, c.roomTrap 6]
    (s.mIssue fo (.drain x f.ab.toNat (mRow fo f) f.grp.toNat none) [] none none fun c =>
      c.addPost (.image none (c.eng.nextId - 1) {}))

def accexpBytes (fmt : Nat) : Nat := if fmt = 2 then 768 else 256

/-- The destination checks of ACCEXP (R299). -/
def Core.accexpTrap (c : Core) (q : Int) (n : Nat) : Option (Nat × Nat) :=
  firstTrap [c.regionTrap q 256 n, (c.exportHit q.toNat n true).map fun a => (Cause.exportViolation, a)]

def opAccexp (fo : Focus) (f : MF) (s : State) : Res State :=
  let c := s.core fo.core
  let ab := f.ab.toNat
  let row := mRow fo f
  let fmt := f.fn.toNat % 4
  let clr := f.fn.getLsbD 3
  let q := mAddr fo f c
  let h := (c.accRow ab row).h
  fo.checked [c.unallocTrap [ab], s.drainTrap c ab row, if clr then c.bandTrap [(ab, row)] else none,
      c.accexpTrap q (accexpBytes fmt)]
    (s.mIssue fo (.accexp ab row h fmt q.toNat clr) [rowKey ab row] none (extent q.toNat (accexpBytes fmt)) id)

def opAccexpRemote (fo : Focus) (f : MF) (s : State) : Res State :=
  let c := s.core fo.core
  let x := (c.sreg f.sb.toNat).toNat
  let fmt := f.fn.toNat % 4
  let q := mAddr fo f c
  fo.checked [s.remoteTrap c x f.grp.toNat, c.accexpTrap q (accexpBytes fmt)]
    (s.mIssue fo (.drain x f.ab.toNat (mRow fo f) f.grp.toNat (some (fmt, q.toNat))) [] none
      (extent q.toNat (accexpBytes fmt)) id)

def opAcchead (fo : Focus) (f : MF) (s : State) : Res State :=
  let c := s.core fo.core
  let ab := f.ab.toNat
  let row := mRow fo f
  fo.checked [c.unallocTrap [ab], c.roomTrap 3]
    (s.mDirect fo fun c => c.addPost (.head (s.now + 4) ab row (c.accRow ab row).h))

/-- ACCEXPORT binds the holder from its issue on; remote drains find the band exported once it has started
(R293, R296). -/
def opAccexport (fo : Focus) (f : MF) (s : State) : Res State :=
  let c := s.core fo.core
  let ab := f.ab.toNat
  let ar := f.ar.toNat
  let grp := f.grp.toNat
  let band := ab * 4 + ar / 8
  let owned := Tab.has c.eng.owners band && Tab.look 0 c.eng.owners band == grp
  fo.checked [c.unallocTrap [ab], illegalIf (ar % 8 != 0 || !s.groupOk c grp), illegalIf (!owned)]
    (s.mIssue fo (.accexport ab (ar / 8) grp) (keysOf (bandRows ab ar)) none none fun c =>
      if Tab.has c.eng.bandExports band then c
      else { c with eng := { c.eng with bandExports := Tab.store c.eng.bandExports band grp } })

end Sys2Proof.Machine
end

