-- ==== Sys2Proof/Machine/MEngine.lean ====
section
/-! DEFINITION. The M engine at work: starting commands (R263), mode switches (R240), tokens of a pass (R253
to R255), accumulates (R285), fills (R242, R264), remote drains (R292, R298) and the hand-over of a carried
operation (R266). Each event does nothing when it is not enabled (log 5). -/

namespace Sys2Proof.Machine

/-- The requester codes of R307. -/
def reqM : Nat := 17
def reqCarry : Nat := 16
def reqPod : Nat := 18

/-- The distance of two coordinates. -/
def gap (x y : Nat) : Nat := if x ≤ y then y - x else x - y

/-- The stop distance of a core (R20). -/
def stopDistance (n : Nat) : Nat :=
  let edge (x : Nat) : Nat := if x = 0 ∨ x = 3 then 1 else 0
  edge (n % 4) + edge (n % 16 / 4)

/-- The hop distance of a transfer between two cores (R19, R20): mesh hops in one pod; between pods, the mesh
hops to and from the ring stops and the ring hops. -/
def hops (a b : Nat) : Nat :=
  if a / 16 = b / 16 then gap (a % 4) (b % 4) + gap (a % 16 / 4) (b % 16 / 4)
  else
    let r := gap (a / 16) (b / 16)
    stopDistance a + stopDistance b + min r (8 - r)

/-- The cycles from one core to another (R19, R20). DESIGN CHOICE (log 63): `params.hop` for each hop of their hop
distance, and for one hop at least. -/
def State.travel (s : State) (src dst : Nat) : Nat := s.params.hop * max 1 (hops src dst)

/-- A message leaves for another core (R17, R19, R20). -/
def State.send (s : State) (src dst : Nat) (body : MsgBody) : State :=
  { s with
    nextMsg := s.nextMsg + 1
    msgs := s.msgs ++ [{ no := s.nextMsg, at_ := s.now + s.travel src dst, src := src, dst := dst, body := body }] }

def Core.mCmd (c : Core) (id : Nat) : Option MCmd := c.eng.mq.find? fun m => m.id == id

def Core.onM (c : Core) (id : Nat) (f : MCmd → MCmd) : Core :=
  { c with eng := { c.eng with mq := c.eng.mq.map fun m => if m.id = id then f m else m } }

/-- An M command is finished: its resources and its scoreboard entry go. -/
def Core.endM (c : Core) (id : Nat) : Core :=
  ({ c with eng := { c.eng with mq := c.eng.mq.filter fun m => m.id != id } } : Core).sbDrop id

/-- A fault of an M command (R450): its SRC is 1; a carried operation's names the copy command (R266). -/
def MCmd.fault (m : MCmd) (cause det : Nat) : FaultRec :=
  match m.follow with
  | some (ch, seq, bundle) =>
    { cause := cause, det := BitVec.ofNat 64 det, src := 2, chan := ch, seq := seq, cmd := bundle }
  | none => { cause := cause, det := BitVec.ofNat 64 det, src := 1, cmd := m.bundle }

/-! Starting (R263). -/

/-- A copy fill that was handed over before command `id` issued has not finished with a row set (R263). -/
def Core.fillBefore (c : Core) (id : Nat) (keys : List Nat) : Bool :=
  c.eng.fills.any fun f => f.chan.isSome && decide (f.ord ≤ id) && keys.contains f.set.key

/-- The conditions of R263. -/
def Core.canStart (c : Core) (m : MCmd) : Bool :=
  (c.eng.mq.all fun e => decide (m.id ≤ e.id) || (e.begun && !(e.uses.any m.uses.contains))) &&
  !c.fillBefore m.id m.uses && c.sbClear m.id &&
  (match m.work with
    | .bload _ _ _ => match c.eng.fills with
      | f :: _ => f.id == m.id && f.start.isNone
      | [] => false
    | _ => true)

/-- The first row of an index table that R258 refuses. -/
def badIndexRow (kind : Nat) (bs : List Byte) : Option Nat :=
  (List.range 256).find? fun r =>
    let x := (bs.getD r 0).toNat
    decide (24 ≤ x) || (kind == 3 && decide (252 ≤ r) && decide (8 ≤ x))

/-- The ports that `n` bytes at `a` need. -/
def portsOf (a n : Nat) (write : Bool) : List (Nat × Bool) :=
  if n = 0 then []
  else ((List.range ((a + n - 1) / 65536 - a / 65536 + 1)).map fun i => (a / 65536 + i, write))

/-- BSPARSE reads and checks its table (R258, R273). -/
def Core.loadIndex (c : Core) (m : MCmd) (b : PassBank) (kind addr : Nat) : Core :=
  let bs := c.engineBytes m.id addr 256
  match badIndexRow kind bs with
  | some r => (c.onSet b fun x => { x with storage := 0 }).postFault
      (m.fault Cause.sparseIndex (setDetail b.bank b.rs + r * 256))
  | none => c.onSet b fun x => { x with
      storage := kind
      idx := (bs.mapIdx fun i y => (i, y.toNat)).filter fun p => p.2 != 0 }

/-- A row set that a BDIR, BZERO or BOUTL has written is local, unless a copy fill that was issued since has given it its
provenance (R243). -/
def RowSet.turnLocal (r : RowSet) : RowSet := if r.state = 1 then r else { r with prov := none }

/-- BOUTL adds, replaces or drops its entry (R259, R260). -/
def Core.addOutlier (c : Core) (now : Nat) (m : MCmd) (b : PassBank) (row col : Nat) (v : Int) : Core :=
  let o : Outlier := { rs := b.rs, row := row, col := col, v := v }
  let o := { o with gone := c.nextDiscard b m.id }
  let same (x : Outlier) : Bool :=
    x.rs == b.rs && x.row == row && x.col == col && (x.gone.all fun k => decide (m.id < k))
  let l := c.outlList b
  let c := c.onSet b RowSet.turnLocal
  if l.any same then c.onOutliers b fun l => l.map fun y => if same y then o else y
  else if 64 ≤ countOutliers l then
    (c.setCtlBits 0x045 b.bank b.bank 1).converterEvent now m.bundle.toNat m.scyc 3 b.bank 0
  else c.onOutliers b fun l => l ++ [o]

/-- A row image leaves its row; `.clr` clears it (R298). -/
def Core.takeRow (c : Core) (bank row h : Nat) (clr : Bool) : AccRow × Core :=
  let r := c.accRow bank row
  (r.image h, if clr then c.setAccRow bank row r.cleared else c)

/-- ACCEXP has its row (R299): its bytes go out with tag 0, the first row of 256 now and the others a row a cycle
(R303); NUMSTAT takes what ACCPOP sets. -/
def Core.writeDrained (c : Core) (id : Nat) (r : AccRow) (fmt addr : Nat) : Core :=
  let d := r.drained fmt
  let c := (c.engineWrite id addr (d.1.take 256) 0).addNumstat (roundedSat d.2) (roundedNan d.2) 0
  if d.1.length ≤ 256 then c.endM id
  else c.onM id fun m => { m with begun := true, work := .put (addr + 256) (d.1.drop 256) }

/-- BTAG tags its next row, as a write of that row (R275, R303); a row of a bank that has changed mode since has no
tag left to take. -/
def Core.tagRow (c : Core) (m : MCmd) (q n tag : Nat) : Core :=
  let c := if n = 0 || (c.retiredFor m.id (q / 65536)).isSome then c
    else { c with tags := if tag = 0 then Tab.drop c.tags (q / 256) else Tab.store c.tags (q / 256) (BitVec.ofNat 4 tag) }
  if n ≤ 1 then c.endM m.id else c.onM m.id fun x => { x with begun := true, work := .btag (q + 256) (n - 1) tag }

/-- An image of ACCRD is on its way to q6 (R298). -/
def Core.setImage (c : Core) (id due : Nat) (r : AccRow) : Core :=
  { c with eng := { c.eng with posts := c.eng.posts.map fun p =>
      match p with
      | .image _ i _ => if i = id then .image (some due) id r else p
      | p => p } }

/-- What a command does as it starts, for a command that needs no other core and gets its ports. -/
def Core.startWork (c : Core) (now : Nat) (m : MCmd) : Core :=
  let hold (due : Nat) (c : Core) : Core := c.onM m.id fun x => { x with begun := true, due := some due }
  match m.work with
  | .pass p => c.onM m.id fun x => { x with begun := true, work := .pass { p with at_ := now + 2, asked := true } }
  | .bload b _ _ =>
    let c := (c.dropOutliers b m.id).onM m.id fun x => { x with begun := true }
    let r := c.setOf b
    { c with eng := { c.eng with fills := c.eng.fills.map fun f =>
        if f.id = m.id then { f with start := some now, cols := r.cols, blocks := tokenBlocks r.storage } else f } }
  | .bprec b w a n => (c.onSet b fun r => { r with wfmt := w, afmt := a, planes := n }).endM m.id
  | .bsparse b k q =>
    if k = 0 then (c.onSet b fun r => { r with storage := 0, idx := [] }).endM m.id
    else (c.loadIndex m b k q).endM m.id
  | .boutl b r col v => (c.addOutlier now m b r col v).endM m.id
  | .btag q n tag => c.tagRow m q n tag
  | .bclr b all =>
    let c := (c.dropOutliers b m.id).onSet b fun r => if r.state = 1 then r else { r with state := 0 }
    (if all then c.onSet b fun r => { r with wfmt := 0, afmt := 0, planes := 8, storage := 0, tag := 0 }
      else c).endM m.id
  | .bdir _ _ _ _ => hold (now + 8) c
  | .bzero b => hold (now + 2) (c.dropOutliers b m.id)
  | .bmode _ => hold (now + 1) c
  | .accalloc mask e =>
    hold (now + 1) ((maskRows mask).foldl (fun c r =>
      c.setAccRow r.1 r.2 { e := e, h := (c.accRow r.1 r.2).h }) c)
  | .accfree mask =>
    ((maskRows mask).foldl (fun c r => c.setAccRow r.1 r.2 { h := (c.accRow r.1 r.2).h }) c).endM m.id
  | .accband _ _ _ => c.endM m.id
  | .accnorm bank row _ => hold (now + 4) (c.updateRow now bank row none AccRow.normalise)
  | .accclr bank row n e =>
    hold (now + n) ((List.range n).foldl (fun c i =>
      c.setAccRow bank (row + i) { e := e, h := (c.accRow bank (row + i)).h }) c)
  | .accrd bank row h clr =>
    let x := c.takeRow bank row h clr
    (x.2.setImage m.id (now + 8) x.1).endM m.id
  | .accexp bank row h fmt addr clr =>
    let x := c.takeRow bank row h clr
    x.2.writeDrained m.id x.1 fmt addr
  | .drain _ _ _ _ _ => c.onM m.id fun x => { x with begun := true }
  | .accexport bank band _ =>
    ({ c with eng := { c.eng with bandLive := ((bank * 4 + band) :: c.eng.bandLive).eraseDups } } : Core).endM m.id
  | .put addr bs =>
    let c := c.engineWrite m.id addr (bs.take 256) 0
    if bs.length ≤ 256 then c.endM m.id else c.onM m.id fun x => { x with work := .put (addr + 256) (bs.drop 256) }

/-- The port that a command needs for the row it works on in the cycle it starts, or goes on (R303, R304). -/
def MWork.ports : MWork → List (Nat × Bool)
  | .bsparse _ k q => if k = 0 then [] else portsOf q 256 false
  | .btag q n _ => if n = 0 then [] else portsOf q 256 true
  | .accexp _ _ _ _ q _ => portsOf q 256 true
  | .put q _ => portsOf q 256 true
  | _ => []

/-- A command that works on a row a cycle, and goes on after its start. -/
def MWork.byRows : MWork → Bool
  | .btag _ _ _ => true
  | .put _ _ => true
  | _ => false

def Core.setPass (c : Core) (id : Nat) (p : Pass) : Core := c.onM id fun m => { m with work := .pass p }

/-- The rows of 256 bytes that `n` bytes at `a` touch, as the address and length of the part in each. -/
def rowParts : Nat → Nat → Nat → List (Nat × Nat)
  | 0, _, _ => []
  | fuel + 1, a, n =>
    if n = 0 then []
    else
      let k := min n (256 - a % 256)
      (a, k) :: rowParts fuel (a + k) (n - k)

/-- The operand rows of the next token are read through their ports, a row a cycle, just before its first plane
enters (R255, R303). DESIGN CHOICE (log 74): the reading begins as many cycles before as there are rows, and no
earlier than the start. -/
def Core.readToken (c : Core) (now : Nat) (m : MCmd) (p : Pass) : Core :=
  let tb := tokenBytes p.storage p.planes
  if p.remote.isSome ∨ p.bytes.isSome ∨ p.count ≤ p.next then c
  else
    let first := p.addr.toNat + p.next * tb
    let a := first + p.part.length
    let rows := rowParts (tb / 256 + 2) a (tb - p.part.length)
    match rows with
    | [] => c
    | (_, k) :: _ =>
      if now + rows.length < p.at_ then c
      else
        let g := c.enginePorts now reqM (portsOf a k false)
        if !g.1 then g.2
        else
          let bs := p.part ++ c.engineBytes m.id a k
          if bs.length < tb then g.2.setPass m.id { p with part := bs }
          else
            let c := g.2.setPass m.id { p with bytes := some bs, part := [], at_ := max p.at_ (now + 1) }
            if p.next + 1 = p.count then c.sbDrop m.id else c

def Core.livePass (c : Core) (id : Nat) : Option (MCmd × Pass) :=
  match c.mCmd id with
  | some m => if m.begun then match m.work with
      | .pass p => some (m, p)
      | _ => none
    else none
  | none => none

/-- M_COMMAND_START (R263); a command that works on a row a cycle goes on. -/
def State.mStart (s : State) (n id : Nat) : State :=
  let c := s.core n
  match c.mCmd id with
  | none => s
  | some m =>
    if (if m.begun then !m.work.byRows else !c.canStart m) then s
    else
      let g := c.enginePorts s.now reqM m.work.ports
      if !g.1 then s.setCore n g.2
      else
        let s := s.setCore n (g.2.startWork s.now m)
        match m.work with
        | .pass p => match p.remote with
          | some l => s.send n ((s.physOf c l).getD n)
              (.operand id p.addr (p.count * tokenBytes p.storage p.planes) p.grp p.tag [])
          | none => s.onCore n fun c => match c.livePass id with
              | some (m, p) => c.readToken s.now m p
              | none => c
        | .drain l bank row grp _ => s.send n ((s.physOf c l).getD n) (.drain id bank row grp)
        | _ => s

/-- BMODE_SWITCH (R240): the banks of before are gone. -/
def State.bmodeSwitch (s : State) (n id : Nat) : State :=
  let c := s.core n
  match c.mCmd id with
  | some m => match m.work, m.due with
    | .bmode _, some d =>
      if s.now < d then s
      else s.setCore n (({ c with eng := { c.eng with
        retired := c.eng.retired.filter fun r => r.upto != id } } : Core).endM id)
    | _, _ => s
  | none => s

/-- A command whose work ended in time by itself (R263): the scheduler's clock retires it. -/
def Core.retireDue (c : Core) (now : Nat) : Core :=
  let ended (m : MCmd) : Bool := m.begun && (match m.due with
    | some d => decide (d ≤ now)
    | none => false) && match m.work with
      | .bmode _ => false
      | .bdir _ _ _ _ => false
      | .bzero _ => false
      | _ => true
  (c.eng.mq.filter ended).foldl (fun c m => c.endM m.id) c

/-! Tokens (R253 to R255). -/

/-- Every earlier pass has taken its last scales (R253). -/
def Core.scaleTurn (c : Core) (id : Nat) : Bool :=
  c.eng.mq.all fun e => decide (id ≤ e.id) || match e.work with
    | .pass p => decide (p.count ≤ p.next)
    | _ => true

/-- Frame marks out of place (R254): END before the last unit, or MID on it. -/
def frameBad (marks : List (BitVec 2)) : Bool :=
  marks.dropLast.any (· == 2) || marks.getLast? == some 1

/-- The planes of the next token enter the banks, with its scales (R253, R255). -/
def Core.enterToken (c : Core) (now : Nat) (m : MCmd) (p : Pass) : Core :=
  let b := tokenBlocks p.storage
  let tb := tokenBytes p.storage p.planes
  let q := c.scaleQ 8
  match p.bytes with
  | none => c
  | some bs =>
    if now < p.at_ ∨ p.count ≤ p.next ∨ !c.scaleTurn m.id ∨ q.length < b then c
    else
      let units := q.take b
      let c := c.setScaleQ 8 (q.drop b)
      if frameBad (units.map (·.2)) then
        let c := c.setPass m.id { p with next := p.count, bytes := none }
        let c := (c.sbDrop m.id).postFault (m.fault Cause.streamDesync 8)
        if p.jobs.isEmpty then c.endM m.id else c
      else
        let mine := if p.remote.isSome then (bs.drop (p.next * tb)).take tb else bs
        let job : TokenJob := {
          due := now + p.planes - 1 + 14, tok := p.next, bytes := mine, scales := units.map fun u => u.1.toNat }
        c.setPass m.id { p with
          next := p.next + 1, at_ := now + p.planes, jobs := p.jobs ++ [job]
          bytes := if p.remote.isSome then some bs else none }

/-- PASS_TOKEN (R255). -/
def Core.passToken (c : Core) (now id : Nat) : Core :=
  match c.livePass id with
  | none => c
  | some (m, p) =>
    let c := c.enterToken now m p
    match c.livePass id with
    | some (m, p) => c.readToken now m p
    | none => c

/-- The addends of a token reach the accumulator: each row it reaches takes one accumulate (R251, R252,
R285, R286). -/
def Core.applyToken (c : Core) (now : Nat) (m : MCmd) (p : Pass) (job : TokenJob) : Core :=
  let act := tokenImages p.storage p.afmt p.planes p.planar job.bytes
  let x := (act.map (·.1)).flatten
  (p.banks.mapIdx fun i b => (i, b)).foldl (fun c e =>
    let r := c.setOf e.2
    let outl := c.outliersOf e.2 m.id
    let rows := r.rowWords
    let base := p.ar + (if p.onto then 0 else job.tok * r.accRows)
    (List.range r.accRows).foldl (fun c k =>
      let cols := (List.range r.cols).filter fun j => (columnPlace r 0 p.half j).1 == k
      c.updateRow now (p.ab + e.1) (base + k) (some (m.bundle.toNat, m.scyc)) fun row =>
        cols.foldl (fun row j =>
          row.addAll (columnPlace r 0 p.half j).2 (columnAddends r outl act x job.scales rows j)) row) c) c

/-- ACCUMULATE (R285): the first token whose addends have arrived; the pass finishes with its rows 2 cycles
after the last ones (R287). -/
def Core.accumulate (c : Core) (now id : Nat) : Core :=
  match c.livePass id with
  | none => c
  | some (m, p) =>
    match p.jobs with
    | [] => c
    | job :: rest =>
      if now < job.due then c
      else
        let c := (c.applyToken now m p job).setPass id { p with jobs := rest }
        if rest.isEmpty && decide (p.count ≤ p.next) then c.onM id fun m => { m with due := some (job.due + 2) }
        else c

/-! Fills, BDIR and BZERO (R242, R264). -/

/-- A row set becomes FULL by a command that is no fill, unless a fill has been issued to it since. -/
def fullUnlessFilling (r : RowSet) : RowSet := if r.state = 1 then r else { r with state := 2 }

/-- A BCLR issued later has emptied the row set already (R263, R278). -/
def Core.clearedSince (c : Core) (b : PassBank) (id : Nat) (r : RowSet) : RowSet :=
  if r.state != 1 && c.eng.mq.any fun m => decide (id < m.id) && (match m.work with
    | .bclr t _ => t == b
    | _ => false) then { r with state := 0 } else r

/-- BDIR's columns (R220, R279). -/
def dirColumns (r : RowSet) (col : Nat) (dirs : List DirColumn) (fresh : Bool) : RowSet :=
  let r := if fresh then { r with
      wfmt := 8, afmt := 8, planes := 16, image := [], scales := [] } else r
  let r := (dirs.mapIdx fun i d => (col + i, d)).foldl (fun r e =>
    let image := (e.2.vals.mapIdx fun k v => (k, v)).foldl (fun m kv =>
      m.write (64 * kv.1 + 2 * e.1) (leBytes 2 (kv.2 % 2 ^ 16).toNat)) r.image
    let scales := (e.2.scales.mapIdx fun k v => (k, v)).foldl (fun t kv =>
      Tab.store t (8 * e.1 + kv.1) kv.2) r.scales
    { r with image := image, scales := scales }) r
  fullUnlessFilling { r with tag := 0 }.turnLocal

/-- BDIR or BZERO ends and makes its row set FULL, before the issue of that cycle (R279, R280). -/
def Core.finishSet (c : Core) (now id : Nat) : Core :=
  match c.mCmd id with
  | none => c
  | some m =>
    match m.due with
    | none => c
    | some d =>
      if now < d then c
      else match m.work with
        | .bdir b col dirs fresh => (c.onSet b fun r => c.clearedSince b id (dirColumns r col dirs fresh)).endM id
        | .bzero b => (c.onSet b fun r => c.clearedSince b id (fullUnlessFilling { r with
            image := [], scales := [], tag := 0 }.turnLocal)).endM id
        | _ => c

def Core.onFill (c : Core) (id : Nat) (f : Fill → Fill) : Core :=
  { c with eng := { c.eng with fills := c.eng.fills.map fun x => if x.id = id then f x else x } }

def Core.dropFill (c : Core) (id : Nat) : Core :=
  { c with eng := { c.eng with fills := c.eng.fills.filter fun x => x.id != id } }

/-- A command of a channel stops with a fault, its first (R332, R344). -/
def Core.stopCopy (c : Core) (ch id cause det : Nat) (src : Nat := 2) : Core :=
  let x := c.chan ch
  match x.queue.find? fun m => m.id == id with
  | none => c
  | some m =>
    if m.status.isSome then c else
    let c := c.setChan ch { x with
      queue := x.queue.map fun y => if y.id = id then { y with status := some 3 } else y
      faults := x.faults ++ [id] }
    (c.sbDrop id).postFault {
      cause := cause, det := BitVec.ofNat 64 det, src := src, chan := ch, seq := m.seq, cmd := m.bundle }

/-- A fill ends in a fault: its row set is EMPTY (R242, R254). -/
def Core.failFill (c : Core) (f : Fill) (cause det : Nat) : Core :=
  let c := (c.dropFill f.id).onSet f.set fun r => { r with state := 0 }
  match f.chan with
  | some ch => c.stopCopy ch f.id cause det
  | none => match c.mCmd f.id with
    | some m => (c.endM f.id).postFault (m.fault cause det)
    | none => c

/-- A fill takes up to 8 weight scales, column after column (R253, R264): its progress, or a frame out of
place. -/
def takeScales : Nat → Fill → RowSet → List (Byte × BitVec 2) →
    Option (Fill × RowSet × List (Byte × BitVec 2))
  | 0, f, r, q => some (f, r, q)
  | n + 1, f, r, q =>
    match q with
    | [] => some (f, r, [])
    | (v, mark) :: rest =>
      if f.cols * f.blocks ≤ f.taken then some (f, r, q)
      else
        let last := f.taken % f.blocks == f.blocks - 1
        if (mark == 2 && !last) || (mark == 1 && last) then none
        else
          let k := f.taken
          let s := if v = 0 then Tab.drop r.scales k else Tab.store r.scales k v.toNat
          takeScales n { f with taken := k + 1 } { r with scales := s } rest

/-- One row of a BLOAD's source (R264, R304). -/
def Core.loadRow (c : Core) (now : Nat) (f : Fill) : Core :=
  if f.chan.isSome ∨ 64 ≤ f.rows then c
  else
    let a := f.addr + 256 * f.rows
    let g := c.enginePorts now reqM (portsOf a 256 false)
    if !g.1 then g.2
    else
      let bs := c.engineBytes f.id a 256
      let c := (g.2.onSet f.set fun r => { r with image := r.image.write (256 * f.rows) bs }).onFill f.id fun x =>
        { x with rows := x.rows + 1, full := decide (x.rows = 63) }
      if f.rows = 63 then c.sbDrop f.id else c

/-- The fill that holds the sequencer goes on by one cycle, and ends when its image and scales are there
(R242, R264). -/
def Core.fillCycle (c : Core) (now id : Nat) : Core :=
  match c.eng.fills.find? fun f => f.id == id with
  | none => c
  | some f =>
    match f.start with
    | none => c
    | some t =>
      if now ≤ t then c
      else
        match takeScales 8 f (c.setOf f.set) (c.scaleQ 9) with
        | none =>
          let n := ((c.scaleQ 9).take (f.blocks - f.taken % f.blocks)).takeWhile (fun u => u.2 != 2)
          (c.setScaleQ 9 ((c.scaleQ 9).drop (n.length + 1))).failFill f Cause.streamDesync 9
        | some (f', r, q) =>
          let c := (((c.setScaleQ 9 q).onSet f.set fun _ => r).onFill id fun _ => f').loadRow now f'
          match c.eng.fills.find? fun f => f.id == id with
          | none => c
          | some g =>
            if g.full && decide (g.cols * g.blocks ≤ g.taken) then
              let c := (c.dropFill id).onSet g.set fun r => { r with state := 2, tag := g.tag }
              match g.chan with
              | some _ => c
              | none => (c.onSet g.set fun r => { r with prov := none }).endM id
            else c

/-- ROW_SET_FULL (R242). -/
def Core.rowSetFull (c : Core) (now id : Nat) : Core := (c.finishSet now id).fillCycle now id

/-! Remote drains (R292, R298, R299). -/

/-- The command of a requester ends in a fault of a remote request. -/
def Core.refuseM (c : Core) (id cause det : Nat) : Core :=
  match c.mCmd id with
  | none => c
  | some m =>
    let posts := c.eng.posts.filter fun p => match p with
      | .image _ i _ => i != id
      | _ => true
    (({ c with eng := { c.eng with posts := posts } } : Core).endM id).postFault { m.fault cause det with src := 5 }

def State.msg (s : State) (no : Nat) : Option Msg := s.msgs.find? fun m => m.no == no && decide (m.at_ ≤ s.now)
def State.dropMsg (s : State) (no : Nat) : State := { s with msgs := s.msgs.filter fun m => m.no != no }

/-- The band is exported to a group and the export has started (R293). -/
def Core.bandOpen (c : Core) (bank row grp : Nat) : Bool :=
  let band := bank * 4 + row / 8
  c.eng.bandLive.contains band && Tab.look 0 c.eng.bandExports band == grp &&
    Tab.has c.eng.owners band && Tab.look 0 c.eng.owners band == grp

/-- REMOTE_DRAIN: the holder checks a request and returns the row image (R284, R292). -/
def State.remoteDrain (s : State) (no : Nat) : State :=
  match s.msg no with
  | none => s
  | some m =>
    match m.body with
    | .drain cmd bank row grp =>
      let h := s.core m.dst
      let from_ := s.core m.src
      let s := s.dropMsg no
      if !h.allocated bank then s.onCore m.src fun c => c.refuseM cmd Cause.accUnallocated bank
      else if !h.bandOpen bank row grp || !s.isMember h grp from_.lcore then
        s.onCore m.src fun c => c.refuseM cmd Cause.unexportedRead
          (h.lcore + (Config.drainAddress bank row).toNat * 2 ^ 8)
      else s.send m.dst m.src (.image cmd ((h.accRow bank row).image (h.accRow bank row).h))
    | _ => s

/-- REMOTE_ROW_IMAGE: the image arrives (R298, R299). -/
def State.remoteRowImage (s : State) (no : Nat) : State :=
  match s.msg no with
  | none => s
  | some m =>
    match m.body with
    | .image cmd row =>
      let c := s.core m.dst
      match c.mCmd cmd with
      | none => s.dropMsg no
      | some x =>
        match x.work with
        | .drain _ _ _ _ none =>
          (s.dropMsg no).setCore m.dst ((c.setImage cmd (max s.now (x.at_ + 8)) row).endM cmd)
        | .drain _ _ _ _ (some (fmt, addr)) =>
          let g := c.enginePorts s.now reqM (portsOf addr 256 true)
          if !g.1 then s.setCore m.dst g.2
          else (s.dropMsg no).setCore m.dst (g.2.writeDrained cmd row fmt addr)
        | _ => s.dropMsg no
    | _ => s

/-! CPFOLLOW (R266, R346). -/

/-- What has become of the command a carried operation follows: its last operand byte has landed, or a fault
stopped it. -/
inductive Followed where
  | waits
  | landed
  | lost
  deriving DecidableEq, Repr

def Core.followed (c : Core) (f : Follow) : Followed :=
  match f.cmd with
  | none => .landed
  | some id =>
    let x := c.chan f.chan
    if x.faults.contains id then .lost
    else match x.queue.find? fun m => m.id == id with
      | none => .landed
      | some m =>
        if m.status.isSome || (m.started && (m.kind == .go || m.kind == .fill || m.kind == .shell) &&
            decide (m.nest.total ≤ m.moved)) then .landed
        else .waits

/-- CPFOLLOW_HANDOVER of the `i`-th carried operation: it is checked as its issue would be, and takes its
place in the M engine's order (R266). -/
def State.handOver (s : State) (n i : Nat) : State :=
  let c := s.core n
  match c.eng.follows[i]? with
  | none => s
  | some f =>
    let gone := { c with eng := { c.eng with follows := c.eng.follows.eraseIdx i } }
    let fail (t : Nat × Nat) : State := s.setCore n (gone.postFault {
      cause := t.1, det := BitVec.ofNat 64 t.2, src := 2, chan := f.chan, seq := f.seq, cmd := f.cmdBundle })
    match c.followed f with
    | .waits => s
    | .lost => s.setCore n gone
    | .landed =>
      if s.mFull c then s
      else
        let pass (onto : Bool) (g : MF) : State :=
          match s.passPlan c { core := n, slot := 3, now := s.now } onto g f.a f.b with
          | .inl t => fail t
          | .inr (p, rows) =>
            if p.extent.isSome && decide (16 ≤ c.eng.sb.length) then s
            else
              let c := (gone.mPush s.now f.bundle f.scyc (some (f.chan, f.seq, f.cmdBundle)) (.pass p)
                (p.uses rows) p.extent none).lowerH rows
              -- a FENCE.E after the CPFOLLOW waits for the operation as well (R163)
              s.setCore n (if c.seq.fenced.contains f.id then
                { c with seq := { c.seq with fenced := (c.eng.nextId - 1) :: c.seq.fenced } } else c)
        match f.op with
        | .brun g => pass false g
        | .bacc g => pass true g
        | .bplane g => match c.bplaneTrap g with
          | some t => fail t
          | none => s.setCore n (gone.setActive g.bk.toNat g.rs.toNat)
        | _ => s.setCore n gone

end Sys2Proof.Machine
end

