-- ==== Sys2Proof/Machine/CopyOps.lean ====
section
/-! DEFINITION. The copy instructions at issue (R324 to R358): the kinds a command accepts (R327), capability
checks and probes (R329), overlaps (R330), formats (R335, R336), and the command each places in its
channel. -/

namespace Sys2Proof.Machine

/-! Fields. -/

/-- Source and destination offsets, stepped (R341). -/
def cSrc (fo : Focus) (f : CF) (c : Core) : Int := ((c.sreg f.sa.toNat).toNat : Int) + fo.dv.a
def cDst (fo : Focus) (f : CF) (c : Core) : Int := ((c.sreg f.sb.toNat).toNat : Int) + fo.dv.d
def cNote (f : CF) : Bool := f.fn.getLsbD 7

/-- Capability types of the data accesses of engines (R152). -/
def dataType : List Nat := [0]

/-! One side of a command. -/

/-- The pages that `[a, e)` reaches, beyond those found (R329); `fuel` bounds the pages. -/
def State.probeRun (pod part : Nat) (write : Bool) : Nat → State → Nat → Nat → List Page →
    (List Page ⊕ Trans) × State
  | 0, s, _, _, found => (.inl found, s)
  | fuel + 1, s, a, e, found =>
    if e ≤ a then (.inl found, s)
    else match found.find? fun p => decide (p.va ≤ a) && decide (a < p.va + p.size) with
      | some p => State.probeRun pod part write fuel s (p.va + p.size) e found
      | none => match s.translate pod part a write with
        | (.page p, s) => State.probeRun pod part write fuel s (p.va + p.size) e (found ++ [p])
        | (t, s) => (.inr t, s)

/-- Every page that runs of bytes reach, in order. -/
def State.probeAll (s : State) (pod part : Nat) (write : Bool) (runs : List (Nat × Nat)) :
    (List Page ⊕ Trans) × State :=
  runs.foldl (fun acc r => match acc with
    | (.inl l, s) => s.probeRun pod part write (r.2 / 4096 + 2) r.1 (r.1 + r.2) l
    | x => x) (.inl [], s)

/-- A device side (R155, R69, R329): the capability check over its interval, then the probe. A host page whose port
passes no traffic is the torn trap (R484); an atomic's host page is the translation fault of R387 in any case
(DESIGN CHOICE, log 72). -/
def State.deviceSide (s : State) (fo : Focus) (creg : Nat) (x : Cap) (need : Nat) (write : Bool)
    (lo : Int) (len : Nat) (runs : List (Int × Nat)) (k : List Page → State → Res State) : Res State :=
  let c := s.core fo.core
  match s.capCheck c creg x need dataType lo len with
  | .inr d => .trap (fo.trap Cause.capability d)
  | .inl _ =>
    let at_ (r : Int × Nat) : Nat × Nat := (x.base.toNat + r.1.toNat, r.2)
    match if write then runs.find? fun r => s.hitsCode c.part (at_ r).1 r.2 else none with
    | some r => .trap (fo.trap Cause.capability (capDetail creg 6 r.1))
    | none =>
      match s.probeAll (podOf fo.core) c.part write (runs.map at_) with
      | (.inr (.fault d), _) => .trap (fo.trap Cause.translation d)
      | (.inr _, s) => fo.waits 7 (podOf fo.core) s
      | (.inl pages, s) =>
        if need != Perm.at_ && pages.any fun p => !s.reaches c.part p then
          .trap (fo.trap Cause.hostLinkTorn)
        else k pages s

/-- A local side (R329): checks 1 and 3 of R144 for every copy, and the export rules of R339 over the
extent, which R328 draws round the scales of SCK 1 as well. -/
def Core.localSide (c : Core) (runs : List (Int × Nat)) (lo : Int) (len : Nat) (write : Bool) :
    Option (Nat × Nat) :=
  firstTrap [
    (runs.find? fun r => decide (r.1 < 0) || decide ((localTop : Int) < r.1 + r.2)).map fun r =>
      (Cause.localAddress, addrWord r.1),
    (runs.findSome? fun r => c.computeBank r.1.toNat r.2).map fun b => (Cause.bankMode, b),
    (c.exportHit lo.toNat len write).map fun a => (Cause.exportViolation, a)]

def Nest.srcRuns (n : Nest) (base : Int) : List (Int × Nat) :=
  (List.range n.copies).map fun k => (n.srcAt base k, n.inner)
def Nest.dstRuns (n : Nest) (base : Int) : List (Int × Nat) :=
  (List.range n.copies).map fun k => (n.dstAt base k, n.inner)

/-- The scoreboard extents of a command (R328). -/
def CopyCmd.readExtent (m : CopyCmd) : Option (Nat × Nat) :=
  let local_ := match m.kind with
    | .go => m.nest.skind == 0
    | .mcast => m.nest.skind == 0
    | .shell => m.nest.skind == 0
    | .acc _ => true
    | _ => false
  let e := m.nest.srcExtent m.src
  let rd := if local_ then extent e.1.toNat e.2 else none
  match m.kind with
  | .walk => extent m.src.toNat (64 * m.n)
  | _ => if m.readsScales then hull rd m.scaleExtent else rd

/-! Placing a command. -/

/-- A command that names a channel counts (R332). -/
def Core.nameChan (c : Core) (ch : Nat) : Core :=
  let x := c.chan ch
  c.setChan ch { x with seq := (x.seq + 1) % 2 ^ 16 }

/-- A data command of R334, which CPFOLLOW may follow. -/
def CopyKind.isData : CopyKind → Bool
  | .mark _ => false
  | .inv => false
  | .msg => true
  | _ => true

/-- The collectives, complete by now, whose blocks a release at partition or system scope waits for (R334, R369). -/
def Core.releases (c : Core) (m : CopyCmd) : List Nat :=
  if m.rel && decide (2 ≤ m.scp) then (c.eng.farOut.map (·.1)).filter fun i => !c.openIds.contains i else []

/-- The command enters its channel with its scoreboard entry, or waits for room (R323, R310). -/
def State.cIssue (s : State) (fo : Focus) (ch : Nat) (m : CopyCmd) (k : CopyCmd → Core → Core) : Res State :=
  let c := s.core fo.core
  let x := c.chan ch
  let rd := m.readExtent
  let wr := m.writeExtent
  if 4 ≤ x.queue.length then fo.waits 8 1 s
  else if (rd.isSome || wr.isSome) && decide (16 ≤ c.eng.sb.length) then fo.waits 6 0 s
  else
    let id := c.eng.nextId
    let m := { m with
      id := id, slot := fo.slot, bundle := c.seq.pc, seq := x.seq, pidx := c.pidx
      relOut := c.releases m }
    let c := { c with eng := { c.eng with nextId := id + 1 } }
    let c := c.setChan ch { x with
      queue := x.queue ++ [m], seq := (x.seq + 1) % 2 ^ 16
      lastData := if m.kind.isData then some (id, m.seq, m.bundle) else x.lastData }
    let c := if rd.isSome || wr.isSome then c.sbTake id rd wr else c
    .ok (s.setCore fo.core (k m c))

end Sys2Proof.Machine

namespace Sys2Proof

/-- The fields that every data command takes from its operation. -/
def CF.command (f : CF) (code : Nat) (kind : Machine.CopyKind) : Machine.CopyCmd :=
  { id := 0, slot := 0, bundle := 0, seq := 0, pidx := 0, code := code, kind := kind
    note := f.fn.getLsbD 7, grp := f.grp.toNat, acq := f.acq == 1, rel := f.rel == 1, scp := f.scp.toNat
    scr := f.ca.toNat, dcr := f.cb.toNat }

end Sys2Proof

namespace Sys2Proof.Machine

/-! Row sets that a copy command fills (R343, R349). -/

def Core.fillTrap (c : Core) (n : Nest) : Option (Nat × Nat) :=
  firstTrap [c.computeTrap n.bank, c.shadowTrap n.bank n.rs]

/-- The row set becomes FILLING at the issue, with its provenance, and its outlier entries are discarded (R243, R259,
R343). -/
def Core.claimSet (c : Core) (m : CopyCmd) : Core :=
  match m.fills with
  | none => c
  | some b => (c.onSet b fun r => { r with
      state := 1
      prov := if m.nest.skind = 1 then
          some { cap := m.sc, off := m.src, nest := m.nest, sheller := m.kind == .shell }
        else none }).discardOutliers b m.id

/-! CPSET (R342). -/

def cpsetAddr (f : CF) (c : Core) : Int :=
  ((c.sreg f.sa.toNat).toNat : Int) + signExt f.imm.toNat 16 * 256 

def opCpset (fo : Focus) (f : CF) (s : State) : Res State :=
  let c := s.core fo.core
  let q := cpsetAddr f c
  let n := if q < 0 then 128 else if c.mem.num (q.toNat + 2) 2 = 256 then 256 else 128
  (c.slotAccess fo { write := false, align := false, pieces := [(q, n)] } none fun c =>
    match readNest (c.mem.bytes q.toNat n) with
    | .inr off => .trap (fo.trap Cause.commandBlock off)
    | .inl d =>
      let x := c.chan f.ch.toNat
      .ok (c.setChan f.ch.toNat { x with desc := some d, seq := (x.seq + 1) % 2 ^ 16 })).map (s.setCore fo.core)

/-! Checks shared by the commands that copy a descriptor. -/

/-- The descriptor of the channel, or the illegal-operand trap (R324, R327). -/
def State.descriptor (s : State) (fo : Focus) (f : CF) (ok : Nest → Bool) (k : Nest → Res State) : Res State :=
  match ((s.core fo.core).chan f.ch.toNat).desc with
  | none => .trap (fo.trap Cause.illegalOperand)
  | some d => if ok d then k d else .trap (fo.trap Cause.illegalOperand)

/-- CA or CB names a capability that the descriptor does not use (R341). -/
def unusedCap (fo : Focus) (usesA usesB : Bool) (f : CF) (k : Res State) : Res State :=
  if (!usesA && f.ca != 0) || (!usesB && f.cb != 0) then .trap (fo.trap Cause.illegalOperation 5) else k

/-- R327 for CPGO. -/
def goKinds (dst : Int) (n : Nest) : Bool :=
  (n.skind != 2 || n.dkind == 0) &&
  (n.dkind != 2 || (n.dstDense && n.total == 16384 && dst == 0 && n.fmt == 0)) &&
  (n.dkind != 3 || (n.fmt == 0 && decide (2 ≤ n.sck) && decide (1 ≤ n.frame) && n.total % n.frame == 0))

/-- The units a command pushes into q8 or q9, when it pushes any (R336). -/
def CopyCmd.pushedUnits (m : CopyCmd) : Option Nat :=
  if m.kind ≠ .go then none
  else if m.nest.dkind = 3 then some m.nest.total
  else if m.nest.fmt ≠ 0 ∧ 2 ≤ m.nest.sck then some m.blocks
  else none

/-- R335 and R336: the offsets of the device side's copies, its capability's BASE and its pages. -/
def CopyCmd.formatBad (m : CopyCmd) (dev : List (Int × Nat)) (base : Nat) (pages : List Page) : Bool :=
  let n := m.nest
  (n.fmt != 0 &&
    (n.skind == 2 || decide (2 ≤ n.dkind) || (n.skind == 1) == (n.dkind == 1) || n.sck == 0 ||
      (n.dkind == 1 && n.sck != 1) || (pages.any fun p => !p.mx) || base % 64 != 0 ||
      (dev.any fun r => r.1 % (n.period : Int) != 0) || n.inner % n.period != 0)) ||
  match m.pushedUnits with
  | some u => n.frame == 0 || u % n.frame != 0
  | none => false

/-- R330. -/
def CopyCmd.overlapBad (m : CopyCmd) : Bool :=
  extentsMeet m.readExtent m.writeExtent && !(m.nest.srcDense && m.nest.dstDense && decide (m.nest.total ≤ 4096))

/-- What stops the local part of a side (R329, R335, R339): its runs where it is local, and the scales of SCK 1 where it has
them, within the extent that the scoreboard takes. -/
def Core.localReach (c : Core) (m : CopyCmd) (on : Bool) (runs : List (Int × Nat)) (scaled : Bool)
    (e : Option (Nat × Nat)) (write : Bool) : Option (Nat × Nat) :=
  let scales : List (Int × Nat) := if scaled then [((m.nest.scaddr : Int), m.blocks)] else []
  let x := e.getD (0, 0)
  c.localSide ((if on then runs else []) ++ scales) x.1 x.2 write

/-- The checks of R329 for the two sides of a command, then R330, R335 and R336. -/
def State.sides (s : State) (fo : Focus) (ch : Nat) (m : CopyCmd) (srcLocal srcDev dstLocal dstDev : Bool)
    (k : CopyCmd → State → Res State) : Res State :=
  let c := s.core fo.core
  let n := m.nest
  let se := n.srcExtent m.src
  let de := n.dstExtent m.dst
  let sr := n.srcRuns m.src
  let dr := n.dstRuns m.dst
  let rest (sp dp : List Page) (s : State) : Res State :=
    let m := { m with spages := sp, dpages := dp }
    if m.overlapBad then .trap (fo.trap Cause.overlappingNest ch)
    else if srcDev && m.formatBad sr m.sc.base.toNat sp then .trap (fo.trap Cause.illegalOperand)
    else if dstDev && m.formatBad dr m.dc.base.toNat dp then .trap (fo.trap Cause.illegalOperand)
    else if !srcDev && !dstDev && m.formatBad [] 0 [] then .trap (fo.trap Cause.illegalOperand)
    else k m s
  let dstSide (sp : List Page) (s : State) : Res State :=
    if dstDev then s.deviceSide fo m.dcr m.dc Perm.wr true de.1 de.2 dr (fun dp s => rest sp dp s)
    else fo.checked [c.localReach m dstLocal dr m.writesScales m.writeExtent true] (rest sp [] s)
  if srcDev then s.deviceSide fo m.scr m.sc Perm.rd false se.1 se.2 sr dstSide
  else fo.checked [c.localReach m srcLocal sr m.readsScales m.readExtent false] (dstSide [] s)

/-! The commands. -/

/-- PEER and PGRP of a peer source (R343, check 2). -/
def State.peerTrap (s : State) (c : Core) (n : Nest) : Option (Nat × Nat) :=
  illegalIf (!s.inPod c n.peer || !s.groupOk c n.pgrp || !s.isMember c n.pgrp c.lcore)

def opCpgo (fo : Focus) (f : CF) (s : State) : Res State :=
  let c := s.core fo.core
  let dst := cDst fo f c
  s.descriptor fo f (goKinds dst) fun n =>
    unusedCap fo (n.skind == 1) (n.dkind == 1) f
      (fo.checked [if n.skind = 2 then s.peerTrap c n else none, if n.dkind = 2 then c.fillTrap n else none]
        (s.sides fo f.ch.toNat { f.command 0x02 .go with
            nest := n, src := cSrc fo f c, dst := dst, sc := c.cap f.ca.toNat, dc := c.cap f.cb.toNat
            gen := (c.bank n.bank).gen }
          (n.skind == 0) (n.skind == 1) (n.dkind == 0) (n.dkind == 1)
          fun m s => s.cIssue fo f.ch.toNat m fun m c => c.claimSet m))

/-- gk fails R54, a member lies outside this core's pod, or this core is no member (R347). -/
def State.castTrap (s : State) (c : Core) (k : Nat) : Option (Nat × Nat) :=
  illegalIf (!s.groupOk c k || ((membersOf (s.group c k)).any fun l => !s.inPod c l) || !s.isMember c k c.lcore)

def opCpmcast (fo : Focus) (f : CF) (s : State) : Res State :=
  let c := s.core fo.core
  s.descriptor fo f (fun n => decide (n.skind ≤ 1) && n.dkind == 0 && n.fmt == 0) fun n =>
    unusedCap fo (n.skind == 1) false f
      (fo.checked [s.castTrap c f.grp.toNat]
        (s.sides fo f.ch.toNat { f.command 0x06 .mcast with
            nest := n, src := cSrc fo f c, dst := cDst fo f c, sc := c.cap f.ca.toNat }
          (n.skind == 0) (n.skind == 1) false false fun m s => s.cIssue fo f.ch.toNat m fun _ c => c))

def opCpmcastMsg (fo : Focus) (f : CF) (s : State) : Res State :=
  let c := s.core fo.core
  fo.checked [s.castTrap c f.grp.toNat]
    (s.cIssue fo f.ch.toNat { f.command 0x06 .msg with value := c.sreg f.sa.toNat } fun _ c => c)

def opCpfill (fo : Focus) (f : CF) (s : State) : Res State :=
  let c := s.core fo.core
  s.descriptor fo f (fun n => decide (n.dkind ≤ 1) && n.fmt == 0) fun n =>
    unusedCap fo false (n.dkind == 1) f
      (s.sides fo f.ch.toNat { f.command 0x07 .fill with
          nest := n, dst := cDst fo f c, value := c.sreg f.sa.toNat, dc := c.cap f.cb.toNat }
        false false (n.dkind == 0) (n.dkind == 1) fun m s => s.cIssue fo f.ch.toNat m fun _ c => c)

def opCpshell (fo : Focus) (f : CF) (s : State) : Res State :=
  let c := s.core fo.core
  s.descriptor fo f (fun n => decide (n.skind ≤ 1) && n.dkind == 2 && n.fmt == 0) fun n =>
    unusedCap fo (n.skind == 1) false f
      (fo.checked [c.fillTrap n]
        (s.sides fo f.ch.toNat { f.command 0x08 .shell with
            nest := n, src := cSrc fo f c, sc := c.cap f.ca.toNat, gen := (c.bank n.bank).gen }
          (n.skind == 0) (n.skind == 1) false false
          fun m s => s.cIssue fo f.ch.toNat m fun m c => c.claimSet m))

/-! CPACC (R350). -/

/-- The element width of an operation. -/
def accWidth (op : Nat) : Nat := if op = 3 ∨ op = 7 then 8 else 4

/-- An accumulate-write never reaches a host page: the detail of its translation fault (R350). -/
def accHostFault (x : Cap) (runs : List (Int × Nat)) (pages : List Page) : Option Nat :=
  runs.findSome? fun r =>
    let a := x.base.toNat + r.1.toNat
    (pages.find? fun p => p.loc != 0 && rangesMeet a r.2 p.va p.size).map fun p =>
      translationDetail (max a p.va) p.level 5 true

def opCpacc (fo : Focus) (f : CF) (s : State) : Res State :=
  let c := s.core fo.core
  let op := f.fn.toNat % 8
  let e := accWidth op
  let dst := cDst fo f c
  s.descriptor fo f (fun n => n.skind == 0 && n.dkind == 1 && n.fmt == 0) fun n =>
    let src := cSrc fo f c
    let se := n.srcExtent src
    let de := n.dstExtent dst
    let dr := n.dstRuns dst
    let x := c.cap f.cb.toNat
    fo.checked [
        if n.inner % e = 0 then none else some (Cause.misaligned, n.inner),
        (dr.find? fun r => r.1 % (e : Int) != 0).map fun r => (Cause.misaligned, addrWord r.1),
        c.localSide (n.srcRuns src) se.1 se.2 false]
      (s.deviceSide fo f.cb.toNat x Perm.at_ true de.1 de.2 dr fun pages s =>
        match accHostFault x dr pages with
        | some d => .trap (fo.trap Cause.translation d)
        | none => s.cIssue fo f.ch.toNat { f.command 0x09 (.acc op) with
            nest := n, src := src, dst := dst, dc := x, dpages := pages } fun _ c => c)

/-- The result queue of a C slot: q0 or q1 (R333). -/
def resultQueue (slot : Nat) : Nat := if slot = 5 then 1 else 0

def Core.addResult (c : Core) (slot : Nat) (r : Result) : Core :=
  let q := resultQueue slot
  { c with eng := { c.eng with results := Tab.store c.eng.results q (Tab.look [] c.eng.results q ++ [r]) } }

def opCpaccOne (fo : Focus) (f : CF) (s : State) : Res State :=
  let c := s.core fo.core
  let op := f.fn.toNat % 8
  let e := accWidth op
  let dst := cDst fo f c
  let x := c.cap f.cb.toNat
  let runs : List (Int × Nat) := [(dst, e)]
  fo.checked [if dst % (e : Int) = 0 then none else some (Cause.misaligned, addrWord dst)]
    (s.deviceSide fo f.cb.toNat x Perm.at_ true dst e runs fun pages s =>
      match accHostFault x runs pages with
      | some d => .trap (fo.trap Cause.translation d)
      | none => s.cIssue fo f.ch.toNat { f.command 0x09 (.accOne op) with
          dst := dst, dc := x, dpages := pages, value := c.sreg f.sa.toNat } fun m c =>
            c.addResult fo.slot (.value m.id f.ch.toNat none))

/-! MEMROW (R351, R406). -/

/-- The rows of the pages of a command lie in one stack. -/
def pageStacks (x : Cap) (off : Int) (n : Nat) (pages : List Page) : List Nat :=
  ((List.range n).filterMap fun i =>
    let a := x.base.toNat + off.toNat + 4096 * i
    (pages.find? fun p => decide (p.va ≤ a) && decide (a < p.va + p.size)).map fun p => stackOf (p.at a)).eraseDups

/-- A source page and a destination page differ in MX (R406). -/
def mixesMx (sp dp : List Page) : Bool := sp.any fun a => dp.any fun b => a.mx != b.mx

def rowCount (f : CF) : Nat := f.imm.toNat + 1

def opMemrowCopy (fo : Focus) (f : CF) (s : State) : Res State :=
  let c := s.core fo.core
  let n := rowCount f
  let src := cSrc fo f c
  let dst := cDst fo f c
  let x := c.cap f.ca.toNat
  let y := c.cap f.cb.toNat
  let len := 4096 * n
  let a := (x.base.toNat : Int) + src
  let b := (y.base.toNat : Int) + dst
  let meet := decide (a < b + len) && decide (b < a + len)
  fo.checked [illegalIf (src % 4096 != 0 || dst % 4096 != 0 || meet)]
    (s.deviceSide fo f.ca.toNat x (Perm.row + Perm.rd) false src len [(src, len)] fun sp s =>
      s.deviceSide fo f.cb.toNat y (Perm.row + Perm.wr) true dst len [(dst, len)] fun dp s =>
        let reached := (pageStacks x src n sp ++ pageStacks y dst n dp).eraseDups
        let bad := (sp ++ dp).any (fun p => p.loc != 0) || decide (1 < reached.length) ||
          mixesMx sp dp
        if bad then .trap (fo.trap Cause.illegalOperand)
        else s.cIssue fo f.ch.toNat { f.command 0x10 .rowCopy with
          src := src, dst := dst, sc := x, dc := y, n := n, spages := sp, dpages := dp } fun _ c => c)

def opMemrowZero (fo : Focus) (f : CF) (s : State) : Res State :=
  let c := s.core fo.core
  let n := rowCount f
  let dst := cDst fo f c
  let y := c.cap f.cb.toNat
  let len := 4096 * n
  fo.checked [illegalIf (dst % 4096 != 0)]
    (s.deviceSide fo f.cb.toNat y (Perm.row + Perm.wr) true dst len [(dst, len)] fun dp s =>
      if dp.any (fun p => p.loc != 0) || decide (1 < (pageStacks y dst n dp).length) then
        .trap (fo.trap Cause.illegalOperand)
      else s.cIssue fo f.ch.toNat { f.command 0x10 .rowZero with
        dst := dst, dc := y, n := n, dpages := dp } fun _ c => c)

/-! EWALK (R352). -/

def opEwalk (fo : Focus) (f : CF) (s : State) : Res State :=
  let c := s.core fo.core
  let q : Int := ((c.sreg f.sa.toNat).toNat : Int)
  let n := (c.sreg f.sb.toNat).toNat
  let grp := f.grp.toNat
  fo.checked [illegalIf (n == 0 || decide (4096 < n)),
      illegalIf (!s.groupOk c grp || !s.isMember c grp c.lcore),
      if q % 64 = 0 then none else some (Cause.misaligned, addrWord q),
      c.localSide [(q, 64 * n)] q (64 * n) false]
    (s.cIssue fo f.ch.toNat { f.command 0x11 .walk with
      src := q, n := n, sc := c.cap f.ca.toNat, dc := c.cap f.cb.toNat } fun _ c => c)

/-! Markers, waits and fences (R344 to R346, R353, R354). -/

def opCpmark (fo : Focus) (f : CF) (s : State) : Res State :=
  s.cIssue fo f.ch.toNat { f.command 0x04 (.mark f.imm.toNat) with note := true } fun _ c => c

def opCpinv (fo : Focus) (f : CF) (s : State) : Res State :=
  s.cIssue fo f.ch.toNat (f.command 0x12 .inv) fun _ c => c

def opCpwait (fo : Focus) (f : CF) (c : Core) : Res Core :=
  let mask := bits f.imm.toNat 7 0
  if mask = 0 then .trap (fo.trap Cause.illegalOperand)
  else .ok (({ c with eng := { c.eng with nextId := c.eng.nextId + 1 } } : Core).addResult fo.slot
    (.wait c.eng.nextId mask))

def opCpfence (fo : Focus) (f : CF) (c : Core) : Res Core :=
  let mask := bits f.imm.toNat 7 0
  if mask = 0 then .trap (fo.trap Cause.illegalOperand)
  else .ok { c with eng := { c.eng with
    nextId := c.eng.nextId + 1, fences := c.eng.fences ++ [(c.eng.nextId, mask)] } }

/-- CPFOLLOW with the M operation of its bundle (R346); a bundle without one of the three traps. -/
def opCpfollow (fo : Focus) (f : CF) (op : Option Instr) (c : Core) : Res Core :=
  let ch := f.ch.toNat
  let x := c.chan ch
  let go (op : Instr) (a b : Word) : Res Core :=
    let cmd := x.lastData
    let w : Follow := {
      id := c.eng.nextId, op := op, a := a, b := b, chan := ch, cmd := cmd.map (·.1)
      seq := (cmd.map (·.2.1)).getD x.seq, cmdBundle := (cmd.map (·.2.2)).getD c.seq.pc
      bundle := c.seq.pc, scyc := c.scycle }
    .ok (({ c with eng := { c.eng with nextId := c.eng.nextId + 1, follows := c.eng.follows ++ [w] } } : Core).nameChan ch)
  match op with
  | some (.brun g) => go (.brun g) (c.sreg g.sa.toNat) (c.sreg g.sb.toNat)
  | some (.bacc g) => go (.bacc g) (c.sreg g.sa.toNat) (c.sreg g.sb.toNat)
  | some (.bplane g) => go (.bplane g) 0 0
  | _ => .trap (fo.trap Cause.illegalOperation)

/-! CPEXPORT (R355). -/

/-- An export overlaps one of this phase, or the table is full. -/
def Core.exportBad (c : Core) (q n : Nat) : Bool :=
  decide (8 ≤ c.eng.exports.length) || c.eng.exports.any fun e => rangesMeet q n e.addr e.len

def cpexport (kind : Nat) (fo : Focus) (f : CF) (s : State) : Res State :=
  let c := s.core fo.core
  let q := (c.sreg f.sa.toNat).toNat
  let n := (c.sreg f.sb.toNat).toNat
  let grp := f.grp.toNat
  fo.checked [
      illegalIf (kind == 3 || !s.groupOk c grp || q % 256 != 0 || n % 256 != 0 || n == 0 ||
        decide (2 ^ 20 < n) || c.exportBad q n),
      if localTop < q + n then some (Cause.localAddress, q) else none,
      (c.computeBank q n).map fun b => (Cause.bankMode, b)]
    (if 16 ≤ c.eng.sb.length then fo.waits 6 0 s
     else
      let id := c.eng.nextId
      let e : Export := {
        addr := q, len := n, grp := grp, kind := kind, id := id, from_ := s.now + 2, live := false }
      let c := { c with eng := { c.eng with nextId := id + 1, exports := c.eng.exports ++ [e] } }
      .ok (s.setCore fo.core (c.sbTake id none (extent q n))))

def opCpexportRead (fo : Focus) (f : CF) (s : State) : Res State := cpexport (f.fn.toNat % 4) fo f s
def opCpexportCarry (fo : Focus) (f : CF) (s : State) : Res State := cpexport 1 fo f s
def opCpexportReceive (fo : Focus) (f : CF) (s : State) : Res State := cpexport 2 fo f s

/-! CPCOLL (R356 to R358). -/

/-- A collective plan from its 64 bytes, or the byte offset of its first failing field (R325, R356). -/
def readPlan (bs : List Byte) : Plan ⊕ Nat :=
  let x := leNat bs
  let p : Plan := {
    kind := bits x 33 32, type := bits x 37 34, op := bits x 39 38, count := bits x 95 64
    soff := bits x 143 96, doff := bits x 191 144 }
  if bits x 15 0 ≠ 1 then .inr 0
  else if bits x 31 16 ≠ 64 then .inr 2
  else if p.kind = 3 then .inr 4
  else if !([2, 8, 9, 10].contains p.type) then .inr 4
  else if p.kind ≠ 1 ∧ p.op = 3 then .inr 4
  else if bits x 63 40 ≠ 0 then .inr 5
  else if p.count = 0 then .inr 8
  else if bits x 511 192 ≠ 0 then
    .inr (24 + ((List.range 40).findIdx? fun i => bs.getD (24 + i) 0 != 0).getD 0)
  else .inl p

/-- Bytes of one block, and of a member's source and destination (R357). -/
def Plan.block (p : Plan) : Nat := p.count * ((ety p.type).width / 8)
def Plan.srcLen (p : Plan) (members : Nat) : Nat := if p.kind = 2 then members * p.block else p.block
def Plan.dstLen (p : Plan) (members : Nat) : Nat := if p.kind = 1 then members * p.block else p.block

def opCpcoll (fo : Focus) (f : CF) (s : State) : Res State :=
  let c := s.core fo.core
  let q : Int := ((c.sreg f.sa.toNat).toNat : Int)
  let grp := f.grp.toNat
  let members := (membersOf (s.group c grp)).length
  let x := c.cap f.ca.toNat
  let y := c.cap f.cb.toNat
  fo.checked [illegalIf (!s.groupOk c grp || !s.isMember c grp c.lcore),
      if q % 64 = 0 then none else some (Cause.misaligned, addrWord q)]
    (match c.slotAccess fo { write := false, align := false, pieces := [(q, 64)] } none Res.ok with
      | .trap t => .trap t
      | .wait w c => .wait w (s.setCore fo.core c)
      | .ok c =>
        match readPlan (c.mem.bytes q.toNat 64) with
        | .inr off => .trap (fo.trap Cause.commandBlock off)
        | .inl p =>
          let s := s.setCore fo.core c
          let sl := p.srcLen members
          let dl := p.dstLen members
          s.deviceSide fo f.ca.toNat x (Perm.rd + Perm.coll) false p.soff sl [((p.soff : Int), sl)] fun sp s =>
            s.deviceSide fo f.cb.toNat y (Perm.wr + Perm.coll) true p.doff dl [((p.doff : Int), dl)] fun dp s =>
              s.cIssue fo f.ch.toNat { f.command 0x15 .coll with
                plan := p, src := p.soff, dst := p.doff, sc := x, dc := y, spages := sp, dpages := dp
                n := Tab.look 0 c.colls grp } fun _ c =>
                  { c with colls := Tab.store c.colls grp (Tab.look 0 c.colls grp + 1) })

end Sys2Proof.Machine
end

