-- ==== Sys2Proof/Machine/CopyEngine.lean ====
section
/-! DEFINITION. The copy channels at work (R323, R326, R331 to R340): starting, transfers, completion and
records, markers, peer reads and deliveries. Each event does nothing when it is not enabled (log 5). -/

namespace Sys2Proof.Machine

def Core.onCopy (c : Core) (ch id : Nat) (f : CopyCmd → CopyCmd) : Core :=
  let x := c.chan ch
  c.setChan ch { x with queue := x.queue.map fun m => if m.id = id then f m else m }

def Core.copyCmd (c : Core) (ch id : Nat) : Option CopyCmd := (c.chan ch).queue.find? fun m => m.id == id

/-- A channel holds a record that its full queue does not take, and waits (R221): a completion for q10, or the value of a
CPACC for q0 or q1. -/
def Core.chanWaits (c : Core) (ch : Nat) : Bool :=
  ((Tab.look [] c.q.held 10).any fun v => v.toNat % 8 == ch) ||
  [0, 1].any fun q => decide (queueDepth q ≤ (c.queue q).length) && (Tab.look [] c.eng.results q).any fun r =>
    match r with
    | .value _ k (some _) => k == ch
    | _ => false

/-- The command a channel runs: the front of its queue, while nothing has stopped it and no record holds the channel. -/
def Core.copyHead (c : Core) (ch : Nat) : Option CopyCmd :=
  match (c.chan ch).queue with
  | m :: _ => if m.status.isNone && !c.chanWaits ch then some m else none
  | [] => none

/-- Every participating core of the phase in this box has issued PHASE. -/
def State.phasedHere (s : State) (p : Nat) : Bool :=
  (s.participants p).all fun n => (s.core n).seq.run == .atPhase

/-- Every participating core of the phase has issued PHASE, those of the far box of a two-box phase included (R337,
R358). -/
def State.allAtPhase (s : State) (p : Nat) : Bool :=
  s.phasedHere p && (!(s.part p).twoBox || decide (0 < (s.part p).farPhased))

/-- The channels of a core that stops end their copies (R458). -/
def Core.haltCopies (c : Core) : Core :=
  { c with eng := { c.eng with chans := c.eng.chans.map fun x =>
      (x.1, { x.2 with queue := x.2.queue.map fun m => { m with halt := true } }) } }

/-- The channels and in-memory units of a core that goes on go on (R399, R458). -/
def Core.goOn (c : Core) : Core :=
  { c with eng := { c.eng with chans := c.eng.chans.map fun x =>
      (x.1, { x.2 with queue := x.2.queue.map fun m => { m with halt := false, rest := false } }) } }

/-- A channel's command stops, its fill with it. -/
def Core.stopHead (c : Core) (ch id cause det : Nat) : Core :=
  match c.eng.fills.find? fun f => f.id == id with
  | some f => c.failFill f cause det
  | none =>
    match c.copyCmd ch id with
    | none => c
    | some m =>
      let c := match m.fills with
        | some b => c.onSet b fun r => { r with state := 0 }
        | none => c
      c.stopCopy ch id cause det

/-! Starting (R310, R323, R354, R355, R370). -/

/-- A command reaches device memory. -/
def CopyCmd.usesDevice (m : CopyCmd) : Bool :=
  match m.kind with
  | .go => m.nest.skind == 1 || m.nest.dkind == 1
  | .mcast => m.nest.skind == 1
  | .shell => m.nest.skind == 1
  | .fill => m.nest.dkind == 1
  | .msg => false
  | .mark _ => false
  | .inv => false
  | _ => true

/-- Commands of the channels of a mask issued before `id` and still queued. -/
def Core.openBefore (c : Core) (mask id : Nat) : Bool :=
  (List.range 8).any fun ch => mask.testBit ch && (c.chan ch).queue.any fun m => decide (m.id < id)

/-- What holds the first access of a command back (R334, R354, R370). -/
def Core.copyHeld (c : Core) (ch : Nat) (m : CopyCmd) : Bool :=
  (m.usesDevice && c.eng.fences.any fun f =>
    decide (f.1 < m.id) && f.2.testBit ch && c.openBefore f.2 f.1) ||
  (m.acq && (List.range 8).any fun k => (c.chan k).queue.any fun e => e.rel && decide (e.id < m.id))

/-- The blocks of the far module that a partition has received and not applied, by group, member and number. -/
def State.farWaiting (s : State) (p : Nat) : List (Nat × Nat × Nat) :=
  (s.farColl.filter fun b => b.part == p).map fun b => (b.group, b.lcore, b.n)

/-- An acquire at partition or system scope waits until what the box link had brought as it began is applied (R370).
DEDUCED (log 83): the messages of its own partition, and only until every participant waits at its PHASE. -/
def State.acquireWaits (s : State) (c : Core) (m : CopyCmd) : Bool :=
  m.acq && decide (2 ≤ m.scp) && !s.allAtPhase c.part &&
    (s.farWaiting c.part).any fun b => (m.began.map fun l => l.contains b).getD true

/-- An acquire begins: it waits for what is there now. -/
def State.beginAcquire (s : State) (n ch id : Nat) : State :=
  s.onCore n fun c => c.onCopy ch id fun m => { m with began := some (m.began.getD (s.farWaiting c.part)) }

/-- The far module has still to apply a block of a collective that this release covers (R369), with `own` its own. -/
def Core.farOpen (c : Core) (m : CopyCmd) (own : Bool) : Bool :=
  m.rel && decide (2 ≤ m.scp) && c.eng.farOut.any fun e => m.relOut.contains e.1 || (own && e.1 == m.id)

/-- The release before the last write of a command has still to end (R334, R369, R372): its other deliveries are not all
applied, or the far module has blocks to apply. -/
def Core.lastHeld (c : Core) (m : CopyCmd) : Bool :=
  c.farOpen m false || (m.rel && decide (1 ≤ m.scp) && m.open_ != 0 && (m.kind == .mcast || m.kind == .walk))

/-- The fill of a command holds the sequencer, or takes it now (R263, R264): no fill is before it, and no
M command that issued before its hand-over still uses its row set. -/
def Core.holdFill (c : Core) (now : Nat) (m : CopyCmd) : Option Core :=
  match c.eng.fills.find? fun f => f.id == m.id with
  | none => some c
  | some f =>
    if f.start.isSome then some c
    else if (c.eng.fills.head?.map (·.id)) != some m.id then none
    else if c.eng.mq.any fun e => decide (e.id < f.ord) && e.uses.contains f.set.key then none
    else
      let r := c.setOf f.set
      some ((c.dropOutliers f.set m.id).onFill m.id fun f => { f with
        start := some now, cols := r.cols, blocks := tokenBlocks r.storage })

/-- COPY_COMMAND_START of a channel's front command, once nothing holds it back. -/
def Core.startCopy (c : Core) (p : Params) (now ch : Nat) (m : CopyCmd) : Core :=
  let delay := if m.usesDevice then p.mem else 1
  let c := c.onCopy ch m.id fun m => { m with started := true, since := now, safe := now, at_ := now + delay }
  match m.fills with
  | none => c
  | some b =>
    let f : Fill := { id := m.id, chan := some ch, set := b, tag := m.nest.swz, ord := c.eng.nextId }
    let c := { c with eng := { c.eng with fills := c.eng.fills ++ [f] } }
    (c.holdFill now m).getD c

/-- COPY_COMMAND_START of an export (R355). -/
def Core.startExport (c : Core) (now k : Nat) : Core :=
  match c.eng.exports[k]? with
  | none => c
  | some e =>
    if e.live || decide (now < e.from_) || !c.sbClear e.id then c
    else ({ c with eng := { c.eng with
      exports := c.eng.exports.map fun x => if x.id = e.id then { x with live := true } else x } } : Core).sbDrop e.id

/-! Probing afresh (R353, R399). -/

/-- What an access of a command answers. -/
inductive Xfer (α : Type) where
  | ok (a : α)
  /-- A translation waits, `held` at an entry with WAIT (R396). -/
  | wait (held : Bool)
  | stop (cause det : Nat)
  deriving DecidableEq, Repr

/-- What is left of the copies of a side once `done` bytes of the nest have moved. -/
def Nest.runsLeft (n : Nest) (at_ : Nat → Int) (done : Nat) : List (Int × Nat) :=
  let k := done / n.inner
  let i := done % n.inner
  (List.range (n.copies - k)).map fun j =>
    if j = 0 then (at_ k + (i : Int), n.inner - i) else (at_ (k + j), n.inner)

/-- The interval over runs, as its first offset and length. -/
def runsHull (l : List (Int × Nat)) : Int × Nat :=
  let lo := (l.map (·.1)).foldl min (l.headD (0, 0)).1
  let hi := (l.map fun r => r.1 + (r.2 : Int)).foldl max lo
  (lo, (hi - lo).toNat)

/-- A device side of a command that probes again: what it has still to reach, and what it needs. -/
structure ProbeSide where
  creg  : Nat
  cap   : Cap
  need  : Nat
  write : Bool
  runs  : List (Int × Nat)
  deriving DecidableEq, Repr

/-- The remaining source of a command. -/
def CopyCmd.sourceLeft (m : CopyCmd) : List (Int × Nat) :=
  match m.kind with
  | .go | .mcast | .shell =>
    if m.nest.skind = 1 then m.nest.runsLeft (m.nest.srcAt m.src) (m.moved + m.ahead.length) else []
  | .rowCopy => [(m.src + 4096 * m.units, 4096 * (m.n - m.units))]
  | _ => []

/-- The remaining destination. -/
def CopyCmd.destLeft (m : CopyCmd) : List (Int × Nat) :=
  match m.kind with
  | .go | .fill => if m.nest.dkind = 1 then m.nest.runsLeft (m.nest.dstAt m.dst) m.moved else []
  | .acc _ => m.nest.runsLeft (m.nest.dstAt m.dst) m.moved
  | .accOne op => [(m.dst, accWidth op)]
  | .rowCopy | .rowZero => [(m.dst + 4096 * m.units, 4096 * (m.n - m.units))]
  | _ => []

/-- The permissions of the two sides (R343, R350, R351, R356). -/
def CopyKind.needs : CopyKind → Nat × Nat
  | .acc _ | .accOne _ => (0, Perm.at_)
  | .rowCopy | .rowZero => (Perm.row + Perm.rd, Perm.row + Perm.wr)
  | .coll => (Perm.rd + Perm.coll, Perm.wr + Perm.coll)
  | _ => (Perm.rd, Perm.wr)

/-- One side probed afresh: R155, R69 and the translation of every page. -/
def State.probeSide (s : State) (n : Nat) (x : ProbeSide) : Xfer (List Page) × State :=
  let c := s.core n
  if x.runs.isEmpty then (.ok [], s)
  else
    let e := runsHull x.runs
    match s.capCheck c x.creg x.cap x.need dataType e.1 e.2 with
    | .inr d => (.stop Cause.capability d, s)
    | .inl _ =>
      let at_ (r : Int × Nat) : Nat × Nat := (x.cap.base.toNat + r.1.toNat, r.2)
      match if x.write then x.runs.find? fun r => s.hitsCode c.part (at_ r).1 r.2 else none with
      | some r => (.stop Cause.capability (capDetail x.creg 6 r.1), s)
      | none =>
        match s.probeAll (podOf n) c.part x.write (x.runs.map at_) with
        | (.inr (.fault d), s) => (.stop Cause.translation d, s)
        | (.inr (.wait why), s) => (.wait (why == .held), s)
        | (.inr (.page _), s) => (.wait false, s)
        | (.inl pages, s) =>
          if x.need != Perm.at_ && pages.any fun p => !s.reaches c.part p then (.stop Cause.hostLinkTorn 0, s)
          else (.ok pages, s)

/-- What a command requires of the pages it finds (R335, R350, R351). -/
def CopyCmd.pagesBad (m : CopyCmd) (sp dp : List Page) : Option (Nat × Nat) :=
  match m.kind with
  | .acc _ | .accOne _ => (accHostFault m.dc m.destLeft dp).map fun d => (Cause.translation, d)
  | .rowCopy | .rowZero =>
    let k := m.n - m.units
    let src := m.src + 4096 * m.units
    let dst := m.dst + 4096 * m.units
    let reached := (pageStacks m.sc src k sp ++ pageStacks m.dc dst k dp).eraseDups
    illegalIf ((sp ++ dp).any (fun p => p.loc != 0) || decide (1 < reached.length) ||
      (m.kind == .rowCopy && mixesMx sp dp))
  | _ => illegalIf (m.nest.fmt != 0 && (sp ++ dp).any fun p => !p.mx)

/-- A command probes its remaining range again before its next access (R353, R399). DEDUCED (log 71): what its issue
would refuse of the pages it finds is a fault of the command here. -/
def State.probeAgain (s : State) (n ch : Nat) (m : CopyCmd) : Xfer Unit × State :=
  let c := s.core n
  let members := (membersOf (s.group c m.grp)).length
  let src := if m.kind = .coll then (if m.buf.isSome then [] else [(m.src, m.plan.srcLen members)]) else m.sourceLeft
  let dst := if m.kind = .coll then [(m.dst, m.plan.dstLen members)] else m.destLeft
  match s.probeSide n { creg := m.scr, cap := m.sc, need := m.kind.needs.1, write := false, runs := src } with
  | (.wait h, s) => (.wait h, s)
  | (.stop a b, s) => (.stop a b, s)
  | (.ok sp, s) =>
    match s.probeSide n { creg := m.dcr, cap := m.dc, need := m.kind.needs.2, write := true, runs := dst } with
    | (.wait h, s) => (.wait h, s)
    | (.stop a b, s) => (.stop a b, s)
    | (.ok dp, s) =>
      match m.pagesBad sp dp with
      | some t => (.stop t.1 t.2, s)
      | none => (.ok (), s.onCore n fun c => c.onCopy ch m.id fun m => { m with stale := false, spages := sp, dpages := dp })

/-- A channel that waits at an entry with WAIT for the end of an invalidation does not hold that invalidation up (R395,
R396): its marker goes, and what stands behind the front command probes afresh. DEDUCED (log 71). -/
def Core.releaseMarks (c : Core) (ch : Nat) : Core :=
  let x := c.chan ch
  match x.queue with
  | [] => c
  | m :: r => c.setChan ch { x with queue := { m with hostMarks := [] } :: r.map fun y =>
      { y with hostMarks := [], stale := y.usesDevice, spages := [], dpages := [] } }

/-- COPY_COMMAND_START (R310, R323, R354, R355, R370): the front command of a channel starts once nothing holds it
back and its probe, where it needs one, has ended; so does one that was restored in its course (R399). -/
def State.copyStart (s : State) (n k : Nat) : State :=
  let c := s.core n
  if 8 ≤ k then s.setCore n (c.startExport s.now (k - 8))
  else match c.copyHead k with
  | none => s
  | some m =>
    let begin_ (s : State) : State :=
      if m.started then s else s.onCore n fun c => c.startCopy s.params s.now k m
    if !m.started && (!c.sbClear m.id || c.copyHeld k m) then s
    else if !m.started && s.acquireWaits c m then s.beginAcquire n k m.id
    else if !m.stale then begin_ s
    else match s.probeAgain n k m with
      | (.wait held, s) =>
        if held && (s.part c.part).inval.isSome then s.onCore n fun c => c.releaseMarks k else s
      | (.stop a b, s) => s.onCore n fun c => c.stopHead k m.id a b
      | (.ok _, s) => begin_ s

/-! Device bytes of a command. -/

/-- The page of a device address under the command's probe (R329, R379); a probe covers every address that its
command reaches. -/
def State.cmdPage (s : State) (n : Nat) (pages : List Page) (a : Nat) (write : Bool) :
    Trans × State :=
  match pages.find? fun p => p.covers a with
  | some p => (.page p, s)
  | none => s.translate (podOf n) (s.core n).part a write

/-- Reads `len` bytes of one page for a command. -/
def State.cmdRead (s : State) (n : Nat) (x : Cap) (pages : List Page) (off : Int) (len : Nat) :
    Xfer (List Byte × Page) × State :=
  let a := x.base.toNat + off.toNat
  match s.cmdPage n pages a false with
  | (.fault d, s) => (.stop Cause.translation d, s)
  | (.wait why, s) => (.wait (why == .held), s)
  | (.page p, s) =>
    if p.loc = 0 then
      match s.devRead (p.at a) len p.cache with
      | (.inl bs, s) => (.ok (bs, p), s)
      | (.inr d, s) => (.stop Cause.dataCheck d, s)
    else (.ok (Memory.bytes (s.hostMem (p.loc - 1)) (p.at a) len, p), s)

/-- Writes bytes of one page for a command. -/
def State.cmdWrite (s : State) (n : Nat) (x : Cap) (pages : List Page) (off : Int)
    (bs : List Byte) : Xfer Page × State :=
  let a := x.base.toNat + off.toNat
  match s.cmdPage n pages a true with
  | (.fault d, s) => (.stop Cause.translation d, s)
  | (.wait why, s) => (.wait (why == .held), s)
  | (.page p, s) =>
    if p.loc = 0 then (.ok p, s.devWrite (p.at a) bs p.mx p.cache)
    else (.ok p, s.hostWrite (p.loc - 1) (p.at a) bs)

/-! Transfers (R326, R335, R336, R338). -/

/-- The blocks of a stream that begin in `[off, off + len)`. -/
def Nest.blocksIn (n : Nest) (off len : Nat) : List Nat :=
  let b := n.blockBytes
  (List.range ((off + len + b - 1) / b - (off + b - 1) / b)).map fun i => (off + b - 1) / b + i

/-- Writes local bytes for a copy: each row takes the tag when the command's first byte lands in it
(R338). -/
def Core.copyWrite (c : Core) (ch : Nat) (m : CopyCmd) (a : Nat) (bs : List Byte) : Core :=
  if bs.isEmpty then c
  else
    let rows := (List.range ((a + bs.length - 1) / 256 - a / 256 + 1)).map (a / 256 + ·)
    let new := rows.filter fun r => !m.tagged.contains r
    let keep := c.tags
    let c := c.engineWrite m.id a bs 0
    let old := rows.filter m.tagged.contains
    let t := old.foldl (fun t r => match keep.find? fun e => e.1 == r with
      | some e => Tab.store t r e.2
      | none => Tab.drop t r) c.tags
    let t := new.foldl (fun t r =>
      if m.nest.swz = 0 then Tab.drop t r else Tab.store t r (BitVec.ofNat 4 m.nest.swz)) t
    let c : Core := if (c.retiredFor m.id (a / 65536)).isSome then c else { c with tags := t }
    c.onCopy ch m.id fun m => { m with tagged := m.tagged ++ new }

/-- The queue that takes a command's units. -/
def CopyCmd.scaleTarget (m : CopyCmd) : Nat := if m.nest.sck = 2 then 8 else 9

/-- Units that wait enter their queue as it has room, with their frame marks (R221, R336). -/
def Core.pushUnits (c : Core) (ch : Nat) (m : CopyCmd) : Core :=
  let q := m.scaleTarget
  let room := queueDepth q - (c.visibleUnits q + c.pendingUnits q)
  let now := m.scq.take room
  let units := now.mapIdx fun i b =>
    (b, if (m.units + i + 1) % m.nest.frame = 0 then (2#2 : BitVec 2) else 1#2)
  let c := c.setScaleQ q (c.scaleQ q ++ units)
  c.onCopy ch m.id fun m => { m with scq := m.scq.drop room, units := m.units + now.length }

/-- A command that takes units from q8 or q9 is issued and not complete, a pass that CPFOLLOW carries among them
(R337). -/
def Core.takesUnits (c : Core) (q : Nat) : Bool :=
  if q = 8 then
    (c.eng.mq.any fun m => match m.work with | .pass _ => true | _ => false) ||
      c.eng.follows.any fun f => match f.op with | .brun _ | .bacc _ => true | _ => false
  else !c.eng.fills.isEmpty || (c.eng.mq.any fun m => match m.work with | .bload _ _ _ => true | _ => false) ||
    ((List.range 8).any fun ch => (c.chan ch).queue.any fun m => m.status.isNone && m.fills.isSome)

/-- Bytes of the nest from byte `x` on that lie one after another on a side: all of them, or `fuel` at least. -/
def Nest.runFrom (n : Nest) (at_ : Nat → Int) : Nat → Nat → Nat
  | 0, _ => 0
  | fuel + 1, x =>
    if n.total ≤ x then 0
    else
      let k := x / n.inner
      let len := n.inner - x % n.inner
      if at_ (k + 1) = at_ k + (n.inner : Int) then len + n.runFrom at_ fuel (x + len) else len

/-- The part of a nest that a channel reads or writes in one cycle: its length, and where it starts on its side. -/
structure Piece where
  len : Nat
  at_ : Int
  deriving DecidableEq, Repr

/-- The piece from byte `x` on: bytes that lie one after another in one row of 256, so that every aligned 64-byte unit
of device memory in it is accessed whole (R303, R323, R362). -/
def Nest.piece (n : Nest) (at_ : Nat → Int) (base x : Nat) : Piece :=
  let a := at_ (x / n.inner) + ((x % n.inner : Nat) : Int)
  { len := min (n.runFrom at_ 256 x) (256 - (((base : Int) + a) % 256).toNat), at_ := a }

/-- The next piece that a command reads. -/
def CopyCmd.srcPiece (m : CopyCmd) : Piece :=
  m.nest.piece (m.nest.srcAt m.src) (if m.nest.skind = 1 then m.sc.base.toNat else 0) (m.moved + m.ahead.length)

/-- The next piece that it writes; once its core has stopped, no more than the rest of the copy under way (R458). -/
def CopyCmd.dstPiece (m : CopyCmd) : Piece :=
  let p : Piece :=
    if m.kind = .shell ∨ m.nest.dkind = 3 then { len := min 256 (m.nest.total - m.moved), at_ := 0 }
    else m.nest.piece (m.nest.dstAt m.dst) (if m.nest.dkind = 1 then m.dc.base.toNat else 0) m.moved
  if m.halt then { p with len := min p.len (m.nest.inner - m.moved % m.nest.inner) } else p

/-- Overlapping dense sides: the whole source is read before the first byte is written (R330). -/
def CopyCmd.readsFirst (m : CopyCmd) : Bool :=
  m.kind == .go && m.nest.skind == 0 && extentsMeet m.readExtent m.writeExtent

/-- The bytes that must have been read before the next piece is written; CPFILL reads none (R348). -/
def CopyCmd.wanted (m : CopyCmd) : Nat :=
  if m.kind = .fill then 0 else if m.readsFirst then m.nest.total - m.moved else m.dstPiece.len

/-- Its scale bytes are units of q8 or q9 (R335, R336). -/
def CopyCmd.pushes (m : CopyCmd) : Bool := !m.writesScales && !m.readsScales

/-- A cycle of the channel goes to the scales of SCK 1: 64 of them, or the last ones, wait to be written; or the next
piece to be written needs some that have not been read. -/
def CopyCmd.scalesTurn (m : CopyCmd) : Bool :=
  (m.writesScales && !m.scq.isEmpty && (decide (64 ≤ m.scq.length) || decide (m.nest.total ≤ m.moved))) ||
  (m.readsScales && decide (m.scq.length < (m.nest.blocksIn m.dstPiece.at_.toNat m.dstPiece.len).length))

/-- The bytes of a fill command (R348). -/
def fillBytes (value : Word) (a : Int) (n : Nat) : List Byte :=
  (List.range n).map fun i => BitVec.ofNat 8 (value.toNat / 2 ^ (8 * ((a + (i : Nat)) % 8).toNat))

/-- COPYBUSY counts a cycle once (R58). -/
def Core.countCopy (c : Core) (now : Nat) : Core :=
  if c.bal.copyAt = now + 1 then c
  else { c with bal := { c.bal with copy := satAdd32 c.bal.copy 1, copyAt := now + 1 } }

/-- A command has made its last local access (R310): its local source has been read and its local destination
written, scales of SCK 1 included. -/
def CopyCmd.localDone (m : CopyCmd) : Bool :=
  decide (m.nest.total ≤ m.moved + m.ahead.length) && (!m.localDst || decide (m.nest.total ≤ m.moved)) &&
    (!(m.writesScales || m.readsScales) || decide (m.blocks ≤ m.units))

/-- A transfer has gone on: it counts, and the scoreboard entry goes with the last local access. -/
def Core.stepCopy (c : Core) (now ch id : Nat) : Core :=
  let c := c.countCopy now
  match c.copyCmd ch id with
  | some m => if m.localDone then c.sbDrop id else c
  | none => c

/-- Puts bytes that have been read behind those that wait. -/
def CopyCmd.take (m : CopyCmd) (bs scales : List Byte) (slots : List (Nat × BitVec 32)) : CopyCmd :=
  { m with ahead := m.ahead ++ bs, scq := m.scq ++ scales, aheadSlots := m.aheadSlots ++ slots }

/-- The scale slots of the whole bursts in `n` bytes at a device address, by byte of the nest (R134). -/
def State.slotsIn (s : State) (dpa x n : Nat) : List (Nat × BitVec 32) :=
  (burstsOf dpa n).filterMap fun u =>
    if dpa ≤ 64 * u ∧ 64 * u + 64 ≤ dpa + n then some (x + (64 * u - dpa), Tab.look 0 s.slots u) else none

/-- A piece is read at its source; device reads bring the scales of the blocks that begin in them (R335), or the
slots that move with data between MX pages (R134). -/
def State.readPiece (s : State) (n ch : Nat) (m : CopyCmd) (p : Piece) : Xfer Unit × State :=
  let c := s.core n
  let put (s : State) (bs scales : List Byte) (slots : List (Nat × BitVec 32)) : State :=
    s.onCore n fun c => (c.onCopy ch m.id fun m => m.take bs scales slots).stepCopy s.now ch m.id
  if m.nest.skind = 1 then
    match s.cmdRead n m.sc m.spages p.at_ p.len with
    | (.ok (bs, page), s) =>
      let dpa := page.at (m.sc.base.toNat + p.at_.toNat)
      let scales := if m.nest.fmt = 0 then [] else (m.nest.blocksIn p.at_.toNat p.len).map fun k =>
        let u := scaleSlot m.nest.blockBytes k
        BitVec.ofNat 8 (s.slotOf (page.at (m.sc.base.toNat + 64 * u.1) / 64) u.2)
      let slots := if page.mx && m.kind == .go && m.nest.fmt == 0 && m.nest.dkind == 1 then
        s.slotsIn dpa (m.moved + m.ahead.length) p.len else []
      (.ok (), put s bs scales slots)
    | (.wait h, s) => (.wait h, s)
    | (.stop a b, s) => (.stop a b, s)
  else match c.engineFault m.id p.at_.toNat p.len (8 + ch) with
    | some d => (.stop Cause.bankModeFault d, s)
    | none => (.ok (), put s (c.engineBytes m.id p.at_.toNat p.len) [] [])

/-- The bytes of a piece that has been written leave those that wait. -/
def CopyCmd.drop (m : CopyCmd) (k : Nat) : CopyCmd :=
  { m with
    moved := m.moved + k, ahead := m.ahead.drop k
    aheadSlots := m.aheadSlots.filter fun e => decide (m.moved + k ≤ e.1) }

/-- The scale slots of a piece written to an MX page (R133, R134): of a stream, those its blocks use, with zero in the
others of its bursts; of whole bursts from another MX page, those they had there. -/
def State.writeSlots (s : State) (m : CopyCmd) (page : Page) (at_ len : Nat) : State :=
  let dpa := page.at (m.dc.base.toNat + at_)
  if m.readsScales then
    let us := burstsOf dpa len
    let s := ({ s with slots := s.slots.filter fun e => !us.contains e.1 } : State).newLines
      (us.filter fun u => decide (dpa ≤ 64 * u) && decide (64 * u + 64 ≤ dpa + len))
    ((m.nest.blocksIn at_ len).zip m.scq).foldl (fun s kv =>
      let u := scaleSlot m.nest.blockBytes kv.1
      s.setSlot (page.at (m.dc.base.toNat + 64 * u.1) / 64) u.2 kv.2.toNat) s
  else if page.mx then
    (m.aheadSlots.filter fun e => decide (m.moved ≤ e.1) && decide (e.1 + 64 ≤ m.moved + len) &&
        (dpa + (e.1 - m.moved)) % 64 == 0).foldl (fun s e =>
      let u := (dpa + (e.1 - m.moved)) / 64
      ({ s with slots := if e.2 = 0#32 then Tab.drop s.slots u else Tab.store s.slots u e.2 } : State).newLines [u]) s
  else s

/-- A multicast row leaves for every member (R347); the first row of the command to reach a target row tags it
(R338). -/
def State.castPiece (s : State) (n ch : Nat) (m : CopyCmd) (p : Piece) (bs : List Byte) : State :=
  let c := s.core n
  let row := (p.at_ / 256).toNat
  let tag := if m.tagged.contains row then none else some m.nest.swz
  let ms := membersOf (s.group c m.grp)
  let s := ms.foldl (fun s l => match s.physOf c l with
    | some d => s.send n d (.data m.id ch p.at_ bs tag m.grp)
    | none => s) s
  s.onCore n fun c => c.onCopy ch m.id fun m => { m with
    open_ := m.open_ + ms.length, tagged := if m.tagged.contains row then m.tagged else m.tagged ++ [row] }

/-- A piece is written at its destination (R326). -/
def State.writePiece (s : State) (n ch : Nat) (m : CopyCmd) (p : Piece) (bs : List Byte) : Xfer Unit × State :=
  let moved (s : State) (f : CopyCmd → CopyCmd) : State :=
    s.onCore n fun c => (c.onCopy ch m.id fun m => f (m.drop bs.length)).stepCopy s.now ch m.id
  match m.kind with
  | .mcast => (.ok (), moved (s.castPiece n ch m p bs) id)
  | .shell => (.ok (), moved s fun m => { m with buf := some ((m.buf.getD []) ++ bs) })
  | _ =>
    match m.nest.dkind with
    | 0 =>
      match (s.core n).engineFault m.id p.at_.toNat bs.length (8 + ch) with
      | some d => (.stop Cause.bankModeFault d, s)
      | none => (.ok (), moved (s.onCore n fun c => c.copyWrite ch m p.at_.toNat bs) id)
    | 1 =>
      match s.cmdWrite n m.dc m.dpages p.at_ bs with
      | (.wait h, s) => (.wait h, s)
      | (.stop a b, s) => (.stop a b, s)
      | (.ok page, s) =>
        let k := if m.readsScales then (m.nest.blocksIn p.at_.toNat bs.length).length else 0
        (.ok (), moved (s.writeSlots m page p.at_.toNat bs.length) fun m => { m with scq := m.scq.drop k })
    | 2 =>
      match m.fills with
      | some b => (.ok (), moved (s.onCore n fun c =>
          c.onSet b fun r => { r with image := r.image.write p.at_.toNat bs }) id)
      | none => (.ok (), moved s id)
    | _ => (.ok (), moved s fun m => { m with scq := m.scq ++ bs })

/-- One cycle of the scales of SCK 1: the next ones are written, or read, in one row (R335). -/
def State.moveScales (s : State) (n ch : Nat) (m : CopyCmd) : State :=
  let c := s.core n
  let a := m.nest.scaddr + m.units
  let k := min (256 - a % 256) (if m.writesScales then m.scq.length else m.blocks - m.units)
  if m.writesScales && decide (m.blocks ≤ m.units + k) && c.lastHeld m then s else
  let g := c.enginePorts s.now (8 + ch) (portsOf a k m.writesScales)
  if !g.1 then s.setCore n g.2
  else match g.2.engineFault m.id a k (8 + ch) with
    | some d => s.setCore n (g.2.stopHead ch m.id Cause.bankModeFault d)
    | none =>
      let c := if m.writesScales then
          (g.2.copyWrite ch m a (m.scq.take k)).onCopy ch m.id fun m => { m with units := m.units + k, scq := m.scq.drop k }
        else
          let bs := g.2.engineBytes m.id a k
          g.2.onCopy ch m.id fun m => { m with units := m.units + k, scq := m.scq ++ bs }
      s.setCore n (c.stepCopy s.now ch m.id)

/-- The image of a fill is complete: at once for a raw copy; for the sheller, once 128 bytes a cycle have
passed and the stream decodes (R261, R264). -/
def Core.finishImage (c : Core) (now ch : Nat) (m : CopyCmd) : Core :=
  match c.eng.fills.find? fun f => f.id == m.id with
  | none => c
  | some f =>
    if f.full then c
    else if m.kind = .shell then
      if now < f.start.getD now + 128 then c
      else match shellPlane (m.buf.getD []) with
        | .plane bs =>
          (c.onSet f.set fun r => { r with image := Memory.write [] 0 bs }).onFill m.id fun f => { f with full := true }
        | .malformed at_ => c.stopHead ch m.id Cause.malformedStream (setDetail f.set.bank f.set.rs + at_ * 2 ^ 16)
        | .integrity => c.stopHead ch m.id Cause.planeIntegrity (setDetail f.set.bank f.set.rs)
    else c.onFill m.id fun f => { f with full := true }

/-- A peer source asks its holder for the next piece (R340). -/
def State.askPeer (s : State) (n ch : Nat) (m : CopyCmd) (p : Piece) : State :=
  match s.physOf (s.core n) m.nest.peer with
  | none => s
  | some d =>
    (s.send n d (.peerRead m.id ch p.at_ p.len m.nest.pgrp)).onCore n fun c =>
      c.onCopy ch m.id fun m => { m with open_ := 1 }

/-- The units of a command wait for room that no one will make (R337). -/
def State.unitsStuck (s : State) (c : Core) (m : CopyCmd) : Bool :=
  !m.scq.isEmpty && s.allAtPhase c.part && !c.takesUnits m.scaleTarget

/-- A message of CPMCAST leaves for every other member (R347). -/
def State.sendWords (s : State) (n ch : Nat) (m : CopyCmd) : State :=
  let c := s.core n
  let ms := (membersOf (s.group c m.grp)).filter fun l => l != c.lcore
  let s := ms.foldl (fun s l => match s.physOf c l with
    | some d => s.send n d (.word m.id ch m.value)
    | none => s) s
  s.onCore n fun c => c.onCopy ch m.id fun m => { m with open_ := ms.length, units := 1 }

/-- What an access answers, for the command at the front of a channel. -/
def State.settleCopy (s : State) (n ch id : Nat) (x : Xfer Unit × State) : State :=
  match x with
  | (.ok _, t) => t
  | (.wait _, t) => { s with units := t.units }
  | (.stop a b, t) => t.onCore n fun c => c.stopHead ch id a b

/-- A piece is read through its port, or asked for at a peer. -/
def State.readAhead (s : State) (n ch : Nat) (m : CopyCmd) : State :=
  let p := m.srcPiece
  if m.nest.skind = 2 then (if m.open_ = 0 then s.askPeer n ch m p else s)
  else
    let g := (s.core n).enginePorts s.now (8 + ch) (if m.nest.skind = 0 then portsOf p.at_.toNat p.len false else [])
    let s := s.setCore n g.2
    if g.1 then s.settleCopy n ch m.id (s.readPiece n ch m p) else s

/-- A piece is written through its port; the last one follows the release (R334). -/
def State.writeBehind (s : State) (n ch : Nat) (m : CopyCmd) : State :=
  let p := m.dstPiece
  if decide (m.nest.total ≤ m.moved + p.len) && (s.core n).lastHeld m then s else
  let bs := if m.kind = .fill then fillBytes m.value p.at_ p.len else m.ahead.take p.len
  let g := (s.core n).enginePorts s.now (8 + ch) (if m.localDst then portsOf p.at_.toNat p.len true else [])
  let s := s.setCore n g.2
  if g.1 then s.settleCopy n ch m.id (s.writePiece n ch m p bs) else s

/-- One cycle of a nest: a piece is read, and one is written once its bytes are there. -/
def State.moveNest (s : State) (n ch : Nat) (m : CopyCmd) : State :=
  if m.scalesTurn then s.moveScales n ch m
  else if m.nest.total ≤ m.moved then s.onCore n fun c => c.finishImage s.now ch m
  else
    let s := if m.ahead.length < m.wanted then s.readAhead n ch m else s
    match (s.core n).copyHead ch with
    | none => s
    | some m =>
      if m.ahead.length < m.wanted then s
      else
        let s := s.writeBehind n ch m
        match (s.core n).copyHead ch with
        | none => s
        | some m => if m.nest.total ≤ m.moved then s.onCore n fun c => c.finishImage s.now ch m else s

/-- No multicast that the core issued before is open: deliveries reach every target in issue order (R347). DEDUCED
(log 73): this holds across its channels. -/
def Core.castTurn (c : Core) (id : Nat) : Bool :=
  (List.range 8).all fun ch => (c.chan ch).queue.all fun m =>
    decide (id ≤ m.id) || m.status.isSome || !(m.kind == .mcast || m.kind == .msg)

/-- A message of CPMCAST still waits for room in q11 of a member (R337). -/
def State.wordStuck (s : State) (n id : Nat) : Bool :=
  s.msgs.any fun x => x.src == n && decide (x.at_ ≤ s.now) &&
    decide (queueDepth 11 ≤ ((s.core x.dst).queue 11).length) && match x.body with
    | .word i _ _ => i == id
    | _ => false

/-- COPY_TRANSFER (R326): a channel's cycle. -/
def State.copyTransfer (s : State) (n ch : Nat) : State :=
  let c := s.core n
  match c.copyHead ch with
  | none => s
  | some m =>
    if !m.started || m.stale then s
    else
      match m.kind with
      | .msg =>
        if s.now < m.at_ then s
        else if m.units = 0 then (if c.castTurn m.id && !c.lastHeld m then s.sendWords n ch m else s)
        else if m.open_ ≠ 0 ∧ s.allAtPhase c.part ∧ s.wordStuck n m.id then
          -- R337: q11 of a member stays full, since no member pops any more
          { s.onCore n fun c => c.stopCopy ch m.id Cause.streamDesync 11 with
            msgs := s.msgs.filter fun x => !(x.src == n && match x.body with
              | .word i _ _ => i == m.id
              | _ => false) }
        else s
      | .go | .mcast | .fill | .shell =>
        match c.holdFill s.now m with
        | none => s
        | some c =>
          let c := if m.pushes && !m.scq.isEmpty then c.pushUnits ch m else c
          let s := s.setCore n c
          match c.copyHead ch with
          | none => s
          | some m =>
            if m.pushes && !m.scq.isEmpty then
              (if s.unitsStuck c m then s.onCore n fun c => c.stopHead ch m.id Cause.streamDesync m.scaleTarget else s)
            else if s.now < m.at_ || (m.kind == .mcast && !c.castTurn m.id) then s
            else s.moveNest n ch m
      | _ => s

/-! Completion and records (R332, R333, R345). -/

/-- A channel is inside a copy that it can end (R458): units that wait for room and a last write that waits for its release
end with the resume. -/
def Core.midCopy (c : Core) (ch : Nat) : Bool :=
  match c.copyHead ch with
  | none => false
  | some m =>
    (match m.kind with
      | .go | .mcast | .fill | .shell => true
      | _ => false) &&
    m.started && !m.stale && m.moved % m.nest.inner != 0 && !(m.pushes && !m.scq.isEmpty) &&
      !(decide (m.nest.total ≤ m.moved + m.dstPiece.len) && c.lastHeld m)

/-- Every byte, unit, row, record or delivery of the command is done; a release at partition or system scope also
waits until the blocks of the box link that it covers are applied at the far module (R369). -/
def Core.copyDone (c : Core) (m : CopyCmd) : Bool :=
  m.started && !c.farOpen m true && match m.kind with
    | .go | .fill | .shell =>
      decide (m.nest.total ≤ m.moved) && m.scq.isEmpty && !(c.eng.fills.any fun f => f.id == m.id)
    | .mcast => decide (m.nest.total ≤ m.moved) && m.open_ == 0
    | .msg => m.units == 1 && m.open_ == 0
    | .acc _ => decide (m.nest.total ≤ m.moved)
    | .accOne _ => m.units == 1
    | .rowCopy | .rowZero => decide (m.n ≤ m.units)
    | .walk => decide (m.n ≤ m.units) && m.open_ == 0
    | .coll => m.units == 1
    | .mark _ | .inv => false

/-- The record of R332. -/
def CopyCmd.record (m : CopyCmd) (ch : Nat) : Word :=
  let tag := match m.kind with
    | .mark t => t
    | _ => 0
  BitVec.ofNat 64 (ch + m.code * 2 ^ 3 + m.status.getD 0 * 2 ^ 10 + tag * 2 ^ 16 + m.seq % 2 ^ 16 * 2 ^ 32 +
    m.pidx * 2 ^ 48)

/-- A command leaves its channel: its entry goes and its record is posted. Where the marker of a host invalidation stands
behind it, that marker reaches the head, and the commands behind probe afresh at their start (R353). -/
def Core.leaveChan (c : Core) (ch : Nat) (m : CopyCmd) : Core :=
  let x := c.chan ch
  let rest := x.queue.filter fun y => y.id != m.id
  let behind := if m.hostMarks.isEmpty then rest else rest.map fun y => { y with stale := y.usesDevice }
  let c := (c.setChan ch { x with queue := behind }).sbDrop m.id
  if m.note then c.post 10 (m.record ch) else c

/-- The result record of a single-form CPACC (R333, R350). -/
def Core.setResult (c : Core) (id : Nat) (v : Word) : Core :=
  { c with eng := { c.eng with results := c.eng.results.map fun q => (q.1, q.2.map fun r =>
      match r with
      | .value i ch none => if i = id then .value i ch (some v) else r
      | r => r) } }

/-- COMMAND_COMPLETE (R332). -/
def Core.copyComplete (c : Core) (ch : Nat) : Core :=
  match (c.chan ch).queue with
  | [] => c
  | m :: _ =>
    if c.chanWaits ch then c
    else match m.status with
    | some st =>
      let c := match m.kind with
        | .accOne _ =>
          if st = 2 then { c.setResult m.id (Config.resetResult c.free) with free := c.free + 1 }
          else c.setResult m.id 0
        | _ => c
      c.leaveChan ch m
    | none => if c.copyDone m then c.leaveChan ch m else c

/-- RESULT_RECORD of a C slot's result queue (R333, R344), once the queue has room (R221). -/
def Core.resultRecord (c : Core) (q : Nat) : Core :=
  match Tab.look [] c.eng.results q with
  | [] => c
  | r :: rest =>
    if queueDepth q ≤ (c.queue q).length then c
    else
    let done (v : Word) : Core :=
      ({ c with eng := { c.eng with results := Tab.store c.eng.results q rest } } : Core).post q v
    match r with
    | .value _ _ (some v) => done v
    | .value _ _ none => c
    | .wait id mask =>
      if c.openBefore mask id then c
      else
        let fault := (List.range 8).any fun ch => mask.testBit ch && (c.chan ch).faults.any fun i => decide (i < id)
        done (BitVec.ofNat 64 (mask + if fault then 256 else 0))

/-- MARKER_RECORD (R345). -/
def Core.markerRecord (c : Core) (ch : Nat) : Core :=
  match c.copyHead ch with
  | some m => match m.kind with
    | .mark _ => c.leaveChan ch m
    | _ => c
  | none => c

/-- The commands of a queue that stand behind the last marker of a host invalidation (R353). -/
def behindMarks (q : List CopyCmd) : Nat := (q.reverse.takeWhile fun m => m.hostMarks.isEmpty).length

/-- TRANSLATION_MARKER (R353): the commands behind it probe afresh at their start, and no translation cached before it
serves them. DEDUCED (log 71): one that stands ahead of a host invalidation's marker keeps its probe (R379). -/
def State.translationMarker (s : State) (n ch : Nat) : State :=
  let c := s.core n
  match c.copyHead ch with
  | some m =>
    if m.kind = .inv then
      let c := c.leaveChan ch m
      let x := c.chan ch
      let kept := x.queue.length - behindMarks x.queue
      let c := c.setChan ch { x with
        queue := x.queue.mapIdx fun i y => if i < kept then y else { y with stale := y.usesDevice } }
      (s.setCore n c).onUnit (podOf n) fun u => { u.forgetWalks c.part with cache := u.cache.filter fun e => e.1 != c.part }
    else s
  | none => s

/-! Between cores (R339, R340, R347). -/

/-- A region lies in an export of a kind to a group, in force, and the other core is a member. -/
def State.exported (s : State) (h : Core) (kind grp a n l : Nat) : Bool :=
  s.isMember h grp l && h.eng.exports.any fun e =>
    e.live && e.kind == kind && e.grp == grp && decide (e.addr ≤ a) && decide (a + n ≤ e.addr + e.len)

/-- The detail words of a refused request (R442). -/
def bankFaultDetail (b : Nat) : Nat := b + reqPod * 2 ^ 8
def refusedDetail (h : Core) (a : Int) : Nat := h.lcore + (a % 2 ^ 24).toNat * 2 ^ 8

/-- Why the holder refuses a request of a core, if it does (R340). Private memory is never visible to another core
(R302): no request reads it; DEDUCED (log 75): a receive region may lie there, since a delivery shows the sender
nothing. -/
def State.refusal (s : State) (h : Core) (kind cause grp : Nat) (a : Int) (n l : Nat) : Option (Nat × Nat) :=
  match if a < 0 then none else h.computeBank a.toNat n with
  | some b => some (Cause.bankModeFault, bankFaultDetail b)
  | none =>
    if decide (0 ≤ a) && (kind != 0 || decide (a.toNat + n ≤ 0x100000)) && s.exported h kind grp a.toNat n l then none
    else some (cause, refusedDetail h a)

/-- How many of `n` bytes at an address lie in its row: a port serves them in one cycle (R303). -/
def rowPart (a : Int) (n : Nat) : Nat := min n (256 - (a % 256).toNat)

/-- PEER_READ_REQUEST: the holder serves a peer source, or a remote pass operand a row a cycle (R276, R303, R340). -/
def State.peerRead (s : State) (no : Nat) : State :=
  match s.msg no with
  | none => s
  | some x =>
    let h := s.core x.dst
    let from_ := s.core x.src
    match x.body with
    | .peerRead cmd ch a n grp =>
      match s.refusal h 0 Cause.unexportedRead grp a n from_.lcore with
      | some t => (s.dropMsg no).onCore x.src fun c => c.stopCopy ch cmd t.1 t.2
      | none =>
        let g := h.enginePorts s.now reqPod (portsOf a.toNat n false)
        let s := s.setCore x.dst g.2
        if !g.1 then s
        else (s.dropMsg no).onCore x.src fun c => c.onCopy ch cmd fun m =>
          { m with ahead := m.ahead ++ g.2.mem.bytes a.toNat n, open_ := 0, at_ := s.now + s.travel x.dst x.src }
    | .operand cmd a n grp tag got =>
      let end_ (cause det : Nat) : State := (s.dropMsg no).onCore x.src fun c =>
        match c.livePass cmd with
        | some (m, _) => (c.endM cmd).postFault { m.fault cause det with src := 5 }
        | none => c
      match if got.isEmpty then s.refusal h 0 Cause.unexportedRead grp a n from_.lcore else none with
      | some t => end_ t.1 t.2
      | none =>
        match if got.isEmpty then h.tagTrap a.toNat n tag else none with
        | some t => end_ t.1 t.2
        | none =>
          let k := rowPart a n
          let g := h.enginePorts s.now reqPod (portsOf a.toNat k false)
          let s := s.setCore x.dst g.2
          if !g.1 then s
          else
            let bs := got ++ g.2.mem.bytes a.toNat k
            if k < n then { s with msgs := s.msgs.map fun y =>
                if y.no = no then { y with body := .operand cmd (a + k) (n - k) grp tag bs } else y }
            else (s.dropMsg no).onCore x.src fun c => match c.livePass cmd with
              | some (_, p) => c.setPass cmd { p with bytes := some bs, at_ := max p.at_ (s.now + s.travel x.dst x.src) }
              | none => c
    | _ => s

/-- A delivery has been made, or refused, for the sender's command. -/
def State.delivered (s : State) (no : Nat) (x : Msg) (ch cmd : Nat) : State :=
  (s.dropMsg no).onCore x.src fun c => c.onCopy ch cmd fun m => { m with open_ := m.open_ - 1 }

/-- What one core sends another to be applied there in the order sent (R17). -/
def MsgBody.isTransfer : MsgBody → Bool
  | .data _ _ _ _ _ _ => true
  | .word _ _ _ => true
  | .carry _ _ _ _ _ _ => true
  | _ => false

/-- An earlier transfer of the same sender to the same target is still on its way (R17, R347, R407). -/
def State.behind (s : State) (x : Msg) : Bool :=
  s.msgs.any fun y => y.src == x.src && y.dst == x.dst && decide (y.no < x.no) && y.body.isTransfer

/-- Writes a delivered row; its tag stays unless this is the command's first byte in it (R338). -/
def Core.deliverRow (c : Core) (a : Nat) (bs : List Byte) (tag : Option Nat) : Core :=
  c.writeLocal a bs (tag.getD (c.tagAt a))

/-- DELIVERY (R340, R347): multicast data and walker results reach a receive region; a message reaches
q11. -/
def State.delivery (s : State) (no : Nat) : State :=
  match s.msg no with
  | none => s
  | some x =>
    let h := s.core x.dst
    if s.behind x then s
    else match x.body with
    | .data cmd ch a bs tag grp =>
      match s.refusal h 2 Cause.unexportedWrite grp a bs.length (s.core x.src).lcore with
      | some t => (s.dropMsg no).onCore x.src fun c => c.stopCopy ch cmd t.1 t.2
      | none =>
        let k := rowPart a bs.length
        let g := h.enginePorts s.now reqPod (portsOf a.toNat k true)
        if !g.1 then s.setCore x.dst g.2
        else
          let s := s.setCore x.dst (g.2.deliverRow a.toNat (bs.take k) tag)
          if bs.length ≤ k then s.delivered no x ch cmd
          else { s with msgs := s.msgs.map fun y =>
            if y.no = no then { y with body := .data cmd ch (a + k) (bs.drop k) tag grp } else y }
    | .word cmd ch v =>
      if (h.queue 11).length < queueDepth 11 then
        (s.onCore x.dst fun c => c.setQueue 11 (c.queue 11 ++ [v])).delivered no x ch cmd
      else s
    | _ => s

end Sys2Proof.Machine
end

