-- ==== Sys2Proof/Machine/CarryOps.lean ====
section
/-! DEFINITION. The carry engine (R313 to R322): its instructions at issue, windows of local and remote
tables, and the record of CARRYST. -/

namespace Sys2Proof.Machine

/-! Operations (R315), shared with the accumulate-writes of R350. -/

/-- Op(a, b) on 32-bit words. -/
def carryOp (op a b : Nat) : Nat :=
  match op with
  | 0 => (a + b) % 2 ^ 32
  | 1 => if signExt a 32 ≤ signExt b 32 then a else b
  | 2 => if signExt a 32 ≤ signExt b 32 then b else a
  | 4 => (roundFloat .f32 (addVal false (FFmt.f32.decode a) (FFmt.f32.decode b)) .rne 0).code
  | 5 => minMax .f32 false a b
  | _ => minMax .f32 true a b

/-- The operation is one of .f. -/
def opIsFloat (op : Nat) : Bool := decide (4 ≤ op)

/-- The skip index (R313). -/
def skipIndex : Nat := 0xFFFFFFFF

/-- The merge of a window (R314): the merged pairs in order, and how many were merged away. -/
def mergePairs (op : Nat) (l : List (Nat × Nat)) : List (Nat × Nat) × Nat :=
  l.foldl (fun acc p =>
    if p.1 = skipIndex then acc
    else if acc.1.any fun q => q.1 == p.1 then
      (acc.1.map fun q => if q.1 = p.1 then (q.1, carryOp op q.2 p.2) else q, acc.2 + 1)
    else (acc.1 ++ [p], acc.2)) ([], 0)

def isNanWord (w : Nat) : Bool := (FFmt.f32.decode w).isNan

/-! At issue. -/

/-- The table or word address (R318). -/
def carryAddr (fo : Focus) (f : CF) (c : Core) : Int :=
  ((c.sreg f.sa.toNat).toNat : Int) + signExt f.imm.toNat 16 * 4 + fo.dv.d

def carryOpOf (f : CF) : Nat := f.fn.toNat % 8

/-- Checks 2 to 5 of R319 for `n` bytes of a local or a remote table. -/
def Core.carryTraps (c : Core) (q : Int) (n : Nat) (remote : Bool) : List (Option (Nat × Nat)) :=
  [if q % 4 = 0 then none else some (Cause.misaligned, addrWord q),
   if q < 0 ∨ (localTop : Int) < q + n then some (Cause.localAddress, addrWord q) else none,
   if remote then none else (c.computeBank q.toNat n).map fun b => (Cause.bankMode, b),
   if remote then none else
     (c.eng.exports.find? fun e => e.kind != 1 && rangesMeet q.toNat n e.addr e.len).map fun e =>
       (Cause.exportViolation, max q.toNat e.addr)]

/-- Room in the carry engine's queue (R107, cause 8, DETAIL 2). -/
def State.carryIssue (s : State) (fo : Focus) (kind : CarryKind) (op : Nat) (ext : Option (Nat × Nat)) :
    Res State :=
  let c := s.core fo.core
  if s.params.cdepth ≤ c.eng.carry.queue.length then fo.waits 8 2 s
  else if ext.isSome && decide (16 ≤ c.eng.sb.length) then fo.waits 6 0 s
  else
    let id := c.eng.nextId
    let m : CarryCmd := { id := id, bundle := c.seq.pc, kind := kind, op := op }
    let c := { c with eng := { c.eng with
      nextId := id + 1, carry := { c.eng.carry with queue := c.eng.carry.queue ++ [m] } } }
    .ok (s.setCore fo.core (if ext.isSome then c.sbTake id ext ext else c))

/-- The stream setting of CARRY (R319): n, L, the zero byte and the target. -/
def streamBad (x : Nat) (remote : Bool) : Bool :=
  bits x 15 0 == 0 || bits x 47 16 == 0 || bits x 55 48 != 0 || (!remote && bits x 63 56 != 0)

def carryCommand (remote : Bool) (fo : Focus) (f : CF) (s : State) : Res State :=
  let c := s.core fo.core
  let x := (c.sreg f.sb.toNat).toNat
  let q := carryAddr fo f c
  let n := bits x 15 0
  let len := bits x 47 16
  let t := bits x 63 56
  let g := f.grp.toNat
  fo.checked (illegalIf (streamBad x remote || (remote && (!s.inPod c t || !s.groupOk c g ||
      !s.isMember c g c.lcore || !s.isMember c g t))) :: c.carryTraps q (4 * len) remote)
    (s.carryIssue fo (if remote then .remote t g q.toNat len n else .table q.toNat len n) (carryOpOf f)
      (if remote then none else extent q.toNat (4 * len)))

def opCarry : Focus → CF → State → Res State := carryCommand false
def opCarryRemote : Focus → CF → State → Res State := carryCommand true

def opCarryw (fo : Focus) (f : CF) (s : State) : Res State :=
  let c := s.core fo.core
  let q := carryAddr fo f c
  fo.checked (c.carryTraps q 4 false)
    (s.carryIssue fo (.word q.toNat (BitVec.ofNat 32 (c.sreg f.sb.toNat).toNat)) (carryOpOf f) (extent q.toNat 4))

def opCarryst (fo : Focus) (_ : CF) (s : State) : Res State := s.carryIssue fo .status 0 none

/-! Windows (R314). -/

def Core.setCarry (c : Core) (x : Carry) : Core := { c with eng := { c.eng with carry := x } }

/-- The front command ends. -/
def Core.endCarry (c : Core) (id : Nat) : Core :=
  (c.setCarry { c.eng.carry with queue := c.eng.carry.queue.filter fun m => m.id != id }).sbDrop id

/-- A fault stops a command: one whose remote windows are still on their way stays until they are answered (R321). -/
def Core.carryFault (c : Core) (m : CarryCmd) (cause det : Nat) (src : Nat := 3) : Core :=
  let c := if m.open_ = 0 then c.endCarry m.id else c.setCarry { c.eng.carry with
    queue := c.eng.carry.queue.map fun y => if y.id = m.id then { y with failed := true, open_ := m.open_ } else y }
  (c.setCarry { c.eng.carry with fault := true }).postFault {
    cause := cause, det := BitVec.ofNat 64 det, src := src, cmd := m.bundle }

/-- One word update; a .f result that is NaN is noted. -/
def Core.carryWord (c : Core) (id op a v : Nat) : Core × Bool :=
  let old := leNat (c.engineBytes id a 4)
  let new := carryOp op old v
  (c.engineWrite id a (leBytes 4 new) 0, opIsFloat op && isNanWord new)

/-- The updates of a merged window, in order (R314). -/
def Core.carryApply (c : Core) (id op addr : Nat) (l : List (Nat × Nat)) : Core × Bool :=
  l.foldl (fun acc p =>
    let r := acc.1.carryWord id op (addr + 4 * p.1) p.2
    (r.1, acc.2 || r.2)) (c, false)

/-- How many of a window's updates, in order, one cycle makes: each port serves one row of 256 bytes (R303); `seen`
holds the rows of the updates before. -/
def cycleUpdates (addr : Nat) : List Nat → List (Nat × Nat) → Nat
  | _, [] => 0
  | seen, p :: r =>
    let row := (addr + 4 * p.1) / 256
    if seen.all fun x => x == row || x / 256 != row / 256 then 1 + cycleUpdates addr (row :: seen) r else 0

/-- The pairs of the front entries of q12 and q13 (R313). -/
def Core.windowPairs (c : Core) : Option (List (Nat × Nat)) :=
  match c.streamQ 12, c.streamQ 13 with
  | x :: _, v :: _ => some ((List.range 64).map fun i => (elt 32 x.toNat i, elt 32 v.toNat i))
  | _, _ => none

def Core.dropWindow (c : Core) : Core :=
  (c.setStreamQ 12 ((c.streamQ 12).drop 1)).setStreamQ 13 ((c.streamQ 13).drop 1)

/-- CARRYBUSY counts a cycle once (R58). -/
def Core.countCarry (c : Core) (now : Nat) : Core :=
  if c.bal.carryAt = now + 1 then c
  else { c with bal := { c.bal with carry := satAdd32 c.bal.carry 1, carryAt := now + 1 } }

/-- The ports of a window's words: the read and the write port of each bank (R304). -/
def wordPorts (addr : Nat) (l : List (Nat × Nat)) : List (Nat × Bool) :=
  ((l.map fun p => [(portOf (addr + 4 * p.1), false), (portOf (addr + 4 * p.1), true)]).flatten).eraseDups

/-- What a cycle of a window answers: it waits for a port; a bank refuses it (R238); or the updates it made, those
left, and whether one gave NaN. -/
inductive CarryStep where
  | wait (c : Core)
  | refused (c : Core) (detail : Nat)
  | made (c : Core) (n : Nat) (left : List (Nat × Nat)) (nan : Bool)
  deriving DecidableEq, Repr

/-- One cycle of the updates of a merged window (R303, R304, R314). -/
def Core.carryCycle (c : Core) (now req id op addr : Nat) (l : List (Nat × Nat)) : CarryStep :=
  let k := cycleUpdates addr [] l
  let g := c.enginePorts now req (wordPorts addr (l.take k))
  if !g.1 then .wait g.2
  else match (l.take k).findSome? fun p => g.2.engineFault id (addr + 4 * p.1) 4 req with
    | some d => .refused g.2 d
    | none =>
      let r := g.2.carryApply id op addr (l.take k)
      .made (if l.isEmpty then r.1 else r.1.countCarry now) k (l.drop k) r.2

/-- The updates that a command's window has made count for CARRYST (R321). -/
def Core.carryCounted (c : Core) (n : Nat) (nan : Bool) : Core :=
  c.setCarry { c.eng.carry with applied := satAdd32 c.eng.carry.applied n, nan := c.eng.carry.nan || nan }

/-- A cycle of a local command's window (R314): a command ends with its last. -/
def Core.localWindow (c : Core) (now : Nat) (m : CarryCmd) (addr total : Nat) (pairs : List (Nat × Nat)) : Core :=
  match c.carryCycle now reqCarry m.id m.op addr pairs with
  | .wait c => c.setCarry { c.eng.carry with
      queue := c.eng.carry.queue.map fun y => if y.id = m.id then { y with left := some pairs } else y }
  | .refused c d => c.carryFault m Cause.bankModeFault d
  | .made c n left nan =>
    let c := c.carryCounted n nan
    if left.isEmpty ∧ m.done + 1 = total then c.endCarry m.id
    else c.setCarry { c.eng.carry with queue := c.eng.carry.queue.map fun y =>
      if y.id ≠ m.id then y
      else if left.isEmpty then { y with left := none, done := y.done + 1, at_ := now + 1 }
      else { y with left := some left } }

/-- The queue that a waiting command lacks an entry of, when no one will push any more (R322). -/
def State.carryStuck (s : State) (c : Core) : Option Nat :=
  let empty (q : Nat) : Bool := (c.streamQ q).isEmpty && c.pendingUnits q == 0
  if !s.allAtPhase c.part then none
  else if empty 12 then some 12
  else if empty 13 then some 13
  else none

/-- The engine takes the next window of a command from q12 and q13 and merges it (R313, R314, R319): the core after
it, with the merged pairs; none while it waits or has faulted. -/
def State.openWindow (s : State) (n : Nat) (m : CarryCmd) (len : Nat) : Core × Option (List (Nat × Nat)) :=
  let c := s.core n
  match c.windowPairs with
  | none => match s.carryStuck c with
    | some q => (c.carryFault m Cause.streamDesync q, none)
    | none => (c, none)
  | some l =>
    match l.find? fun p => p.1 != skipIndex && decide (len ≤ p.1) with
    | some p => (c.dropWindow.carryFault m Cause.carryIndex p.1, none)
    | none =>
      let x := mergePairs m.op l
      (c.dropWindow.setCarry { c.eng.carry with merged := min (c.eng.carry.merged + x.2) 65535 }, some x.1)

/-- CARRY_WINDOW (R314, R316, R319): a cycle of the command at the front. A remote window that is being applied here
ends first, and so does a record that waits for room in q2 (R316, R321). -/
def State.carryWindow (s : State) (n : Nat) : State :=
  let c := s.core n
  match c.eng.carry.queue with
  | [] => s
  | m :: _ =>
    if s.now < m.at_ ∨ !c.sbClear m.id ∨ m.failed ∨ c.eng.carry.remote.isSome ∨ c.heldIn 2 then s
    else match m.kind with
      | .status => s
      | .word a v => s.setCore n (c.localWindow s.now m a 1 (m.left.getD [(0, v.toNat)]))
      | .table a len total =>
        let x := match m.left with
          | some l => (c, some l)
          | none => s.openWindow n m len
        s.setCore n (match x.2 with
          | some l => x.1.localWindow s.now m a total l
          | none => x.1)
      | .remote t g a len total =>
        if m.done = total then s
        else
          let x := s.openWindow n m len
          let s := s.setCore n x.1
          match x.2, s.physOf c t with
          | some l, some d =>
            (s.onCore n fun c => c.setCarry { c.eng.carry with queue := c.eng.carry.queue.map fun y =>
              if y.id = m.id then { y with done := y.done + 1, at_ := s.now + 1, open_ := y.open_ + 1 } else y }).send n d
                (.carry m.id a len m.op g l)
          | _, _ => s

/-- A remote window has been applied, or refused, at its target (R316, R317): the command ends with its last answer. -/
def Core.carryAnswered (c : Core) (id : Nat) : Core :=
  match c.eng.carry.queue.find? fun y => y.id == id with
  | some y => match y.kind with
    | .remote _ _ _ _ n =>
      if y.open_ ≤ 1 ∧ (y.failed ∨ y.done = n) then c.endCarry id
      else c.setCarry { c.eng.carry with
        queue := c.eng.carry.queue.map fun y => if y.id = id then { y with open_ := y.open_ - 1 } else y }
    | _ => c
  | none => c

/-- A remote window is refused (R317, R340): the first refusal of a command stops it. -/
def Core.carryRefused (c : Core) (id cause det : Nat) : Core :=
  match c.eng.carry.queue.find? fun y => y.id == id with
  | some y => if y.failed then c.carryAnswered id else c.carryFault { y with open_ := y.open_ - 1 } cause det 5
  | none => c

/-- The remote window that the carry engine of its target applies now: windows go in the order they arrive, between
the engine's own (R316). -/
def State.windowTurn (s : State) (x : Msg) : Bool :=
  let h := s.core x.dst
  let carries (y : Msg) : Bool := match y.body with
    | .carry _ _ _ _ _ _ => true
    | _ => false
  !s.behind x && !(h.eng.carry.queue.any fun m => m.left.isSome) &&
    match h.eng.carry.remote with
    | some k => k == x.no
    | none => !(s.msgs.any fun y => y.dst == x.dst && carries y && decide (y.at_ ≤ s.now) && !s.behind y &&
        (decide (y.at_ < x.at_) || (decide (y.at_ = x.at_) && decide (y.no < x.no))))

/-- REMOTE_CARRY: a window of pairs reaches the carry engine of its target (R316, R317, R340), which makes its
updates as the ports serve them. -/
def State.remoteCarry (s : State) (no : Nat) : State :=
  match s.msg no with
  | none => s
  | some x =>
    match x.body with
    | .carry cmd a len op grp pairs =>
      if !s.windowTurn x then s
      else
        let h := s.core x.dst
        let lock (c : Core) (k : Option Nat) : Core := c.setCarry { c.eng.carry with remote := k }
        match pairs.findSome? fun p => s.refusal h 1 Cause.unexportedCarry grp (a + 4 * p.1) 4 (s.core x.src).lcore with
        | some t => ((s.dropMsg no).onCore x.dst fun c => lock c none).onCore x.src fun c => c.carryRefused cmd t.1 t.2
        | none =>
          match h.carryCycle s.now reqPod h.eng.nextId op a pairs with
          | .wait c => s.setCore x.dst (lock c (some no))
          | .refused _ _ => s
          | .made c n left nan =>
            let s := s.setCore x.dst (lock c (if left.isEmpty then none else some no))
            let s := s.onCore x.src fun c => c.carryCounted n nan
            if left.isEmpty then (s.dropMsg no).onCore x.src fun c => c.carryAnswered cmd
            else { s with msgs := s.msgs.map fun y =>
              if y.no = no then { y with body := .carry cmd a len op grp left } else y }
    | _ => s

/-- CARRYST_RECORD (R321): once every command before it is done; with q2 full the record is held, and the engine
runs no later command. -/
def Core.carrystRecord (c : Core) : Core :=
  match c.eng.carry.queue with
  | m :: _ =>
    if m.kind = .status ∧ !c.heldIn 2 then
      let x := c.eng.carry
      let v := x.applied + x.merged * 2 ^ 32 + (if x.fault then 2 ^ 48 else 0) + (if x.nan then 2 ^ 49 else 0)
      (c.setCarry { queue := x.queue.drop 1, remote := x.remote }).post 2 (BitVec.ofNat 64 v)
    else c
  | [] => c

end Sys2Proof.Machine
end

