-- ==== Sys2Proof/Machine/StackUnits.lean ====
section
/-! DEFINITION. The in-memory units of the stacks (R376, R377, R397 to R411), the collective engine (R357,
R358), the translation units' walks (R386, R391) and host invalidations (R394 to R396). Each event does nothing
when it is not enabled (log 5). -/

namespace Sys2Proof.Machine

/-- The core has stopped for a pre-emption (R457). -/
def Core.isStopped (c : Core) : Bool :=
  match c.seq.run with
  | .stopped _ => true
  | _ => false

/-- An in-memory unit works for the command (R397). -/
def CopyKind.isUnit : CopyKind → Bool
  | .acc _ | .accOne _ | .rowCopy | .rowZero | .walk => true
  | _ => false

/-- The command at the front of a channel that its unit works for: once its core has stopped, up to the next safe
point (R399). -/
def Core.unitCmd (c : Core) (ch : Nat) : Option CopyCmd :=
  match c.copyHead ch with
  | some m => if m.started && !m.stale && !m.rest then some m else none
  | none => none

/-- The same, once its next transfer may be made. -/
def Core.unitHead (c : Core) (now ch : Nat) : Option CopyCmd :=
  (c.unitCmd ch).filter fun m => decide (m.at_ ≤ now)

/-- A work item ends: the unit's safe point (R397). -/
def Core.itemDone (c : Core) (now ch id : Nat) (f : CopyCmd → CopyCmd) : Core :=
  let stopped := c.isStopped
  c.onCopy ch id fun m => { f m with safe := now, rest := stopped }

/-! Atomics (R350, R377). -/

/-- Op(old, v) of R350. -/
def accumulateOp (op old v : Nat) : Nat :=
  match op with
  | 3 => (old + v) % 2 ^ 64
  | 7 => v
  | _ => carryOp op old v

/-- One atomic at a destination offset: the old value. -/
def State.oneAtomic (s : State) (n : Nat) (m : CopyCmd) (op v : Nat) (off : Int) : Xfer Nat × State :=
  let e := accWidth op
  let a := m.dc.base.toNat + off.toNat
  match s.cmdPage n m.dpages a true with
  | (.fault d, s) => (.stop Cause.translation d, s)
  | (.wait why, s) => (.wait (why == .held), s)
  | (.page p, s) =>
    match s.devRead (p.at a) e p.cache with
    | (.inr d, s) => (.stop Cause.dataCheck d, s)
    | (.inl bs, s) =>
      let old := leNat bs
      (.ok old, s.devWrite (p.at a) (leBytes e (accumulateOp op old v)) p.mx p.cache)

/-- The SRC of a fault found by a stack (R450). -/
def stackSrc (cause : Nat) : Nat := if cause = Cause.dataCheck then 4 else 2

/-- The next element of a nest: its source and destination (R350). -/
def CopyCmd.element (m : CopyCmd) : Int × Int :=
  let k := m.moved / m.nest.inner
  let i : Int := ((m.moved % m.nest.inner : Nat) : Int)
  (m.nest.srcAt m.src k + i, m.nest.dstAt m.dst k + i)

/-- A work item that has not begun: the unit is at its safe point (R397). -/
def Core.itemIdle (c : Core) (now ch id : Nat) : Core := c.itemDone now ch id fun m => m

/-- ATOMIC (R377): the next atomic of the command at the front of a channel; the last follows the release (R334). An
element that two rows hold is read a row a cycle (R303). -/
def State.atomic (s : State) (n ch : Nat) : State :=
  let c := s.core n
  match c.unitHead s.now ch with
  | none => s
  | some m =>
    match m.kind with
    | .accOne op =>
      if m.units ≠ 0 then s
      else if c.lastHeld m then s.onCore n fun c => c.itemIdle s.now ch m.id
      else
        let v := m.value.toNat % 2 ^ (8 * accWidth op)
        match s.oneAtomic n m op v m.dst with
        | (.wait _, s) => s
        | (.stop a b, s) => s.onCore n fun c => c.stopCopy ch m.id a b (stackSrc a)
        | (.ok old, s) => s.onCore n fun c =>
            (c.itemDone s.now ch m.id fun m => { m with units := 1 }).setResult m.id (BitVec.ofNat 64 old)
    | .acc op =>
      let e := accWidth op
      if m.nest.total ≤ m.moved then s
      else if decide (m.nest.total ≤ m.moved + e) && c.lastHeld m then s.onCore n fun c => c.itemIdle s.now ch m.id
      else
        let x := m.element
        let a := x.1 + m.ahead.length
        let k := rowPart a (e - m.ahead.length)
        let g := c.enginePorts s.now (8 + ch) (portsOf a.toNat k false)
        let s := s.setCore n g.2
        if !g.1 then s
        else match g.2.engineFault m.id x.1.toNat e (8 + ch) with
        | some d => s.onCore n fun c => c.stopCopy ch m.id Cause.bankModeFault d
        | none =>
          let bs := m.ahead ++ g.2.engineBytes m.id a.toNat k
          if bs.length < e then s.onCore n fun c => c.onCopy ch m.id fun m => { m with ahead := bs }
          else match s.oneAtomic n m op (leNat bs) x.2 with
          | (.wait _, s) => s
          | (.stop a b, s) => s.onCore n fun c => c.stopCopy ch m.id a b (stackSrc a)
          | (.ok _, s) => s.onCore n fun c =>
              let c := (c.itemDone s.now ch m.id fun m => { m with moved := m.moved + e, ahead := [] }).countCopy s.now
              if m.moved + e = m.nest.total then c.sbDrop m.id else c
    | _ => s

/-! Row copy and zero fill (R404, R405). -/

/-- Two rows lie in one subarray (R404). -/
def sameSubarray (a b : Nat) : Bool :=
  let p := dramPlace a
  let q := dramPlace b
  p.channel == q.channel && p.rank == q.rank && p.bank == q.bank && p.subarray == q.subarray

/-- The bursts of a 4 KiB row. -/
def rowBursts (dpa : Nat) : List Nat := (List.range 64).map (dpa / 64 + ·)

/-- The stack cache before a row is written: the source's lines are clean, the destination's gone (R404); writing a
dirty line back finds its errors (R403). -/
def State.rowLines (s : State) (src : Option Nat) (dst : Nat) : State :=
  let s := match src with
    | some a =>
      let met := (rowBursts a).filter fun u => Tab.has s.lineErr u && s.lineOf u == some true
      (met.foldl State.meetLine s).onStack (stackOf a) fun x => { x with
        lines := x.lines.map fun (l : Nat × Bool) => if a / 4096 == l.1 / 64 then (l.1, false) else l }
    | none => s
  let s := { s with lineErr := s.lineErr.filter fun e => dst / 4096 != e.1 / 64 }
  s.onStack (stackOf dst) fun x => { x with lines := x.lines.filter fun (l : Nat × Bool) => dst / 4096 != l.1 / 64 }

/-- A table's entries of one range of numbers replaced by those of another. -/
def Tab.moveRange {α : Type} (t : Tab α) (src dst n : Nat) : Tab α :=
  let kept := t.filter fun e => e.1 < dst ∨ dst + n ≤ e.1
  (t.filter fun e => src ≤ e.1 ∧ e.1 < src + n).foldl (fun k e => Tab.store k (dst + (e.1 - src)) e.2) kept

def Tab.dropRange {α : Type} (t : Tab α) (dst n : Nat) : Tab α :=
  t.filter fun e => e.1 < dst ∨ dst + n ≤ e.1

/-- The data and scale slots of one burst, or of a whole row, move. -/
def State.moveData (s : State) (src dst n : Nat) : State :=
  { s with
    dev := s.dev.write dst (Memory.bytes s.dev src n)
    slots := s.slots.moveRange (src / 64) (dst / 64) (n / 64)
    poison := s.poison.dropRange (dst / 64) (n / 64) }

/-- An in-subarray copy moves the row's cells with their check codes and on-die ECC bits, untested. -/
def State.copyInSubarray (s : State) (src dst : Nat) : State :=
  let s := s.moveData src dst 4096
  { s with
    bad := s.bad.moveRange (src / 64) (dst / 64) 64
    weak := s.weak.moveRange (src / 64) (dst / 64) 64 }

/-- A buffer copy reads the whole row, each burst checked, and then writes it. -/
def State.copyThroughBuffer (s : State) (src dst : Nat) : Option Nat × State :=
  let r := (rowBursts src).foldl (fun (acc : Option Nat × State) u =>
    match acc.1 with
    | some d => (some d, acc.2)
    | none =>
      let x := acc.2.readBurst u
      (if x.1 then none else some (dataCheckDetail (64 * u)), x.2)) (none, s)
  match r.1 with
  | some d => (some d, r.2)
  | none =>
    let s := r.2.moveData src dst 4096
    (none, { s with bad := s.bad.dropRange (dst / 64) 64, weak := s.weak.dropRange (dst / 64) 64 })

/-- A row of zero bytes, zero slots and right check codes (R405). -/
def State.zeroRow (s : State) (dst : Nat) : State :=
  { s with
    dev := s.dev.clear dst 4096
    slots := s.slots.dropRange (dst / 64) 64
    bad := s.bad.dropRange (dst / 64) 64
    weak := s.weak.dropRange (dst / 64) 64
    poison := s.poison.dropRange (dst / 64) 64 }

/-- A row of a MEMROW has been done. -/
def Core.rowDone (c : Core) (p : Params) (now ch id : Nat) : Core :=
  c.itemDone now ch id fun m => { m with units := m.units + 1, at_ := m.at_ + p.row }

/-- The DPA of row `i` on one side of a command. -/
def State.rowAt (s : State) (n : Nat) (m : CopyCmd) (x : Cap) (pages : List Page) (base : Int) (write : Bool) :
    Trans × Nat × State :=
  let a := x.base.toNat + base.toNat + 4096 * m.units
  match s.cmdPage n pages a write with
  | (.page p, s) => (.page p, p.at a, s)
  | (t, s) => (t, 0, s)

/-- ROW_COPY (R404): the next row of a MEMROW copy; the last follows the release (R334). -/
def State.rowCopyStep (s : State) (n ch : Nat) : State :=
  match (s.core n).unitHead s.now ch with
  | none => s
  | some m =>
    if m.kind ≠ .rowCopy ∨ m.n ≤ m.units then s
    else if decide (m.n ≤ m.units + 1) && (s.core n).lastHeld m then s.onCore n fun c => c.itemIdle s.now ch m.id
    else
      match s.rowAt n m m.sc m.spages m.src false with
      | (.fault d, _, s) => s.onCore n fun c => c.stopCopy ch m.id Cause.translation d
      | (.wait _, _, s) => s
      | (.page _, a, s) =>
        match s.rowAt n m m.dc m.dpages m.dst true with
        | (.fault d, _, s) => s.onCore n fun c => c.stopCopy ch m.id Cause.translation d
        | (.wait _, _, s) => s
        | (.page _, b, s) =>
          let s := s.rowLines (some a) b
          if sameSubarray a b then (s.copyInSubarray a b).onCore n fun c => c.rowDone s.params s.now ch m.id
          else match s.copyThroughBuffer a b with
            | (some d, s) => s.onCore n fun c => c.stopCopy ch m.id Cause.dataCheck d 4
            | (none, s) => s.onCore n fun c => c.rowDone s.params s.now ch m.id

/-- ZERO_FILL (R405): the next row of a MEMROW zero fill; the last follows the release (R334). -/
def State.zeroFillStep (s : State) (n ch : Nat) : State :=
  match (s.core n).unitHead s.now ch with
  | none => s
  | some m =>
    if m.kind ≠ .rowZero ∨ m.n ≤ m.units then s
    else if decide (m.n ≤ m.units + 1) && (s.core n).lastHeld m then s.onCore n fun c => c.itemIdle s.now ch m.id
    else
      match s.rowAt n m m.dc m.dpages m.dst true with
      | (.fault d, _, s) => s.onCore n fun c => c.stopCopy ch m.id Cause.translation d
      | (.wait _, _, s) => s
      | (.page _, b, s) => ((s.rowLines none b).zeroRow b).onCore n fun c => c.rowDone s.params s.now ch m.id

/-! The embedding walker (R407 to R411). -/

/-- A lookup record (R408). -/
structure Lookup where
  op      : Nat
  etype   : Nat
  rtype   : Nat
  dcore   : Nat
  rowlen  : Nat
  nidx    : Nat
  toff    : Nat
  rstride : Nat
  nrows   : Nat
  ioff    : Nat
  woff    : Nat
  daddr   : Nat
  deriving DecidableEq, Repr

def readLookup (x : Nat) : Lookup := {
  op := bits x 33 32, etype := bits x 37 34, rtype := bits x 41 38, dcore := bits x 55 48
  rowlen := bits x 79 64, nidx := bits x 95 80, toff := bits x 143 96, rstride := bits x 175 144
  nrows := bits x 207 176, ioff := bits x 255 208, woff := bits x 303 256, daddr := bits x 327 304 }

/-- The record passes R325. -/
def lookupForm (x : Nat) : Bool :=
  bits x 15 0 == 1 && bits x 31 16 == 64 && bits x 47 42 == 0 && bits x 63 56 == 0 && bits x 511 328 == 0

def isFhbCode (t : Nat) : Bool := t == 8 || t == 9 || t == 10

/-- The limits of R408. -/
def Lookup.limits (r : Lookup) : Bool :=
  isFhbCode r.etype && isFhbCode r.rtype && decide (1 ≤ r.rowlen) && decide (r.rowlen ≤ 4096) &&
    r.toff % 64 == 0 && r.rstride % 64 == 0 && decide (r.rowlen * ((ety r.etype).width / 8) ≤ r.rstride) &&
    r.ioff % 4 == 0 && (r.op != 3 || r.woff % 4 == 0) && r.daddr % 256 == 0

/-- A failing check of R409: REASON, POS and VALUE. -/
structure WalkErr where
  reason : Nat
  pos    : Nat := 0
  value  : Nat := 0
  deriving DecidableEq, Repr

/-- An exact value of a type as a binary32 code. -/
def widen (t : ETy) (x : Nat) : Nat := if t = .f then x else (roundFloat .f32 (t.val x) .rne 0).code

def f32Round (x : Val) : Nat := (roundFloat .f32 x .rne 0).code

/-- acc / n, rounded once: enough quotient bits and a sticky bit below them. -/
def divideMean (acc n : Nat) : Nat :=
  match FFmt.f32.decode acc with
  | .num neg m e =>
    let q := m * 2 ^ 64 / n
    f32Round (.num neg (2 * q + (if m * 2 ^ 64 % n = 0 then 0 else 1)) (e - 65))
  | v => f32Round v

/-- The reduction of R411 over the k-th elements of the rows listed, with their weights. -/
def lookupReduce (op : Nat) : List (Nat × Nat) → Nat
  | [] => 0
  | (w, x) :: rest =>
    let d := FFmt.f32.decode
    match op with
    | 3 => rest.foldl (fun acc p => f32Round (addVal false (mulVal (d p.1) (d p.2)) (d acc)))
        (f32Round (mulVal (d w) (d x)))
    | 2 => rest.foldl (fun acc p => minMax .f32 true acc p.2) x
    | 1 => divideMean (rest.foldl (fun acc p => carryOp 4 acc p.2) x) (rest.length + 1)
    | _ => rest.foldl (fun acc p => carryOp 4 acc p.2) x

/-- Why a record of the walker does not go on: a translation waits, `held` at an entry with WAIT (R396), or a check of
R409 fails. -/
inductive WalkStop where
  | wait (held : Bool)
  | fail (e : WalkErr)
  deriving DecidableEq, Repr

/-- A read of the walker through a capability: the bytes, or why it fails at a position (R409). -/
def State.walkRead (s : State) (n : Nat) (x : Cap) (off len pos : Nat) : (List Byte ⊕ WalkStop) × State :=
  match s.readVirtual (podOf n) (s.core n).part (x.base.toNat + off) len .queue with
  | (.inl bs, s) => (.inl bs, s)
  | (.inr (.wait h), s) => (.inr (.wait h), s)
  | (.inr (.trans _), s) | (.inr .torn, s) => (.inr (.fail { reason := 5, pos := pos }), s)
  | (.inr (.data _), s) => (.inr (.fail { reason := 6, pos := pos }), s)

/-- The k-th index, weight and row of a record; the row's elements as binary32 codes. -/
def State.lookupRow (s : State) (n : Nat) (m : CopyCmd) (r : Lookup) (k : Nat) :
    ((Nat × List Nat) ⊕ WalkStop) × State :=
  match s.walkRead n m.dc (r.ioff + 4 * k) 4 k with
  | (.inr e, s) => (.inr e, s)
  | (.inl bs, s) =>
    let i := leNat bs
    if r.nrows ≤ i then (.inr (.fail { reason := 4, pos := k, value := i }), s)
    else
      let weight := if r.op = 3 then s.walkRead n m.dc (r.woff + 4 * k) 4 k else (.inl [], s)
      match weight with
      | (.inr e, s) => (.inr e, s)
      | (.inl wb, s) =>
        let t := ety r.etype
        let w := t.width / 8
        match s.walkRead n m.sc (r.toff + i * r.rstride) (r.rowlen * w) k with
        | (.inr e, s) => (.inr e, s)
        | (.inl xb, s) =>
          (.inl (leNat wb, (List.range r.rowlen).map fun j => widen t (leNat ((xb.drop (j * w)).take w))), s)

/-- The checks of R409 that need no read. -/
def State.lookupErr (s : State) (c : Core) (m : CopyCmd) (x : Nat) (r : Lookup) : Option WalkErr :=
  let fails (creg : Nat) (cap : Cap) (need off len : Nat) : Bool :=
    match s.capCheck c creg cap need dataType off len with
    | .inl _ => false
    | .inr _ => true
  if !lookupForm x then some { reason := 1 }
  else if !r.limits || !s.isMember c m.grp r.dcore then some { reason := 2 }
  else if fails m.scr m.sc Perm.walk r.toff (r.nrows * r.rstride) ||
      fails m.dcr m.dc Perm.rd r.ioff (4 * r.nidx) ||
      (r.op == 3 && fails m.dcr m.dc Perm.rd r.woff (4 * r.nidx)) then some { reason := 3 }
  else none

/-- The bytes that a record delivers, from its rows with their weights (R411). -/
def Lookup.result (r : Lookup) (rows : List (Nat × List Nat)) : List Byte :=
  let t := ety r.rtype
  ((List.range r.rowlen).map fun j =>
    let acc := lookupReduce r.op (rows.map fun p => (p.1, p.2.getD j 0))
    leBytes (t.width / 8) (roundTo t (FFmt.f32.decode acc) .rne 0).code).flatten

/-- The detail word of R410. -/
def WalkErr.detail (e : WalkErr) (record : Nat) : Nat :=
  record % 2 ^ 12 + e.reason * 2 ^ 12 + e.pos * 2 ^ 16 + e.value * 2 ^ 32

/-- A record fails: the walk fault, and STKSUM.WALK of the walker's stack (R409, R413). -/
def State.walkFault (s : State) (n ch : Nat) (m : CopyCmd) (e : WalkErr) : State :=
  (s.stick (2 * podOf n) 7).onCore n fun c => c.stopCopy ch m.id Cause.walkFault (e.detail m.units) 4

/-- The walk commands of a pod that have reached its walker, with core and channel. -/
def State.walkQueue (s : State) (pod : Nat) : List (Nat × Nat × CopyCmd) :=
  ((List.range 16).map fun i =>
    let n := 16 * pod + i
    (List.range 8).filterMap fun ch => match (s.core n).copyHead ch with
      | some m => if m.kind == .walk && m.started && !m.stale && decide (m.units < m.n) then some (n, ch, m) else none
      | none => none).flatten

/-- The walker runs a pod's commands in the order in which they reached it (R407). -/
def State.walkTurn (s : State) (n ch since : Nat) : Bool :=
  (s.walkQueue (podOf n)).all fun x =>
    decide (since < x.2.2.since) || (decide (since = x.2.2.since) &&
      (decide (n < x.1) || (decide (n = x.1) && decide (ch ≤ x.2.1))))

/-- A record has been done. -/
def Core.recordDone (c : Core) (p : Params) (now ch id : Nat) : Core :=
  c.itemDone now ch id fun m => { m with units := m.units + 1, at_ := now + p.mem }

/-- A record's result leaves for its core's receive region; the next record follows. -/
def State.deliverRecord (s : State) (n ch : Nat) (m : CopyCmd) (r : Lookup) (bs : List Byte) : State :=
  let c := s.core n
  match s.physOf c r.dcore with
  | none => s.onCore n fun c => c.stopCopy ch m.id Cause.unexportedWrite (r.dcore + r.daddr % 2 ^ 24 * 2 ^ 8)
  | some d =>
    (s.send n d (.data m.id ch r.daddr bs (some 0) m.grp)).onCore n fun c =>
      let c := (c.recordDone s.params s.now ch m.id).onCopy ch m.id fun m => { m with open_ := m.open_ + 1 }
      if m.n ≤ m.units + 1 then c.sbDrop m.id else c

/-- LOOKUP_RECORD (R411): the next record of the walk command at the front of a channel; the last begins after the
release (R334). A walk that meets an entry with WAIT waits at its safe point (R396), and does not hold up an
invalidation (log 71). -/
def State.lookupRecord (s : State) (n ch : Nat) : State :=
  let c := s.core n
  match c.unitHead s.now ch with
  | none => s
  | some m =>
    if m.kind ≠ .walk ∨ m.n ≤ m.units then s
    else if !s.walkTurn n ch m.since then s.onCore n fun c => c.onCopy ch m.id fun m => { m with safe := s.now }
    else if decide (m.n ≤ m.units + 1) && c.lastHeld m then s.onCore n fun c => c.itemIdle s.now ch m.id
    else
      let a := m.src.toNat + 64 * m.units
      let g := c.enginePorts s.now (8 + ch) (portsOf a 64 false)
      let s := s.setCore n g.2
      if !g.1 then s
      else match g.2.engineFault m.id a 64 (8 + ch) with
      | some d => s.onCore n fun c => c.stopCopy ch m.id Cause.bankModeFault d
      | none =>
        let x := leNat (g.2.engineBytes m.id a 64)
        let r := readLookup x
        match s.lookupErr g.2 m x r with
        | some e => s.walkFault n ch m e
        | none =>
          let got := (List.range r.nidx).foldl (fun (acc : (List (Nat × List Nat) ⊕ WalkStop) × State) k =>
            match acc with
            | (.inr e, s) => (.inr e, s)
            | (.inl l, s) => match s.lookupRow n m r k with
              | (.inl y, s) => (.inl (l ++ [y]), s)
              | (.inr e, s) => (.inr e, s)) (.inl [], s)
          match got with
          | (.inr (.wait held), s) =>
            if !held then s
            else s.onCore n fun c =>
              (if (s.part c.part).inval.isSome then c.releaseMarks ch else c).itemIdle s.now ch m.id
          | (.inr (.fail e), s) => s.walkFault n ch m e
          | (.inl rows, s) => s.deliverRecord n ch m r (r.result rows)

/-! The watchdog (R398). -/

/-- The cycles at which an invalidation and a pre-emption request reached the units that work for a partition. -/
def Partition.requests (p : Partition) : List Nat := (p.inval.map (·.at_)).toList ++ p.preemptAt.toList

/-- The stack whose unit works for a command. -/
def CopyCmd.unitStack (m : CopyCmd) (n : Nat) : Option Nat :=
  let first (x : Cap) (off : Int) (pages : List Page) : Option Nat :=
    let a := x.base.toNat + off.toNat
    (pages.find? fun p => decide (p.va ≤ a) && decide (a < p.va + p.size)).map fun p => stackOf (p.at a)
  match m.kind with
  | .rowCopy | .rowZero => first m.dc (m.dst + 4096 * m.units) m.dpages
  | .acc _ => first m.dc m.element.2 m.dpages
  | .accOne _ => first m.dc m.dst m.dpages
  | .walk => some (2 * podOf n)
  | _ => none

/-- An entry as another table has it. -/
def Tab.keepOld {α : Type} (t old : Tab α) (u : Nat) : Tab α :=
  match old.find? fun e => e.1 == u with
  | some e => Tab.store t u e.2
  | none => Tab.drop t u

/-- Each 64-byte unit that the interrupted item wrote holds its old or its new value: a free choice. -/
def State.tornItem (s : State) (old : State) (dpa n : Nat) : State :=
  let us := burstsOf dpa n
  let keep := (us.mapIdx fun i u => (i, u)).filter fun p => !Config.oldOrNew (old.nFree + p.1)
  let s := keep.foldl (fun s p =>
    let u := p.2
    { s with
      dev := s.dev.write (64 * u) (Memory.bytes old.dev (64 * u) 64)
      slots := s.slots.keepOld old.slots u
      bad := s.bad.keepOld old.bad u }) s
  { s with nFree := old.nFree + us.length }

/-- The command of a reset unit completes with STATUS 2; no fault is raised. -/
def Core.resetCopy (c : Core) (ch id : Nat) : Core :=
  (c.onCopy ch id fun m => { m with status := some 2 }).sbDrop id

/-- The item under way has written some of its 64-byte units when the watchdog resets it. -/
def State.interruptItem (s : State) (n ch : Nat) (m : CopyCmd) : State :=
  let late := s.onCore n fun c => c.onCopy ch m.id fun m => { m with at_ := s.now }
  let after := match m.kind with
    | .rowCopy => late.rowCopyStep n ch
    | .rowZero => late.zeroFillStep n ch
    | .acc _ => late.atomic n ch
    | .accOne _ => late.atomic n ch
    | _ => s
  let place (off : Int) (len : Nat) : Option (Nat × Nat) :=
    let a := m.dc.base.toNat + off.toNat
    (m.dpages.find? fun p => decide (p.va ≤ a) && decide (a < p.va + p.size)).map fun p => (p.at a, len)
  let wrote := match m.kind with
    | .rowCopy | .rowZero => place (m.dst + 4096 * m.units) 4096
    | .acc op => place m.element.2 (accWidth op)
    | .accOne op => place m.dst (accWidth op)
    | _ => none
  match wrote with
  | none => s
  | some (a, len) =>
    let t := after.tornItem s a len
    { s with dev := t.dev, slots := t.slots, bad := t.bad, nFree := t.nFree }

/-- The unit that works for a command holds a work item (R397): a walk does so once its turn has come. -/
def State.holdsItem (s : State) (n ch : Nat) (m : CopyCmd) : Bool :=
  m.kind.isUnit && !(s.core n).copyDone m && match m.kind with
    | .acc _ => decide (m.moved < m.nest.total)
    | .accOne _ => m.units == 0
    | .walk => decide (m.units < m.n) && s.walkTurn n ch m.since
    | _ => decide (m.units < m.n)

/-- WATCHDOG_RESET (R398) of the unit that works for the command at the front of a channel: the item that it held as
a request arrived has not ended within CYCLES of that arrival. -/
def State.watchdogReset (s : State) (n ch : Nat) : State :=
  let c := s.core n
  match c.unitCmd ch with
  | none => s
  | some m =>
    match m.unitStack n with
    | some k =>
      let late := (s.part c.part).requests.any fun t => decide (t + (s.stack k).cycles ≤ s.now) && decide (m.safe ≤ t)
      if !late ∨ !s.holdsItem n ch m then s
      else
        let s := (s.interruptItem n ch m).onCore n fun c => c.resetCopy ch m.id
        let s := s.stick k 5
        if (s.part c.part).inval.isSome then
          s.onPart c.part fun p => { p with invAborts := (p.invAborts + 1) % 2 ^ 16 } else s
    | none => s

/-! Collectives (R357, R358). -/

/-- The open CPCOLL number `k` on a group of a core, with its channel. -/
def Core.collCmd (c : Core) (grp k : Nat) : Option (Nat × CopyCmd) :=
  (List.range 8).findSome? fun ch =>
    ((c.chan ch).queue.find? fun m => m.kind == .coll && m.grp == grp && m.n == k && m.status.isNone).map
      fun m => (ch, m)

/-- A member of a collective: its logical core, its physical core and its command; `none`: in the far box. -/
structure Member where
  lcore : Nat
  here  : Option (Nat × Nat × CopyCmd)
  deriving DecidableEq, Repr

/-- The members of a collective in ascending order, or none when a member of this box has no open command. -/
def State.collMembers (s : State) (c : Core) (grp k : Nat) : List (Member × Bool) :=
  (membersOf (s.group c grp)).map fun l => match s.physOf c l with
    | none => ({ lcore := l, here := none }, true)
    | some n => match (s.core n).collCmd grp k with
      | some (ch, m) => ({ lcore := l, here := some (n, ch, m) }, true)
      | none => ({ lcore := l, here := none }, false)

/-- A command has reached the head of its channel and started. -/
def State.collReady (s : State) (n ch : Nat) (m : CopyCmd) : Bool :=
  match (s.core n).unitHead s.now ch with
  | some x => x.id == m.id
  | none => false

/-- What the members of one collective must share (R358). -/
def Plan.shape (p : Plan) : Nat × Nat × Nat × Nat := (p.kind, p.type, p.op, p.count)

/-- Every command of the collective in this box stops with the collective-mismatch fault; the far box hears of
each. -/
def State.collMismatch (s : State) (part grp k starts : Nat) (ms : List Member) : State :=
  let far := ms.any fun m => m.here.isNone
  ms.foldl (fun s m => match m.here with
    | some (n, ch, x) =>
      let s := s.onCore n fun c => c.stopCopy ch x.id Cause.collectiveMismatch grp
      if far then s.emitOut (.far (.collective { part := part, group := grp, lcore := m.lcore, n := k, starts := starts }))
      else s
    | none => s) s

/-- The fold of R357 over one element of each member. -/
def collFold (p : Plan) : List Nat → Nat
  | [] => 0
  | x :: rest =>
    let t := ety p.type
    if t = .i32 then rest.foldl (carryOp p.op) x
    else
      let r := (rest.map (widen t)).foldl (carryOp (4 + p.op)) (widen t x)
      if t = .f then (if (FFmt.f32.decode r).isNan then FFmt.f32.nanCode else r)
      else (roundTo t (FFmt.f32.decode r) .rne 0).code

/-- The elements of a block. -/
def Plan.elems (p : Plan) (bs : List Byte) : List Nat :=
  let w := (ety p.type).width / 8
  (List.range p.count).map fun i => leNat ((bs.drop (i * w)).take w)

/-- What member `j` receives from the source bytes of all (R357). -/
def Plan.received (p : Plan) (srcs : List (List Byte)) (j : Nat) : List Byte :=
  let w := (ety p.type).width / 8
  let fold (blocks : List (List Byte)) : List Byte :=
    let es := blocks.map p.elems
    ((List.range p.count).map fun i => leBytes w (collFold p (es.map fun l => l.getD i 0))).flatten
  match p.kind with
  | 0 => fold srcs
  | 1 => srcs.flatten
  | _ => fold (srcs.map fun b => (b.drop (j * p.block)).take p.block)

/-- Reads the source of a command piece by piece. -/
def State.collRead (s : State) (n : Nat) (m : CopyCmd) (len : Nat) : Xfer (List Byte) × State :=
  (pageChunks (len / 4096 + 2) (m.sc.base.toNat + m.src.toNat) len).foldl
    (fun (acc : Xfer (List Byte) × State) ch =>
      match acc with
      | (.ok bs, s) =>
        match s.cmdRead n m.sc m.spages ((ch.1 : Int) - m.sc.base.toNat) ch.2 with
        | (.ok x, s) => (.ok (bs ++ x.1), s)
        | (.wait h, s) => (.wait h, s)
        | (.stop a b, s) => (.stop a b, s)
      | x => x) (.ok [], s)

/-- Writes the result of a command piece by piece. -/
def State.collWrite (s : State) (n : Nat) (m : CopyCmd) (bs : List Byte) : Xfer Unit × State :=
  let a := m.dc.base.toNat + m.dst.toNat
  (pageChunks (bs.length / 4096 + 2) a bs.length).foldl
    (fun (acc : Xfer Unit × State) ch =>
      match acc with
      | (.ok _, s) =>
        match s.cmdWrite n m.dc m.dpages ((ch.1 : Int) - m.dc.base.toNat) ((bs.drop (ch.1 - a)).take ch.2) with
        | (.ok _, s) => (.ok (), s)
        | (.wait h, s) => (.wait h, s)
        | (.stop a b, s) => (.stop a b, s)
      | x => x) (.ok (), s)

/-- The source bytes of every member of this box are read into its command, and sent to the far box when a
member lies there; false: a translation waits. -/
def State.collGather (s : State) (part grp k starts : Nat) (ms : List Member) : Bool × State :=
  let far := ms.any fun m => m.here.isNone
  ms.foldl (fun acc m => match acc, m.here with
    | (true, s), some (n, ch, x) =>
      if x.buf.isSome then (true, s)
      else match s.collRead n x (x.plan.srcLen ms.length) with
        | (.wait _, t) => (false, { s with units := t.units })
        | (.stop a b, s) => (true, s.onCore n fun c => c.stopCopy ch x.id a b (stackSrc a))
        | (.ok bs, s) =>
          let s := s.onCore n fun c => c.onCopy ch x.id fun y => { y with buf := some bs }
          if !far then (true, s)
          else
            let s := s.onCore n fun c => { c with eng := { c.eng with farOut := (x.id, grp, k) :: c.eng.farOut } }
            (true, s.emitOut (.far (.collective {
              part := part, group := grp, lcore := m.lcore, n := k, starts := starts
              plan := some x.plan.shape, bytes := bs })))
    | acc, _ => acc) (true, s)

/-- The block of a far member in a collective. -/
def State.farBlock (s : State) (part grp k starts l : Nat) : Option FarBlock :=
  s.farColl.find? fun b => b.part == part && b.group == grp && b.lcore == l && b.n == k && b.starts == starts

/-- The far members' blocks have been used: they wait no longer, and the far box hears that they are applied (R369,
R370). -/
def State.collUsed (s : State) (part grp k starts : Nat) (ms : List Member) : State :=
  ms.foldl (fun s m => match m.here with
    | some _ => s
    | none =>
      { s with farColl := s.farColl.filter fun b =>
          !(b.part == part && b.group == grp && b.lcore == m.lcore && b.n == k && b.starts == starts) }.emitOut
        (.far (.applied part grp m.lcore k starts))) s

/-- A block that this module sent has been applied at the far one (R369). -/
def State.farApplied (s : State) (part grp l k starts : Nat) : State :=
  (s.participants part).foldl (fun s n => s.onCore n fun c =>
    if c.lcore = l ∧ c.starts = starts then
      { c with eng := { c.eng with farOut := c.eng.farOut.filter fun e => !(e.2.1 == grp && e.2.2 == k) } }
    else c) s

/-- The fold and the deliveries, once every member's source is there and every member's release has ended (R334). -/
def State.collDeliver (s : State) (part grp k starts : Nat) (ms : List Member) : State :=
  let srcs := ms.map fun m => match m.here with
    | some (n, ch, x) => ((s.core n).copyCmd ch x.id).bind CopyCmd.buf
    | none => (s.farBlock part grp k starts m.lcore).map FarBlock.bytes
  let held := ms.any fun m => match m.here with
    | some (n, _, x) => (s.core n).lastHeld x
    | none => false
  if srcs.any (·.isNone) || held then s
  else
    let bytes := srcs.map (·.getD [])
    let plan := (ms.findSome? fun m => m.here.map fun h => h.2.2.plan).getD {}
    let out := (ms.mapIdx fun j m => (j, m)).foldl (fun (acc : Bool × State) e =>
      match acc, e.2.here with
      | (true, s), some (n, ch, x) =>
        match s.collWrite n x (plan.received bytes e.1) with
        | (.wait _, s) => (false, s)
        | (.stop a b, s) => (true, s.onCore n fun c => c.stopCopy ch x.id a b (stackSrc a))
        | (.ok _, s) => (true, s.onCore n fun c => c.onCopy ch x.id fun y => { y with units := 1 })
      | acc, _ => acc) (true, s)
    if out.1 then out.2.collUsed part grp k starts ms else { s with units := out.2.units }

/-- COLLECTIVE (R357, R358) of the CPCOLL at the front of a channel. A far member is missing once the far box has
reported its boundary without that member's block. -/
def State.collective (s : State) (n ch : Nat) : State :=
  let c := s.core n
  match c.unitHead s.now ch with
  | none => s
  | some m =>
    if m.kind ≠ .coll ∨ m.units ≠ 0 then s
    else
      let p := c.part
      let k := c.starts
      let found := s.collMembers c m.grp m.n
      let ms := found.map (·.1)
      let far := ms.filter fun x => (s.physOf c x.lcore).isNone
      let farBlocks := far.filterMap fun x => s.farBlock p m.grp m.n k x.lcore
      let gone := decide (0 < (s.part p).farBoundary) && decide (farBlocks.length < far.length)
      if found.any (fun x => !x.2) || gone then
        if s.allAtPhase p then s.collMismatch p m.grp m.n k ms else s
      else if farBlocks.any fun b => b.plan != some m.plan.shape then
        (s.collMismatch p m.grp m.n k ms).collUsed p m.grp m.n k far
      else
        let here := ms.filterMap (·.here)
        if here.any fun x => !s.collReady x.1 x.2.1 x.2.2 then s
        else if here.any fun x => x.2.2.plan.shape != m.plan.shape then s.collMismatch p m.grp m.n k ms
        else match s.collGather p m.grp m.n k ms with
          | (false, s) => s
          | (true, t) =>
            -- a member whose source fails leaves the collective: the others take the mismatch
            let live (x : Nat × Nat × CopyCmd) : Bool := match (t.core x.1).copyCmd x.2.1 x.2.2.id with
              | some y => y.status.isNone
              | none => false
            if here.any fun x => !live x then
              t.collMismatch p m.grp m.n k (ms.filter fun x => x.here.all live)
            else t.collDeliver p m.grp m.n k ms

/-! Translation (R386, R391) and host invalidations (R394 to R396). -/

/-- TRANSLATION: the walk of a unit that is due first ends (R386). -/
def State.translationStep (s : State) (pod : Nat) : State :=
  match (s.unit pod).serving.find? fun w => w.due.any fun t => decide (t ≤ s.now) with
  | some w => s.endWalk pod w
  | none => s

/-- A page meets a range of 4 KiB units. -/
def Page.meets (p : Page) (all : Bool) (base units : Nat) : Bool :=
  all || rangesMeet p.va p.size (base * 4096) (units * 4096)

/-- The marker of an invalidation stands behind the last command of a queue (R353). -/
def markLast (no : Nat) : List CopyCmd → List CopyCmd
  | [] => []
  | [m] => [{ m with hostMarks := m.hostMarks ++ [no] }]
  | m :: r => m :: markLast no r

/-- A command ahead of the marker that has a probe keeps to it (R379). DEDUCED (log 71). -/
def CopyCmd.keepProbe (m : CopyCmd) : CopyCmd := { m with stale := m.stale && m.spages.isEmpty && m.dpages.isEmpty }

/-- INVREQ_GO (R394, R395): the caches drop the range and markers enter the channels. -/
def State.invreqGo (s : State) (p : Nat) : State :=
  let x := s.part p
  if x.inval.isSome then s.setPart p { x with invDrop := true }
  else if x.invLen = 0 ∧ !x.invAll then s
  else
    let no := x.invDone + 1
    let s := s.setPart p { x with
      inval := some { all := x.invAll, base := x.invBase, units := x.invLen, no := no, at_ := s.now } }
    let keep (e : Nat × Page) : Bool := e.1 != p || !e.2.meets x.invAll x.invBase x.invLen
    let s := { s with units := s.units.map fun u => (u.1, { u.2.forgetWalks p with cache := u.2.cache.filter keep }) }
    if x.state = 7 then s
    else x.cores.foldl (fun s n => s.onCore n fun c =>
      ({ c with eng := { c.eng with chans := c.eng.chans.map fun q => (q.1, { q.2 with
          queue := markLast no (q.2.queue.map CopyCmd.keepProbe) }) } } : Core)) s

/-- A marker of an invalidation still waits in a channel: the command it stands behind is queued. -/
def Core.markWaits (c : Core) (no : Nat) : Bool :=
  c.eng.chans.any fun q => q.2.queue.any fun m => m.hostMarks.contains no

/-- A scalar access translated through a page of the range is still under way (R395). -/
def Core.accessMeets (c : Core) (i : Inval) : Bool :=
  match c.seq.access with
  | some a => (a.write || !a.ready) && a.pages.any fun x => x.2.2.meets i.all i.base i.units
  | none => false

/-- INVALIDATION_COMPLETE (R395, R396). -/
def State.invalidationComplete (s : State) (p : Nat) : State :=
  let x := s.part p
  match x.inval with
  | none => s
  | some i =>
    if x.state ≠ 7 ∧ x.cores.any fun n => (s.core n).markWaits i.no || (s.core n).accessMeets i then s
    else
      let s := s.setPart p { x with inval := none, invDone := (x.invDone + 1) % 2 ^ 32 }
      { s with units := s.units.map fun u => (u.1, { u.2 with walks := u.2.walks.map fun w =>
          if w.part = p && w.held then { w with held := false, due := none } else w }) }

end Sys2Proof.Machine
end

