-- ==== Sys2Proof/Machine/Phases.lean ====
section
/-! DEFINITION. The S-slot instructions of phases: PHASE, GBAR and IDLE (R164 to R166). -/

namespace Sys2Proof.Machine

/-- Service code may not issue PHASE, GBAR or IDLE (R449). -/
def notInService (fo : Focus) (c : Core) {α : Type} (k : Res α) : Res α :=
  guardTrap (!c.svc) (fo.trap Cause.illegalOperation) k

/-- PHASE ends the core's segment (R51, R164). -/
def opPhase (fo : Focus) (_ : SRI) (c : Core) : Res Core :=
  notInService fo c (.ok { c with seq := { c.seq with ended := true } })

/-- Slots named by IDLE lose their sticky operation (R166). -/
def Core.idleSlots (c : Core) (mask : Nat) : Core :=
  { c with seq := { c.seq with sticky := c.seq.sticky.filter fun e => !mask.testBit e.1 } }

def idleMask (f : SRI) : Nat := bits f.imm.toNat 5 0

def opIdle (fo : Focus) (f : SRI) (c : Core) : Res Core := notInService fo c (.ok (c.idleSlots (idleMask f)))

/-! GBAR (R165). -/

def barGroup (f : SRI) : Nat := bits f.imm.toNat 7 0

/-- GBARs of a logical core that have arrived at group k in the running phase. -/
def State.arrivedAt (s : State) (c : Core) (k l : Nat) : Nat :=
  match s.physOf c l with
  | some n => Tab.look 0 (s.core n).seq.arrivals k
  | none => (s.farArr.filter fun a => a == (c.part, k, l, c.starts)).length

/-- The n-th GBAR of a core on a group arrives, once; the far box learns of it. -/
def State.arrive (s : State) (n k : Nat) : State :=
  let c := s.core n
  let a := Tab.look 0 c.seq.arrivals k
  if a ≠ Tab.look 0 c.seq.barred k then s
  else
    let s := s.setCore n { c with seq := { c.seq with arrivals := Tab.store c.seq.arrivals k (a + 1) } }
    if (membersOf (s.group c k)).any fun l => (s.physOf c l).isNone then
      s.emitOut (.far (.gbar c.part k c.lcore c.starts))
    else s

def opGbar (fo : Focus) (f : SRI) (s : State) : Res State :=
  let c := s.core fo.core
  let k := barGroup f
  notInService fo c
    (guardTrap (s.groupOk c k && s.isMember c k c.lcore) (fo.trap Cause.illegalOperand)
      (let s := s.arrive fo.core k
       let n := Tab.look 0 c.seq.barred k
       if (membersOf (s.group c k)).all fun l => decide (n < s.arrivedAt c k l) then
         .ok (s.onCore fo.core fun c => { c with seq := { c.seq with barred := Tab.store c.seq.barred k (n + 1) } })
       else fo.waits 3 k s))

/-! One operation as a step. -/

/-- Where the step acts, now. -/
def State.here (s : State) : Focus := { s.focus with now := s.now }

end Sys2Proof.Machine
end

