-- ==== Sys2Proof/Machine/Scalar.lean ====
section
/-! DEFINITION. The scalar arithmetic and control flow of the S slot (R140 to R149) and NOP (R77). -/

namespace Sys2Proof.Machine

def opNop (_ : Focus) (_ : SRRR) (c : Core) : Res Core := .ok c

/-- A register form: s[SD] := the result of the two source registers, visible after `L` (R140). -/
def regOp (L : Nat) (f : SRRR) (c : Core) (op : Word → Word → Word) : Res Core :=
  .ok (c.putS L f.sd.toNat (op (c.sreg f.sa.toNat) (c.sreg f.sb.toNat)))

/-- The N bit, FN[0]: unsigned operands (R140). -/
def nBit (f : SRRR) : Bool := f.fn.getLsbD 0

/-- An operand as the N bit reads it: ZeroExt or SignExt (R140). -/
def operand (n : Bool) (x : Word) : Int := if n then (x.toNat : Int) else x.toInt

def opAdd (_ : Focus) (f : SRRR) (c : Core) : Res Core := regOp 1 f c (· + ·)
def opSub (_ : Focus) (f : SRRR) (c : Core) : Res Core := regOp 1 f c (· - ·)
def opAnd (_ : Focus) (f : SRRR) (c : Core) : Res Core := regOp 1 f c (· &&& ·)
def opOr (_ : Focus) (f : SRRR) (c : Core) : Res Core := regOp 1 f c (· ||| ·)
def opXor (_ : Focus) (f : SRRR) (c : Core) : Res Core := regOp 1 f c (· ^^^ ·)
def opShl (_ : Focus) (f : SRRR) (c : Core) : Res Core := regOp 1 f c fun a b => a <<< (b.toNat % 64)
def opShr (_ : Focus) (f : SRRR) (c : Core) : Res Core := regOp 1 f c fun a b => a >>> (b.toNat % 64)
def opSha (_ : Focus) (f : SRRR) (c : Core) : Res Core := regOp 1 f c fun a b => a.sshiftRight (b.toNat % 64)
def opMul (_ : Focus) (f : SRRR) (c : Core) : Res Core := regOp 3 f c (· * ·)

/-- (A × B) >> 64 (R140). -/
def mulHigh (n : Bool) (a b : Word) : Word := word (operand n a * operand n b / 2 ^ 64)

def opMulh (_ : Focus) (f : SRRR) (c : Core) : Res Core := regOp 3 f c (mulHigh (nBit f))

/-- DIV and REM round towards zero; a zero divisor gives −1 and the dividend (R141). -/
def quotRem (n : Bool) (a b : Word) : Word × Word :=
  let x := operand n a
  let y := operand n b
  if y = 0 then (word (-1), word x) else (word (x.tdiv y), word (x.tmod y))

def opDiv (_ : Focus) (f : SRRR) (c : Core) : Res Core := regOp 20 f c fun a b => (quotRem (nBit f) a b).1
def opRem (_ : Focus) (f : SRRR) (c : Core) : Res Core := regOp 20 f c fun a b => (quotRem (nBit f) a b).2
def opMin (_ : Focus) (f : SRRR) (c : Core) : Res Core :=
  regOp 1 f c fun a b => if operand (nBit f) a ≤ operand (nBit f) b then a else b
def opMax (_ : Focus) (f : SRRR) (c : Core) : Res Core :=
  regOp 1 f c fun a b => if operand (nBit f) a ≤ operand (nBit f) b then b else a
def opSlt (_ : Focus) (f : SRRR) (c : Core) : Res Core :=
  regOp 1 f c fun a b => if a.toInt < b.toInt then 1 else 0
def opSltn (_ : Focus) (f : SRRR) (c : Core) : Res Core :=
  regOp 1 f c fun a b => if a.toNat < b.toNat then 1 else 0

/-- An immediate form: s[SD] := the result of s[SA] and the immediate (R142). -/
def immOp (f : SRI) (c : Core) (op : Word → Int → Word) : Res Core :=
  .ok (c.putS 1 f.sd.toNat (op (c.sreg f.sa.toNat) (sriValue f)))

def opAddi (_ : Focus) (f : SRI) (c : Core) : Res Core := immOp f c fun a i => a + word i
def opAndi (_ : Focus) (f : SRI) (c : Core) : Res Core := immOp f c fun a i => a &&& word i
def opOri (_ : Focus) (f : SRI) (c : Core) : Res Core := immOp f c fun a i => a ||| word i
def opXori (_ : Focus) (f : SRI) (c : Core) : Res Core := immOp f c fun a i => a ^^^ word i
def opShli (_ : Focus) (f : SRI) (c : Core) : Res Core := immOp f c fun a i => a <<< i.toNat
def opShri (_ : Focus) (f : SRI) (c : Core) : Res Core := immOp f c fun a i => a >>> i.toNat
def opShai (_ : Focus) (f : SRI) (c : Core) : Res Core := immOp f c fun a i => a.sshiftRight i.toNat
def opLui (_ : Focus) (f : SRI) (c : Core) : Res Core := immOp f c fun _ i => word (i * 2 ^ 18)

/-! Control flow (R145 to R149). A taken branch is noted for the end of the bundle (R67, R149). -/

/-- The branch is taken to `t`. -/
def Core.branchTo (c : Core) (t : Word) : Core := { c with seq := { c.seq with redirect := some (t, false) } }

/-- The jumps to an address in a register (R147). -/
def Core.jumpTo (c : Core) (t : Word) : Core := { c with seq := { c.seq with redirect := some (t, true) } }

/-- The branching bundle's address + 4 × offset (R145, R146), modulo 2^64: DESIGN CHOICE (log 62) for a sum outside the
57-bit space of R63, which then meets the fetch fault of a line outside the code area. -/
def Core.relative (c : Core) (off : Int) : Word := c.seq.pc + word (4 * off)

def condBranch (f : SB) (c : Core) (test : Word → Word → Bool) : Res Core :=
  .ok (if test (c.sreg f.sa.toNat) (c.sreg f.sb.toNat) then c.branchTo (c.relative (sbValue f)) else c)

def opBeq (_ : Focus) (f : SB) (c : Core) : Res Core := condBranch f c fun a b => a == b
def opBne (_ : Focus) (f : SB) (c : Core) : Res Core := condBranch f c fun a b => a != b
def opBlt (_ : Focus) (f : SB) (c : Core) : Res Core := condBranch f c fun a b => decide (a.toInt < b.toInt)
def opBge (_ : Focus) (f : SB) (c : Core) : Res Core := condBranch f c fun a b => decide (b.toInt ≤ a.toInt)
def opBltn (_ : Focus) (f : SB) (c : Core) : Res Core := condBranch f c fun a b => decide (a.toNat < b.toNat)
def opBgen (_ : Focus) (f : SB) (c : Core) : Res Core := condBranch f c fun a b => decide (b.toNat ≤ a.toNat)

def opJmp (_ : Focus) (f : SJ) (c : Core) : Res Core := .ok (c.branchTo (c.relative (sjValue f)))
def opCall (_ : Focus) (f : SJ) (c : Core) : Res Core :=
  .ok ((c.putS 1 31 c.seq.succ).branchTo (c.relative (sjValue f)))
def opJr (_ : Focus) (f : SRRR) (c : Core) : Res Core := .ok (c.jumpTo (c.sreg f.sa.toNat))
def opRet (_ : Focus) (_ : SRRR) (c : Core) : Res Core := .ok (c.jumpTo (c.sreg 31))

def opLoopr (_ : Focus) (f : SB) (c : Core) : Res Core :=
  let n := c.sreg f.sa.toNat - 1
  let c' := c.putS 1 f.sa.toNat n
  .ok (if n != 0 then c'.branchTo (c.relative (sbValue f)) else c')

end Sys2Proof.Machine
end

