-- ==== Sys2Proof/Machine/SlotOps.lean ====
section
/-! DEFINITION. The operation of a slot by its instruction, as BUNDLE_ISSUE issues it: one row of the class maps
(R79 to R82) to its meaning. Events are no slot operations and do nothing here. -/

namespace Sys2Proof.Machine

/-- Issues one slot operation; `carried` is the M operation that a CPFOLLOW carries (R346). -/
def State.slotOp (carried : Option Instr) (fo : Focus) (i : Instr) (s : State) : Res State :=
  match i with
  | .nop f => s.liftCore fo (opNop fo f)
  | .add f => s.liftCore fo (opAdd fo f)
  | .sub f => s.liftCore fo (opSub fo f)
  | .and f => s.liftCore fo (opAnd fo f)
  | .or f => s.liftCore fo (opOr fo f)
  | .xor f => s.liftCore fo (opXor fo f)
  | .shl f => s.liftCore fo (opShl fo f)
  | .shr f => s.liftCore fo (opShr fo f)
  | .sha f => s.liftCore fo (opSha fo f)
  | .mul f => s.liftCore fo (opMul fo f)
  | .mulh f => s.liftCore fo (opMulh fo f)
  | .div f => s.liftCore fo (opDiv fo f)
  | .rem f => s.liftCore fo (opRem fo f)
  | .min f => s.liftCore fo (opMin fo f)
  | .max f => s.liftCore fo (opMax fo f)
  | .slt f => s.liftCore fo (opSlt fo f)
  | .sltn f => s.liftCore fo (opSltn fo f)
  | .addi f => s.liftCore fo (opAddi fo f)
  | .andi f => s.liftCore fo (opAndi fo f)
  | .ori f => s.liftCore fo (opOri fo f)
  | .xori f => s.liftCore fo (opXori fo f)
  | .shli f => s.liftCore fo (opShli fo f)
  | .shri f => s.liftCore fo (opShri fo f)
  | .shai f => s.liftCore fo (opShai fo f)
  | .lui f => s.liftCore fo (opLui fo f)
  | .ldb f => s.liftCore fo (opLdb fo f)
  | .ldbz f => s.liftCore fo (opLdbz fo f)
  | .ldh f => s.liftCore fo (opLdh fo f)
  | .ldhz f => s.liftCore fo (opLdhz fo f)
  | .ldw f => s.liftCore fo (opLdw fo f)
  | .ldwz f => s.liftCore fo (opLdwz fo f)
  | .ldd f => s.liftCore fo (opLdd fo f)
  | .stb f => s.liftCore fo (opStb fo f)
  | .sth f => s.liftCore fo (opSth fo f)
  | .stw f => s.liftCore fo (opStw fo f)
  | .std f => s.liftCore fo (opStd fo f)
  | .beq f => s.liftCore fo (opBeq fo f)
  | .bne f => s.liftCore fo (opBne fo f)
  | .blt f => s.liftCore fo (opBlt fo f)
  | .bge f => s.liftCore fo (opBge fo f)
  | .bltn f => s.liftCore fo (opBltn fo f)
  | .bgen f => s.liftCore fo (opBgen fo f)
  | .jmp f => s.liftCore fo (opJmp fo f)
  | .call f => s.liftCore fo (opCall fo f)
  | .jr f => s.liftCore fo (opJr fo f)
  | .ret f => s.liftCore fo (opRet fo f)
  | .loopr f => s.liftCore fo (opLoopr fo f)
  | .ctlrd f => s.liftCore fo (opCtlrd fo f)
  | .ctlwr f => s.liftCore fo (opCtlwr fo f)
  | .capld f => opCapld fo f s
  | .capldMemory f => opCapldMemory fo f s
  | .capst f => opCapst fo f s
  | .cnarrow f => s.liftCore fo (opCnarrow fo f)
  | .cquery f => opCquery fo f s
  | .gld f => opGld fo f s
  | .gst f => opGst fo f s
  | .phase f => s.liftCore fo (opPhase fo f)
  | .gbar f => opGbar fo f s
  | .fenceE f => s.liftCore fo (opFenceE fo f)
  | .idle f => s.liftCore fo (opIdle fo f)
  | .trap f => s.liftCore fo (opTrap fo f)
  | .tret f => s.liftCore fo (opTret fo f)
  | .halt f => s.liftCore fo (opHalt fo f)
  | .dbgbrk f => s.liftCore fo (opDbgbrk fo f)
  | .qpopS f => s.liftCore fo (opQpopS fo f)
  | .qpeekS f => s.liftCore fo (opQpeekS fo f)
  | .qpushS f => s.liftCore fo (opQpushS fo f)
  | .qstatS f => s.liftCore fo (opQstatS fo f)
  | .qflushS f => s.liftCore fo (opQflushS fo f)
  | .qpopV f => s.liftCore fo (opQpopV fo f)
  | .qpeekV f => s.liftCore fo (opQpeekV fo f)
  | .qpushV f => s.liftCore fo (opQpushV fo f)
  | .qstatV f => s.liftCore fo (opQstatV fo f)
  | .qflushV f => s.liftCore fo (opQflushV fo f)
  | .vadd f => s.liftCore fo (opVadd fo f)
  | .vsub f => s.liftCore fo (opVsub fo f)
  | .vmul f => s.liftCore fo (opVmul fo f)
  | .vmulh f => s.liftCore fo (opVmulh fo f)
  | .vmadd f => s.liftCore fo (opVmadd fo f)
  | .vmin f => s.liftCore fo (opVmin fo f)
  | .vmax f => s.liftCore fo (opVmax fo f)
  | .vabs f => s.liftCore fo (opVabs fo f)
  | .vneg f => s.liftCore fo (opVneg fo f)
  | .vand f => s.liftCore fo (opVand fo f)
  | .vor f => s.liftCore fo (opVor fo f)
  | .vxor f => s.liftCore fo (opVxor fo f)
  | .vshl f => s.liftCore fo (opVshl fo f)
  | .vshr f => s.liftCore fo (opVshr fo f)
  | .vsha f => s.liftCore fo (opVsha fo f)
  | .vcmp f => s.liftCore fo (opVcmp fo f)
  | .vsel f => s.liftCore fo (opVsel fo f)
  | .vfadd f => s.liftCore fo (opVfadd fo f)
  | .vfsub f => s.liftCore fo (opVfsub fo f)
  | .vfmul f => s.liftCore fo (opVfmul fo f)
  | .vfma f => s.liftCore fo (opVfma fo f)
  | .vfmin f => s.liftCore fo (opVfmin fo f)
  | .vfmax f => s.liftCore fo (opVfmax fo f)
  | .vfcmp f => s.liftCore fo (opVfcmp fo f)
  | .vcvt f => s.liftCore fo (opVcvt fo f)
  | .vquant f => s.liftCore fo (opVquant fo f)
  | .vdeq f => s.liftCore fo (opVdeq fo f)
  | .vexp2 f => s.liftCore fo (opVexp2 fo f)
  | .vlog2 f => s.liftCore fo (opVlog2 fo f)
  | .vrcp f => s.liftCore fo (opVrcp fo f)
  | .vrsq f => s.liftCore fo (opVrsq fo f)
  | .vred f => s.liftCore fo (opVred fo f)
  | .vperm f => s.liftCore fo (opVperm fo f)
  | .vshuf f => s.liftCore fo (opVshuf fo f)
  | .vbcast f => s.liftCore fo (opVbcast fo f)
  | .vbcastLane f => s.liftCore fo (opVbcastLane fo f)
  | .vextr f => s.liftCore fo (opVextr fo f)
  | .vld f => s.liftCore fo (opVld fo f)
  | .vst f => s.liftCore fo (opVst fo f)
  | .vlds f => s.liftCore fo (opVlds fo f)
  | .vsts f => s.liftCore fo (opVsts fo f)
  | .vgath f => s.liftCore fo (opVgath fo f)
  | .vscat f => s.liftCore fo (opVscat fo f)
  | .pand f => s.liftCore fo (opPand fo f)
  | .por f => s.liftCore fo (opPor fo f)
  | .pxor f => s.liftCore fo (opPxor fo f)
  | .pnot f => s.liftCore fo (opPnot fo f)
  | .ppop f => s.liftCore fo (opPpop fo f)
  | .pfirst f => s.liftCore fo (opPfirst fo f)
  | .accpop f => s.liftCore fo (opAccpop fo f)
  | .vordk f => s.liftCore fo (opVordk fo f)
  | .vdigit f => s.liftCore fo (opVdigit fo f)
  | .vcnt f => s.liftCore fo (opVcnt fo f)
  | .vnwatch f => s.liftCore fo (opVnwatch fo f)
  | .dnorm f => s.liftCore fo (opDnorm fo f)
  | .dexp f => s.liftCore fo (opDexp fo f)
  | .dexpRaw f => s.liftCore fo (opDexpRaw fo f)
  | .ddot f => s.liftCore fo (opDdot fo f)
  | .ddotm f => s.liftCore fo (opDdotm fo f)
  | .dscale f => s.liftCore fo (opDscale fo f)
  | .dscaleAdd f => s.liftCore fo (opDscaleAdd fo f)
  | .dscaleSub f => s.liftCore fo (opDscaleSub fo f)
  | .dset f => s.liftCore fo (opDset fo f)
  | .dadd f => s.liftCore fo (opDadd fo f)
  | .dneg f => s.liftCore fo (opDneg fo f)
  | .dmov f => s.liftCore fo (opDmov fo f)
  | .dzero f => s.liftCore fo (opDzero fo f)
  | .dnormq f => s.liftCore fo (opDnormq fo f)
  | .dnormqDev f => s.liftCore fo (opDnormqDev fo f)
  | .bmodeCompute f => opBmodeCompute fo f s
  | .bmodeScratch f => opBmodeScratch fo f s
  | .bplane f => opBplane fo f s
  | .bload f => opBload fo f s
  | .bprec f => opBprec fo f s
  | .bsparse f => opBsparse fo f s
  | .bsparseDense f => opBsparseDense fo f s
  | .boutl f => opBoutl fo f s
  | .btag f => opBtag fo f s
  | .brun f => opBrun fo f s
  | .bacc f => opBacc fo f s
  | .bstat f => opBstat fo f s
  | .bclr f => opBclr fo f s
  | .bclrAll f => opBclrAll fo f s
  | .bdir f => opBdir fo f s
  | .bzero f => opBzero fo f s
  | .accalloc f => opAccalloc fo f s
  | .accfree f => opAccfree fo f s
  | .accband f => opAccband fo f s
  | .accbandLocal f => opAccbandLocal fo f s
  | .accnorm f => opAccnorm fo f s
  | .accclr f => opAccclr fo f s
  | .accrd f => opAccrd fo f s
  | .accrdRemote f => opAccrdRemote fo f s
  | .accexp f => opAccexp fo f s
  | .accexpRemote f => opAccexpRemote fo f s
  | .acchead f => opAcchead fo f s
  | .accexport f => opAccexport fo f s
  | .cpset f => opCpset fo f s
  | .cpgo f => opCpgo fo f s
  | .cpwait f => s.liftCore fo (opCpwait fo f)
  | .cpmark f => opCpmark fo f s
  | .cpfollow f => s.liftCore fo (opCpfollow fo f carried)
  | .cpmcast f => opCpmcast fo f s
  | .cpmcastMsg f => opCpmcastMsg fo f s
  | .cpfill f => opCpfill fo f s
  | .cpshell f => opCpshell fo f s
  | .cpacc f => opCpacc fo f s
  | .cpaccOne f => opCpaccOne fo f s
  | .memrowCopy f => opMemrowCopy fo f s
  | .memrowZero f => opMemrowZero fo f s
  | .ewalk f => opEwalk fo f s
  | .cpinv f => opCpinv fo f s
  | .cpfence f => s.liftCore fo (opCpfence fo f)
  | .cpexportRead f => opCpexportRead fo f s
  | .cpexportCarry f => opCpexportCarry fo f s
  | .cpexportReceive f => opCpexportReceive fo f s
  | .cpcoll f => opCpcoll fo f s
  | .carry f => opCarry fo f s
  | .carryRemote f => opCarryRemote fo f s
  | .carryw f => opCarryw fo f s
  | .carryst f => opCarryst fo f s
  | _ => .ok s

end Sys2Proof.Machine
end

