-- ==== Sys2Proof/Machine/Stepping.lean ====
section
/-! DEFINITION. Stepped fields (R100 to R102, R176, R206): which register fields of an operation the steps
move, and the step registers. -/

namespace Sys2Proof.Machine

/-- A register field advanced; none when no encoding holds the number. -/
def stepReg (x : BitVec 9) (k : Int) : Option (BitVec 9) :=
  let v := (x.toNat : Int) + k
  if 0 ≤ v ∧ v < 512 then some (BitVec.ofNat 9 v.toNat) else none

def stepIf (on : Bool) (x : BitVec 9) (k : Int) : Option (BitVec 9) := if on then stepReg x k else some x

end Sys2Proof.Machine

namespace Sys2Proof

open Sys2Proof.Machine

def VR.step (f : VR) (dv : Steps) (d a b c : Bool) : Option VR :=
  match stepIf d f.vd dv.d, stepIf a f.va dv.a, stepIf b f.vb dv.b, stepIf c f.vc dv.c with
  | some vd, some va, some vb, some vc => some { f with vd := vd, va := va, vb := vb, vc := vc }
  | _, _, _, _ => none

def VI.step (f : VI) (dv : Steps) (a : Bool) : Option VI :=
  match stepReg f.vd dv.d, stepIf a f.va dv.a with
  | some vd, some va => some { f with vd := vd, va := va }
  | _, _ => none

def VM.step (f : VM) (dv : Steps) (a : Bool) : Option VM :=
  match stepReg f.vd dv.d, stepIf a f.va dv.a with
  | some vd, some va => some { f with vd := vd, va := va }
  | _, _ => none

/-- The operation with its register fields stepped. -/
def Instr.stepped (i : Instr) (dv : Steps) : Option Instr :=
  match i with
  | .vadd f => (f.step dv true true true false).map .vadd
  | .vsub f => (f.step dv true true true false).map .vsub
  | .vmul f => (f.step dv true true true false).map .vmul
  | .vmulh f => (f.step dv true true true false).map .vmulh
  | .vmadd f => (f.step dv true true true true).map .vmadd
  | .vmin f => (f.step dv true true true false).map .vmin
  | .vmax f => (f.step dv true true true false).map .vmax
  | .vabs f => (f.step dv true true false false).map .vabs
  | .vneg f => (f.step dv true true false false).map .vneg
  | .vand f => (f.step dv true true true false).map .vand
  | .vor f => (f.step dv true true true false).map .vor
  | .vxor f => (f.step dv true true true false).map .vxor
  | .vshl f => (f.step dv true true (!f.fn.getLsbD 0) false).map .vshl
  | .vshr f => (f.step dv true true (!f.fn.getLsbD 0) false).map .vshr
  | .vsha f => (f.step dv true true (!f.fn.getLsbD 0) false).map .vsha
  | .vcmp f => (f.step dv false true true false).map .vcmp
  | .vsel f => (f.step dv true true true false).map .vsel
  | .vfadd f => (f.step dv true true true false).map .vfadd
  | .vfsub f => (f.step dv true true true false).map .vfsub
  | .vfmul f => (f.step dv true true true false).map .vfmul
  | .vfma f => (f.step dv true true true true).map .vfma
  | .vfmin f => (f.step dv true true true false).map .vfmin
  | .vfmax f => (f.step dv true true true false).map .vfmax
  | .vfcmp f => (f.step dv false true true false).map .vfcmp
  | .vcvt f => (f.step dv true true false false).map .vcvt
  | .vquant f => (f.step dv true true true (f.fn.getLsbD 4)).map .vquant
  | .vdeq f => (f.step dv true true true false).map .vdeq
  | .vexp2 f => (f.step dv true true false false).map .vexp2
  | .vlog2 f => (f.step dv true true false false).map .vlog2
  | .vrcp f => (f.step dv true true false false).map .vrcp
  | .vrsq f => (f.step dv true true false false).map .vrsq
  | .vred f => (f.step dv true true false false).map .vred
  | .vperm f => (f.step dv true true true false).map .vperm
  | .vshuf f => (f.step dv true true (decide (f.fn.toNat < 4)) false).map .vshuf
  | .vextr f => (f.step dv true true true false).map .vextr
  | .accpop f => (f.step dv true false false false).map .accpop
  | .vordk f => (f.step dv true true false false).map .vordk
  | .vdigit f => (f.step dv true true false false).map .vdigit
  | .vcnt f => (f.step dv true true false false).map .vcnt
  | .vnwatch f => (f.step dv false true false false).map .vnwatch
  | .dnorm f => (f.step dv true true false false).map .dnorm
  | .dexp f => (f.step dv true true false false).map .dexp
  | .dexpRaw f => (f.step dv true true false false).map .dexpRaw
  | .ddot f => (f.step dv false true true false).map .ddot
  | .ddotm f => (f.step dv true true true false).map .ddotm
  | .dscale f => (f.step dv true true false false).map .dscale
  | .dscaleAdd f => (f.step dv true true true false).map .dscaleAdd
  | .dscaleSub f => (f.step dv true true true false).map .dscaleSub
  | .dset f => (f.step dv true true false false).map .dset
  | .dadd f => (f.step dv true true true false).map .dadd
  | .dneg f => (f.step dv true true false false).map .dneg
  | .dmov f => (f.step dv true true false false).map .dmov
  | .dzero f => (f.step dv true false false false).map .dzero
  | .dnormq f => (f.step dv false true false false).map .dnormq
  | .dnormqDev f => (f.step dv false true false false).map .dnormqDev
  | .vbcast f => (f.step dv false).map .vbcast
  | .vbcastLane f => (f.step dv true).map .vbcastLane
  | .vld f => (f.step dv false).map .vld
  | .vst f => (f.step dv false).map .vst
  | .vlds f => (f.step dv false).map .vlds
  | .vsts f => (f.step dv false).map .vsts
  | .vgath f => (f.step dv true).map .vgath
  | .vscat f => (f.step dv true).map .vscat
  | .qpopV f => ((stepReg f.vd dv.d).map fun r => (.qpopV { f with vd := r } : Instr))
  | .qpeekV f => ((stepReg f.vd dv.d).map fun r => (.qpeekV { f with vd := r } : Instr))
  | .qpushV f => ((stepReg f.vd dv.d).map fun r => (.qpushV { f with vd := r } : Instr))
  | .qstatV f => ((stepReg f.vd dv.d).map fun r => (.qstatV { f with vd := r } : Instr))
  | i => some i

/-- AR of the M operations whose description steps it (R268, R294). -/
def Instr.steppedRow : Instr → Option MF
  | .brun f | .bacc f | .accnorm f | .accclr f | .accrd f | .accrdRemote f | .accexp f | .accexpRemote f
  | .acchead f => some f
  | _ => none

/-- An operation with a field that its slot's step register moves (R100, R101). -/
def Instr.hasStep (i : Instr) : Bool :=
  match i with
  | .ldb _ | .ldbz _ | .ldh _ | .ldhz _ | .ldw _ | .ldwz _ | .ldd _ | .stb _ | .sth _ | .stw _ | .std _ | .gld _
  | .gst _ => true
  | .vld _ | .vst _ | .vlds _ | .vsts _ | .vgath _ | .vscat _ => true
  | .bload _ | .bsparse _ | .btag _ => true
  | .cpgo _ | .cpmcast _ | .cpfill _ | .cpshell _ | .cpacc _ | .cpaccOne _ | .memrowCopy _ | .memrowZero _
  | .carry _ | .carryRemote _ | .carryw _ => true
  | _ => i.steppedRow.isSome || i.stepped { d := 1, a := 1, b := 1, c := 1 } != some i

/-- The check of R102: row 6 of R76 on the stepped registers and rows. -/
def Instr.stepOk (i : Instr) (dv : Steps) : Bool :=
  (match i.stepped dv with
    | some j => j.rangesOk
    | none => false) &&
  match i.steppedRow with
  | some f => decide (0 ≤ (f.ar.toNat : Int) + dv.d) && decide ((f.ar.toNat : Int) + dv.d < 32)
  | none => true

end Sys2Proof

namespace Sys2Proof.Machine

/-- A signed field of a step register (R101). -/
def stepField (x hi lo : Nat) : Int := signExt (bits x hi lo) (hi + 1 - lo)

/-- The step register of a slot (R101). -/
def Core.stepOf (c : Core) (slot : Nat) : Steps :=
  let x := c.ctlNat (Ctl.stepS + slot)
  match slot with
  | 0 => { o := stepField x 31 0 }
  | 1 | 2 => {
    d := stepField x 9 0, a := stepField x 19 10, b := stepField x 29 20, c := stepField x 39 30
    o := stepField x 63 40 }
  | 3 => { a := stepField x 23 0, d := stepField x 31 24 }
  | _ => { a := stepField x 31 0, d := stepField x 63 32 }

/-- Steps add up as signed integers of 48 bits (R100). -/
def Steps.plus (x y : Steps) : Steps := {
  d := wrap48 (x.d + y.d), a := wrap48 (x.a + y.a), b := wrap48 (x.b + y.b), c := wrap48 (x.c + y.c)
  o := wrap48 (x.o + y.o) }

end Sys2Proof.Machine
end

