-- ==== Sys2Proof/Machine/Fetch.lean ====
section
/-! DEFINITION. Fetching and decoding bundles (R61 to R71, R76): instruction-cache lines, successors, the checks
of decode in their order, and what an issue would conflict with or read early (R97, R104, R105). -/

namespace Sys2Proof.Machine

/-! Lines (R68). -/

def lineNumber (a : Word) : Nat := a.toNat / 128

/-- A line lies in the code area of the loaded image (R38). -/
def State.inCode (s : State) (part line : Nat) : Bool :=
  match (s.part part).tt with
  | some t => decide (t.base + t.code ≤ 128 * line) && decide (128 * line + 128 ≤ t.base + t.code + t.codelen)
  | none => false

/-- A line is wanted: its fetch begins unless it is there, on its way, or has failed. -/
def Core.wantLine (c : Core) (p : Params) (now line : Nat) : Core :=
  if Tab.has c.icache line || Tab.has c.fetches line || c.badLines.contains line then c
  else { c with fetches := Tab.store c.fetches line (now + p.fetch) }

/-- The four lines after a line (R68). -/
def Core.prefetchNext (c : Core) (p : Params) (now line : Nat) : Core :=
  [1, 2, 3, 4].foldl (fun c k => c.wantLine p now (line + k)) c

def lineOfBytes (bs : List Byte) : BitVec 1024 := BitVec.ofNat 1024 (leNat bs)

/-- The lines that the relative branches of a line name (R68). -/
def branchLines (line : Nat) (x : BitVec 1024) : List Nat :=
  ((List.range 16).filter (startBit x)).filterMap fun i =>
    let b := posSyllable i
    let pc : Int := 128 * line + 4 * b
    let goes (off : Int) : Option Nat := if 0 ≤ pc + 4 * off then some ((pc + 4 * off).toNat / 128) else none
    match readSlots x b with
    | (0, .ok j) :: _ => match j with
      | .beq f | .bne f | .blt f | .bge f | .bltn f | .bgen f | .loopr f => goes (sbValue f)
      | .jmp f | .call f => goes (sjValue f)
      | _ => none
    | _ => none

/-- A line enters the cache of 512 lines; a full cache gives up one that is none of those to keep (log 16). -/
def Core.placeLine (c : Core) (keep : List Nat) (line : Nat) (x : BitVec 1024) : Core :=
  let kept := if c.icache.length < 512 || Tab.has c.icache line then c.icache
    else match c.icache.find? fun e => !keep.contains e.1 with
      | some e => Tab.drop c.icache e.1
      | none => c.icache
  { c with icache := Tab.store kept line x }

/-- INSTRUCTION_FETCH (R68): a line arrives, or cannot be fetched; a failure is looked at again when the line is
due (`State.forgetBad`). -/
def State.instructionFetch (s : State) (n line : Nat) : State :=
  let c := s.core n
  if !Tab.has c.fetches line || decide (s.now < Tab.look 0 c.fetches line) then s
  else
    let gone (c : Core) : Core := { c with fetches := Tab.drop c.fetches line }
    let bad (s : State) : State := s.onCore n fun c => { gone c with badLines := line :: c.badLines }
    if !s.inCode c.part line then bad s
    else match s.readVirtual (podOf n) c.part (128 * line) 128 .queue with
      | (.inr (.wait _), s) => s
      | (.inr _, s) => bad s
      | (.inl bs, s) =>
        let x := lineOfBytes bs
        s.onCore n fun c =>
          let c := (gone c).placeLine [lineNumber c.seq.pc] line x
          (branchLines line x).foldl (fun c l => c.wantLine s.params s.now l) c

/-- The line as the sequencer will find it: from the cache, or from memory. -/
def State.peekLine (s : State) (n line : Nat) : Option (BitVec 1024) :=
  let c := s.core n
  if Tab.has c.icache line then some (Tab.look 0 c.icache line)
  else if !s.inCode c.part line then none
  else match (s.readVirtual (podOf n) c.part (128 * line) 128).1 with
    | .inl bs => some (lineOfBytes bs)
    | .inr _ => none

/-- A line whose prefetch failed and that can be read by now is fetched anew when it is due (R392). -/
def State.forgetBad (s : State) (n line : Nat) : State :=
  if (s.core n).badLines.contains line && (s.peekLine n line).isSome then
    s.onCore n fun c => { c with badLines := c.badLines.filter fun l => l != line }
  else s

/-! Successors (R66). -/

def positionAddr (line i : Nat) : Word := BitVec.ofNat 64 (128 * line + 4 * posSyllable i)

/-- Where the sequencer goes after the bundle at syllable `b`, and whether that opens a new line. DESIGN
CHOICE (log 67): without a start position there, or while that line cannot be read, syllable 1 of that line, as R66 names
it in TRAPADDR. -/
def State.successor (s : State) (n line : Nat) (x : BitVec 1024) (b : Nat) : Word × Bool :=
  match nextStart x b with
  | some i => (positionAddr line i, false)
  | none =>
    match (s.peekLine n (line + 1)).bind firstStart with
    | some i => (positionAddr (line + 1) i, true)
    | none => (positionAddr (line + 1) 0, true)

/-! Targets of an issue (R97, R104, R105). -/

/-- The registers of an operand, as class and physical number (R170). -/
def Core.operandRegs (c : Core) (o : Operand) : List (RegClass × Nat) :=
  (List.range o.cnt).map fun k =>
    let r := o.num + k
    (o.cls, if o.cls = .vec then c.physV r else r)

/-- The detail of the write-conflict and early-read traps (R442). -/
def regDetail (r : RegClass × Nat) : Nat := r.2 + r.1.code * 2 ^ 16

def Core.writesOf (c : Core) (i : Instr) : List (RegClass × Nat) :=
  ((i.operands.filter (·.write)).map c.operandRegs).flatten
def Core.readsOf (c : Core) (i : Instr) : List (RegClass × Nat) :=
  ((i.operands.filter fun o => !o.write).map c.operandRegs).flatten

/-- The first later writer of a target that is written already, with that target; two writes to s0 are writes
to one register too. -/
def Core.conflictFrom (c : Core) : List (RegClass × Nat) → List (Nat × Instr) → Option (Nat × (RegClass × Nat))
  | _, [] => none
  | seen, (slot, i) :: rest =>
    let ws := c.writesOf i
    match ws.find? seen.contains with
    | some r => some (slot, r)
    | none => c.conflictFrom (seen ++ ws) rest

/-- What a bundle with ROT writes (R104). -/
def rotTargets (rot : Bool) : List (RegClass × Nat) := if rot then [(.ctl, Ctl.rrb), (.ctl, Ctl.spred)] else []

/-- The trap of R105 for a set of operations in slot order. At an issue TRAPDET holds 7, the row whose check is
repeated (R105); at decode it names the target in the layout of R442 (log 28). -/
def Core.conflictTrap (c : Core) (issue rot : Bool) (l : List (Nat × Instr)) : Option Trap :=
  (c.conflictFrom (rotTargets rot) l).map fun x =>
    { cause := Cause.writeConflict, det := BitVec.ofNat 64 (if issue then 7 else regDetail x.2), slot := x.1 }

/-- PHASE, GBAR, TRAP, TRET, HALT and DBGBRK are never suppressed (R175). -/
def neverSuppressed : Instr → Bool
  | .phase _ | .gbar _ | .trap _ | .tret _ | .halt _ | .dbgbrk _ => true
  | _ => false

/-- What a result in flight writes (R97); a conversion's report to NUMSTAT writes it unless it is empty. DESIGN
CHOICE (log 67): a discarded write to s0 is no result in flight. -/
def WriteBack.target : WriteBack → List (RegClass × Nat)
  | .scalar r _ => if r = 0 then [] else [(.scalar, r)]
  | .cap r _ => [(.cap, r)]
  | .vec r _ _ => [(.vec, r)]
  | .pred r _ _ => [(.pred, r)]
  | .dir r _ => [(.dir, r)]
  | .norm r _ => [(.norm, r)]
  | .ctlWrite n _ => if n = 0 then [(.ctl, 0), (.flag, 0)] else [(.ctl, n)]
  | .rotate n _ => [(.ctl, n)]
  | .flagQ _ => [(.flag, 0)]
  | .numstat sat nan z => if sat || nan || z != 0 then [(.ctl, Ctl.numstat)] else []
  | _ => []

def capsIf (on : Bool) (n : BitVec 4) : List (RegClass × Nat) := if on then [(.cap, n.toNat)] else []

/-- The source, and the destination, of the descriptor that an operation's channel holds is device memory. -/
def Core.kindsOf (c : Core) (f : CF) : Bool × Bool :=
  match (c.chan f.ch.toNat).desc with
  | some d => (d.skind == 1, d.dkind == 1)
  | none => (false, false)

/-- A capability that an operation of the table of R341 uses, of those its fields name: the descriptor that its channel
holds decides for CPGO, CPMCAST, CPFILL and CPSHELL. -/
def Core.usesCaps (c : Core) : Instr → List (RegClass × Nat)
  | .cpgo f => capsIf (c.kindsOf f).1 f.ca ++ capsIf (c.kindsOf f).2 f.cb
  | .cpmcast f | .cpshell f => capsIf (c.kindsOf f).1 f.ca
  | .cpfill f => capsIf (c.kindsOf f).2 f.cb
  | i => (c.readsOf i).filter fun r => r.1 == .cap

/-- What an operation reads at its issue (R97): the registers its fields name, those of the M operation that a
CPFOLLOW carries (R346), then, DEDUCED (log 28), RRB when it names a rotating register (R170), SPRED when its slot is
guarded (R175), and its slot's step register when a repeat or a re-issue steps one of its fields (R100). -/
def Core.readsAt (c : Core) (carried : Option Instr) (repeated : Bool) (slot : Nat) (i : Instr) :
    List (RegClass × Nat) :=
  let named := ((c.readsOf i).filter fun r => r.1 != .cap) ++ c.usesCaps i
  let follow := match i, carried with
    | .cpfollow _, some j => c.readsOf j
    | _, _ => []
  let rrb := if i.operands.any fun o => o.cls == .vec && decide (256 ≤ o.num) then [(RegClass.ctl, Ctl.rrb)] else []
  let spred := if (c.ctlNat Ctl.spred).testBit (24 + slot) && !neverSuppressed i then [(RegClass.ctl, Ctl.spred)] else []
  let step := if repeated && i.hasStep then [(RegClass.ctl, Ctl.stepS + slot)] else []
  named ++ follow ++ rrb ++ spred ++ step

/-- The trap of R97 for operations with what they read: the first slot that reads a register with a result in flight,
and the first such register that it reads (log 28). -/
def Core.earlyTrap (c : Core) (l : List (Nat × List (RegClass × Nat))) : Option Trap :=
  if c.ctlBits Ctl.chkmode 0 0 = 0 then none
  else
    let busy := (c.seq.flight.map fun e => e.wb.target).flatten
    l.findSome? fun x => (x.2.find? busy.contains).map fun r =>
      { cause := Cause.earlyRead, det := BitVec.ofNat 64 (regDetail r), slot := x.1 }

/-! Decode checks (R76). -/

structure Bundle where
  head : Head
  ops  : List (Nat × Instr)
  deriving DecidableEq, Repr

/-- A trap of a decode check: row, cause and slot. -/
def rowTrap (cause row slot : Nat) : Trap := { cause := cause, det := BitVec.ofNat 64 row, slot := slot }

/-- The S operations that may not repeat and leave no sticky operation (R98, R103). -/
def noSticky : Instr → Bool
  | .beq _ | .bne _ | .blt _ | .bge _ | .bltn _ | .bgen _ | .jmp _ | .call _ | .jr _ | .ret _ | .loopr _
  | .phase _ | .gbar _ | .trap _ | .tret _ | .halt _ | .dbgbrk _ => true
  | _ => false

def isFollow : Instr → Bool
  | .cpfollow _ => true
  | _ => false

/-- The operations a CPFOLLOW may carry (R346). -/
def carriable : Instr → Bool
  | .brun _ | .bacc _ | .bplane _ => true
  | _ => false

/-- The slot of a CPFOLLOW that R346 refuses. DESIGN CHOICE (log 69): R76 gives this check no row; the model makes
it between rows 5 and 6, and TRAPDET is 0. -/
def followBad (ops : List (Nat × Instr)) : Option Nat :=
  match ops.filter fun x => isFollow x.2 with
  | [] => none
  | [x] => if ops.any fun y => y.1 == 3 && carriable y.2 then none else some x.1
  | _ => some 5

/-- The operations that issue from their own slots: an M operation that CPFOLLOW carries does not. -/
def ownSlots (ops : List (Nat × Instr)) : List (Nat × Instr) :=
  if ops.any fun x => isFollow x.2 then ops.filter fun x => x.1 != 3 else ops

/-- The first slot whose operation fails a check. -/
def firstSlot (l : List SlotRead) (bad : Except DecodeError Instr → Bool) : Option Nat :=
  (l.find? fun x => bad x.2).map (·.1)

def failsRow4 : Except DecodeError Instr → Bool
  | .error .unassigned => true
  | _ => false

def failsRow5 (rep : Nat) : Except DecodeError Instr → Bool
  | .error .reserved => true
  | .ok i => !i.fieldsOk || (rep != 0 && noSticky i)
  | _ => false

def failsRow6 : Except DecodeError Instr → Bool
  | .ok i => !i.rangesOk
  | _ => false

def okOps (l : List SlotRead) : List (Nat × Instr) :=
  l.filterMap fun x => match x.2 with
    | .ok i => some (x.1, i)
    | .error _ => none

/-- Decodes the bundle at syllable `b` of a line: rows 2 to 7 of R76 in order. -/
def Core.decodeBundle (c : Core) (x : BitVec 1024) (b : Nat) : Bundle ⊕ Trap :=
  let h := syllable x b
  let head := readHead h
  let reads := readSlots x b
  let ops := okOps reads
  if !wellPlaced x b then .inr (rowTrap Cause.illegalOperation 2 6)
  else if h.extractLsb' 22 10 ≠ 0 then .inr (rowTrap Cause.illegalOperation 3 6)
  else match firstSlot reads failsRow4 with
  | some k => .inr (rowTrap Cause.illegalOperation 4 k)
  | none =>
  match firstSlot reads (failsRow5 head.rep) with
  | some k => .inr (rowTrap Cause.illegalOperation 5 k)
  | none =>
  match followBad ops with
  | some k => .inr (rowTrap Cause.illegalOperation 0 k)
  | none =>
  match firstSlot reads failsRow6 with
  | some k => .inr (rowTrap Cause.illegalOperand 6 k)
  | none =>
  match c.conflictTrap false head.rot (ownSlots ops) with
  | some t => .inr t
  | none => .inl { head := head, ops := ops }

/-- The bundle at the program counter, when its line is in the cache and it decodes. -/
def Core.bundleHere (c : Core) : Option Bundle :=
  let line := lineNumber c.seq.pc
  if Tab.has c.icache line then
    match c.decodeBundle (Tab.look 0 c.icache line) (c.seq.pc.toNat % 128 / 4) with
    | .inl b => some b
    | .inr _ => none
  else none

/-- The M operation that a CPFOLLOW of the bundle under way carries (R346). -/
def Core.carriedOp (c : Core) : Option Instr :=
  match c.bundleHere with
  | some b => (b.ops.find? fun x => x.1 == 3).map (·.2)
  | none => none

end Sys2Proof.Machine
end

