-- ==== Sys2Proof/Machine/Issue.lean ====
section
/-! DEFINITION. BUNDLE_ISSUE (R36, R71): what one cycle of a sequencer does. Waits and their records (R107 to
R113), traps at the bundle, sticky re-issue and stepping (R98 to R102), suppression (R175), the end of a bundle
(R66, R67, R171, R454), the stops of pre-emption and debug (R457, R468), and the delivery of faults (R450). -/

namespace Sys2Proof.Machine

def State.onSeq (s : State) (n : Nat) (f : Seq → Seq) : State := s.onCore n fun c => { c with seq := f c.seq }

/-! Deviation records (R109, R110). -/

/-- The place of a slot in the order of R109: fetch before S. -/
def slotOrder (k : Nat) : Nat := if k = 6 then 0 else k + 1

/-- The cause that a record names: that of the first slot. -/
def firstCause : List WaitCause → WaitCause
  | [] => { code := 0, slot := 7, detail := 0 }
  | w :: r => r.foldl (fun m x => if slotOrder x.slot < slotOrder m.slot then x else m) w

def Core.deviationRecord (c : Core) (w : Waiting) (trapped : Bool) : DevRecord :=
  let x := firstCause w.causes
  BitVec.ofNat 256 (c.seq.pc.toNat + c.scycle * 2 ^ 64 + w.lost * 2 ^ 96 + c.lcore * 2 ^ 128 + c.num * 2 ^ 136 +
    (if trapped then 2 ^ 143 else 0) + x.code * 2 ^ 144 + x.slot * 2 ^ 148 + c.seq.idx % 256 * 2 ^ 152 +
    c.pidx * 2 ^ 160 + x.detail % 2 ^ 16 * 2 ^ 176 + c.starts * 2 ^ 192)

/-- Ends a wait: its record goes to the log, to DEVCNT and to the Abacus. -/
def Core.logDeviation (c : Core) (now : Nat) (trapped : Bool) : Core :=
  match c.seq.wait with
  | none => c
  | some w =>
    let r := c.deviationRecord w trapped
    let c := c.setCtlBits Ctl.devcnt 31 0 (c.ctlBits Ctl.devcnt 31 0 + 1)
    ({ c with devLog := (r :: c.devLog).take 64, seq := { c.seq with wait := none } } : Core).event now 0 r.toNat

/-- A trap at the bundle that is due; a wait ends with it (R109). -/
def State.trapHere (s : State) (n : Nat) (t : Trap) : State :=
  (s.onCore n fun c => c.logDeviation s.now true).takeTrap n t

/-- SLACK_EXHAUSTED (R112): the waiting bundle traps in place of the cycle that no slack absorbs. DESIGN CHOICE (log 81): of
several causes TRAPDET and TRAPSLOT name the one that a record would, the first slot's. -/
def State.slackExhausted (s : State) (n : Nat) : State :=
  let c := s.core n
  match c.seq.wait with
  | none => s
  | some w =>
    if c.seq.run != .running || c.svc || c.strict || c.ctlBits Ctl.devslack 31 0 != 0 then s
    else
      let x := firstCause w.causes
      s.trapHere n { cause := Cause.slackExhausted, det := BitVec.ofNat 64 x.code, slot := x.slot }

/-! Stops. -/

/-- A core stops for a pre-emption and drains (R457, R458). The wait of its bundle ends without a record. -/
def State.stopFor (s : State) (n kind : Nat) : State :=
  let s := s.onCore n fun c =>
    let c := (c.drainAll s.now).haltCopies
    { c with seq := { c.seq with run := .stopped kind, wait := none, access := none, safePt := false } }
  s.trace n 5 0

/-- DEBUG_STOP (R468): the core drains and halts at the bundle boundary. -/
def State.debugStop (s : State) (n : Nat) : State :=
  let c := s.core n
  if !c.seq.haltReq || c.seq.halted then s
  else
    let s := s.onCore n fun c =>
      let c := c.drainAll s.now
      { c with seq := { c.seq with halted := true, haltReq := false, wait := none, access := none } }
    s.trace n 6 0

/-! The bundle that is due. -/

/-- What stands at the program counter: a decoded bundle, a line to wait for, or a trap. -/
inductive Ahead where
  | bundle (b : Bundle)
  | miss
  | trap (t : Trap)
  deriving DecidableEq, Repr

/-- The conditions of R67 on a branch target in its line. -/
def branchOk (x : BitVec 1024) (t : Word) : Bool :=
  t.toNat % 4 == 0 && match syllablePos (t.toNat % 128 / 4) with
    | some i => startBit x i && targetBit x i
    | none => false

/-- A target in a register has zero in its bits 63:57 and 1:0 (R147). -/
def registerTargetOk (t : Word) : Bool := t.toNat % 4 == 0 && decide (t.toNat < 2 ^ 57)

/-- A sequential successor begins at a start position. -/
def startOk (x : BitVec 1024) (t : Word) : Bool :=
  match syllablePos (t.toNat % 128 / 4) with
  | some i => startBit x i
  | none => false

/-- The address that a failed fetch names (R66, R68): syllable 1 of a line that is entered in address order, whose START
bits nobody has examined, and else the bundle's own. -/
def Seq.lineStart (q : Seq) : Word :=
  match q.arrive with
  | .newLine => positionAddr (lineNumber q.pc) 0
  | _ => q.pc

/-- The bundle that is due (R65 to R68, R76), with the core as its arrival leaves it. -/
def Core.ahead (c : Core) : Ahead × Core :=
  let pc := c.seq.pc
  let line := lineNumber pc
  if c.seq.arrive == .register && !registerTargetOk pc then
    (.trap { cause := Cause.unmarkedTarget, det := pc, slot := 6 }, c)
  else if !Tab.has c.icache line then
    if c.badLines.contains line then
      let at_ := c.seq.lineStart
      (.trap { cause := Cause.fetchFault, det := at_, slot := 6 },
        { c with badLines := c.badLines.filter (fun l => l != line), seq := { c.seq with pc := at_ } })
    else (.miss, c)
  else
    let x := Tab.look 0 c.icache line
    let decoded (c : Core) : Ahead × Core :=
      let b := c.seq.pc.toNat % 128 / 4
      let rep := (readHead (syllable x b)).rep
      let c := if c.seq.begun then c
        else { c with seq := { c.seq with begun := true, idx := 0, rem := rep + 1 } }
      match c.decodeBundle x b with
      | .inl b => (.bundle b, c)
      | .inr t => (.trap t, c)
    match c.seq.arrive with
    | .branch | .register =>
      if branchOk x pc then decoded { c with seq := { c.seq with arrive := .sequential } }
      else (.trap { cause := Cause.unmarkedTarget, det := pc, slot := 6 }, c)
    | .newLine =>
      match firstStart x with
      | some i => decoded { c with seq := { c.seq with pc := positionAddr line i, arrive := .sequential } }
      | none => (.trap (rowTrap Cause.illegalOperation 2 6), c)
    | .sequential =>
      if c.seq.begun || startOk x pc then decoded c
      else (.trap (rowTrap Cause.illegalOperation 2 6), c)

/-! The operations of an issue (R98 to R102, R175). -/

/-- One operation of an issue: its slot, the operation as encoded and as stepped, the sum of its steps, and
whether it is suppressed. -/
structure IssueOp where
  slot : Nat
  base : Instr
  op   : Instr
  dv   : Steps
  off  : Bool
  deriving DecidableEq, Repr

/-- A slot is suppressed by the stage bit that SPRED selects for it (R174, R175). -/
def Core.suppressed (c : Core) (slot : Nat) (i : Instr) : Bool :=
  let x := c.ctlNat Ctl.spred
  x.testBit (24 + slot) && !neverSuppressed i && !x.testBit (bits x (33 + 4 * slot) (30 + 4 * slot))

/-- The operation that a slot issued last, with its steps (R98, R100). -/
def Core.lastOp (c : Core) (slot : Nat) : Option Sticky :=
  if Tab.has c.seq.made slot then some (Tab.look { op := .bundleIssue, dv := {} } c.seq.made slot)
  else if c.svc then (if slot = 0 then c.seq.svcSticky else none)
  else Tab.look none c.seq.sticky slot

/-- The sticky operation that an absent slot re-issues (R99, R449). -/
def Core.reissue (c : Core) (b : Bundle) (slot : Nat) : Option Sticky :=
  if b.head.hush || c.svc || b.head.present.getLsbD slot then none else Tab.look none c.seq.sticky slot

def Core.issueOp (c : Core) (slot : Nat) (i : Instr) (dv : Steps) : IssueOp :=
  { slot := slot, base := i, op := (i.stepped dv).getD i, dv := dv, off := c.suppressed slot i }

/-- The operations of the next issue of a bundle, in slot order. -/
def Core.issueOps (c : Core) (b : Bundle) : List IssueOp :=
  (List.range 6).filterMap fun k =>
    match (ownSlots b.ops).find? fun x => x.1 == k with
    | some (_, i) =>
      let dv : Steps := if c.seq.idx = 0 then {} else match c.lastOp k with
        | some st => st.dv.plus (c.stepOf k)
        | none => {}
      some (c.issueOp k i dv)
    | none => (c.reissue b k).map fun st => c.issueOp k st.op (st.dv.plus (c.stepOf k))

/-- The first check at issue that fails before any operation acts (R97, R102, R105). DEDUCED (log 68): ROT
conflicts with the operations its bundle holds, at decode; a sticky re-issue of CTLWR to RRB or SPRED issues. -/
def Core.issueTrap (c : Core) (b : Bundle) (ops : List IssueOp) : Option Trap :=
  let on := ops.filter fun o => !o.off
  match on.find? fun o => !o.base.stepOk o.dv with
  | some o => some (rowTrap Cause.illegalOperand 6 o.slot)
  | none =>
    let l := on.map fun o => (o.slot, o.op)
    match c.conflictTrap true false l with
    | some t => some t
    | none =>
      if b.head.early then none
      else
        let carried := (b.ops.find? fun x => x.1 == 3).map (·.2)
        c.earlyTrap (on.map fun o =>
          (o.slot, c.readsAt carried (c.seq.idx != 0 || !b.head.present.getLsbD o.slot) o.slot o.op))

/-- The result of one attempt: the state, the causes to wait for, and the trap. -/
structure Attempt where
  s    : State
  need : List WaitCause := []
  trap : Option Trap := none
  deriving DecidableEq, Repr

/-- The operations act in slot order, each on what the ones before it left; a trap ends the attempt. -/
def State.runOps (carried : Option Instr) (n : Nat) (s : State) (ops : List IssueOp) : Attempt :=
  ops.foldl (fun (a : Attempt) o =>
    if a.trap.isSome || o.off then a
    else match State.slotOp carried { core := n, slot := o.slot, dv := o.dv, now := a.s.now } o.op a.s with
      | .ok t => { a with s := t }
      | .trap t => { a with trap := some t }
      | .wait w t => { a with s := t, need := a.need ++ w }) { s := s }

/-! Waiting (R107, R108, R112, R113). -/

/-- What an attempt that waits leaves: requests under way in the translation units, barrier arrivals, the open
access, and draws set aside (R161, R165, R226). -/
def State.keepAttempt (s t : State) (n : Nat) : State :=
  let d := t.core n
  { s with units := t.units, out := t.out } |>.onCore n fun c =>
    let have_ := c.drawsSeen
    let short := d.q.need
    { c with
      seq := { c.seq with arrivals := d.seq.arrivals, access := d.seq.access }
      q := if short = 0 then c.q else
        { c.q with aside := have_, draws := [], need := have_.length + short } }

/-- One cycle of a wait. Barrier waits are looked at again once every core has tried (R113, R165). -/
def State.waitCycle (s : State) (n : Nat) (w : List WaitCause) : State :=
  let c := s.core n
  if s.stage = 1 && w.any (fun x => x.code == 3) then s
  else
    let s := s.onSeq n fun q => { q with acted := s.now + 1 }
    if c.svc then s
    else if c.seq.preempt && w.any (fun x => x.code == 1 || x.code == 3) then s.stopFor n 2
    else
      let lost := match c.seq.wait with
        | some x => x.lost
        | none => 0
      let s := s.onSeq n fun q => { q with wait := some { lost := lost, causes := w } }
      if c.strict then
        let x := firstCause w
        s.trapHere n { cause := Cause.scheduleDeviation, det := BitVec.ofNat 64 x.code, slot := x.slot }
      else if c.ctlBits Ctl.devslack 31 0 = 0 then s.slackExhausted n
      else s.onCore n fun c =>
        let c := c.setCtlBits Ctl.devslack 31 0 (c.ctlBits Ctl.devslack 31 0 - 1)
        let c := c.setCtlBits Ctl.devcnt 63 32 (satAdd32 (c.ctlBits Ctl.devcnt 63 32) 1)
        { c with seq := { c.seq with wait := some { lost := satAdd32 lost 1, causes := w } } }

/-! The end of an issue and of a bundle. -/

/-- The rotation of ROT from the values in force (R171, R174), visible at the next bundle's first issue (R94): after the
planned stalls that pass before it, of which a bundle that ends its code has none. -/
def Core.rotate (c : Core) (stall : Nat) : Core :=
  let x := c.ctlNat Ctl.spred
  let cnt := bits x 23 16
  let fill := if cnt = 0 then 0 else 1
  let x := setBits (setBits x 15 0 (2 * bits x 15 0 + fill)) 23 16 (cnt - fill)
  let base := (c.ctlBits Ctl.rrb 6 0 + 127) % 128
  (c.emit (1 + stall) (.rotate Ctl.rrb (BitVec.ofNat 64 base))).emit (1 + stall) (.rotate Ctl.spred (BitVec.ofNat 64 x))

/-- What the operation of one slot leaves for later issues (R98, R175). -/
def Core.keepSticky (c : Core) (o : IssueOp) : Core :=
  let st : Sticky := { op := o.base, dv := o.dv }
  let kept := if noSticky o.base && !o.off then none else some st
  let q := { c.seq with made := Tab.store c.seq.made o.slot st }
  { c with seq :=
    if c.svc then { q with svcSticky := if o.slot = 0 then kept else q.svcSticky }
    else { q with sticky := Tab.store q.sticky o.slot kept } }

/-- IDLE names slots at the end of its issue (R166). -/
def Core.applyIdle (c : Core) (o : IssueOp) : Core :=
  match o.op with
  | .idle f => if o.off then c else c.idleSlots (idleMask f)
  | _ => c

def Core.countBusy (c : Core) (o : IssueOp) : Core :=
  if o.off then c
  else { c with bal := { c.bal with busy := Tab.store c.bal.busy o.slot (satAdd32 (Tab.look 0 c.bal.busy o.slot) 1) } }

/-- The issue has been made: sticky operations, counts, the record of a wait, the schedule cycle. -/
def Core.afterIssue (c : Core) (now : Nat) (p : Params) (b : Bundle) (ops : List IssueOp) : Core :=
  let last := decide (c.seq.rem ≤ 1)
  let ends := c.seq.ended || c.seq.tret || c.seq.haltOp
  let c := if b.head.rot && last then c.rotate (if ends then 0 else b.head.stall) else c
  let c := ops.foldl Core.keepSticky c
  let c := ops.foldl Core.applyIdle c
  let c := ops.foldl Core.countBusy c
  let c := c.logDeviation now false
  let sched := c.scycle
  let c := if c.svc then c else c.setCtlBits Ctl.scyc 31 0 (c.scycle + 1)
  let c := if c.seq.ended then { c with bal := { c.bal with phaseAt := now + 1, sched := sched } } else c
  let line := lineNumber c.seq.pc
  let c := c.prefetchNext p now line
  { c with
    q := { c.q with need := 0 }
    seq := { c.seq with
      passed := true, idx := c.seq.idx + 1, rem := c.seq.rem - 1, last := c.seq.pc, access := none
      stall := b.head.stall, safePt := last && b.head.safe && !c.svc } }

/-- The bundle that a core is due to issue (R450): its address and its remaining issues. DESIGN CHOICE (log 67): REM
is 0, for all issues of its encoding, while its line cannot be read or holds no start position there. -/
def State.dueAt (s : State) (n : Nat) : Word × Nat :=
  let q := (s.core n).seq
  if q.begun then (q.pc, q.rem)
  else match s.peekLine n (lineNumber q.pc) with
    | none => (q.pc, 0)
    | some x =>
      let pc := match q.arrive, firstStart x with
        | .newLine, some i => positionAddr (lineNumber q.pc) i
        | _, _ => q.pc
      if startOk x pc then (pc, (readHead (syllable x (pc.toNat % 128 / 4))).rep + 1) else (pc, 0)

/-- Delivers a fault at the bundle that is due (R450). -/
def State.deliverDue (s : State) (n : Nat) (f : FaultRec) : State :=
  let d := s.dueAt n
  s.deliverFault n f d.1 d.2 (s.core n).seq.idx

/-- How a return with MOVED = 0 arrives (R67, R452). DESIGN CHOICE (log 67): the bundle's TARGET is not examined; at
syllable 1 of a line with no issue begun, the line's lowest start position is due, as before the trap (R66). -/
def returnArrival (addr : Word) (rem : Nat) : Arrival :=
  if rem = 0 ∧ addr = positionAddr (lineNumber addr) 0 then .newLine else .sequential

/-- The return from service code (R452), at the end of the bundle that holds TRET. -/
def State.returnFromService (s : State) (n : Nat) : State :=
  let s := s.onCore n fun c =>
    let moved := c.ctlBits Ctl.tstat 7 7 == 1
    let addr := c.ctlOf Ctl.trapaddr
    let rem := c.ctlBits Ctl.traprep 7 0
    let idx := c.ctlBits Ctl.traprep 15 8
    let c := c.setCtlBits Ctl.tstat 0 0 0
    let c := c.setCtlBits Ctl.scyc 31 0 (c.ctlBits Ctl.trapcyc 31 0)
    let parked := c.seq.parked
    let c := { c with seq := { c.seq with parked := false } }
    if moved then { c with seq := c.seq.goTo addr .branch }
    else if parked then { c with seq := { c.seq.goTo addr .sequential with run := .atPhase, ended := true } }
    else { c with seq := { c.seq.goTo addr (returnArrival addr rem) with
      begun := decide (rem ≠ 0), rem := rem, idx := idx } }
  let c := s.core n
  match c.seq.pending with
  | [] => s
  | f :: r =>
    let s := s.onCore n fun c => { c with seq := { c.seq with pending := r } }
    if c.seq.run == .atPhase then s.deliverAtPhase n f else s.deliverDue n f

/-- The last issue of a bundle is done: HALT, TRET, PHASE, the branch taken, or the successor. -/
def State.endBundle (s : State) (n : Nat) (stall : Nat) : State :=
  let c := s.core n
  if c.seq.haltOp then s.abortPhase c.part
  else if c.seq.tret then s.returnFromService n
  else if c.seq.ended then s.onSeq n fun q => { q with run := .atPhase, stall := 0, made := [], begun := false }
  else
    let next (q : Seq) (a : Word) (by_ : Arrival) : Seq := { q.goTo a by_ with after := q.after, stall := stall }
    s.onSeq n fun q =>
      match q.redirect with
      | some (t, reg) => next q t (if reg then .register else .branch)
      | none => next q q.succ (if q.succNew then .newLine else .sequential)

/-- Where the sequencer goes on after the bundle at its program counter; CALL links it (R148). -/
def State.findSuccessor (s : State) (n : Nat) : State :=
  let c := s.core n
  let line := lineNumber c.seq.pc
  let x := Tab.look 0 c.icache line
  let r := s.successor n line x (c.seq.pc.toNat % 128 / 4)
  s.onSeq n fun q => { q with succ := r.1, succNew := r.2 }

/-- One attempt to issue a decoded bundle. -/
def State.issueBundle (s : State) (n : Nat) (b : Bundle) : State :=
  let acts (s : State) : State := s.onSeq n fun q => { q with acted := s.now + 1 }
  let c := s.core n
  let holdsTret := b.ops.any fun x => match x.2 with
    | .tret _ => true
    | _ => false
  if c.svc && b.head.present != 1#6 then (acts s).trapHere n (rowTrap Cause.illegalOperation 0 6)
  else if c.svc && c.seq.preempt && holdsTret then (acts s).stopFor n 3
  else
    let ops := c.issueOps b
    match c.issueTrap b ops with
    | some t => (acts s).trapHere n t
    | none =>
      let s := s.findSuccessor n
      let carried := (b.ops.find? fun x => x.1 == 3).map (·.2)
      let a := State.runOps carried n (s.onCore n fun c => { c with q := { c.q with need := 0, owed := 0 } }) ops
      match a.trap with
      | some t => (acts s).trapHere n t
      | none =>
        if a.need.isEmpty then
          let t := acts (a.s.onCore n fun c => c.afterIssue s.now s.params b ops)
          if (t.core n).seq.rem = 0 then t.endBundle n b.head.stall else t
        else (s.keepAttempt a.s n).waitCycle n a.need

/-- The wait for a line that is not in the cache (R68). -/
def State.fetchWait (s : State) (n : Nat) : State :=
  let s := s.onCore n fun c => c.wantLine s.params s.now (lineNumber c.seq.pc)
  s.waitCycle n [{ code := 5, slot := 6, detail := 0 }]

/-- PHASE_OVERRUN (R51): the LENGTH that a core's SCYC has reached without PHASE. DESIGN CHOICE (log 67): a planned
stall that passes LENGTH leaves the trap to the next bundle. -/
def State.overrun (s : State) (n : Nat) : Option Nat :=
  let c := s.core n
  match (s.part c.part).run with
  | some r =>
    let l := ((s.phaseOf c).grades.getD r.grade {}).length
    if !c.svc && decide (l ≤ c.scycle) then some l else none
  | none => none

/-- What stands before the bundle that is due: a replay of a soft error, the fault of its own access, then the
phase-overrun trap, the fetch and the bundle itself. DESIGN CHOICE (log 81): the fault of an access that service code
made is delivered at its bundle too (R161), though R450 makes a fault that arrives in service code pending. DESIGN CHOICE (log 67): the overrun, which does not depend on
what stands at the program counter, comes before the traps of fetch and decode. -/
def State.attempt (s : State) (n : Nat) : State :=
  let c := s.core n
  match c.seq.replay with
  | some (cause, det) =>
    let s := s.onSeq n fun q => { q with replay := none }
    s.waitCycle n [{ code := cause, slot := if cause = 5 then 6 else 0, detail := det }]
  | none =>
    let failed := match c.seq.access with
      | some a => if a.ready then a.fault else none
      | none => none
    match failed with
    | some f =>
      let s := s.onCore n fun c => { c.logDeviation s.now true with
        seq := { (c.logDeviation s.now true).seq with access := none, acted := s.now + 1 } }
      s.deliverDue n f
    | none =>
    match s.overrun n with
    | some l =>
      let d := s.dueAt n
      (s.onSeq n fun q => { q with acted := s.now + 1, pc := d.1, rem := d.2 }).trapHere n
        { cause := Cause.phaseOverrun, det := BitVec.ofNat 64 l, slot := 7 }
    | none =>
      let s := s.forgetBad n (lineNumber c.seq.pc)
      let r := (s.core n).ahead
      let s := s.setCore n r.2
      match r.1 with
      | .miss =>
        if s.inCode c.part (lineNumber c.seq.pc) then s.fetchWait n
        else (s.onSeq n fun q => { q with acted := s.now + 1, pc := q.lineStart }).trapHere n
          { cause := Cause.fetchFault, det := c.seq.lineStart, slot := 6 }
      | .trap t => (s.onSeq n fun q => { q with acted := s.now + 1 }).trapHere n t
      | .bundle b => s.issueBundle n b

/-- The first fault that has arrived is delivered at the boundary before an issue, the others wait (R450). DESIGN CHOICE
(log 81): the wait of the bundle that is due ends with a record that has TRAPPED = 1, as a trap's does (R109). -/
def State.faultDelivery (s : State) (n : Nat) : State :=
  let c := s.core n
  match faultOrder c.seq.arrivedFaults with
  | [] => s
  | f :: r =>
    if c.seq.run != .running && c.seq.run != .atPhase || c.seq.halted || c.seq.stall != 0 then s
    else if c.svc then s.onCore n Core.pendArrived
    else
      let s := s.onCore n fun c => r.foldl Core.pend ((c.logDeviation s.now true : Core) |> fun c =>
        { c with seq := { c.seq with arrivedFaults := [], acted := s.now + 1 } })
      if c.seq.run == .atPhase then s.deliverAtPhase n f
      else s.deliverDue n f

/-- A planned stall cycle passes (R71, R106). -/
def Core.stallCycle (c : Core) : Core :=
  let c := if c.svc then c else c.setCtlBits Ctl.scyc 31 0 (c.scycle + 1)
  { c with seq := { c.seq with stall := c.seq.stall - 1, passed := true } }

/-- The trap, or the debug stop, that follows a bundle with TRAP or DBGBRK (R454). -/
def State.trapAfter (s : State) (n : Nat) (t : Trap) : State :=
  let c := s.core n
  if t.cause = Cause.breakpoint && c.seq.brkHalt then
    (s.onSeq n fun q => { q with after := none, haltReq := true }).debugStop n
  else s.enterTrap n t none c.seq.pc 0 0 c.scycle

/-! One operation as a step. -/

/-- The outcome of one slot operation: its state, the trap taken in its place, or a cycle of its wait. -/
def State.settleSlot (s : State) (n : Nat) : Res State → State
  | .ok t => t
  | .trap t => s.trapHere n t
  | .wait w t => (s.keepAttempt t n).waitCycle n w

/-- Runs one slot operation where the focus stands. -/
def State.runSlot (s : State) (op : Focus → State → Res State) : Host.Outcome State Fault Refusal :=
  if s.focus.core < 128 then .next (s.settleSlot s.focus.core (op s.here s)) else .fault .noSuchUnit

/-- Runs a scalar device access: once it has served the operation it is closed (R161). -/
def State.runAccess (s : State) (op : Focus → State → Res State) : Host.Outcome State Fault Refusal :=
  s.runSlot fun fo s => (op fo s).map fun t => t.closeAccess fo.core

/-- Runs an operation that ends its bundle, a bundle of its own: the branch it takes or its successor (R66,
R67), PHASE, TRET, HALT, or the trap that follows it (R454). -/
def State.runControl (s : State) (op : Focus → State → Res State) : Host.Outcome State Fault Refusal :=
  let n := s.focus.core
  if n < 128 then
    .next (match op s.here (s.findSuccessor n) with
      | .ok t =>
        let t := t.endBundle n 0
        match (t.core n).seq.after with
        | some x => t.trapAfter n x
        | none => t
      | r => s.settleSlot n r)
  else .fault .noSuchUnit

/-- Runs an event of one core where the focus stands. -/
def State.runCore (s : State) (ev : State → Nat → State) : Host.Outcome State Fault Refusal :=
  if s.focus.core < 128 then .next (ev s s.focus.core) else .fault .noSuchUnit

/-- BUNDLE_ISSUE (R36): one cycle of a core's sequencer. -/
def State.bundleIssue (s : State) (n : Nat) : State :=
  let c := s.core n
  let acts (s : State) : State := s.onSeq n fun q => { q with acted := s.now + 1 }
  if c.seq.acted = s.now + 1 || c.seq.halted then s
  else match c.seq.run with
  | .atPhase => if c.seq.arrivedFaults.isEmpty then s else s.faultDelivery n
  | .running =>
    if c.seq.stall != 0 then acts (s.onCore n Core.stallCycle)
    else match c.seq.after with
    | some t => acts (s.trapAfter n t)
    | none =>
      if c.seq.haltReq then acts (s.debugStop n)
      else if c.seq.preempt && c.seq.safePt && !c.svc then acts (s.stopFor n 0)
      else
        let s := if c.svc then s.onCore n Core.pendArrived else s
        if (s.core n).seq.arrivedFaults.isEmpty then s.attempt n else s.faultDelivery n
  | _ => s

end Sys2Proof.Machine
end

