-- ==== Sys2Proof/Machine/ExecBank.lean ====
section
/-! DEFINITION. The meanings of the M-slot instructions as steps of their own: each issues where the focus stands,
takes its trap, or waits a cycle. -/

namespace Sys2Proof.Machine

/-- BMODE_COMPUTE (R269). -/
def execBmodeCompute (f : MF) (s : State) : Host.Outcome State Fault Refusal :=
  s.runSlot fun fo s => opBmodeCompute fo f s

/-- BMODE_SCRATCH (R269). -/
def execBmodeScratch (f : MF) (s : State) : Host.Outcome State Fault Refusal :=
  s.runSlot fun fo s => opBmodeScratch fo f s

/-- BPLANE (R270). -/
def execBplane (f : MF) (s : State) : Host.Outcome State Fault Refusal :=
  s.runSlot fun fo s => opBplane fo f s

/-- BLOAD (R271). -/
def execBload (f : MF) (s : State) : Host.Outcome State Fault Refusal :=
  s.runSlot fun fo s => opBload fo f s

/-- BPREC (R272). -/
def execBprec (f : MF) (s : State) : Host.Outcome State Fault Refusal :=
  s.runSlot fun fo s => opBprec fo f s

/-- BSPARSE (R273). -/
def execBsparse (f : MF) (s : State) : Host.Outcome State Fault Refusal :=
  s.runSlot fun fo s => opBsparse fo f s

/-- BSPARSE_DENSE (R273). -/
def execBsparseDense (f : MF) (s : State) : Host.Outcome State Fault Refusal :=
  s.runSlot fun fo s => opBsparseDense fo f s

/-- BOUTL (R274). -/
def execBoutl (f : MF) (s : State) : Host.Outcome State Fault Refusal :=
  s.runSlot fun fo s => opBoutl fo f s

/-- BTAG (R275). -/
def execBtag (f : MF) (s : State) : Host.Outcome State Fault Refusal :=
  s.runSlot fun fo s => opBtag fo f s

/-- BRUN (R276). -/
def execBrun (f : MF) (s : State) : Host.Outcome State Fault Refusal :=
  s.runSlot fun fo s => opBrun fo f s

/-- BACC (R276). -/
def execBacc (f : MF) (s : State) : Host.Outcome State Fault Refusal :=
  s.runSlot fun fo s => opBacc fo f s

/-- BSTAT (R277). -/
def execBstat (f : MF) (s : State) : Host.Outcome State Fault Refusal :=
  s.runSlot fun fo s => opBstat fo f s

/-- BCLR (R278). -/
def execBclr (f : MF) (s : State) : Host.Outcome State Fault Refusal :=
  s.runSlot fun fo s => opBclr fo f s

/-- BCLR_ALL (R278). -/
def execBclrAll (f : MF) (s : State) : Host.Outcome State Fault Refusal :=
  s.runSlot fun fo s => opBclrAll fo f s

/-- BDIR (R279). -/
def execBdir (f : MF) (s : State) : Host.Outcome State Fault Refusal :=
  s.runSlot fun fo s => opBdir fo f s

/-- BZERO (R280). -/
def execBzero (f : MF) (s : State) : Host.Outcome State Fault Refusal :=
  s.runSlot fun fo s => opBzero fo f s

/-- ACCALLOC (R295). -/
def execAccalloc (f : MF) (s : State) : Host.Outcome State Fault Refusal :=
  s.runSlot fun fo s => opAccalloc fo f s

/-- ACCFREE (R295). -/
def execAccfree (f : MF) (s : State) : Host.Outcome State Fault Refusal :=
  s.runSlot fun fo s => opAccfree fo f s

/-- ACCBAND (R296). -/
def execAccband (f : MF) (s : State) : Host.Outcome State Fault Refusal :=
  s.runSlot fun fo s => opAccband fo f s

/-- ACCBAND_LOCAL (R296). -/
def execAccbandLocal (f : MF) (s : State) : Host.Outcome State Fault Refusal :=
  s.runSlot fun fo s => opAccbandLocal fo f s

/-- ACCNORM (R288). -/
def execAccnorm (f : MF) (s : State) : Host.Outcome State Fault Refusal :=
  s.runSlot fun fo s => opAccnorm fo f s

/-- ACCCLR (R297). -/
def execAccclr (f : MF) (s : State) : Host.Outcome State Fault Refusal :=
  s.runSlot fun fo s => opAccclr fo f s

/-- ACCRD (R298). -/
def execAccrd (f : MF) (s : State) : Host.Outcome State Fault Refusal :=
  s.runSlot fun fo s => opAccrd fo f s

/-- ACCRD_REMOTE (R298). -/
def execAccrdRemote (f : MF) (s : State) : Host.Outcome State Fault Refusal :=
  s.runSlot fun fo s => opAccrdRemote fo f s

/-- ACCEXP (R299). -/
def execAccexp (f : MF) (s : State) : Host.Outcome State Fault Refusal :=
  s.runSlot fun fo s => opAccexp fo f s

/-- ACCEXP_REMOTE (R299). -/
def execAccexpRemote (f : MF) (s : State) : Host.Outcome State Fault Refusal :=
  s.runSlot fun fo s => opAccexpRemote fo f s

/-- ACCHEAD (R300). -/
def execAcchead (f : MF) (s : State) : Host.Outcome State Fault Refusal :=
  s.runSlot fun fo s => opAcchead fo f s

/-- ACCEXPORT (R296). -/
def execAccexport (f : MF) (s : State) : Host.Outcome State Fault Refusal :=
  s.runSlot fun fo s => opAccexport fo f s

end Sys2Proof.Machine
end

