-- ==== Sys2Proof/Machine/ExecCopy.lean ====
section
/-! DEFINITION. The meanings of the C-slot instructions as steps of their own: each issues where the focus stands,
takes its trap, or waits a cycle. -/

namespace Sys2Proof.Machine

/-- CPSET (R342). -/
def execCpset (f : CF) (s : State) : Host.Outcome State Fault Refusal :=
  s.runSlot fun fo s => opCpset fo f s

/-- CPGO (R343). -/
def execCpgo (f : CF) (s : State) : Host.Outcome State Fault Refusal :=
  s.runSlot fun fo s => opCpgo fo f s

/-- CPWAIT (R344). -/
def execCpwait (f : CF) (s : State) : Host.Outcome State Fault Refusal :=
  s.runSlot fun fo s => s.liftCore fo (opCpwait fo f)

/-- CPMARK (R345). -/
def execCpmark (f : CF) (s : State) : Host.Outcome State Fault Refusal :=
  s.runSlot fun fo s => opCpmark fo f s

/-- CPFOLLOW (R346). -/
def execCpfollow (f : CF) (s : State) : Host.Outcome State Fault Refusal :=
  s.runSlot fun fo s => s.liftCore fo (opCpfollow fo f (s.core fo.core).carriedOp)

/-- CPMCAST (R347). -/
def execCpmcast (f : CF) (s : State) : Host.Outcome State Fault Refusal :=
  s.runSlot fun fo s => opCpmcast fo f s

/-- CPMCAST_MSG (R347). -/
def execCpmcastMsg (f : CF) (s : State) : Host.Outcome State Fault Refusal :=
  s.runSlot fun fo s => opCpmcastMsg fo f s

/-- CPFILL (R348). -/
def execCpfill (f : CF) (s : State) : Host.Outcome State Fault Refusal :=
  s.runSlot fun fo s => opCpfill fo f s

/-- CPSHELL (R349). -/
def execCpshell (f : CF) (s : State) : Host.Outcome State Fault Refusal :=
  s.runSlot fun fo s => opCpshell fo f s

/-- CPACC (R350). -/
def execCpacc (f : CF) (s : State) : Host.Outcome State Fault Refusal :=
  s.runSlot fun fo s => opCpacc fo f s

/-- CPACC_ONE (R350). -/
def execCpaccOne (f : CF) (s : State) : Host.Outcome State Fault Refusal :=
  s.runSlot fun fo s => opCpaccOne fo f s

/-- MEMROW_COPY (R351). -/
def execMemrowCopy (f : CF) (s : State) : Host.Outcome State Fault Refusal :=
  s.runSlot fun fo s => opMemrowCopy fo f s

/-- MEMROW_ZERO (R351). -/
def execMemrowZero (f : CF) (s : State) : Host.Outcome State Fault Refusal :=
  s.runSlot fun fo s => opMemrowZero fo f s

/-- EWALK (R352). -/
def execEwalk (f : CF) (s : State) : Host.Outcome State Fault Refusal :=
  s.runSlot fun fo s => opEwalk fo f s

/-- CPINV (R353). -/
def execCpinv (f : CF) (s : State) : Host.Outcome State Fault Refusal :=
  s.runSlot fun fo s => opCpinv fo f s

/-- CPFENCE (R354). -/
def execCpfence (f : CF) (s : State) : Host.Outcome State Fault Refusal :=
  s.runSlot fun fo s => s.liftCore fo (opCpfence fo f)

/-- CPEXPORT_READ (R355). -/
def execCpexportRead (f : CF) (s : State) : Host.Outcome State Fault Refusal :=
  s.runSlot fun fo s => opCpexportRead fo f s

/-- CPEXPORT_CARRY (R355). -/
def execCpexportCarry (f : CF) (s : State) : Host.Outcome State Fault Refusal :=
  s.runSlot fun fo s => opCpexportCarry fo f s

/-- CPEXPORT_RECEIVE (R355). -/
def execCpexportReceive (f : CF) (s : State) : Host.Outcome State Fault Refusal :=
  s.runSlot fun fo s => opCpexportReceive fo f s

/-- CPCOLL (R356). -/
def execCpcoll (f : CF) (s : State) : Host.Outcome State Fault Refusal :=
  s.runSlot fun fo s => opCpcoll fo f s

/-- CARRY (R319). -/
def execCarry (f : CF) (s : State) : Host.Outcome State Fault Refusal :=
  s.runSlot fun fo s => opCarry fo f s

/-- CARRY_REMOTE (R319). -/
def execCarryRemote (f : CF) (s : State) : Host.Outcome State Fault Refusal :=
  s.runSlot fun fo s => opCarryRemote fo f s

/-- CARRYW (R320). -/
def execCarryw (f : CF) (s : State) : Host.Outcome State Fault Refusal :=
  s.runSlot fun fo s => opCarryw fo f s

/-- CARRYST (R321). -/
def execCarryst (f : CF) (s : State) : Host.Outcome State Fault Refusal :=
  s.runSlot fun fo s => opCarryst fo f s

end Sys2Proof.Machine
end

