-- ==== Sys2Proof/Machine/Loader.lean ====
section
/-! DEFINITION. The loader (R37 to R46, R153, R154, R480): reading and checking an image, its binding, and the
state a launch gives the cores of the partition. -/

namespace Sys2Proof.Machine

/-- A step of a load: its result, a failure code, or a wait for a translation or for the far module. -/
abbrev Load (α : Type) := State → (α ⊕ Option Nat) × State

def Load.andThen {α β : Type} (m : Load α) (k : α → Load β) : Load β := fun s =>
  match m s with
  | (.inl a, s) => k a s
  | (.inr e, s) => (.inr e, s)

def Load.done {α : Type} (a : α) : Load α := fun s => (.inl a, s)

/-- A check of R42 with its code. -/
def Load.need {β : Type} (ok : Bool) (code : Nat) (k : Load β) : Load β := fun s =>
  if ok then k s else (.inr (some code), s)

/-- The pod whose translation unit serves a partition's own reads and writes. -/
def Partition.pod (x : Partition) : Nat := podOf (x.cores.headD 0)

/-- Reads image bytes through the partition's tables (R480). -/
def loadBytes (p dva off n : Nat) : Load (List Byte) := fun s =>
  match s.readVirtual (s.part p).pod p (dva + off) n with
  | (.inl bs, s) => (.inl bs, s)
  | (.inr (.wait _), s) => (.inr none, s)
  | (.inr _, s) => (.inr (some 0x09), s)

def loadNum (p dva off n : Nat) : Load Nat := (loadBytes p dva off n).andThen fun bs => .done (leNat bs)

/-- Runs a step for each of a list, in order. -/
def loadEach {α β : Type} (m : α → Load β) : List α → Load (List β)
  | [] => .done []
  | a :: r => (m a).andThen fun b => (loadEach m r).andThen fun l => .done (b :: l)

/-! Phase records (R39). -/

def recGrades (r : Nat) : Nat := bits r 273 272 + 1
def recCores (r : Nat) : Nat := bits r 255 0
def recNext (r : Nat) : Nat := bits r 271 256
def recSegoff (r g : Nat) : Nat := bits r (575 + 128 * g) (512 + 128 * g)

/-- Reserved fields and absent grades are zero. -/
def recZeroOk (r : Nat) : Bool :=
  bits r 287 275 == 0 && bits r 511 320 == 0 && r / 2 ^ (512 + 128 * recGrades r) == 0

/-- The segment tables of an image: record, grade, offset and members. -/
def segTables (recs : List Nat) : List (Nat × Nat × Nat × List Nat) :=
  (recs.mapIdx fun i r => (List.range (recGrades r)).map fun g => (i, g, recSegoff r g, membersOf (recCores r))).flatten

/-- Ranges (first byte, length) of which none may overlap another (R38); empty ones count for nothing. -/
def disjoint : List (Nat × Nat) → Bool
  | [] => true
  | x :: r => r.all (fun y => !rangesMeet x.1 x.2 y.1 y.2) && disjoint r

/-! Binding (R28, R43, R44). -/

/-- σ of R43 on (X, Y). -/
def symmetry (k x y : Nat) : Nat × Nat :=
  match k with
  | 0 => (x, y)
  | 1 => (3 - y, x)
  | 2 => (3 - x, 3 - y)
  | 3 => (y, 3 - x)
  | 4 => (3 - x, y)
  | 5 => (x, 3 - y)
  | 6 => (y, x)
  | _ => (3 - y, 3 - x)

/-- The physical core of a logical core under the binding (k, σ). -/
def placed (k sym l : Nat) : Nat :=
  let m := l % 128
  let q := symmetry sym (m % 4) (m % 16 / 4)
  (m / 16 + k) % 8 * 16 + 4 * q.2 + q.1

/-- The first binding that fits (R44). -/
def findBinding (used : List Nat) (pairs : Nat) : Option (Tab Nat) :=
  let fits (b : Nat) : Bool := used.all fun l => pairs.testBit (placed (b / 8) (b % 8) l / 2)
  ((List.range 64).find? fits).map fun b => used.map fun l => (l, placed (b / 8) (b % 8) l)

/-! The capability table (R153, R154). -/

def capEntryOf (x : Nat) : CapEntry := {
  cap := { capOfBits x with tag := false, entry := 0 }
  wcore := bits x 135 128, wg := x.testBit 136, wfirst := bits x 159 144, wlast := bits x 175 160
  holders := bits x 511 256, used := x != 0 }

/-- One entry's own checks. -/
def capEntryOk (x nphase codeAt codelen : Nat) : Bool :=
  let e := capEntryOf x
  let base := e.cap.base.toNat
  let len := e.cap.length.toNat
  let perm := e.cap.perm.toNat
  !e.used ||
    (bits x 143 137 == 0 && bits x 255 176 == 0 && bits perm 9 8 == 0 && decide (e.cap.type.toNat ≤ 2) && len != 0 &&
      decide (base < 2 ^ 57) && decide (base + len ≤ 2 ^ 57) && (e.wg == perm.testBit 1) &&
      (!e.wg || (decide (e.wfirst ≤ e.wlast) && decide (e.wlast < nphase) && e.holders.testBit e.wcore)) &&
      (!perm.testBit 1 || !rangesMeet base len codeAt codelen))

/-- Two grants that could be in force together over one byte. -/
def grantsMeet (e f : CapEntry) : Bool :=
  e.wg && f.wg && decide (e.wfirst ≤ f.wlast) && decide (f.wfirst ≤ e.wlast) &&
    rangesMeet e.cap.base.toNat e.cap.length.toNat f.cap.base.toNat f.cap.length.toNat

def grantsApart : List CapEntry → Bool
  | [] => true
  | e :: r => r.all (fun f => !grantsMeet e f) && grantsApart r

/-! The whole load. -/

/-- One second in cycles of 2.3 GHz (R18). -/
def oneSecond : Nat := 2300000000

/-- The far module's answer to a two-box launch (R45, R488): `none` while it has not arrived; a far launch that came
a second ago or more belongs to a load that has failed. -/
def farAnswer (p : Nat) (digest : BitVec 512) (side : Nat) : Load Unit := fun s =>
  let x := s.part p
  if !s.boxUp then (.inr (some 0x07), s)
  else
    let s := if x.loadAt = 0 then
        (s.setPart p { x with loadAt := s.now + 1 }).emitOut (.far (.launch p digest true))
      else s
    match x.farLaunch with
    | none => (.inr none, s)
    | some (d, binds) =>
      if x.farLaunchAt + oneSecond ≤ s.now then (.inr none, s.setPart p { s.part p with farLaunch := none })
      else if binds && d == digest && decide (side < 2) then (.inl (), s)
      else (.inr (some 0x07), s)

/-- Checks an image in the order of R42 and builds its timetable, with its digest. -/
def loadImage (p dva : Nat) : Load (Timetable × BitVec 512) :=
  (loadNum p dva 0 64).andThen fun h =>
  .need (bits h 15 0 == 1) 0x01 <|
  let size := bits h 31 16
  let nphase := bits h 47 32
  let phoff := bits h 127 64
  let groff := bits h 191 128
  let capoff := bits h 255 192
  let balcap := bits h 263 256
  let two := h.testBit 264
  let balcount := bits h 319 288
  let codeoff := bits h 383 320
  let codelen := bits h 415 384
  let dataoff := bits h 479 416
  let datalen := bits h 511 480
  .need (decide (64 ≤ size) && bits h 287 265 == 0) 0x02 <|
  (loadNum p dva 64 (size - 64)).andThen fun tail =>
  .need (tail == 0) 0x02 <|
  (loadEach (fun i => loadNum p dva (phoff + 128 * i) 128) (List.range nphase)).andThen fun recs =>
  .need (recs.all recZeroOk) 0x02 <|
  .need (decide (128 ≤ codelen) && [phoff, groff, capoff, codeoff, codelen].all (fun x => x % 128 == 0) &&
    (datalen == 0 || dataoff % 128 == 0)) 0x03 <|
  (loadNum p dva capoff 64).andThen fun ch =>
  let caplen := 64 + 64 * bits ch 39 32
  let segs := segTables recs
  let ranges := [(0, size), (phoff, 128 * nphase), (groff, 8192), (capoff, caplen), (codeoff, codelen),
    (dataoff, datalen)] ++ segs.map fun x => (x.2.2.1, 8 * x.2.2.2.length)
  let length := ranges.foldl (fun m x => if x.2 = 0 then m else max m (x.1 + x.2)) 0
  .need (decide (dva + length ≤ 2 ^ 57) && segs.all (fun x => x.2.2.1 % 128 == 0) && disjoint ranges) 0x03 <|
  (loadEach (fun (x : Nat × Nat × Nat × List Nat) =>
    (loadEach (fun k => loadNum p dva (x.2.2.1 + 8 * k) 8) (List.range x.2.2.2.length)).andThen fun offs =>
      .done (x.1, x.2.1, x.2.2.2.zip offs)) segs).andThen fun entries =>
  .need (entries.all fun x => x.2.2.all fun e =>
    e.2 % 128 == 0 && decide (codeoff ≤ e.2) && decide (e.2 < codeoff + codelen)) 0x03 <|
  .need (decide (1 ≤ nphase) && decide (nphase ≤ 4096) && decide (bits h 63 48 < nphase) && recs.all fun r =>
    (recNext r == 0xFFFF || decide (recNext r < nphase)) && recCores r != 0 && (two || decide (recCores r < 2 ^ 128)))
    0x04 <|
  (loadEach (fun k => (loadNum p dva (groff + 32 * k) 32).andThen fun g => .done (k, g)) (List.range 256)).andThen
    fun groups =>
  .need ((List.range 256).all fun l => decide ((groups.countP fun g => g.2.testBit l) ≤ 4)) 0x05 <|
  fun s =>
  let side := if two then s.boxSide else 0
  let used := (membersOf (recs.foldl (fun m r => m ||| recCores r) 0)).filter fun l => l / 128 == side
  match findBinding used (s.part p).pairs with
  | none => (.inr (some 0x06), s)
  | some binding =>
    ((if two then
      Load.need s.boxUp 0x07 <| (loadBytes p dva 0 length).andThen fun bs => farAnswer p (BitVec.ofNat 512 (leNat (sha512 bs))) side
      else Load.done ()).andThen fun _ =>
    (loadEach (fun i => loadNum p dva (capoff + 64 + 64 * i) 64) (List.range (bits ch 39 32))).andThen fun raw =>
    let caps := raw.map capEntryOf
    .need (bits ch 15 0 == 1 && bits ch 31 16 == 64 && bits ch 39 32 != 0 && ch / 2 ^ 40 == 0 &&
      (raw.all fun x => capEntryOk x nphase (dva + codeoff) codelen) && grantsApart caps &&
      (balcap == 0xFF || (decide (balcap < bits ch 39 32) && balcount != 0))) 0x08 <|
    (loadBytes p dva 0 length : Load (List Byte)).andThen fun bs =>
    let phase (i r : Nat) : PhaseRec := {
      cores := recCores r, next := recNext r, strict := r.testBit 274, slack := bits r 319 288
      grades := (List.range (recGrades r)).map fun g => {
        segoff := recSegoff r g, length := bits r (607 + 128 * g) (576 + 128 * g)
        energy := bits r (639 + 128 * g) (608 + 128 * g) }
      entries := (entries.filter fun x => x.1 == i).map fun x => x.2.2 }
    Load.done ({
      base := dva, phases := recs.mapIdx phase, first := bits h 63 48, groups := groups.filter fun g => g.2 != 0
      caps := caps, balcap := balcap, balcount := balcount, twobox := two, code := codeoff, codelen := codelen
      capoff := capoff, caplen := caplen, binding := binding },
      BitVec.ofNat 512 (leNat (sha512 bs)))) s

/-- A core as a launch leaves it (R69, R136, R150, R172, R204, R205, R237, R284, R302, R324; log 21): every
register and memory at its reset value. What the debug core holds of it stays. -/
def Core.launched (c : Core) (part : Nat) : Core :=
  { num := c.num, part := part, free := c.free
    seq := { brkHalt := c.seq.brkHalt, haltReq := c.seq.haltReq, halted := c.seq.halted } }

/-- CORELOC of a bound core (R47). -/
def coreLoc (t : Timetable) (n l : Nat) : Nat :=
  let gs := (List.range 256).filter fun k => (Tab.look 0 t.groups k).testBit l
  let fields := (gs.take 4).mapIdx fun i k => k * 2 ^ (16 + 8 * i) + 2 ^ (48 + i)
  l + n * 2 ^ 8 + (if t.twobox && decide (128 ≤ l) then 2 ^ 15 else 0) + fields.sum

/-- Binds the cores of the partition to a loaded timetable (R46, R47, R446). -/
def State.bindCores (s : State) (p : Nat) (t : Timetable) (tvec : Nat) : State :=
  let vec := if tvec = 0 then 0 else t.base + tvec
  (s.part p).cores.foldl (fun s n =>
    s.onCore n fun c =>
      let c := (c.launched p).setCtl Ctl.trapvec (BitVec.ofNat 64 vec)
      match t.binding.find? fun b => b.2 == n with
      | some b => c.setCtl Ctl.coreloc (BitVec.ofNat 64 (coreLoc t n b.1))
      | none => c.setCtl Ctl.coreloc (BitVec.ofNat 64 (n * 2 ^ 8 + (if t.twobox && s.boxSide == 1 then 2 ^ 15 else 0)))) s

/-- A load fails (R42): its code, and the cores as they were. -/
def State.loadFails (s : State) (p code : Nat) : State :=
  (s.onPart p fun x => { x with state := 4, code := code, loading := none, loadAt := 0, farLaunch := none }).notify p

/-- One attempt at the image being loaded (IMAGE_LOAD). -/
def State.tryLoad (s : State) (p : Nat) : State :=
  match (s.part p).loading with
  | none => s
  | some dva =>
    match loadImage p dva s with
    | (.inr none, s) => s
    | (.inr (some code), s) => s.loadFails p code
    | (.inl (t, digest), s) =>
      let t := { t with launch := s.launches + 1 }
      let s := { s with launches := s.launches + 1 }
      let s := s.bindCores p t (s.part p).tvec
      let s := (s.notify p).onPart p fun x => { x with
        state := 2, code := 0, loading := none, loadAt := 0, farLaunch := none, tt := some t, digest := digest
        starts := 0, pidx := t.first, run := none, balPos := 0, saved := [], savedRun := none, preemptAt := none
        farSent := false, phasedSent := false, farAsked := false, heldSent := false, savedMsgs := []
        waiting := false, ready := some { idx := t.first } }
      s.soon p .phaseStart

/-- The loader at a tick (R480): it goes on with an image, or takes the front one of the queue; the timetable that has
ended goes. -/
def State.loaderTick (s : State) (p : Nat) : State :=
  let x := s.part p
  if x.loading.isSome then s.tryLoad p
  else match x.queue with
  | img :: rest =>
    if x.state = 0 ∨ x.state = 3 ∨ x.state = 4 ∨ x.state = 5 then
      ((s.setPart p { x with
        queue := rest, loading := some img, loadAt := 0, state := 1, code := 0, ready := none, saved := []
        tt := none }).notify p).tryLoad p
    else s
  | [] => s

end Sys2Proof.Machine
end

