-- ==== Sys2Proof/Machine/Reckoner.lean ====
section
/-! DEFINITION. The reckoner (R416 to R425): ticks, the starting rules, PHASE_START (R49) and PHASE_BOUNDARY
(R52, R57, R58), and the lease (R477) and summary record (R482) that its tick times. -/

namespace Sys2Proof.Machine

/-! Grades (R420). -/

/-- The allowed grades of a waiting phase. -/
def allowedGrades (x : Partition) (ph : PhaseRec) (r : Ready) : List Nat :=
  let n := ph.grades.length
  match r.only with
  | some g => [g]
  | none => if x.pin = 0 then List.range n else if x.pin ≤ n then [x.pin - 1] else [n - 1]

def PhaseRec.energyOf (ph : PhaseRec) (g : Nat) : Nat := (ph.grades.getD g {}).energy

/-- The fastest allowed grade that the balance covers. -/
def coveredGrade (x : Partition) (ph : PhaseRec) (r : Ready) : Option Nat :=
  (allowedGrades x ph r).find? fun g => decide ((ph.energyOf g : Int) ≤ x.bal)

/-- The cheapest of the allowed grades, the earliest of equals. -/
def cheapestGrade (x : Partition) (ph : PhaseRec) (r : Ready) : Nat :=
  match allowedGrades x ph r with
  | [] => 0
  | g :: l => l.foldl (fun m k => if ph.energyOf k < ph.energyOf m then k else m) g

/-! The start of a phase (R49, R425). -/

def floorDiv (a : Int) (n : Nat) : Int := a / (n : Int)

/-- The q4 notice of a start. -/
def startNotice (x : Partition) (idx grade waited : Nat) (credit resume : Bool) : Nat :=
  let balk := max (-(2 ^ 15)) (min (2 ^ 15 - 1) (floorDiv x.bal 1024))
  grade + (if credit then 4 else 0) + (if x.pin ≠ 0 then 8 else 0) + (if resume then 16 else 0) + idx * 2 ^ 16 +
    min waited 0xFFFF * 2 ^ 32 + (balk % 2 ^ 16).toNat * 2 ^ 48

/-- What a phase start gives one participating core (R49, R110, R165). -/
def Core.beginPhase (c : Core) (ph : PhaseRec) (idx grade starts : Nat) (entry : Nat) : Core :=
  let c := c.setCtl Ctl.phaseinfo (BitVec.ofNat 64
    (idx + grade * 2 ^ 16 + (if ph.strict then 2 ^ 18 else 0) + starts % 2 ^ 32 * 2 ^ 32))
  let c := c.setCtl Ctl.devslack (BitVec.ofNat 64 ph.slack)
  let c := c.setCtl Ctl.devcnt 0
  let c := c.setCtl Ctl.scyc 0
  { c with
    bal := {}, own := [], colls := [], badLines := [], eng := { c.eng with farOut := [] }
    seq := { c.seq.goTo (BitVec.ofNat 64 entry) .branch with
      run := .running, sticky := [], ended := false, arrivals := [], barred := [], safePt := false } }

/-- The first four lines of a segment are in the cache before a phase starts (R68). -/
def State.firstLines (s : State) (n entry : Nat) : State :=
  let line := entry / 128
  [0, 1, 2, 3].foldl (fun s k =>
    match s.peekLine n (line + k) with
    | some x => s.onCore n fun c =>
      (branchLines (line + k) x).foldl (fun c l => c.wantLine s.params s.now l) (c.placeLine [line, line + 1, line + 2, line + 3] (line + k) x)
    | none => s) s

/-- The address of a core's first bundle: syllable 1 of its segment's first line (R40). -/
def Timetable.entryAt (t : Timetable) (idx grade l : Nat) : Nat :=
  t.base + Tab.look 0 ((t.phases.getD idx {}).entries.getD grade []) l + 4

/-- The first four lines of a segment hold the start of a phase while a translation for one of them waits (R68,
R396). -/
def State.lineWaits (s : State) (n entry : Nat) : Bool :=
  let c := s.core n
  (List.range 4).any fun k =>
    let line := entry / 128 + k
    !Tab.has c.icache line && s.inCode c.part line &&
      (match (s.readVirtual (podOf n) c.part (128 * line) 128).1 with
       | .inr (.wait _) => true
       | _ => false)

/-- A core that restarts from its context record at cycle `now` (R464): at its saved issue, or waiting at its
PHASE. -/
def Core.restarted (c : Core) (now : Nat) : Core :=
  { c with
    bal := { c.bal with phaseAt := now - c.bal.phaseAt }
    seq := { c.seq with
      run := if c.seq.ended then .atPhase else .running
      preempt := false, wait := none, access := none } }

/-- The phase that waits starts in grade `g` (R49, R420, R464); what was metered before it counts in no M (R422). -/
def State.startPhase (s : State) (p g : Nat) (credit : Bool) : State :=
  let s := if (s.part p).tt.isSome && (s.part p).ready.isSome then s.meterNow p else s
  let x := s.part p
  match x.tt, x.ready with
  | some t, some r =>
    let ph := t.phases.getD r.idx {}
    let e := ph.energyOf g
    let mid := r.resume.any (· != 1)
    let starts := if mid then x.starts else (x.starts + 1) % 2 ^ 32
    let elapsed := if mid then ((x.savedRun.map (·.started)).getD 0) else 0
    let x := { x with
      bal := max (x.bal - e) minBalance, credit := x.credit || credit, waiting := false, ready := none
      starts := starts, pidx := r.idx, savedRun := none
      run := some { idx := r.idx, grade := g, started := s.now - elapsed, energy := e } }
    let s := s.setPart p x
    let note := startNotice x r.idx g r.waited credit r.resume.isSome
    let cores := s.participants p
    let s := cores.foldl (fun s n =>
      let s := if mid then s.onCore n fun c => c.restarted s.now
        else
          let entry := t.entryAt r.idx g (s.core n).lcore
          (s.onCore n fun c => { c.beginPhase ph r.idx g starts entry with
            seq := { (c.beginPhase ph r.idx g starts entry).seq with preempt := false } }).firstLines n entry
      s.onCore n fun c => c.notice 4 (BitVec.ofNat 64 note)) s
    s.event 5 p (words32 [note, note / 2 ^ 32, (membersOf ph.cores).length])
  | _, _ => s

/-- The phase that is ready, when the partition runs and a resume has nothing left to restore. -/
def State.startable (s : State) (p : Nat) : Option (Timetable × Ready) :=
  let x := s.part p
  match x.tt, x.ready with
  | some t, some r => if x.state = 2 ∧ x.restore = [] then some (t, r) else none
  | _, _ => none

/-- The lines that a start in grade `g` needs first are still on their way. -/
def State.startWaits (s : State) (p g : Nat) : Bool :=
  match s.startable p with
  | some (t, r) => !r.resume.any (· != 1) &&
      (t.binding.filter fun b => (t.phases.getD r.idx {}).cores.testBit b.1).any fun b =>
        s.lineWaits b.2 (t.entryAt r.idx g b.1)
  | none => false

/-- Rule 1 of R420. -/
def State.evaluate (s : State) (p : Nat) : State :=
  match s.startable p with
  | none => s
  | some (t, r) =>
    match coveredGrade (s.part p) (t.phases.getD r.idx {}) r with
    | some g => if s.startWaits p g then s else s.startPhase p g false
    | none => s.onPart p fun x => { x with waiting := true }

/-- PHASE_START (R49): a ready phase whose balance covers a grade starts. -/
def State.phaseStart (s : State) (p : Nat) : State :=
  match (s.part p).ready with
  | some r => if r.resume.isSome then s else s.evaluate p
  | none => s

/-- RESUME_RESTART (R464): the same for a partition that resumes. -/
def State.resumeRestart (s : State) (p : Nat) : State :=
  match (s.part p).ready with
  | some r => if r.resume.isSome then s.evaluate p else s
  | none => s

/-! Loans and the fairness window (rules 2 and 3 of R420). -/

/-- The partitions in round-robin order after the one that last took a loan. -/
def roundFrom (last : Option Nat) : List Nat :=
  match last with
  | none => List.range 40
  | some k => (List.range 40).map fun i => (k + 1 + i) % 40

/-- Rule 2 for one partition; a phase that rule 1 starts once its lines are there takes no loan. -/
def State.lend (s : State) (cls p : Nat) : State :=
  let x := s.part p
  match s.startable p with
  | none => s
  | some (t, r) =>
    let ph := t.phases.getD r.idx {}
    if x.prio ≠ cls ∨ (coveredGrade x ph r).isSome then s
    else
      let g := cheapestGrade x ph r
      let short := (ph.energyOf g : Int) - x.bal
      if 0 < s.pool ∧ short ≤ s.pool ∧ s.startWaits p g = false then
        let s := { s with pool := s.pool - short, lent := Tab.store s.lent cls p }
        (s.onPart p fun x => { x with bal := x.bal + short }).startPhase p g true
      else s

/-- Rule 3 for one partition. -/
def State.fairStart (s : State) (p : Nat) : State :=
  let x := s.part p
  match s.startable p with
  | none => s
  | some (t, r) =>
    let ph := t.phases.getD r.idx {}
    let g := cheapestGrade x ph r
    if (coveredGrade x ph r).isSome then s
    else if 200 ≤ r.waited ∧ 0 < x.bal ∧ s.startWaits p g = false then s.startPhase p g true
    else s.onPart p fun x => { x with waiting := true }

/-- The evaluation of the phases that wait, at a tick (R420). -/
def State.evaluateAll (s : State) : State :=
  let parts := List.range 40
  let s := { s with parts := s.parts.map fun x =>
    (x.1, { x.2 with ready := x.2.ready.map fun r => { r with waited := r.waited + 1 } }) }
  let s := parts.foldl State.evaluate s
  let s := [0, 1, 2, 3].foldl (fun s cls =>
    (roundFrom (if Tab.has s.lent cls then some (Tab.look 0 s.lent cls) else none)).foldl (State.lend · cls) s) s
  parts.foldl State.fairStart s

/-! The tick (R417, R419). -/

/-- The thermal factor at `h` degrees (R419). -/
def thermalFactor (h : Nat) : Nat :=
  if h ≤ 95 then 256 else if h ≤ 105 then 256 - 128 * (h - 95) / 10 else 0

/-- A partition exists (R478). -/
def Partition.exists_ (x : Partition) : Bool := x.pairs != 0

def State.sumWatts (s : State) : Nat := (s.parts.map fun x => x.2.watts).sum

/-- An account's gain at a tick; the excess goes to the pool, whose ceiling step 3 applies (R417). -/
def State.refill (s : State) (p : Nat) : State :=
  let x := s.part p
  if !x.exists_ then s
  else
    let v := x.watts * s.tf + x.rho
    let b := capBalance (x.bal + (v / 256 : Nat)) x.cap
    { s.setPart p { x with rho := v % 256, bal := b.1, tf := s.tf } with pool := s.pool + b.2 }

/-- The pool's gain at a tick, less the unattributed energy (R417, R421). -/
def State.refillPool (s : State) : State :=
  let v : Int := ((s.mpwr : Int) - s.sumWatts) * s.tf + s.poolRho
  let lost := Config.metered s.nFree
  let s := { s with poolRho := (v % 256).toNat, nFree := s.nFree + 1 }
  s.poolGain (v / 256 - lost)

/-- Filter budgets at a tick (R435). -/
def State.resetBudgets (s : State) : State :=
  { s with
    parts := s.parts.map fun x => (x.1, { x.2 with bused := 0 })
    ctxs := s.ctxs.map fun x => (x.1, { x.2 with susp := false }) }

/-! The lease (R476, R477). -/

/-- The link of a port is up. -/
def State.linkUp (s : State) (port : Nat) : Bool := if port = 0 then s.link0 else s.link1

/-- LEASE_EXPIRY (R477): the lease passes to the other port when its link is up. -/
def State.leaseExpiry (s : State) : State :=
  if s.lremain != 0 && !s.yield then s
  else if !s.linkUp (1 - s.owner) then { s with yield := false }
  else
    let s := { s with owner := 1 - s.owner, epoch := (s.epoch + 1) % 2 ^ 16, lremain := s.llen, yield := false }
    s.emitOut (.msix s.owner 0)

/-! The summary record (R482). -/

/-- The TDISP states of a partition's interfaces, one bit each. -/
def State.tdispStates (s : State) (p : Nat) : Nat :=
  (s.vfmap.filter fun e => e.2 == p + 64).foldl (fun m e =>
    [0, 1].foldl (fun m port => m ||| 2 ^ (Tab.look 0 s.tdisp (port * 512 + e.1))) m) 0

/-- STKSUM of a stack (R413): CHAN follows BANKSTAT. -/
def stksumOf (x : Stack) : Nat :=
  let chan := (List.range 6).foldr (fun c acc =>
    (if Tab.look 0 x.bankstat (2 * c) = 0 ∧ Tab.look 0 x.bankstat (2 * c + 1) = 0 then 0 else 1) + 2 * acc) 0
  x.sum + chan * 2 ^ 16 + x.corrcnt * 2 ^ 32

def State.summaryPart (s : State) (p : Nat) : List Byte :=
  let x := s.part p
  let cores := x.cores
  let vfs := (s.vfmap.filter fun e => e.2 == p + 64).length
  let pend := (cores.map fun n => (s.core n).seq.pending.length).sum
  let q4 := (cores.map fun n => ((s.core n).queue 4).length).sum
  let grade := match x.run with
    | some r => r.grade
    | none => 0
  leBytes 64 ((if x.exists_ then 1 else 0) + x.state * 2 + x.queue.length * 2 ^ 4 + grade * 2 ^ 8 +
    (if x.pfNew then 2 ^ 10 else 0) + x.pidx * 2 ^ 16 + x.starts * 2 ^ 32 + (x.bal % 2 ^ 48).toNat * 2 ^ 64 +
    x.pairs * 2 ^ 112 + vfs * 2 ^ 176 + pend % 256 * 2 ^ 192 + q4 % 2 ^ 16 * 2 ^ 200 + x.refwr * 2 ^ 216 +
    s.tdispStates p * 2 ^ 248)

/-- The module's part of the summary record. DEDUCED (log 77): "link up" is the box link, beside LINK0 and LINK1. -/
def State.summary (s : State) : List Byte :=
  let head := 1 + s.owner * 2 ^ 16 + (if s.link0 then 2 ^ 17 else 0) + (if s.link1 then 2 ^ 18 else 0) +
    (if s.boxUp then 2 ^ 19 else 0) + s.epoch * 2 ^ 32 + s.lremain * 2 ^ 64 + s.mpwr * 2 ^ 96 +
    (s.pool % 2 ^ 48).toNat * 2 ^ 128 + s.now % 2 ^ 32 * 2 ^ 192
  leBytes 64 head ++ ((List.range 40).map s.summaryPart).flatten ++
    ((List.range 16).map fun k => leBytes 8 (stksumOf (s.stack k))).flatten ++ List.replicate 1344 0#8

/-- The record is written at a tick, before its notice. -/
def State.resyncTick (s : State) : State :=
  match s.resync with
  | none => s
  | some port =>
    ({ s.hostWrite port s.rsaddr s.summary with resync := none }).emitOut (.msix port 0)

/-- The module powers off (R489): nothing more happens until input power is applied. -/
def State.thermalShutdown (s : State) : State := { s with off := true, ready := false, agenda := [] }

/-- RECKONER_TICK (R417), with what else is timed by it (R435, R477, R480, R482). A reading above 115 °C powers the module
off (R489). -/
def State.reckonerTick (s : State) : State :=
  let h := Config.hottest s.ticks
  if 115 < h then { s.thermalShutdown with ticks := s.ticks + 1 } else
  let s := { s with tf := thermalFactor h, ticks := s.ticks + 1 }
  let s := (List.range 40).foldl State.refill s
  let s := s.refillPool
  let s := s.evaluateAll
  let s := s.resetBudgets
  let s := (List.range 40).foldl State.loaderTick s
  let s := { s with lremain := s.lremain - 1 }
  s.resyncTick

/-! The boundary (R52, R57, R58). -/

/-- No command of a core is under way (R52). -/
def Core.quiet (c : Core) : Bool := c.openIds.isEmpty && c.eng.fills.isEmpty && c.eng.follows.isEmpty

/-- Every participating core waits at PHASE with every command complete, and no fault waits to be taken. -/
def State.atBoundary (s : State) (p : Nat) : Bool :=
  let cores := s.participants p
  (s.part p).run.isSome && s.phasedHere p &&
    (cores.all fun n => (s.core n).quiet && (s.core n).seq.arrivedFaults.isEmpty) &&
    (s.msgs.all fun m => !(cores.contains m.src || cores.contains m.dst))

/-- The balance record of a core (R58). -/
def Core.balanceRecord (c : Core) (grade started now : Nat) : Nat :=
  let sat (x : Nat) : Nat := min x (2 ^ 32 - 1)
  let busy := (List.range 6).foldr (fun k acc => sat (Tab.look 0 c.bal.busy k) + 2 ^ 32 * acc) 0
  c.pidx + c.lcore * 2 ^ 16 + grade * 2 ^ 24 + c.starts * 2 ^ 32 + sat (now - started) * 2 ^ 64 + busy * 2 ^ 96 +
    sat c.bal.bank * 2 ^ 288 + sat c.bal.copy * 2 ^ 320 + sat c.bal.carry * 2 ^ 352 +
    c.ctlBits Ctl.devcnt 63 32 * 2 ^ 384 + sat (now - c.bal.phaseAt) * 2 ^ 416 + sat c.bal.sched * 2 ^ 448

/-- The entry of BALCAP permits the balance writes (R152). -/
def balanceOk (t : Timetable) : Bool :=
  let e := t.caps.getD t.balcap {}
  e.used && e.cap.type == 2#6 && e.cap.perm.getLsbD 1 && decide (64 * t.balcount ≤ e.cap.length.toNat)

/-- Whether a page may be written: its answer, or a wait (R390, R396). -/
inductive CanWrite where
  | yes | no | wait
  deriving DecidableEq, Repr

def State.canWrite (s : State) (p a n : Nat) : CanWrite × State :=
  (pageChunks 3 a n).foldl (fun (acc : CanWrite × State) ch =>
    match acc.1 with
    | .yes => match acc.2.ownPage (acc.2.part p).pod p ch.1 true .hold with
      | (.inl _, s) => (.yes, s)
      | (.inr (.wait _), s) => (.wait, s)
      | (.inr _, s) => (.no, s)
    | _ => acc) (.yes, s)

/-- How the balance records of a boundary end: written whole; not at all, for the ring position that failed; or they wait
at an entry with WAIT (R57, R396, R455). -/
inductive BalanceEnd where
  | done
  | fails (pos : Nat)
  | wait
  deriving DecidableEq, Repr

def State.balanceWrites (s : State) (p : Nat) (t : Timetable) (grade started : Nat) : BalanceEnd × State :=
  let cores := s.participants p
  let base := (t.caps.getD t.balcap {}).cap.base.toNat
  let pos (k : Nat) : Nat := ((s.part p).balPos + k) % t.balcount
  let places := (List.range cores.length).map fun k => (pos k, base + 64 * pos k)
  let ok := places.foldl (fun (acc : (CanWrite × Nat) × State) x =>
    match acc.1.1 with
    | .yes =>
      if acc.2.hitsCode p x.2 64 then ((.no, x.1), acc.2)
      else
        let r := acc.2.canWrite p x.2 64
        ((r.1, x.1), r.2)
    | _ => acc) ((.yes, 0), s)
  match ok.1.1 with
  | .wait => (.wait, ok.2)
  | .no => (.fails ok.1.2, ok.2)
  | .yes =>
    let s := (cores.zip places).foldl (fun s x =>
      (s.writeVirtual (s.part p).pod p x.2.2 (leBytes 64 ((s.core x.1).balanceRecord grade started s.now))).2) ok.2
    (.done, s.onPart p fun x => { x with balPos := x.balPos + cores.length })

/-- Step 3 of R52 with its fault (R455); false while it waits, as a queue entry of the translation unit (R396). -/
def State.balanceStep (s : State) (p : Nat) (t : Timetable) (r : PhaseRun) : Bool × State :=
  if t.balcap = 0xFF then (true, s)
  else
    let at_ := (s.part p).balPos % t.balcount
    if !balanceOk t then (true, s.partitionFault p Cause.balanceWrite at_)
    else match s.balanceWrites p t r.grade r.started with
      | (.wait, s) => (false, s)
      | (.done, s) => (true, s)
      | (.fails k, s) => (true, s.partitionFault p Cause.balanceWrite k)

/-- Exports and band exports lapse (R52, R293, R339). -/
def Core.lapse (c : Core) : Core := { c with eng := { c.eng with exports := [], bandExports := [], bandLive := [] } }

/-- After the boundary: the next phase, the end of the timetable, or the stop of a pre-emption (R55, R60,
R457). DESIGN CHOICE (log 81): the last phase's boundary finishes the timetable although a pre-emption waits. -/
def State.afterBoundary (s : State) (p : Nat) (t : Timetable) (r : PhaseRun) : State :=
  let next := (t.phases.getD r.idx {}).next
  let cores := s.participants p
  let idle (k : RunState) (s : State) : State :=
    cores.foldl (fun s n => s.onSeq n fun q => { q with run := k, ended := false, preempt := false }) s
  if next = 0xFFFF then
    ((idle .idle s).onPart p fun x => { x with state := 3, run := none, ready := none, preemptAt := none }).notify p
  else if (s.part p).state = 6 then
    let s := cores.foldl (fun s n => s.stopFor n 1) s
    s.onPart p fun x => { x with saveKind := 1 }
  else
    ((idle .idle s).onPart p fun x => { x with run := none, ready := some { idx := next } }).soon p .phaseStart

/-- What came over the box link for the phase that ends is used up (R165, R357, R380). -/
def State.takeFar (s : State) (p : Nat) : State :=
  let k := (s.part p).starts
  { s.onPart p fun x => { x with
      farSent := false, phasedSent := false, farBoundary := x.farBoundary - 1, farPhased := x.farPhased - 1 } with
    farArr := s.farArr.filter fun a => !(a.1 == p && a.2.2.2 == k)
    farColl := s.farColl.filter fun b => !(b.part == p && b.starts == k) }

/-- The far module hears that every core of the phase here has issued PHASE (R337, R358). -/
def State.tellPhased (s : State) (p : Nat) : State :=
  let x := s.part p
  if x.twoBox && x.run.isSome && !x.phasedSent && s.phasedHere p then
    (s.setPart p { x with phasedSent := true }).emitOut (.far (.phased p))
  else s

/-- This module reports its boundary to the far one (R380). One that a request of its own to pre-empt is still crossing to
is reached by both (R465); DEDUCED (log 22): a request crosses until the far module's answer has come. -/
def State.tellBoundary (s : State) (p : Nat) : State :=
  let x := s.part p
  let crossing := x.state == 6 && !x.farAsked
  (s.setPart p { x with farSent := true, crossed := x.crossed || crossing }).emitOut (.far (.boundary p crossing))

/-- PHASE_BOUNDARY (R52). A two-box boundary waits for the far module (R380); one at which the partition is being saved
has been taken. -/
def State.phaseBoundary (s : State) (p : Nat) : State :=
  let s := s.tellPhased p
  let x := s.part p
  match x.tt, x.run with
  | some t, some r =>
    if !s.atBoundary p || x.savesBoundary then s
    else if t.twobox && !x.farSent then s.tellBoundary p
    else if t.twobox && x.farBoundary == 0 then s
    else match s.balanceStep p t r with
      | (false, s) => s
      | (true, s) =>
        let s := s.takeFar p
        let s := (s.participants p).foldl (fun s n => s.onCore n Core.lapse) s
        let s := s.reconcile p false false
        s.afterBoundary p t r
  | _, _ => s

end Sys2Proof.Machine
end

