-- ==== Sys2Proof/Machine/Save.lean ====
section
/-! DEFINITION. Pre-emption and resume (R457 to R465): the stop of a core, the context record and its save, the
check of records, the restoring of row sets, and the control requests that start them. -/

namespace Sys2Proof.Machine

/-! Stops (R457). -/

/-- The next bundle of a core holds TRET. -/
def Core.tretNext (c : Core) : Bool :=
  match c.bundleHere with
  | some b => b.ops.any fun x => match x.2 with
    | .tret _ => true
    | _ => false
  | none => false

/-- The stop of a core inside the phase holds: a two-box partition's request has crossed the link (R465). -/
def Partition.asked (x : Partition) (boxUp : Bool) : Bool := !x.twoBox || x.farAsked || x.linkBroke || !boxUp

/-- The boundary cannot be reached any more: another participant has stopped inside the phase, in this box or in
the far one, and every other one has stopped or waits at its PHASE (log 22). One that crossed a request is reached
(R465). -/
def State.phaseHeld (s : State) (p : Nat) : Bool :=
  let cores := s.participants p
  !(s.part p).crossed && (s.part p).asked s.boxUp && ((s.part p).farHeld || cores.any fun n => (s.core n).isStopped) &&
    cores.all fun n => (s.core n).isStopped || (s.core n).seq.run == .atPhase

/-- PREEMPTION_STOP (R457): a core at one of the places where a request lands stops. -/
def State.preemptionStop (s : State) (n : Nat) : State :=
  let c := s.core n
  if !c.seq.preempt || c.seq.halted then s
  else match c.seq.run with
  | .atPhase => if s.phaseHeld c.part then s.stopFor n 0 else s
  | .running =>
    if c.seq.stall != 0 || c.seq.after.isSome then s
    else if c.svc then (if c.tretNext then s.stopFor n 3 else s)
    else if c.seq.safePt then s.stopFor n 0
    else match c.seq.wait with
      | some w => if w.causes.any fun x => x.code == 1 || x.code == 3 then s.stopFor n 2 else s
      | none => s
  | _ => s

/-! The context record (R461). -/

/-- The control registers of a record, in R138 order. -/
def recordCtl : List Nat :=
  [0x000, 0x013, 0x014, 0x015, 0x016, 0x020, 0x021, 0x022, 0x023, 0x024, 0x025, 0x030, 0x031, 0x040, 0x041, 0x042,
    0x043, 0x044, 0x045, 0x050, 0x051, 0x060, 0x061, 0x062, 0x063, 0x065, 0x07C] ++
  (List.range 13).map (0x080 + ·)

/-- Runs of bytes at offsets written one after the other. -/
def writeAll (m : Memory) (l : List (Nat × List Byte)) : Memory := l.foldl (fun m x => m.write x.1 x.2) m

/-- The 64 bytes of a slot's kept sticky state: present, the syllables, the stepped fields, REM and IDX. -/
def stickyBytes (st : Option Sticky) (rem idx : Nat) : List Byte :=
  match st with
  | none => leBytes 48 0 ++ leBytes 16 (rem + idx * 2 ^ 8)
  | some x =>
    let ws := (encode x.op).getD []
    let f (v : Int) : List Byte := leBytes 6 (v % 2 ^ 48).toNat
    leBytes 4 1 ++ leBytes 4 (ws.getD 0 0).toNat ++ leBytes 4 (ws.getD 1 0).toNat ++ leBytes 4 0 ++ f x.dv.d ++ f x.dv.a ++
      f x.dv.b ++ f x.dv.c ++ f x.dv.o ++ leBytes 2 0 ++ leBytes 16 (rem + idx * 2 ^ 8)

def recordQueues : List Nat := [0, 1, 2, 3, 4, 5, 10, 11]

/-- Queue counts of a record: units, and what engines hold for the queue or the draws set aside. -/
def Core.queueCount (c : Core) (q : Nat) : Nat :=
  if q ≥ 14 then 0
  else c.visibleUnits q + (if q = 7 then c.q.aside.length else (Tab.look [] c.q.held q).length) * 2 ^ 16

/-- The parts of a record whose layout the rule gives, by offset. REM and IDX of KIND 3 are those of the issue that the
service run will return to, in TRAPREP (R445, R452). -/
def Core.recordParts (c : Core) (kind grade : Nat) : List (Nat × List Byte) :=
  let header := 1 + 0x0040 * 2 ^ 16 + c.lcore * 2 ^ 32 + c.pidx * 2 ^ 48 + c.starts * 2 ^ 64 + c.scycle * 2 ^ 96 +
    c.seq.pc.toNat * 2 ^ 128 + kind * 2 ^ 192 + grade * 2 ^ 194
  let svc := if kind = 3 then (c.ctlBits Ctl.traprep 7 0, c.ctlBits Ctl.traprep 15 8) else (0, 0)
  [(0x0, leBytes 32 header)] ++
  (List.range 32).map (fun r => (0x100 + 8 * r, leBytes 8 (c.sreg r).toNat)) ++
  (List.range 16).map (fun r =>
    let x := c.cap r
    (0x200 + 32 * r, leBytes 16 x.visible ++ leBytes 2 ((if x.tag then 1 else 0) + x.entry.toNat * 256))) ++
  (List.range 16).map (fun r => (0x400 + 32 * r, leBytes 32 (c.preg r).toNat)) ++
  recordCtl.mapIdx (fun i n => (0x600 + 8 * i, leBytes 8 (c.ctlView n))) ++
  [(0x600 + 8 * recordCtl.length, leBytes 8 (if c.seeding then 1 else 0))] ++
  (List.range 64).map (fun r => (0xA00 + 4 * r, leBytes 4 (c.nreg r).toNat)) ++
  (List.range 6).map (fun k => (0xB00 + 64 * k, stickyBytes (Tab.look none c.seq.sticky k) svc.1 svc.2)) ++
  (List.range 16).map (fun q => (0xD00 + 8 * q, leBytes 8 (c.queueCount q))) ++
  recordQueues.mapIdx (fun i q => (0xD80 + 256 * i, ((c.queue q).map fun v => leBytes 8 v.toNat).flatten)) ++
  recordQueues.mapIdx (fun i q => (0xE00 + 256 * i, ((Tab.look [] c.q.held q).map fun v => leBytes 8 v.toNat).flatten)) ++
  [8, 9].mapIdx (fun i q => (0x1580 + 64 * i, (c.scaleQ q).map (·.1))) ++
  [8, 9].mapIdx (fun i q => (0x15A0 + 64 * i,
    leBytes 8 ((c.scaleQ q).foldr (fun u acc => u.2.toNat + 4 * acc) 0))) ++
  c.q.rows.mapIdx (fun i r => (0x1600 + 768 * i, r.rawBytes)) ++
  (c.streamQ 12).mapIdx (fun i v => (0x2200 + 256 * i, leBytes 256 v.toNat)) ++
  (c.streamQ 13).mapIdx (fun i v => (0x2A00 + 256 * i, leBytes 256 v.toNat)) ++
  [(0x3200, (c.drawsSeen.map fun d => leBytes 2 d.toNat).flatten)]

/-- The 64 KiB of a bank: scratchpad contents, or the images of its local row sets (R462). -/
def Core.bankImage (c : Core) (b : Nat) : List Byte :=
  let x := c.bank b
  if !x.mode then Memory.bytes c.mem (0x10000 * b) 0x10000
  else ((List.range 4).map fun r =>
    let rs : RowSet := Tab.look {} x.sets r
    if rs.prov.isNone then Memory.bytes rs.image 0 0x4000 else List.replicate 0x4000 0#8).flatten

/-- The large parts of a record. -/
def Core.recordBulk (c : Core) : List (Nat × List Byte) :=
  (List.range 16).map (fun b => (0x10000 + b * 0x18000, c.bankImage b)) ++
  [(0x190000, Memory.bytes c.mem 0x100000 0x40000)] ++
  (List.range 384).map (fun r => (0x1D0000 + 256 * r, leBytes 256 (c.vphys r).toNat)) ++
  (List.range 64).map (fun r => (0x1E8000 + 256 * r, leBytes 256 (c.dreg r).toNat)) ++
  ((List.range 16).filter c.eng.alloc.testBit).map (fun b =>
    (0x1EC000 + b * 0x4400, ((List.range 32).map fun r => ((c.accRow b r).rawBytes).take 512).flatten)) ++
  ((List.range 16).filter c.eng.alloc.testBit).map (fun b =>
    (0x1EC000 + b * 0x4400 + 0x4000, ((List.range 32).map fun r => ((c.accRow b r).rawBytes.drop 512).take 16).flatten)) ++
  [(0x230000, (List.range 0x1400).map fun k => (Tab.look (0 : BitVec 4) c.tags k).zeroExtend 8)]

/-- The attributes of a row set (R243, R462) in 4608 bytes: state, formats, storage and tag; the provenance; the CRC-32
of its image, of the first `written` bytes; the index table; and the weight scales (log 19). -/
def RowSet.attributes (r : RowSet) (written : Nat) : List Byte :=
  let pad (n : Nat) (l : List Byte) : List Byte := (l ++ List.replicate n 0#8).take n
  let prov := match r.prov with
    | none => []
    | some p => [1#8, BitVec.ofNat 8 p.cap.entry.toNat, if p.sheller then 1#8 else 0#8] ++
        leBytes 6 (p.off % 2 ^ 48).toNat ++ p.nest.bytes
  pad 8 ([r.state, r.wfmt, r.afmt, r.planes, r.storage, r.tag].map (BitVec.ofNat 8)) ++ pad 240 prov ++
    pad 8 (leBytes 4 (crc32 (Memory.bytes r.image 0 written))) ++
    (List.range 256).map (fun i => BitVec.ofNat 8 (Tab.look 0 r.idx i)) ++
    pad 4096 ((List.range (r.cols * tokenBlocks r.storage)).map fun i => BitVec.ofNat 8 (Tab.look 0 r.scales i))

/-- An entry of the outlier list as bytes: row set, row, column and value. -/
def Outlier.bytes (o : Outlier) : List Byte :=
  leBytes 2 o.rs ++ leBytes 2 o.row ++ leBytes 2 o.col ++ leBytes 2 (o.v % 2 ^ 16).toNat

/-- The copy command that fills a row set, with its channel. -/
def Core.fillOf (c : Core) (b : PassBank) : Option (Nat × CopyCmd) :=
  (List.range 8).findSome? fun ch =>
    ((c.chan ch).queue.find? fun m => m.fills == some b && m.status.isNone).map fun m => (ch, m)

/-- The bytes of a row set's image that its fill has written: all of a set that no copy fills; of a sheller's, none
before its stream has been decoded. -/
def Core.imageBytes (c : Core) (b : PassBank) : Nat :=
  match c.fillOf b with
  | none => 0x4000
  | some (_, m) =>
    if m.kind = .shell then (if c.eng.fills.any fun f => f.id == m.id && f.full then 0x4000 else 0) else m.moved

/-- What follows the 64 KiB of a bank: ACT, its outlier list, and the attributes of its row sets. -/
def Core.bankRest (c : Core) (b : Nat) : List Byte :=
  let x := c.bank b
  leBytes 8 (x.act + x.outl.length * 2 ^ 8) ++ ((x.outl.map Outlier.bytes).flatten ++ List.replicate 512 0#8).take 512 ++
    ((List.range 4).map fun k => (Tab.look {} x.sets k : RowSet).attributes (c.imageBytes (c.nameSet b k))).flatten

/-- The engine area, whose layout belongs to the device, and the rest of each bank's part, whose content alone the rule
gives (log 19). -/
def Core.deviceParts (c : Core) (free : Nat) : List (Nat × List Byte) :=
  (0x6000, (List.range 40960).map fun i => Config.engineByte free i) ::
    (List.range 16).map fun b => (0x10000 + b * 0x18000 + 0x10000, c.bankRest b)

/-- The context record of a core (R461), sealed. -/
def Core.record (c : Core) (launch free kind grade : Nat) : Memory :=
  let c := c.endZblk
  let m := writeAll [] (c.recordParts kind grade ++ c.recordBulk ++ c.deviceParts free)
  m.write 0x20 (leBytes 15 (Config.recordSeal launch m).toNat)

/-! The save. -/

/-- The work that R458 waits for is done: no M command is under way or could still start. -/
def Core.settled (c : Core) : Bool :=
  (c.eng.mq.all fun m => !m.begun && !c.canStart m) && (c.eng.fills.all fun f => f.chan.isSome || f.start.isNone) &&
    c.eng.posts.all fun p => match p with
      | .image none _ _ => true
      | _ => false

/-- Every in-memory unit that works for a core has reached its safe point or been reset, and no channel of it is inside
a copy (R399, R458). -/
def State.unitsRest (s : State) (n : Nat) : Bool :=
  (List.range 8).all fun ch => !(s.core n).midCopy ch && match (s.core n).unitCmd ch with
    | some m => !s.holdsItem n ch m
    | none => true

/-- The address of a core's record. -/
def Partition.recordAt (x : Partition) (l : Nat) : Nat := x.savebase + l % 128 * 2 ^ 22

/-- Whether the pages of a record may be written: all of them, some not, or one waits. -/
def State.recordPages (s : State) (p at_ : Nat) : Bool × State :=
  (List.range 1024).foldl (fun (acc : Bool × State) i =>
    let r := acc.2.canWrite p (at_ + 4096 * i) 4096
    (acc.1 && r.1 != .wait, r.2)) (true, s)

/-- A record goes to memory page by page; a page that cannot be written is left out. DESIGN CHOICE (log 81): a SAVEBASE that
aims it at the code area is obeyed. -/
def State.writeRecord (s : State) (p at_ : Nat) (m : Memory) : State :=
  (List.range 1024).foldl (fun s i =>
    (s.writeVirtual (s.part p).pod p (at_ + 4096 * i) (Memory.bytes m (4096 * i) 4096)).2) s

/-- The link went down while a two-box partition was saving: its records are not resumed (R465). -/
def State.saveLost (s : State) (p : Nat) : State :=
  (s.onPart p fun x => { x with state := 5, code := 0x0B, farSaved := none }).notify p

/-- The far module hears that cores of this one have stopped inside the phase (R465). -/
def State.tellHeld (s : State) (p : Nat) : State :=
  let x := s.part p
  if x.twoBox && x.farAsked && !x.heldSent && x.saveKind != 1 && (s.participants p).any fun n => (s.core n).isStopped then
    (s.setPart p { x with heldSent := true }).emitOut (.far (.held p))
  else s

/-- The cores that a save writes: those of the running phase, or of a phase that still waited to resume inside its run. -/
def State.savers (s : State) (p : Nat) : List Nat :=
  let x := s.part p
  match x.tt, x.run, x.ready with
  | some t, none, some r => if r.resume.any (· != 1) then
      (t.binding.filter fun b => (t.phases.getD r.idx {}).cores.testBit b.1).map (·.2) else []
  | _, _, _ => s.participants p

/-- CONTEXT_SAVE (R461): once every participating core has stopped and its work has settled, each writes its
record; the phase is reconciled, and the partition is saved. Messages between the cores that have not arrived are
kept with them (R458). A phase that still waited to resume is saved again as it was (R422). -/
def State.contextSave (s : State) (p : Nat) : State :=
  let x := s.part p
  let cores := s.savers p
  let s := s.tellHeld p
  let ready := x.state == 6 && x.saveSet.isEmpty && x.preemptAt.isSome && x.asked s.boxUp && x.restore.isEmpty &&
    cores.all fun n => (s.core n).isStopped && (s.core n).settled && s.unitsRest n
  if !ready then s
  else
    let pages := cores.foldl (fun (acc : Bool × State) n =>
      let r := acc.2.recordPages p (x.recordAt (s.core n).lcore)
      (acc.1 && r.1, r.2)) (true, s)
    if !pages.1 then pages.2
    else
      let s := pages.2
      let t := x.tt.getD {}
      let grade := ((x.run.orElse fun _ => x.savedRun).map (·.grade)).getD 0
      let kindOf (c : Core) : Nat := match c.seq.run with
        | .stopped k => k
        | _ => x.saveKind
      let s := cores.foldl (fun s n =>
        let c := s.core n
        let m := c.record t.launch s.nFree (kindOf c) grade
        let s := { s with nFree := s.nFree + 1 }
        let kept := if x.run.isNone then c else { c with bal := { c.bal with phaseAt := s.now - c.bal.phaseAt } }
        (s.writeRecord p ((s.part p).recordAt c.lcore) m).onPart p fun x =>
          { x with saved := { lcore := c.lcore, core := kept, record := m } :: x.saved }) s
      let between (m : Msg) : Bool := cores.contains m.src || cores.contains m.dst
      let s := { s.onPart p fun x => { x with savedMsgs := s.msgs.filter between } with
        msgs := s.msgs.filter fun m => !between m }
      let s := if x.saveKind = 1 ∨ x.run = none then s else s.reconcile p false true
      let idx := match x.run with
        | some r => if x.saveKind = 1 then (t.phases.getD r.idx {}).next else r.idx
        | none => (x.ready.map (·.idx)).getD 0
      let lcs := cores.map fun n => (s.core n).lcore
      let s := s.onPart p fun x => { x with
        savedRun := match x.run with
          | some r => some { r with started := s.now - r.started }
          | none => if x.saveKind = 1 then none else x.savedRun
        resumeIdx := idx, saveSet := lcs, run := none, ready := none, preemptAt := none }
      if !t.twobox then (s.onPart p fun x => { x with state := 7 }).notify p
      else if s.boxUp && !x.linkBroke then s.emitOut (.far (.saved p true))
      else s.saveLost p

/-- At a tick, two modules that have both saved report it together (R465). -/
def State.savedTick (s : State) (p : Nat) : State :=
  let x := s.part p
  if x.twoBox && x.state == 6 && x.preemptAt.isNone && x.farSaved.isSome then
    (s.onPart p fun x => { x with state := 7, farSaved := none }).notify p
  else s

/-! The resume (R462 to R464). -/

/-- A saved core, ready to restart: its commands probe afresh (R399); the notices that came while it was saved are
there, or counted (R235). -/
def restoredCore (old saved : Core) : Core :=
  let stale (m : CopyCmd) : CopyCmd := { m with stale := m.usesDevice, spages := [], dpages := [] }
  let told := ((saved.setQueue 4 (old.queue 4)).setQueue 5 (old.queue 5)).setCtl Ctl.qdrop (Tab.look 0 old.ctl Ctl.qdrop)
  ({ told with
    free := old.free, events := old.events
    seq := { saved.seq with
      preempt := false, arrivedFaults := saved.seq.arrivedFaults
      brkHalt := old.seq.brkHalt, haltReq := old.seq.haltReq, halted := old.seq.halted }
    eng := { saved.eng with
      chans := saved.eng.chans.map fun x => (x.1, { x.2 with queue := x.2.queue.map stale }) } } : Core).goOn

/-- The saved core of logical core `l` whose record the bytes read from its record area are; a refusal, or a wait. -/
def Partition.recordFound (x : Partition) (l : Nat) :
    (List Byte ⊕ MemErr) × State → (SavedCore ⊕ Bool) × State
  | (.inr (.wait _), s) => (.inr true, s)
  | (.inr _, s) => (.inr false, s)
  | (.inl bs, s) =>
    let m := cellsFrom 0 bs
    match x.saved.find? fun r => r.lcore == l && r.record == m with
    | some r => (.inl r, s)
    | none => (.inr false, s)

/-- Finds the saved core whose record a core's record area holds: its bytes, a refusal, or a wait. -/
def State.checkRecord (s : State) (p l : Nat) : (SavedCore ⊕ Bool) × State :=
  (s.part p).recordFound l (s.readVirtual (s.part p).pod p ((s.part p).recordAt l) (2 ^ 22))

/-- The answers of a check made for each of a list in turn, up to the first that is not there. -/
def checkEach (f : State → Nat → (SavedCore ⊕ Bool) × State) : State → List Nat → (List SavedCore ⊕ Bool) × State
  | s, [] => (.inl [], s)
  | s, l :: r =>
    match f s l with
    | (.inr w, s) => (.inr w, s)
    | (.inl x, s) =>
      match checkEach f s r with
      | (.inl xs, s) => (.inl (x :: xs), s)
      | y => y

def State.checkRecords (s : State) (p : Nat) (l : List Nat) : (List SavedCore ⊕ Bool) × State :=
  checkEach (fun s l => s.checkRecord p l) s l

/-- A resume fails: no core restarts (R461, R465). -/
def State.resumeFails (s : State) (p code : Nat) : State :=
  (s.onPart p fun x => { x with state := 4, code := code, resumeAt := 0, farChecked := none }).notify p

/-- The cores take their saved states back, and the phase is ready (R464, R422, R60). -/
def State.restoreCores (s : State) (p : Nat) (l : List SavedCore) : State :=
  let x := s.part p
  let t := x.tt.getD {}
  let phys := (l.filterMap fun r => if Tab.has t.binding r.lcore then some (Tab.look 0 t.binding r.lcore, r.core) else none)
  let s := phys.foldl (fun s e => s.onCore e.1 fun old =>
    let c := restoredCore old e.2
    if x.saveKind = 1 then { c with seq := { c.seq with run := .idle, ended := false } } else c) s
  let s := { s with msgs := s.msgs ++ x.savedMsgs }
  let s := s.onPart p fun x => { x with
    state := 2, savedMsgs := [], resumeAt := 0, farChecked := none, saveSet := [], restore := phys.map (·.1)
    ready := some {
      idx := x.resumeIdx, resume := some x.saveKind
      only := if x.saveKind = 1 then none else x.savedRun.map (·.grade) } }
  (s.notify p).soon p .resumeRestart

/-- One attempt at a resume: the records are checked; a two-box partition also waits for the far check. -/
def State.tryResume (s : State) (p : Nat) : State :=
  let x := s.part p
  let two := x.twoBox
  if x.resumeAt = 0 ∨ x.state ≠ 7 then s
  else if two && !s.boxUp then s.resumeFails p 0x0B
  else match s.checkRecords p x.saveSet with
    | (.inr true, s) => s
    | (.inr false, s) =>
      let s := if two then s.emitOut (.far (.checked p false)) else s
      s.resumeFails p 0x0A
    | (.inl l, s) =>
      if !two then s.restoreCores p l
      else
        let s := if x.farTold then s
          else (s.onPart p fun x => { x with farTold := true }).emitOut (.far (.checked p true))
        match x.farChecked with
        | none => s
        | some false => s.resumeFails p 0x0A
        | some true => s.restoreCores p l

/-- A whole tick: the reckoner, then saves that two modules report together, and resumes that wait (R396,
R417, R465). -/
def State.tick (s : State) : State :=
  let s := s.reckonerTick
  if s.off then s
  else (List.range 40).foldl State.tryResume ((List.range 40).foldl State.savedTick s)

/-- The bytes of a nest of device reads, by destination: the first `n` of them. -/
def State.rereadNest (s : State) (c : Core) (pr : Prov) (n : Nat) : Option (List (Int × List Byte) ⊕ Unit) × State :=
  (List.range pr.nest.copies).foldl (fun (acc : Option (List (Int × List Byte) ⊕ Unit) × State) k =>
    match acc with
    | (some (.inl l), s) =>
      let len := min pr.nest.inner (n - k * pr.nest.inner)
      if len = 0 then (some (.inl l), s)
      else match s.readVirtual (podOf c.num) c.part (pr.cap.base.toNat + (pr.nest.srcAt pr.off k).toNat) len with
        | (.inl bs, s) => (some (.inl (l ++ [(pr.nest.dstAt 0 k, bs)])), s)
        | (.inr (.wait _), s) => (none, s)
        | (.inr _, s) => (some (.inr ()), s)
    | x => x) (some (.inl []), s)

/-- What a row set's provenance gives back (R462): the image, nothing, or a wait. `n`: bytes of the nest. -/
def State.refilled (s : State) (c : Core) (pr : Prov) (n : Nat) : Option (Option Memory) × State :=
  match s.rereadNest c pr n with
  | (none, s) => (none, s)
  | (some (.inr _), s) => (some none, s)
  | (some (.inl l), s) =>
    if pr.sheller then
      match shellPlane (l.map (·.2)).flatten with
      | .plane bs => (some (some (Memory.write [] 0 bs)), s)
      | _ => (some none, s)
    else (some (some (l.foldl (fun m x => m.write x.1.toNat x.2) [])), s)

/-- A row set whose restored rows differ is EMPTY, its fill ends, and the fault is taken (R462). -/
def Core.restoreFails (c : Core) (b : PassBank) : Core :=
  let det := setDetail b.bank b.rs
  match c.eng.fills.find? fun f => f.set == b with
  | some f => c.failFill f Cause.planeIntegrity det
  | none => (c.onSet b fun r => { r with state := 0 }).postFault {
      cause := Cause.planeIntegrity, det := BitVec.ofNat 64 det, src := 1 }

/-- One row set restored from its provenance (R462): a sheller fill that had written no row runs its stream again, and
every other image is read anew and compared over the rows that were written. False: a translation waits, as a queue entry
(R396). -/
def State.restoreSet (s : State) (n : Nat) (b : PassBank) : Bool × State :=
  let c := s.core n
  let r := c.setOf b
  match r.prov with
  | none => (true, s)
  | some pr =>
    if r.state = 0 then (true, s)
    else if r.state = 1 && pr.sheller && c.imageBytes b = 0 then
      match c.fillOf b with
      | some (ch, m) => (true, s.onCore n fun c =>
          (c.onCopy ch m.id fun m => { m with moved := 0, buf := none, ahead := [] }).onFill m.id fun f => { f with
            start := f.start.map fun _ => s.now })
      | none => (true, s)
    else
      let count := c.imageBytes b
      match s.refilled c pr (if r.state = 1 && !pr.sheller then count else pr.nest.total) with
      | (none, t) => (false, { s with units := t.units })
      | (some none, s) => (true, s.onCore n fun c => c.restoreFails b)
      | (some (some image), s) =>
        if crc32 (Memory.bytes image 0 count) = crc32 (Memory.bytes r.image 0 count) then
          (true, s.onCore n fun c => c.onSet b fun r => { r with image := image })
        else (true, s.onCore n fun c => c.restoreFails b)

/-- ROW_SET_RESTORE (R462): a core's row sets that are not local, before any core of the partition issues. -/
def State.rowSetRestore (s : State) (n : Nat) : State :=
  let c := s.core n
  if !(s.part c.part).restore.contains n then s
  else
    let sets := ((List.range 16).filter fun b => (c.bank b).mode).map fun b =>
      (List.range 4).map fun r => c.nameSet b r
    match sets.flatten.foldl (fun (acc : Bool × State) b => match acc with
      | (true, s) => s.restoreSet n b
      | x => x) (true, s) with
    | (false, s) => s
    | (true, s) => (s.onPart c.part fun x => { x with restore := x.restore.filter (· != n) }).soon c.part .resumeRestart

/-! Control requests (R479, R481, R465). -/

/-- The other module of a two-box partition hears of a control request. -/
def State.tellFar (s : State) (p : Nat) (op : FarControl) : State :=
  if (s.part p).twoBox then s.emitOut (.far (.control p op)) else s

/-- LCTL_STOP (R481): the phase aborts; a load that goes on fails with 0x0C (R480). -/
def State.lctlStop (s : State) (p : Nat) : State :=
  let x := s.part p
  if x.state = 2 then s.abortPhase p
  else if x.state = 1 then
    (if x.loadAt = 0 then s else s.emitOut (.far (.control p .stop))).loadFails p 0x0C
  else s

/-- A pre-emption request reaches a running partition (R457, R481): inside a phase, between phases, or while a phase waits
to resume, which is then saved as it was. -/
def State.requestPreempt (s : State) (p : Nat) : State :=
  if (s.part p).state ≠ 2 then s
  else
    let cores := s.participants p
    let s := cores.foldl (fun s n => s.onSeq n fun q => { q with preempt := true }) s
    (s.notify p).onPart p fun x => { x with
      state := 6, preemptAt := some s.now
      saveKind := if x.run.isSome then 0 else ((x.ready.bind (·.resume)).getD 1), saveSet := [], farSaved := none
      farAsked := false, farHeld := false, heldSent := false, crossed := false, linkBroke := false, waiting := false }

/-- The far module's PREEMPT (R465): it is made here too, and answered; or it answers this module's own. -/
def State.farPreempt (s : State) (p : Nat) : State :=
  let asked (s : State) : State := s.onPart p fun x => { x with farAsked := true }
  if (s.part p).state = 2 then (asked (s.requestPreempt p)).tellFar p .preempt
  else if (s.part p).state = 6 then asked s
  else s

/-- A core that a request to pre-empt has stopped goes on to the boundary (R465). -/
def Core.toBoundary (c : Core) : Core :=
  { c.goOn with seq := { c.seq with
      preempt := false
      run := match c.seq.run with
        | .stopped _ => if c.seq.ended then .atPhase else .running
        | r => r } }

/-- The far module has reached its boundary (R380). When a request to pre-empt was crossing the link then, this module's
that the far one had not seen or the far one's that had not been answered, both reach the boundary: the cores that it has
stopped here go on (R465). -/
def State.farBoundary (s : State) (p : Nat) (crossing : Bool) : State :=
  let x := s.part p
  let cross := x.state = 6 && x.twoBox && (!x.farAsked || crossing) && !x.savesBoundary
  let s := s.setPart p { x with farBoundary := x.farBoundary + 1, crossed := x.crossed || cross }
  if cross then (s.participants p).foldl (fun s n => s.onCore n Core.toBoundary) s else s

/-- LCTL_PREEMPT (R481). -/
def State.lctlPreempt (s : State) (p : Nat) : State :=
  if (s.part p).state ≠ 2 then s else (s.requestPreempt p).tellFar p .preempt

/-- A resume of a saved partition begins. -/
def State.requestResume (s : State) (p : Nat) : State :=
  if (s.part p).state ≠ 7 then s
  else (s.onPart p fun x => { x with resumeAt := s.now + 1, farTold := false }).tryResume p

/-- LCTL_RESUME (R481). -/
def State.lctlResume (s : State) (p : Nat) : State :=
  if (s.part p).state ≠ 7 then s else (s.requestResume p).tellFar p .resume

/-- LCTL_GO (R479): the image joins the launch queue, or finds it full. -/
def State.lctlGo (s : State) (p : Nat) : State :=
  let x := s.part p
  if x.queue.length < 4 then s.setPart p { x with queue := x.queue ++ [x.limg] } else s.setPart p { x with qfull := true }

/-- LCTL_UNLOAD (R479): a finished, failed, aborted or saved timetable is discarded. -/
def State.lctlUnload (s : State) (p : Nat) : State :=
  let x := s.part p
  if x.state = 3 ∨ x.state = 4 ∨ x.state = 5 ∨ x.state = 7 then
    (s.setPart p { x with
      state := 0, tt := none, ready := none, saved := [], savedMsgs := [], saveSet := [], savedRun := none
      resumeAt := 0, restore := [] }).notify p
  else s

end Sys2Proof.Machine
end

