-- ==== Sys2Proof/Machine/Debug.lean ====
section
/-! DEFINITION. The debug core (R466 to R468), trace samples (R469) and soft errors (R444). -/

namespace Sys2Proof.Machine

/-! DMCTL (R466). -/

/-- DMCTL_HALTREQ: the selected core stops at its next bundle boundary, at once when it issues nothing. -/
def State.dmctlHaltreq (s : State) : State :=
  if !s.dmActive then s
  else
    let s := s.onSeq s.dmCore fun q => { q with haltReq := true }
    if (s.core s.dmCore).seq.run == .running then s else s.debugStop s.dmCore

/-- A halted core goes on at its saved issue (R468). -/
def Core.resumed (c : Core) : Core := { c with seq := { c.seq with halted := false, haltReq := false } }

/-- DMCTL_RESUMEREQ. -/
def State.dmctlResumereq (s : State) : State :=
  if s.dmActive && (s.core s.dmCore).seq.halted then s.onCore s.dmCore Core.resumed else s

/-- DMCTL_ACTIVE: turning the debug core off resumes every halted core and clears BRKHALT. -/
def State.dmctlActive (s : State) (on : Bool) : State :=
  if on then { s with dmActive := true }
  else { s with
    dmActive := false
    cores := s.cores.map fun x => (x.1, { x.2.resumed with seq := { x.2.resumed.seq with brkHalt := false } }) }

/-! Abstract commands (R467). -/

/-- What REGNO names. -/
inductive DebugReg where
  | ctl (n : Nat) (i : CtlInfo)
  | sreg (r : Nat)
  | cap (r : Nat)
  | preg (r : Nat)
  | dreg (r : Nat)
  | nreg (r : Nat)
  | vreg (r : Nat)
  | pc
  | sticky (slot : Nat)
  | log (i : Nat)
  deriving DecidableEq, Repr

def debugReg (n : Nat) : Option DebugReg :=
  if n ≤ 0x3FF then (ctlInfo n).map (.ctl n)
  else if 0x1000 ≤ n ∧ n ≤ 0x101F then some (.sreg (n - 0x1000))
  else if 0x1100 ≤ n ∧ n ≤ 0x110F then some (.cap (n - 0x1100))
  else if 0x1200 ≤ n ∧ n ≤ 0x120F then some (.preg (n - 0x1200))
  else if 0x1400 ≤ n ∧ n ≤ 0x143F then some (.dreg (n - 0x1400))
  else if 0x1500 ≤ n ∧ n ≤ 0x153F then some (.nreg (n - 0x1500))
  else if 0x2000 ≤ n ∧ n ≤ 0x217F then some (.vreg (n - 0x2000))
  else if n = 0x1600 then some .pc
  else if 0x1610 ≤ n ∧ n ≤ 0x1615 then some (.sticky (n - 0x1610))
  else if 0x1700 ≤ n ∧ n ≤ 0x173F then some (.log (n - 0x1700))
  else none

/-- The 32-bit words of a register. -/
def DebugReg.words : DebugReg → Nat
  | .ctl _ _ | .sreg _ | .pc => 2
  | .cap _ => 5
  | .preg _ | .log _ => 8
  | .dreg _ | .vreg _ => 64
  | .nreg _ => 1
  | .sticky _ => 16

/-- A register's value, and the core as the read leaves it. -/
def Core.debugRead (c : Core) : DebugReg → Nat × Core
  | .ctl n i => c.readCtl n i
  | .sreg r => ((c.sreg r).toNat, c)
  | .cap r => let x := c.cap r; (x.visible + (if x.tag then 2 ^ 128 else 0) + x.entry.toNat * 2 ^ 136, c)
  | .preg r => ((c.preg r).toNat, c)
  | .dreg r => ((c.dreg r).toNat, c)
  | .nreg r => ((c.nreg r).toNat, c)
  | .vreg r => ((c.vphys r).toNat, c)
  | .pc => (c.seq.pc.toNat, c)
  | .sticky k => (leNat (stickyBytes (Tab.look none c.seq.sticky k) 0 0), c)
  | .log i => (((c.devLog[i]?).map (·.toNat)).getD 0, c)

/-- The sticky state that 64 bytes in the layout of R461 give a slot; `none` when they hold no operation. -/
def readSticky (k x : Nat) : Option (Option Sticky) :=
  if !x.testBit 0 then some none
  else
    let a := BitVec.ofNat 32 (bits x 63 32)
    let b := BitVec.ofNat 32 (bits x 95 64)
    let ws := if k = 0 && !a.getLsbD 24 then [a] else [a, b]
    let f (i : Nat) : Int := signed48 (bits x (175 + 48 * i) (128 + 48 * i))
    (decodeAs (some (slotClassOf k)) ws).map fun i =>
      some { op := i, dv := { d := f 0, a := f 1, b := f 2, c := f 3, o := f 4 } }

/-- The code of CMDERR for a refused write. -/
inductive DebugWrite where
  | ok (c : Core)
  | err (code : Nat)
  deriving Repr

/-- A write takes effect as a CTLWR would (R6, R139, R467). -/
def Core.debugWrite (c : Core) (v : Nat) : DebugReg → DebugWrite
  | .ctl n i =>
    if i.rw = 0 ∧ i.w1c = 0 then .err 2
    else if v &&& i.all ≠ v then .err 3
    else .ok (c.ctlEffect ctlInfo n (BitVec.ofNat 64 v))
  | .sreg r => .ok (c.apply ctlInfo (.scalar r (BitVec.ofNat 64 v)))
  | .preg r => .ok (c.apply ctlInfo (.pred r (BitVec.ofNat 256 v) (-1)))
  | .dreg r => .ok (c.apply ctlInfo (.dir r (BitVec.ofNat 2048 v)))
  | .nreg r => .ok (c.apply ctlInfo (.norm r (BitVec.ofNat 32 v)))
  | .vreg r => .ok (c.apply ctlInfo (.vec r (BitVec.ofNat 2048 v) (-1)))
  | .pc =>
    let q := c.seq.goTo (BitVec.ofNat 64 v) .branch
    .ok { c with seq := if q.run == .atPhase then { q with run := .running, ended := false } else q }
  | .sticky k => match readSticky k v with
    | some st => .ok { c with seq := { c.seq with sticky := Tab.store c.seq.sticky k st } }
    | none => .err 3
  | .cap _ | .log _ => .err 2

/-- The value of the first `n` data words. -/
def State.adataValue (s : State) (n : Nat) : Nat :=
  (List.range n).foldr (fun i acc => (Tab.look (0 : Word32) s.adata i).toNat + 2 ^ 32 * acc) 0

def State.setAdata (s : State) (n v : Nat) : State :=
  { s with adata := (List.range n).foldl (fun t i => Tab.store t i (BitVec.ofNat 32 (v / 2 ^ (32 * i)))) s.adata }

/-- ABSTRACT_COMMAND (R467): a write of ACMD. -/
def State.abstractCommand (s : State) (v : Word) : State :=
  let regno := bits v.toNat 15 0
  let c := s.core s.dmCore
  if s.dmBusy then { s with dmErr := 1 }
  else if !c.seq.halted then { s with dmErr := 4 }
  else match debugReg regno with
  | none => { s with dmErr := 2 }
  | some r =>
    if v.getLsbD 16 then
      match c.debugWrite (s.adataValue r.words) r with
      | .ok c => s.setCore s.dmCore c
      | .err e => { s with dmErr := e }
    else
      let x := c.debugRead r
      (s.setCore s.dmCore x.2).setAdata r.words x.1

/-! Trace samples. -/

/-- TRACE_SAMPLE (R469): a sample of a participating core names the bundle that issued last. -/
def State.traceSample (s : State) (n : Nat) : State :=
  let p := (s.core n).part
  if (s.part p).dsamp = 0 || !(s.participants p).contains n then s
  else (s.traceAt n (s.core n).seq.last 3 0).onPart p fun x => { x with sampled := s.now }

/-! Soft errors (R442, R444). -/

def SoftSite.code : SoftSite → Nat
  | .registerFile => 0
  | .computeBank => 1
  | .accumulator => 2
  | .privateMemory => 3
  | .queue => 4
  | .icache => 5

/-- The deviation cause of a replay (R107, R444, log 17). -/
def replayCause (e : SoftError) : Nat × Nat :=
  match e.site with
  | .queue => (1, e.index.toNat % 16)
  | .computeBank | .privateMemory => (2, 0)
  | .accumulator => (8, 0)
  | .registerFile | .icache => (5, 0)

/-- SOFT_ERROR (R444): a replay delays the next issue; any other error is the machine-check fault. -/
def State.softError (s : State) (n : Nat) (e : SoftError) : State :=
  if e.replayable then s.onSeq n fun q => { q with replay := some (replayCause e) }
  else s.onCore n fun c => c.postFault {
    cause := Cause.machineCheck, det := BitVec.ofNat 64 (SoftSite.code e.site + e.index.toNat * 2 ^ 8) }

end Sys2Proof.Machine
end

