-- ==== Sys2Proof/Machine/ExecEvents.lean ====
section
/-! DEFINITION. The meanings of the events of cores, engines, the networks, translation, partitions and the
reckoner. An event acts on the unit that the focus names: a core, with a command, channel, queue or line in
`idx`; a partition or a pod in `idx`; a message in `idx`. -/

namespace Sys2Proof.Machine

/-- Runs an event of a partition where the focus stands. -/
def State.runPart (s : State) (ev : State → Nat → State) : Host.Outcome State Fault Refusal :=
  if s.focus.idx < 40 then .next (ev s s.focus.idx) else .fault .noSuchUnit

/-- Runs an event of a pod's translation unit. -/
def State.runPod (s : State) (ev : State → Nat → State) : Host.Outcome State Fault Refusal :=
  if s.focus.idx < 8 then .next (ev s s.focus.idx) else .fault .noSuchUnit

/-- SOFT_ERROR (R444). -/
def execSoftError (err : SoftError) (s : State) : Host.Outcome State Fault Refusal :=
  s.runCore fun s n => s.softError n err

/-- BUNDLE_ISSUE (R71). -/
def execBundleIssue (s : State) : Host.Outcome State Fault Refusal :=
  s.runCore fun s n => s.bundleIssue n

/-- SLACK_EXHAUSTED (R112). -/
def execSlackExhausted (s : State) : Host.Outcome State Fault Refusal :=
  s.runCore fun s n => s.slackExhausted n

/-- INSTRUCTION_FETCH (R68). -/
def execInstructionFetch (s : State) : Host.Outcome State Fault Refusal :=
  s.runCore fun s n => s.instructionFetch n s.focus.idx

/-- FAULT_DELIVERY (R450). -/
def execFaultDelivery (s : State) : Host.Outcome State Fault Refusal :=
  s.runCore fun s n => s.faultDelivery n

/-- PHASE_START (R49). -/
def execPhaseStart (s : State) : Host.Outcome State Fault Refusal :=
  s.runPart fun s p => s.phaseStart p

/-- PHASE_BOUNDARY (R52). -/
def execPhaseBoundary (s : State) : Host.Outcome State Fault Refusal :=
  s.runPart fun s p => s.phaseBoundary p

/-- RECKONER_TICK (R417). -/
def execReckonerTick (s : State) : Host.Outcome State Fault Refusal :=
  .next s.tick

/-- LEASE_EXPIRY (R477). -/
def execLeaseExpiry (s : State) : Host.Outcome State Fault Refusal :=
  .next s.leaseExpiry

/-- BMODE_SWITCH (R240). -/
def execBmodeSwitch (s : State) : Host.Outcome State Fault Refusal :=
  s.runCore fun s n => s.bmodeSwitch n s.focus.idx

/-- M_COMMAND_START (R263). -/
def execMCommandStart (s : State) : Host.Outcome State Fault Refusal :=
  s.runCore fun s n => s.mStart n s.focus.idx

/-- PASS_TOKEN (R255). -/
def execPassToken (s : State) : Host.Outcome State Fault Refusal :=
  s.runCore fun s n => s.onCore n fun c => c.passToken s.now s.focus.idx

/-- ACCUMULATE (R285). -/
def execAccumulate (s : State) : Host.Outcome State Fault Refusal :=
  s.runCore fun s n => s.onCore n fun c => c.accumulate s.now s.focus.idx

/-- ROW_SET_FULL (R242). -/
def execRowSetFull (s : State) : Host.Outcome State Fault Refusal :=
  s.runCore fun s n => s.onCore n fun c => c.rowSetFull s.now s.focus.idx

/-- CPFOLLOW_HANDOVER (R266). -/
def execCpfollowHandover (s : State) : Host.Outcome State Fault Refusal :=
  s.runCore fun s n => s.handOver n s.focus.idx

/-- REMOTE_DRAIN (R292). -/
def execRemoteDrain (s : State) : Host.Outcome State Fault Refusal :=
  .next (s.remoteDrain s.focus.idx)

/-- REMOTE_ROW_IMAGE (R298). -/
def execRemoteRowImage (s : State) : Host.Outcome State Fault Refusal :=
  .next (s.remoteRowImage s.focus.idx)

/-- COPY_COMMAND_START (R323). -/
def execCopyCommandStart (s : State) : Host.Outcome State Fault Refusal :=
  s.runCore fun s n => s.copyStart n s.focus.idx

/-- COPY_TRANSFER (R326). -/
def execCopyTransfer (s : State) : Host.Outcome State Fault Refusal :=
  s.runCore fun s n => s.copyTransfer n s.focus.idx

/-- COMMAND_COMPLETE (R332). -/
def execCommandComplete (s : State) : Host.Outcome State Fault Refusal :=
  s.runCore fun s n => s.onCore n fun c => c.copyComplete s.focus.idx

/-- RESULT_RECORD (R333). -/
def execResultRecord (s : State) : Host.Outcome State Fault Refusal :=
  s.runCore fun s n => s.onCore n fun c => c.resultRecord s.focus.idx

/-- MARKER_RECORD (R345). -/
def execMarkerRecord (s : State) : Host.Outcome State Fault Refusal :=
  s.runCore fun s n => s.onCore n fun c => c.markerRecord s.focus.idx

/-- TRANSLATION_MARKER (R353). -/
def execTranslationMarker (s : State) : Host.Outcome State Fault Refusal :=
  s.runCore fun s n => s.translationMarker n s.focus.idx

/-- PEER_READ_REQUEST (R340). -/
def execPeerReadRequest (s : State) : Host.Outcome State Fault Refusal :=
  .next (s.peerRead s.focus.idx)

/-- DELIVERY (R340). -/
def execDelivery (s : State) : Host.Outcome State Fault Refusal :=
  .next (s.delivery s.focus.idx)

/-- COLLECTIVE (R357). -/
def execCollective (s : State) : Host.Outcome State Fault Refusal :=
  s.runCore fun s n => s.collective n s.focus.idx

/-- CARRY_WINDOW (R314). -/
def execCarryWindow (s : State) : Host.Outcome State Fault Refusal :=
  s.runCore fun s n => s.carryWindow n

/-- REMOTE_CARRY (R316). -/
def execRemoteCarry (s : State) : Host.Outcome State Fault Refusal :=
  .next (s.remoteCarry s.focus.idx)

/-- CARRYST_RECORD (R321). -/
def execCarrystRecord (s : State) : Host.Outcome State Fault Refusal :=
  s.runCore fun s n => s.onCore n Core.carrystRecord

/-- SEED_WORD (R233). -/
def execSeedWord (s : State) : Host.Outcome State Fault Refusal :=
  s.runCore fun s n => s.onCore n fun c => if c.seedReady then c.seedWord else c

/-- ATOMIC (R377). -/
def execAtomic (s : State) : Host.Outcome State Fault Refusal :=
  s.runCore fun s n => s.atomic n s.focus.idx

/-- ROW_COPY (R404). -/
def execRowCopy (s : State) : Host.Outcome State Fault Refusal :=
  s.runCore fun s n => s.rowCopyStep n s.focus.idx

/-- ZERO_FILL (R405). -/
def execZeroFill (s : State) : Host.Outcome State Fault Refusal :=
  s.runCore fun s n => s.zeroFillStep n s.focus.idx

/-- LOOKUP_RECORD (R411). -/
def execLookupRecord (s : State) : Host.Outcome State Fault Refusal :=
  s.runCore fun s n => s.lookupRecord n s.focus.idx

/-- WATCHDOG_RESET (R398). -/
def execWatchdogReset (s : State) : Host.Outcome State Fault Refusal :=
  s.runCore fun s n => s.watchdogReset n s.focus.idx

/-- TRANSLATION (R386). -/
def execTranslation (s : State) : Host.Outcome State Fault Refusal :=
  s.runPod fun s pod => s.translationStep pod

/-- INVALIDATION_COMPLETE (R395). -/
def execInvalidationComplete (s : State) : Host.Outcome State Fault Refusal :=
  s.runPart fun s p => s.invalidationComplete p

/-- PREEMPTION_STOP (R457). -/
def execPreemptionStop (s : State) : Host.Outcome State Fault Refusal :=
  s.runCore fun s n => s.preemptionStop n

/-- CONTEXT_SAVE (R461). -/
def execContextSave (s : State) : Host.Outcome State Fault Refusal :=
  s.runPart fun s p => s.contextSave p

/-- ROW_SET_RESTORE (R462). -/
def execRowSetRestore (s : State) : Host.Outcome State Fault Refusal :=
  s.runCore fun s n => s.rowSetRestore n

/-- RESUME_RESTART (R464). -/
def execResumeRestart (s : State) : Host.Outcome State Fault Refusal :=
  s.runPart fun s p => s.resumeRestart p

/-- DEBUG_STOP (R468). -/
def execDebugStop (s : State) : Host.Outcome State Fault Refusal :=
  s.runCore fun s n => s.debugStop n

/-- TRACE_SAMPLE (R469). -/
def execTraceSample (s : State) : Host.Outcome State Fault Refusal :=
  s.runCore fun s n => s.traceSample n

/-- DEVICE_ACCESS_COMPLETE (R161). -/
def execDeviceAccessComplete (s : State) : Host.Outcome State Fault Refusal :=
  s.runCore fun s n => s.endAccess n

end Sys2Proof.Machine
end

