-- ==== Sys2Proof/Machine/Abacus.lean ====
section
/-! DEFINITION. The Abacus (R426 to R441): intake and dispatch of events, runs and their budgets, the filter
instructions and triggers, and the host's writes to ACTL, AOWN and ABUDGET. -/

namespace Sys2Proof.Machine

/-! Events on their way (R428, R429). -/

/-- Removes the first event equal to `ev`. -/
def dropEvent (ev : AbEvent) : List AbEvent → List AbEvent
  | [] => []
  | e :: r => if e = ev then r else e :: dropEvent ev r

/-- EVENT_INTAKE (R428): an event enters the intake queue, or is dropped and counted. -/
def State.eventIntake (s : State) (ev : AbEvent) : State :=
  let s := if ev.nocore then { s with events := dropEvent ev s.events }
    else s.onCore ev.pcore.toNat fun c => { c with events := dropEvent ev c.events }
  if s.intake.length < 1024 then { s with intake := s.intake ++ [ev] } else { s with adrop := satAdd32 s.adrop 1 }

/-- An event reaches a context (R433). -/
def Context.reached (c : Context) (ev : AbEvent) : Bool :=
  c.en && c.cls == ev.cls.toNat && (c.owner == some ev.part.toNat || (ev.part == 63#6 && c.owner.isSome)) &&
    (!c.cmatch || (!ev.nocore && c.mcore == ev.pcore.toNat))

def sat16 (x n : Nat) : Nat := min (x + n) 0xFFFF

/-- An event that reaches a context is queued, or dropped and counted (R434, R435). -/
def Context.take (c : Context) (ev : AbEvent) : Context :=
  if c.susp || decide (64 ≤ c.queue.length) then { c with drop := sat16 c.drop 1 }
  else { c with queue := c.queue ++ [ev] }

/-- EVENT_DISPATCH (R433): the front event goes to every context it reaches. -/
def State.eventDispatch (s : State) : State :=
  match s.intake with
  | [] => s
  | ev :: rest =>
    { s with intake := rest, ctxs := s.ctxs.map fun x => (x.1, if x.2.reached ev then x.2.take ev else x.2) }

/-- FILTER_RUN (R434, R435): a context starts a run on its next event, or its budget suspends it. -/
def State.filterRun (s : State) (k : Nat) : State :=
  let c := s.ctx k
  match c.run, c.queue, c.owner with
  | none, ev :: rest, some p =>
    if !c.en || c.susp then s
    else
      let x := s.part p
      if x.budget < x.bused + c.len then
        s.onCtx k fun c => { c with susp := true, drop := sat16 c.drop c.queue.length, queue := [] }
      else
        let s := s.onPart p fun x => { x with bused := x.bused + c.len }
        s.onCtx k fun c => { c with queue := rest, runs := sat16 c.runs 1, run := some { pc := 0, ev := ev } }
  | _, _, _ => s

/-! Filter instructions (R436 to R440). -/

/-- A filter register; f0 reads zero and discards writes (R430). -/
def Context.freg (c : Context) (r : BitVec 4) : Word32 := if r = 0 then 0 else Tab.look 0 c.regs r.toNat
def Context.setF (c : Context) (r : BitVec 4) (v : Word32) : Context :=
  if r = 0 then c else { c with regs := Tab.store c.regs r.toNat v }

/-- The run goes on `off` instructions ahead, or ends past the program (R436). -/
def Context.goOn (c : Context) (r : FilterRun) (off : Nat) : Context :=
  { c with run := if r.pc + off < c.len then some { r with pc := r.pc + off } else none }

/-- One instruction of the run of context `k`; without a run nothing happens. -/
def State.onRun (s : State) (k : Nat) (f : Context → FilterRun → Context) : State :=
  match (s.ctx k).run with
  | none => s
  | some r => s.onCtx k fun c => f c r

/-- An instruction that writes `fd` and goes on. -/
def State.filterSet (s : State) (k : Nat) (fd : BitVec 4) (v : Context → FilterRun → Word32) : State :=
  s.onRun k fun c r => (c.setF fd (v c r)).goOn r 1

/-- Word e`i` of an event (R426). -/
def eventWord (e : AbEvent) (i : Nat) : Word32 :=
  match i with
  | 0 => BitVec.ofNat 32 (e.cls.toNat + e.part.toNat * 2 ^ 3 + e.pcore.toNat * 2 ^ 9 + (if e.nocore then 2 ^ 16 else 0))
  | 1 => e.time
  | n => e.payload.extractLsb' (32 * (n - 2)) 32

def opFilterExit (_ : FA) (k : Nat) (s : State) : State := s.onRun k fun c _ => { c with run := none }

/-- The condition of a branch. -/
def filterCond (cond : BitVec 4) (a b : Word32) : Bool :=
  match cond.toNat with
  | 0 => a == b
  | 1 => a != b
  | 2 => a.slt b
  | 3 => !a.slt b
  | 4 => a.ult b
  | 5 => !a.ult b
  | _ => true

def opFilterBr (f : FA) (k : Nat) (s : State) : State :=
  s.onRun k fun c r => c.goOn r (if filterCond f.fd (c.freg f.fa) (c.freg f.fb) then bits f.sub.toNat 5 0 else 1)

def opFilterLde (f : FA) (k : Nat) (s : State) : State :=
  s.filterSet k f.fd fun _ r => eventWord r.ev (bits f.sub.toNat 3 0)

def opFilterLdi (f : FI) (k : Nat) (s : State) : State := s.filterSet k f.fd fun _ _ => f.imm.signExtend 32

def opFilterLih (f : FI) (k : Nat) (s : State) : State :=
  s.filterSet k f.fd fun c _ => f.imm ++ (c.freg f.fa).extractLsb' 0 16

def opFilterAddi (f : FI) (k : Nat) (s : State) : State :=
  s.filterSet k f.fd fun c _ => c.freg f.fa + f.imm.signExtend 32

/-- An instruction on two registers. -/
def State.filterTwo (s : State) (k : Nat) (f : FA) (op : Word32 → Word32 → Word32) : State :=
  s.filterSet k f.fd fun c _ => op (c.freg f.fa) (c.freg f.fb)

def opFilterAdd (f : FA) (k : Nat) (s : State) : State := s.filterTwo k f (· + ·)
def opFilterSub (f : FA) (k : Nat) (s : State) : State := s.filterTwo k f (· - ·)
def opFilterAnd (f : FA) (k : Nat) (s : State) : State := s.filterTwo k f (· &&& ·)
def opFilterOr (f : FA) (k : Nat) (s : State) : State := s.filterTwo k f (· ||| ·)
def opFilterXor (f : FA) (k : Nat) (s : State) : State := s.filterTwo k f (· ^^^ ·)
def opFilterMin (f : FA) (k : Nat) (s : State) : State := s.filterTwo k f fun a b => if a.slt b then a else b
def opFilterMax (f : FA) (k : Nat) (s : State) : State := s.filterTwo k f fun a b => if a.slt b then b else a
def opFilterAbsd (f : FA) (k : Nat) (s : State) : State :=
  s.filterTwo k f fun a b => BitVec.ofNat 32 (min (a.toInt - b.toInt).natAbs (2 ^ 31 - 1))

def filterShift (f : FI) : Nat := bits f.imm.toNat 4 0

def opFilterShl (f : FI) (k : Nat) (s : State) : State := s.filterSet k f.fd fun c _ => c.freg f.fa <<< filterShift f
def opFilterShr (f : FI) (k : Nat) (s : State) : State := s.filterSet k f.fd fun c _ => c.freg f.fa >>> filterShift f
def opFilterSha (f : FI) (k : Nat) (s : State) : State :=
  s.filterSet k f.fd fun c _ => (c.freg f.fa).sshiftRight (filterShift f)

def opFilterLog2 (f : FA) (k : Nat) (s : State) : State :=
  s.filterSet k f.fd fun c _ =>
    let a := (c.freg f.fa).toNat
    if a = 0 then 0xFFFFFFFF#32 else BitVec.ofNat 32 (Nat.log2 a)

/-- The hash multipliers K(r). -/
def hashMul (r : Nat) : Nat :=
  match r with
  | 0 => 0x9E3779B1
  | 1 => 0x85EBCA77
  | 2 => 0xC2B2AE3D
  | _ => 0x27D4EB2F

def opFilterHash (f : FI) (k : Nat) (s : State) : State :=
  s.filterSet k f.fd fun c _ =>
    BitVec.ofNat 32 ((c.freg f.fa).toNat * hashMul f.sub.toNat % 2 ^ 32 / 2 ^ (32 - bits f.imm.toNat 3 0))

def opFilterEwma (f : FI) (k : Nat) (s : State) : State :=
  s.filterSet k f.fd fun c _ =>
    let d := (c.freg f.fd).toInt
    BitVec.ofInt 32 (d + ((c.freg f.fa).toInt - d) / (2 ^ bits f.imm.toNat 3 0 : Nat))

/-- The index of a table instruction. -/
def tableIndex (c : Context) (f : FI) : Nat := (c.freg f.fa).toNat + f.imm.toNat

/-- A table instruction, which ends the run at an index of 1024 or more (R438). -/
def State.filterTable (s : State) (k : Nat) (f : FI) (g : Context → Nat → Context) : State :=
  s.onRun k fun c r =>
    let i := tableIndex c f
    if i < 1024 then (g c i).goOn r 1
    else { c with run := none, faults := min (c.faults + 1) 0xFF }

def Context.word (c : Context) (i : Nat) : Word32 := Tab.look 0 c.table i
def Context.setWord (c : Context) (i : Nat) (v : Word32) : Context := { c with table := Tab.store c.table i v }

def opFilterTld (f : FI) (k : Nat) (s : State) : State := s.filterTable k f fun c i => c.setF f.fd (c.word i)
def opFilterTst (f : FI) (k : Nat) (s : State) : State := s.filterTable k f fun c i => c.setWord i (c.freg f.fd)
def opFilterTadd (f : FI) (k : Nat) (s : State) : State :=
  s.filterTable k f fun c i => c.setWord i (BitVec.ofNat 32 (satAdd32 (c.word i).toNat (c.freg f.fd).toNat))

/-! Triggers (R441, R472). -/

/-- The trigger notice. -/
def triggerNotice (k cls code : Nat) (v : Word32) : Nat := k + cls * 2 ^ 6 + code * 2 ^ 16 + v.toNat * 2 ^ 32

def State.lostTrigger (s : State) (k : Nat) : State := s.onCtx k fun c => { c with tdrop := sat16 c.tdrop 1 }

/-- A notice for q5 of the core bound to TCORE. -/
def State.triggerCore (s : State) (k p tcore note : Nat) : State :=
  match (s.part p).tt with
  | none => s.lostTrigger k
  | some t =>
    if Tab.has t.binding tcore then s.onCore (Tab.look 0 t.binding tcore) fun c => c.notice 5 (BitVec.ofNat 64 note)
    else s.lostTrigger k

/-- A notice for the host ring of the partition (R472). -/
def State.triggerHost (s : State) (k p note : Nat) : State :=
  let x := s.part p
  if x.arslots = 0 ∨ (x.artail + 1) % x.arslots = x.arhead then s.lostTrigger k
  else
    let s := s.hostWrite s.owner (x.arbase + 8 * x.artail) (leBytes 8 note)
    (s.onPart p fun x => { x with artail := (x.artail + 1) % x.arslots }).notify p

/-- A trace record of a trigger (R469): its source core, and the notice as its datum. -/
def State.triggerTrace (s : State) (p : Nat) (ev : AbEvent) (note : Nat) : State :=
  let x := s.part p
  if x.trlen = 0 then s
  else
    let rec_ := 4 + ev.pcore.toNat * 2 ^ 4 + note * 2 ^ 192
    match s.writeVirtual (podOf (x.cores.headD 0)) p (x.trbase + 32 * x.trnext) (leBytes 32 rec_) .pass with
    | (none, s) => s.onPart p fun x => { x with trnext := (x.trnext + 1) % x.trlen }
    | (some _, s) => s.onPart p fun x => { x with trdrop := satAdd32 x.trdrop 1 }

def opFilterTrig (f : FI) (k : Nat) (s : State) : State :=
  let c := s.ctx k
  match c.run, c.owner with
  | some r, some p =>
    let note := triggerNotice k r.ev.cls.toNat (bits f.imm.toNat 7 0) (c.freg f.fa)
    let s := match c.tdest with
      | 0 => s.triggerCore k p c.tcore note
      | 1 => s.triggerHost k p note
      | _ => s.triggerTrace p r.ev note
    s.onRun k fun c r => c.goOn r 1
  | _, _ => s.onRun k fun c r => c.goOn r 1

/-! ACTL, AOWN and ABUDGET (R430, R431, R435). -/

/-- The first instruction of the program that is not valid (R439). -/
def Context.firstInvalid (c : Context) (len : Nat) : Option Nat :=
  (List.range len).find? fun i => (decodeFilter (Tab.look 0 c.prog i)).isNone

/-- ACTL_WRITE (R431). -/
def Context.actl (c : Context) (v : Nat) : Context :=
  if c.en then (if v.testBit 0 then c else { c with en := false })
  else
    let c := { c with
      cls := bits v 3 1, len := bits v 10 4, tdest := bits v 12 11, tcore := bits v 20 13
      cmatch := v.testBit 21, mcore := bits v 28 22 }
    if !v.testBit 0 then c
    else if c.len = 0 ∨ 64 < c.len ∨ c.cls = 7 ∨ c.tdest = 3 then { c with badprog := true, badpc := 0 }
    else match c.firstInvalid c.len with
      | some i => { c with badprog := true, badpc := i }
      | none => { c with en := true, regs := [], queue := [] }

def State.actlWrite (s : State) (k : Nat) (v : Word) : State := s.onCtx k fun c => c.actl v.toNat

/-- AOWN_WRITE (R430). -/
def State.aownWrite (s : State) (k : Nat) (v : Word) : State :=
  s.onCtx k fun c =>
    let part := bits v.toNat 5 0
    let owner := if v.toNat.testBit 6 then some part else none
    if owner = c.owner then { c with apart := part } else { owner := owner, apart := part }

/-- ABUDGET_WRITE (R435). -/
def State.abudgetWrite (s : State) (p : Nat) (v : Word) : State :=
  let b := bits v.toNat 15 0
  let s := if v.toNat.testBit 32 then s.onPart p fun x => { x with brefused := false } else s
  let others := (s.parts.map fun x => if x.1 = p then 0 else x.2.budget).sum
  if 36800 < others + b then s.onPart p fun x => { x with brefused := true }
  else s.onPart p fun x => { x with budget := b }

end Sys2Proof.Machine
end

