-- ==== Sys2Proof/Machine/ExecFilter.lean ====
section
/-! DEFINITION. The meanings of the filter instructions and of the Abacus events: each acts on the run of the
context that the focus names. -/

namespace Sys2Proof.Machine

/-- Runs a step of a filter context where the focus stands. -/
def State.runCtx (s : State) (ev : State → Nat → State) : Host.Outcome State Fault Refusal :=
  if s.focus.idx < 64 then .next (ev s s.focus.idx) else .fault .noSuchUnit

/-- FILTER_EXIT (R440). -/
def execFilterExit (f : FA) (s : State) : Host.Outcome State Fault Refusal :=
  s.runCtx fun s k => opFilterExit f k s

/-- FILTER_BR (R440). -/
def execFilterBr (f : FA) (s : State) : Host.Outcome State Fault Refusal :=
  s.runCtx fun s k => opFilterBr f k s

/-- FILTER_LDE (R440). -/
def execFilterLde (f : FA) (s : State) : Host.Outcome State Fault Refusal :=
  s.runCtx fun s k => opFilterLde f k s

/-- FILTER_LDI (R440). -/
def execFilterLdi (f : FI) (s : State) : Host.Outcome State Fault Refusal :=
  s.runCtx fun s k => opFilterLdi f k s

/-- FILTER_LIH (R440). -/
def execFilterLih (f : FI) (s : State) : Host.Outcome State Fault Refusal :=
  s.runCtx fun s k => opFilterLih f k s

/-- FILTER_ADDI (R440). -/
def execFilterAddi (f : FI) (s : State) : Host.Outcome State Fault Refusal :=
  s.runCtx fun s k => opFilterAddi f k s

/-- FILTER_ADD (R440). -/
def execFilterAdd (f : FA) (s : State) : Host.Outcome State Fault Refusal :=
  s.runCtx fun s k => opFilterAdd f k s

/-- FILTER_SUB (R440). -/
def execFilterSub (f : FA) (s : State) : Host.Outcome State Fault Refusal :=
  s.runCtx fun s k => opFilterSub f k s

/-- FILTER_AND (R440). -/
def execFilterAnd (f : FA) (s : State) : Host.Outcome State Fault Refusal :=
  s.runCtx fun s k => opFilterAnd f k s

/-- FILTER_OR (R440). -/
def execFilterOr (f : FA) (s : State) : Host.Outcome State Fault Refusal :=
  s.runCtx fun s k => opFilterOr f k s

/-- FILTER_XOR (R440). -/
def execFilterXor (f : FA) (s : State) : Host.Outcome State Fault Refusal :=
  s.runCtx fun s k => opFilterXor f k s

/-- FILTER_MIN (R440). -/
def execFilterMin (f : FA) (s : State) : Host.Outcome State Fault Refusal :=
  s.runCtx fun s k => opFilterMin f k s

/-- FILTER_MAX (R440). -/
def execFilterMax (f : FA) (s : State) : Host.Outcome State Fault Refusal :=
  s.runCtx fun s k => opFilterMax f k s

/-- FILTER_ABSD (R440). -/
def execFilterAbsd (f : FA) (s : State) : Host.Outcome State Fault Refusal :=
  s.runCtx fun s k => opFilterAbsd f k s

/-- FILTER_SHL (R440). -/
def execFilterShl (f : FI) (s : State) : Host.Outcome State Fault Refusal :=
  s.runCtx fun s k => opFilterShl f k s

/-- FILTER_SHR (R440). -/
def execFilterShr (f : FI) (s : State) : Host.Outcome State Fault Refusal :=
  s.runCtx fun s k => opFilterShr f k s

/-- FILTER_SHA (R440). -/
def execFilterSha (f : FI) (s : State) : Host.Outcome State Fault Refusal :=
  s.runCtx fun s k => opFilterSha f k s

/-- FILTER_LOG2 (R440). -/
def execFilterLog2 (f : FA) (s : State) : Host.Outcome State Fault Refusal :=
  s.runCtx fun s k => opFilterLog2 f k s

/-- FILTER_HASH (R440). -/
def execFilterHash (f : FI) (s : State) : Host.Outcome State Fault Refusal :=
  s.runCtx fun s k => opFilterHash f k s

/-- FILTER_EWMA (R440). -/
def execFilterEwma (f : FI) (s : State) : Host.Outcome State Fault Refusal :=
  s.runCtx fun s k => opFilterEwma f k s

/-- FILTER_TLD (R440). -/
def execFilterTld (f : FI) (s : State) : Host.Outcome State Fault Refusal :=
  s.runCtx fun s k => opFilterTld f k s

/-- FILTER_TST (R440). -/
def execFilterTst (f : FI) (s : State) : Host.Outcome State Fault Refusal :=
  s.runCtx fun s k => opFilterTst f k s

/-- FILTER_TADD (R440). -/
def execFilterTadd (f : FI) (s : State) : Host.Outcome State Fault Refusal :=
  s.runCtx fun s k => opFilterTadd f k s

/-- FILTER_TRIG (R441). -/
def execFilterTrig (f : FI) (s : State) : Host.Outcome State Fault Refusal :=
  s.runCtx fun s k => opFilterTrig f k s

/-- EVENT_INTAKE (R428). -/
def execEventIntake (ev : AbEvent) (s : State) : Host.Outcome State Fault Refusal := .next (s.eventIntake ev)

/-- EVENT_DISPATCH (R433). -/
def execEventDispatch (s : State) : Host.Outcome State Fault Refusal := .next s.eventDispatch

/-- FILTER_RUN (R436). -/
def execFilterRun (s : State) : Host.Outcome State Fault Refusal := s.runCtx fun s k => s.filterRun k

end Sys2Proof.Machine
end

