-- ==== Sys2Proof/Machine/HostSide.lean ====
section
/-! DEFINITION. The hosts (R373 to R376, R470 to R489): who may write what, the memory window, partitions and
functions, interfaces and their tear, the scrub, SPDM, the box link, and resets. A request comes through the
function in the focus. -/

namespace Sys2Proof.Machine

/-! Refusals, and who may write (R471, R475, R476). -/

/-- A function's number: its port, and its PF or VF. -/
def fnNum (f : HostFn) : Nat := f.port * 1024 + match f.vf with
  | some v => v + 1
  | none => 0

/-- A refused posted write (R475), which the function logs in its PCIe error status and signals; `p`: the partition whose
window it addressed. -/
def State.refuseWrite (s : State) (p : Option Nat) : State :=
  let s := { s with urLog := Tab.store s.urLog (fnNum s.focus.fn) true }.emitOut (.aer s.focus.fn)
  match p with
  | some p => s.onPart p fun x => { x with refwr := satAdd32 x.refwr 1 }
  | none => s

/-- A write discarded by the lease rule (R476). -/
def State.countStale (s : State) : State := { s with stale := sat16 s.stale 1 }

/-- The partition that a VF serves (R478). -/
def State.vfPart (s : State) (v : Nat) : Option Nat :=
  let e := Tab.look 0 s.vfmap v
  if e.testBit 6 then some (bits e 5 0) else none

/-- The state of an interface (R483): 0 CONFIG_UNLOCKED, 1 CONFIG_LOCKED, 2 RUN, 3 ERROR. -/
def State.iface (s : State) (port v : Nat) : Nat := Tab.look 0 s.tdisp (port * 512 + v)
def State.setIface (s : State) (port v st : Nat) : State :=
  { s with tdisp := Tab.store s.tdisp (port * 512 + v) st }

/-- The request comes through a torn interface (R484). -/
def State.tornHere (s : State) : Bool :=
  match s.focus.fn.vf with
  | some v => s.iface s.focus.fn.port v == 3
  | none => false

/-- The write of a module register: the owner port's PF alone makes it (R476). -/
def State.moduleDo (s : State) (f : State → State) : State :=
  match s.focus.fn.vf with
  | some _ => s
  | none => if s.focus.fn.port = s.owner then f s else s.countStale

/-- The write of a register in the window of partition `p` (R470, R471, R476, R484). -/
def State.windowDo (s : State) (p : Nat) (pfOnly : Bool) (f : State → State) : State :=
  let go (s : State) : State := if (s.part p).exists_ then f s else s
  match s.focus.fn.vf with
  | none => if pfOnly && s.focus.fn.port != s.owner then s.countStale else go s
  | some v =>
    if s.tornHere then s.refuseWrite (some p)
    else if s.vfPart v ≠ some p || pfOnly then s
    else go s

/-- The write of a register of an Abacus context, in its owner's window. -/
def State.contextDo (s : State) (k : Nat) (f : State → State) : State :=
  match (s.ctx k).owner with
  | some p => s.windowDo p false f
  | none => if s.tornHere then s.refuseWrite none else s

/-! The memory window (R373 to R376, R390, R396, R470). -/

/-- The partition whose traffic a VF passes: its interface is in RUN, in a live session (R483). -/
def State.trafficPart (s : State) : Option Nat :=
  match s.focus.fn.vf with
  | none => none
  | some v =>
    if s.iface s.focus.fn.port v = 2 && Tab.look false s.spdm s.focus.fn.port then s.vfPart v else none

/-- The partition and address of `n` bytes at a window offset. -/
def State.windowAddr (s : State) (off n : Nat) : Option (Nat × Nat) :=
  match s.trafficPart with
  | some p => if off + n ≤ 2 ^ 36 then some (p, (s.part p).mwbase + off) else none
  | none => none

/-- The pages of a host access, each with HOST set (R390); `none`: refused, a WAIT entry included (R396). -/
def State.hostPages (s : State) (p a n : Nat) (write : Bool) : Option (List (Nat × Nat × Page)) × State :=
  (pageChunks (n / 4096 + 2) a n).foldl (fun (acc : Option (List (Nat × Nat × Page)) × State) ch =>
    match acc with
    | (none, s) => (none, s)
    | (some l, s) =>
      match s.resolve (s.part p).pod p ch.1 write false with
      | (.page g, s) => (if g.host then some (l ++ [(ch.1, ch.2, g)]) else none, s)
      | (_, s) => (none, s)) (some [], s)

/-- Bytes under a write grant of the running phase (R373). -/
def State.granted (s : State) (p a n : Nat) : Bool :=
  let x := s.part p
  match x.tt, x.run with
  | some t, some r => t.caps.any fun e => e.wg && decide (e.wfirst ≤ r.idx) && decide (r.idx ≤ e.wlast) &&
      rangesMeet a n e.cap.base.toNat e.cap.length.toNat
  | _, _ => false

/-- HOST_WRITE (R373): a posted write to the memory window. -/
def State.hostMemWrite (s : State) (off : Nat) (bs : List Byte) : State :=
  let of_ := match s.focus.fn.vf with
    | some v => s.vfPart v
    | none => none
  match s.windowAddr off bs.length with
  | none => s.refuseWrite of_
  | some (p, a) =>
    if s.hitsCode p a bs.length then s.refuseWrite (some p)
    else match s.hostPages p a bs.length true with
    | (none, s) => s.refuseWrite (some p)
    | (some l, s) =>
      if s.granted p a bs.length then s.onPart p fun x => { x with refwr := satAdd32 x.refwr 1 }
      else s.writePages l bs

/-- HOST_READ (R374). -/
def State.hostMemRead (s : State) (off n : Nat) : State :=
  let no (s : State) : State := s.emitOut (.unsupported s.focus.fn)
  match s.windowAddr off n with
  | none => no s
  | some (p, a) =>
    match s.hostPages p a n false with
    | (none, s) => no s
    | (some l, s) =>
      match s.readPages l with
      | (.inl bs, s) => s.emitOut (.data s.focus.fn bs)
      | (.inr _, s) => no s

/-- Sizes of each AtomicOp (R376). -/
def atomicSize (op : HostAtomicOp) (n : Nat) : Bool :=
  n == 4 || n == 8 || (op == .cas && n == 16)

/-- The new value of an AtomicOp; a compare-and-swap compares with `a` and stores `b`. -/
def atomicValue (op : HostAtomicOp) (n old a b : Nat) : Nat :=
  match op with
  | .fetchAdd => (old + a) % 2 ^ (8 * n)
  | .swap => a % 2 ^ (8 * n)
  | .cas => if old = a % 2 ^ (8 * n) then b % 2 ^ (8 * n) else old

/-- HOST_ATOMIC (R376). -/
def State.hostMemAtomic (s : State) (off : Nat) (op : HostAtomicOp) (n : Nat) (a b : BitVec 128) : State :=
  let no (s : State) : State := s.emitOut (.unsupported s.focus.fn)
  let abort (s : State) : State := s.emitOut (.aborted s.focus.fn)
  if !atomicSize op n then no s
  else match s.windowAddr off n with
  | none => no s
  | some (p, va) =>
    if va % n ≠ 0 then abort s
    else if s.hitsCode p va n then no s
    else match s.resolve (s.part p).pod p va true false with
    | (.page g, s) =>
      if g.loc ≠ 0 then abort s
      else if !g.host then no s
      else if s.granted p va n then abort s
      else match s.devRead (g.at va) n g.cache with
        | (.inr _, s) => no s
        | (.inl bs, s) =>
          (s.devWrite (g.at va) (leBytes n (atomicValue op n (leNat bs) a.toNat b.toNat)) g.mx g.cache).emitOut
            (.data s.focus.fn bs)
    | (_, s) => no s

/-- HOST_TABLE_WRITE (R431, R437, R471): a program store takes no word while EN is 1. -/
def Context.hostWord (c : Context) (target : AbTarget) (i : Nat) (v : Word32) : Context :=
  match target with
  | .program => if c.en || decide (64 ≤ i) then c else { c with prog := Tab.store c.prog i v }
  | .table => if 1024 ≤ i then c else { c with table := Tab.store c.table i v }

def State.hostTable (s : State) (k : Nat) (target : AbTarget) (i : Nat) (v : Word32) : State :=
  s.contextDo k fun s => s.onCtx k fun c => c.hostWord target i v

/-! The lease (R476, R477). -/

def State.renew (s : State) (epoch : Nat) (yield : Bool) : State :=
  match s.focus.fn.vf with
  | some _ => s
  | none =>
    if s.focus.fn.port ≠ s.owner ∨ epoch ≠ s.epoch then s.countStale
    else { s with lremain := s.llen, yield := s.yield || yield }

/-! Partitions and functions (R478). -/

/-- PCTL_CREATE. -/
def State.create (s : State) (p : Nat) : State :=
  if 40 ≤ p ∨ (s.part p).exists_ ∨ s.pmask = 0 ∨ s.parts.any fun e => e.2.pairs &&& s.pmask != 0 then
    { s with pctlErr := true }
  else
    let x : Partition := { pairs := s.pmask }
    x.cores.foldl (fun s n => s.onCore n fun c => { c with part := p }) ({ s with pctlErr := false }.setPart p x)

/-- PCTL_DESTROY. -/
def State.destroy (s : State) (p : Nat) : State :=
  let x := s.part p
  if !x.exists_ || !(x.state == 0 || x.state == 4) then { s with pctlErr := true }
  else
    let s := x.cores.foldl (fun s n => s.onCore n fun c => c.launched 63) s
    { s with
      pctlErr := false
      parts := Tab.drop s.parts p
      vfmap := s.vfmap.map fun e => (e.1, if e.2 = p + 64 then p else e.2)
      ctxs := s.ctxs.filter fun e => e.2.owner != some p
      msgs := s.msgs.filter fun m => !(x.cores.contains m.src || x.cores.contains m.dst)
      units := s.units.map fun u => (u.1, { u.2.forgetWalks p with
        cache := u.2.cache.filter fun e => e.1 != p, walks := u.2.walks.filter fun w => w.part != p }) }

/-- VFMAP_WRITE: ignored unless both interfaces of the VF are in CONFIG_UNLOCKED. -/
def State.mapVf (s : State) (v : Nat) (value : Word) : State :=
  if 512 ≤ v ∨ s.iface 0 v ≠ 0 ∨ s.iface 1 v ≠ 0 then s
  else { s with vfmap := Tab.store s.vfmap v (bits value.toNat 6 0) }

/-! Energy registers with rules of their own (R33, R418, R424). -/

def State.refuseEnergy (s : State) (p : Nat) : State := s.onPart p fun x => { x with refused := true }

/-- EPWR_WRITE. -/
def State.setShare (s : State) (p : Nat) (v : Word) : State :=
  let w := bits v.toNat 9 0
  if s.mpwr < s.sumWatts - (s.part p).watts + w then s.refuseEnergy p
  else s.onPart p fun x => { x with watts := w }

/-- MPWR_WRITE: a value outside the range, or below the sum of the shares, is refused. DESIGN CHOICE (log 59): its
REFUSED bit is that of every partition's ESTAT. -/
def State.setLimit (s : State) (v : Word) : State :=
  let w := bits v.toNat 9 0
  if w < 450 ∨ 850 < w ∨ w < s.sumWatts then { s with parts := s.parts.map fun x => (x.1, { x.2 with refused := true }) }
  else { s with mpwr := w }

/-- TCTL_WRITE (R393). -/
def State.setTctl (s : State) (p : Nat) (v : Word) : State :=
  s.onPart p fun x => if x.tt.isSome then x else
    { x with tcen := v.getLsbD 0, tcroot := bits v.toNat 39 12 }

/-- TRLEN_WRITE: TRBASE (`base`) or TRLEN; NEXT becomes 0 (R474). -/
def State.setTrace (s : State) (p : Nat) (base : Bool) (v : Word) : State :=
  s.onPart p fun x =>
    if base then
      let a := bits v.toNat 56 0
      if a % 4096 ≠ 0 then x else { x with trbase := a, trnext := 0 }
    else { x with trlen := bits v.toNat 31 0, trnext := 0 }

/-! RESYNC (R482). -/

/-- RESYNC_GO: through either port's PF. -/
def State.resyncGo (s : State) : State :=
  match s.focus.fn.vf, s.resync with
  | none, none => { s with resync := some s.focus.fn.port }
  | _, _ => s

/-! The tear of an interface (R360, R456, R484). -/

/-- The page of the port's host memory that a command names on one of its sides. -/
def CopyCmd.hostSide (m : CopyCmd) (port : Nat) : Bool :=
  m.status.isNone && (m.spages ++ m.dpages).any fun g => g.loc == port + 1

/-- An address on a page behind the port, inside a 4 KiB unit of the host's memory. -/
def midHost (port : Nat) (pages : List Page) (a : Nat) : Bool :=
  (pages.find? fun g => g.loc == port + 1 && g.covers a).any fun g => g.at a % 4096 != 0

/-- The next byte that a command reads, or writes, lies behind the port inside a 4 KiB unit. -/
def CopyCmd.readsMid (m : CopyCmd) (port : Nat) : Bool :=
  m.kind != .fill && m.nest.skind == 1 && decide (m.moved + m.ahead.length < m.nest.total) &&
    midHost port m.spages (m.sc.base.toNat + m.srcPiece.at_.toNat)
def CopyCmd.writesMid (m : CopyCmd) (port : Nat) : Bool :=
  (m.kind == .go || m.kind == .fill) && m.nest.dkind == 1 && midHost port m.dpages (m.dc.base.toNat + m.dstPiece.at_.toNat)

/-- A started transfer goes on to the next 4 KiB-aligned host address, and what it has read from the host is written
(R360); `fuel` bounds its pieces. -/
def State.finishTransfer (n ch id port : Nat) : Nat → State → State
  | 0, s => s
  | fuel + 1, s =>
    match (s.core n).copyCmd ch id with
    | none => s
    | some m =>
      let go (x : Xfer Unit × State) : State := match x.1 with
        | .ok _ => State.finishTransfer n ch id port fuel x.2
        | _ => s
      let p := m.dstPiece
      if m.status.isSome || decide (m.nest.total ≤ m.moved) then s
      else if m.readsMid port then go (s.readPiece n ch m m.srcPiece)
      else if m.writesMid port then
        if m.ahead.length < m.wanted then go (s.readPiece n ch m m.srcPiece)
        else go (s.writePiece n ch m p (if m.kind = .fill then fillBytes m.value p.at_ p.len else m.ahead.take p.len))
      else if m.ahead.isEmpty || m.nest.skind != 1 then s
      else go (s.writePiece n ch m p (m.ahead.take p.len))

/-- The commands whose bytes a tear lets go on. -/
def CopyKind.movesNest : CopyKind → Bool
  | .go | .mcast | .fill | .shell => true
  | _ => false

/-- A command aborted by a tear: STATUS 1, a frozen watermark, and an EMPTY row set (log 15). -/
def Core.tearCopy (c : Core) (ch : Nat) (m : CopyCmd) : Core :=
  let c := match m.fills with
    | some b => ({ c with eng := { c.eng with fills := c.eng.fills.filter fun f => f.id != m.id } } : Core).onSet b
        fun r => { r with state := 0 }
    | none => c
  let c := (c.onCopy ch m.id fun m => { m with status := some 1, scq := [], ahead := [], aheadSlots := [] }).sbDrop m.id
  let c : Core := { c with eng := { c.eng with follows := c.eng.follows.filter fun f => f.cmd != some m.id } }
  if !m.localDst then c
  else
    let x := c.chan ch
    c.setChan ch { x with frozen := x.frozen ++ [{ lo := m.dstRange.1, len := m.dstRange.2, wm := m.markEnd }] }

/-- The commands of a core that move bytes over a torn port: each ends, and the core takes one fault. -/
def State.tearCore (s : State) (port n : Nat) : State :=
  let hit := ((List.range 8).map fun ch =>
    (((s.core n).chan ch).queue.filter fun m => m.hostSide port).map fun m => (ch, m)).flatten
  match hit with
  | [] => s
  | (ch, m) :: _ =>
    let s := hit.foldl (fun s x =>
      let s := if x.2.started && x.2.kind.movesNest then
          State.finishTransfer n x.1 x.2.id port (2 * x.2.nest.total + 2) s
        else s
      s.onCore n fun c => match c.copyCmd x.1 x.2.id with
        | some m => if m.status.isNone then c.tearCopy x.1 m else c
        | none => c) s
    let mask := (hit.map (·.1)).eraseDups.foldl (fun k ch => k + 2 ^ ch) 0
    s.onCore n fun c => c.postFault {
      cause := Cause.hostLinkTorn, det := BitVec.ofNat 64 mask, src := 2, chan := ch, seq := m.seq, cmd := m.bundle }

/-- An interface is torn (R484). -/
def State.tear (s : State) (port v : Nat) : State :=
  let s := s.setIface port v 3
  match s.vfPart v with
  | none => s
  | some p =>
    let s := s.onPart p fun x => { x with torn := x.torn ||| 2 ^ port, needScrub := true, scrubbing := false }
    (s.part p).cores.foldl (fun s n => s.tearCore port n) s

/-- INTERFACE_TORN (R484): an interface in RUN leaves it. -/
def State.tearInterface (s : State) (port v : Nat) : State := if s.iface port v ≠ 2 then s else s.tear port v

/-- INTERFACE_TORN of the function in the focus. -/
def State.tearHere (s : State) : State :=
  match s.focus.fn.vf with
  | some v => s.tearInterface s.focus.fn.port v
  | none => s

/-- LOCK_INTERFACE (R483, R484): the first one after a tear starts the scrub, and is refused. -/
def State.lockInterface (s : State) : State :=
  let port := s.focus.fn.port
  match s.focus.fn.vf with
  | none => s
  | some v =>
    match s.vfPart v with
    | none => s
    | some p =>
      let x := s.part p
      if !Tab.look false s.spdm port then s
      else if x.needScrub then (if x.tt.isSome then s else s.setPart p { x with scrubbing := true })
      else if s.iface port v = 0 then s.setIface port v 1
      else s

/-- The device ranges that a table maps, from level `l` − 1 down (R383 to R386). Its entries are read burst by burst
(R135); one that cannot be read maps nothing. -/
def mappedRanges : Nat → State → Nat → List (Nat × Nat) × State
  | 0, s, _ => ([], s)
  | l + 1, s, t =>
    (List.range 512).foldl (fun (acc : List (Nat × Nat) × State) i =>
      match acc.2.devRead (t + 8 * i) 8 true with
      | (.inr _, s) => (acc.1, s)
      | (.inl bs, s) =>
        let x := leNat bs
        if bits x 0 0 = 0 ∨ bits x 63 52 ≠ 0 then (acc.1, s)
        else if bits x 1 1 = 0 then
          if bits x 10 2 ≠ 0 ∨ l = 0 then (acc.1, s)
          else
            let r := mappedRanges l s (bits x 51 12 * 4096)
            (acc.1 ++ r.1, r.2)
        else match leafPage s 0 t i l x with
          | (.page g, s) => (if g.loc = 0 then acc.1 ++ [(g.pa, g.size)] else acc.1, s)
          | (_, s) => (acc.1, s)) ([], s)

/-- Zeroes a range of device memory, with check codes (R132). -/
def State.zeroDevice (s : State) (a n : Nat) : State :=
  let u := a / 64
  let k := n / 64
  { s with
    dev := s.dev.clear a n, slots := s.slots.dropRange u k, bad := s.bad.dropRange u k
    weak := s.weak.dropRange u k, lineErr := s.lineErr.dropRange u k, poison := s.poison.dropRange u k }

/-- SCRUB_COMPLETE (R484): the interfaces that were torn may lock again. -/
def State.scrubComplete (s : State) (p : Nat) : State :=
  let x := s.part p
  if !x.scrubbing then s
  else
    let found := if x.tcen then mappedRanges 5 s (x.tcroot * 4096) else ([], s)
    let s := found.1.foldl (fun s r => s.zeroDevice r.1 r.2) found.2
    let s := s.setPart p { x with needScrub := false, scrubbing := false }
    { s with tdisp := s.tdisp.map fun e => (e.1, if e.2 = 3 ∧ s.vfPart (e.1 % 512) = some p then 0 else e.2) }

/-! SPDM (R483, R485). -/

/-- The measurements of R485. DEDUCED (log 78): that of the firmware image is its SHA-512 digest. -/
def State.measurementOf (s : State) (i : Nat) : List Byte :=
  if i = 2 then leBytes 64 s.firmware.digest.toNat
  else if i = 1 ∨ i = 3 then leBytes 64 (Config.measurement i).toNat
  else if 16 ≤ i ∧ i < 56 then leBytes 64 (s.part (i - 16)).digest.toNat
  else []

/-- The responder's RSA-4096 signature over the SHA-512 digest of a nonce and an answer (R485). -/
def spdmSigned (nonce : BitVec 256) (answer : List Byte) : BitVec 4096 :=
  Config.spdmSign (BitVec.ofNat 512 (leNat (sha512 (leBytes 32 nonce.toNat ++ answer))))

/-- The end of a session tears every interface it protects, locked or in RUN (R484), and its port's IDE streams end
(log 78). -/
def State.endSession (s : State) (port : Nat) : State :=
  let s := { s with spdm := Tab.store s.spdm port false, ide := s.ide.filter fun e => e.1 / 256 != port }
  (s.tdisp.filter fun e => e.1 / 512 == port && (e.2 == 1 || e.2 == 2)).foldl (fun s e => s.tear port (e.1 % 512)) s

/-- An interface that is locked starts, in a live session. -/
def State.startInterface (s : State) (port v : Nat) : State :=
  if s.iface port v = 1 && Tab.look false s.spdm port then
    let s := s.setIface port v 2
    match s.vfPart v with
    | some p => s.onPart p fun x => { x with torn := if x.torn.testBit port then x.torn - 2 ^ port else x.torn }
    | none => s
  else s

/-- An interface is stopped: one in RUN leaves it, and is torn (R484); one that is locked is unlocked, and so is one in
ERROR that serves no partition. PRESUMED (log 78): the STOP_INTERFACE request of TDISP. -/
def State.stopInterface (s : State) (port v : Nat) : State :=
  if s.iface port v = 2 then s.tearInterface port v
  else if s.iface port v = 1 || (s.vfPart v).isNone then s.setIface port v 0
  else s

/-- The request of an interface acts on the VF that it comes through. -/
def State.onInterface (s : State) (f : State → Nat → Nat → State) : State :=
  match s.focus.fn.vf with
  | some v => f s s.focus.fn.port v
  | none => s

/-- A change of an IDE stream of a port (R483), in a live session. -/
def State.onStream (s : State) (port : Nat) (k : BitVec 8) (f : Tab IdeStream → Nat → Tab IdeStream) : State :=
  if Tab.look false s.spdm port then { s with ide := f s.ide (port * 256 + k.toNat) } else s

/-- SPDM_REQUEST. PRESUMED (log 78): which requests there are, what each answers, and which answers are signed. -/
def State.spdmRequest (s : State) (r : SpdmReq) : State :=
  let port := s.focus.fn.port
  let plain (s : State) : State := s.emitOut (.spdm r [] none)
  match r with
  | .startSession => plain { s with spdm := Tab.store s.spdm port true }
  | .endSession => plain (s.endSession port)
  | .challenge nonce =>
    let answer := sha512 (Config.certificate 0)
    s.emitOut (.spdm r answer (some (spdmSigned nonce answer)))
  | .getMeasurement i nonce =>
    let answer := s.measurementOf i
    s.emitOut (.spdm r answer (some (spdmSigned nonce answer)))
  | .getCertificate k => s.emitOut (.spdm r (if k = 0 then Config.certificate 0 else []) none)
  | .startInterface => plain (s.onInterface State.startInterface)
  | .stopInterface => plain (s.onInterface State.stopInterface)
  | .keyProgram k key => plain (s.onStream port k fun t i => Tab.store t i { key := key, live := false })
  | .keyGo k => plain (s.onStream port k fun t i =>
      if Tab.has t i then Tab.store t i { (Tab.look {} t i) with live := true } else t)
  | .keyStop k => plain (s.onStream port k fun t i => Tab.drop t i)

/-! The box link (R465, R487, R488). -/

/-- The far module launches (R488): what it told of an earlier launch is over, and what follows is of this one, also while
the load here still waits (R52). -/
def State.farLaunches (s : State) (p : Nat) (d : BitVec 512) (ok : Bool) : State :=
  { s.onPart p fun x => { x with
      farLaunch := some (d, ok), farLaunchAt := s.now, farBoundary := 0, farPhased := 0, farHeld := false } with
    farArr := s.farArr.filter fun a => a.1 != p
    farColl := s.farColl.filter fun b => b.part != p }

/-- BOX_LINK_NOTICE. -/
def State.farNotice (s : State) (n : FarNotice) : State :=
  match n with
  | .gbar p g l k => { s with farArr := s.farArr ++ [(p, g, l, k)] }
  | .collective b => { s with farColl := s.farColl ++ [b] }
  | .applied p g l n k => s.farApplied p g l n k
  | .control p op => match op with
    | .stop => s.lctlStop p
    | .preempt => s.farPreempt p
    | .resume => s.requestResume p
  | .launch p d ok => (s.farLaunches p d ok).tryLoad p
  | .saved p ok => s.onPart p fun x => { x with farSaved := some ok }
  | .checked p ok => (s.onPart p fun x => { x with farChecked := some ok }).tryResume p
  | .phased p => s.onPart p fun x => { x with farPhased := x.farPhased + 1 }
  | .boundary p crossing => s.farBoundary p crossing
  | .held p => s.onPart p fun x => { x with farHeld := true }

/-- A two-box partition loses the link (R465, R488). -/
def State.linkLost (s : State) (p : Nat) : State :=
  let x := s.part p
  let two := x.twoBox
  if x.loading.isSome && x.loadAt != 0 then s.loadFails p 0x07
  else if !two then s
  else if x.state = 2 then (s.abortPhase p).onPart p fun x => { x with code := 0x0B }
  else if x.state = 6 ∧ x.preemptAt.isNone then s.saveLost p
  else if x.state = 6 then s.setPart p { x with linkBroke := true }
  else s.tryResume p

/-- BOX_LINK_DOWN. -/
def State.boxDown (s : State) : State := (List.range 40).foldl State.linkLost { s with boxUp := false }

/-- FAR_LAUNCH_TIMEOUT (R465, R488): what the far module owes has not come within a second. -/
def State.farTimeout (s : State) (p : Nat) : State :=
  let x := s.part p
  let late (at_ : Nat) : Bool := at_ != 0 && decide (at_ + oneSecond ≤ s.now + 1)
  if x.loading.isSome && late x.loadAt then s.loadFails p 0x07
  else if x.twoBox && late x.resumeAt then s.resumeFails p 0x0B
  else s

/-! Resets, power and temperature (R400, R489). -/

/-- The module as a reset leaves it: every register at its reset value, device memory zero, READY set. What
lies outside it stays: host memory, the requests already answered, and the model's free values. -/
def State.restarted (s : State) (up0 up1 box : Bool) : State := {
  ready := true, link0 := up0, link1 := up1, boxUp := box, owner := if up0 then 0 else 1
  host0 := s.host0, host1 := s.host1, out := s.out, params := s.params, nFree := s.nFree, ticks := s.ticks
  launches := s.launches, offCause := s.off, focus := s.focus
  firmware := s.firmware, fused := s.fused, resets := s.resets + 1
  cores := s.cores.map fun e => (e.1, { num := e.1, free := e.2.free }) }

/-- Firmware is accepted with a valid signature over its digest and a rollback counter not below the fused one
(R485). -/
def Firmware.accepted (f : Firmware) (fused : Nat) : Bool :=
  Config.firmwareSigned f.digest f.sign && decide (fused ≤ f.rollback)

/-- The boot ROM's part of a reset (R485, R489): without an accepted firmware the module does not become ready. -/
def State.boot (s : State) (up0 up1 box : Bool) : State :=
  if s.firmware.accepted s.fused then s.restarted up0 up1 box else { s.restarted up0 up1 box with ready := false }

/-- COLD_RESET (R477, R489). Whether each port and the box link train within 1 s is open (log 7). -/
def State.coldReset (s : State) : State :=
  let up := Config.trains s.resets
  s.boot (up 0) (up 1) (up 2)

/-- PF_FUNCTION_LEVEL_RESET: from the owner port, as a cold reset with the links as they were. -/
def State.pfReset (s : State) : State :=
  match s.focus.fn.vf with
  | some _ => s
  | none => if s.focus.fn.port = s.owner then s.boot s.link0 s.link1 s.boxUp else s

/-- VF_FUNCTION_LEVEL_RESET tears the interface (R489); one that is torn already, or unlocked and without a partition, has
nothing to tear. -/
def State.vfReset (s : State) : State :=
  match s.focus.fn.vf with
  | none => s
  | some v =>
    let port := s.focus.fn.port
    if s.iface port v = 3 || (s.iface port v = 0 && (s.vfPart v).isNone) then s else s.tear port v

/-- DOUBLED_REFRESH of a stack (R400). -/
def State.doubledRefresh (s : State) (k : Nat) : State := (s.onStack k fun x => { x with doubled := true }).stick k 6

/-- PORT_LINK_CHANGE (R476). -/
def State.linkChange (s : State) (port : Nat) (up : Bool) : State :=
  if port = 0 then { s with link0 := up } else { s with link1 := up }

end Sys2Proof.Machine
end

