-- ==== Sys2Proof/Machine/HostRegs.lean ====
section
/-! DEFINITION. The host registers: the partition window (R471, R472, R474, R479), the module registers of PF BAR0
(R473), and HOST_REGISTER_WRITE and HOST_REGISTER_READ (R470, R475, R476). -/

namespace Sys2Proof.Machine

/-! Fields of the partition window. -/

/-- LSTAT (R479). -/
def Partition.lstat (x : Partition) : Nat :=
  x.state + (if x.qfull then 2 ^ 3 else 0) + x.queue.length * 2 ^ 4 + x.code * 2 ^ 8 + x.pidx % 2 ^ 16 * 2 ^ 16 +
    x.starts % 2 ^ 32 * 2 ^ 32

/-- INVSTAT (R394). -/
def Partition.invstat (x : Partition) : Nat :=
  (if x.inval.isSome then 1 else 0) + (if x.invDrop then 2 else 0) + x.invAborts * 2 ^ 16 + x.invDone % 2 ^ 32 * 2 ^ 32

/-- ESTAT (R424). -/
def Partition.estat (x : Partition) : Nat :=
  (if x.waiting then 1 else 0) + (if x.refused then 2 else 0) + (if x.credit then 4 else 0) + x.tf % 256 * 2 ^ 8

/-- A balance in 48 bits. -/
def balBits (b : Int) : Nat := (b % 2 ^ 48).toNat

/-- A read of a window register: its value, and the partition as the read leaves it (R5). -/
def Partition.readReg (x : Partition) (off : Nat) : Nat × Partition :=
  match off with
  | 0x000 => (x.limg, x)
  | 0x010 => (x.lstat, x)
  | 0x018 => (x.digest.toNat % 2 ^ 64, x)
  | 0x100 => ((if x.tcen then 1 else 0) + x.tcroot * 2 ^ 12, x)
  | 0x108 => ((if x.invAll then 1 else 0) + x.invBase * 2 ^ 12, x)
  | 0x110 => (x.invLen, x)
  | 0x118 => (x.invstat, { x with invAborts := 0 })
  | 0x200 => (x.watts, x)
  | 0x208 => (x.cap, x)
  | 0x210 => (balBits x.bal, x)
  | 0x218 => (x.prio, x)
  | 0x220 => (x.pin, x)
  | 0x228 => ((x.meas + x.metered) % 2 ^ 64, x)
  | 0x230 => (x.estat, x)
  | 0x300 => (x.budget + min x.bused 0xFFFF * 2 ^ 16 + (if x.brefused then 2 ^ 32 else 0), x)
  | 0x400 => (x.tvec, x)
  | 0x408 => (x.savebase, x)
  | 0x410 => (x.trbase, x)
  | 0x418 => (x.trlen + x.trnext * 2 ^ 32, x)
  | 0x420 => (x.dsamp, x)
  | 0x428 => (x.trdrop, { x with trdrop := 0 })
  | 0x430 => (x.mwbase, x)
  | 0x438 => (x.arbase, x)
  | 0x440 => (x.arslots + x.arhead * 2 ^ 16 + x.artail * 2 ^ 32, x)
  | 0x448 => (x.refwr, { x with refwr := 0 })
  | 0x500 => (x.pfCause + x.pfDet * 2 ^ 8 + (if x.pfNew then 2 ^ 40 else 0), x)
  | _ => (0, x)

/-- A timetable is loading, running, saving or saved: TVEC and SAVEBASE keep their values (R474). -/
def Partition.held (x : Partition) : Bool := x.state == 1 || x.state == 2 || x.state == 6 || x.state == 7

/-- The registers of the window that the PF alone writes (R471). -/
def pfOnlyReg (off : Nat) : Bool := off == 0x100 || off == 0x200 || off == 0x208 || off == 0x218 || off == 0x300

/-- A write of LCTL (R479, R481): a control bit acts before GO. -/
def State.lctlWrite (s : State) (p v : Nat) : State :=
  let s := if v.testBit 1 then s.lctlStop p else s
  let s := if v.testBit 2 then s.lctlPreempt p else s
  let s := if v.testBit 3 then s.lctlResume p else s
  let s := if v.testBit 4 then s.lctlUnload p else s
  if v.testBit 0 then s.lctlGo p else s

/-- A write of INVREQ (R394): the range, then GO. -/
def State.invreqWrite (s : State) (p v : Nat) : State :=
  let s := s.onPart p fun x => { x with invAll := v.testBit 0, invBase := bits v 56 12 }
  if v.testBit 1 then s.invreqGo p else s

/-- A write of a window register (R471). -/
def State.windowReg (s : State) (p off : Nat) (w : Word) : State :=
  let v := w.toNat
  let on (f : Partition → Partition) : State := s.onPart p f
  match off with
  | 0x000 => on fun x => if bits v 56 0 % 4096 = 0 then { x with limg := bits v 56 0 } else x
  | 0x008 => s.lctlWrite p v
  | 0x010 => on fun x => if v.testBit 3 then { x with qfull := false } else x
  | 0x100 => s.setTctl p w
  | 0x108 => s.invreqWrite p v
  | 0x110 => on fun x => { x with invLen := bits v 44 0 }
  | 0x118 => on fun x => if v.testBit 1 then { x with invDrop := false } else x
  | 0x200 => s.setShare p w
  | 0x208 => on fun x => { x with cap := bits v 47 0 }
  | 0x218 => on fun x => { x with prio := bits v 1 0 }
  | 0x220 => if 5 ≤ bits v 2 0 then s.refuseEnergy p else on fun x => { x with pin := bits v 2 0 }
  | 0x230 => on fun x => { x with
      refused := x.refused && !v.testBit 1, credit := x.credit && !v.testBit 2 }
  | 0x300 => s.abudgetWrite p w
  | 0x400 => on fun x => if x.held || bits v 31 0 % 4 != 0 then x else { x with tvec := bits v 31 0 }
  | 0x408 => on fun x => if x.held || bits v 56 0 % 2 ^ 22 != 0 then x else { x with savebase := bits v 56 0 }
  | 0x410 => s.setTrace p true w
  | 0x418 => s.setTrace p false w
  | 0x420 => on fun x => { x with dsamp := bits v 31 0 }
  | 0x430 => on fun x => if bits v 35 0 = 0 then { x with mwbase := bits v 56 0 } else x
  | 0x438 => on fun x => if v % 4096 = 0 then { x with arbase := v } else x
  | 0x440 => on fun x => { x with arslots := bits v 15 0, arhead := bits v 31 16 }
  | 0x500 => on fun x => if v.testBit 40 then { x with pfNew := false } else x
  | _ => s

/-! Abacus contexts (R430 to R432, R471). -/

def Context.actlBits (c : Context) : Nat :=
  (if c.en then 1 else 0) + c.cls * 2 + c.len * 2 ^ 4 + c.tdest * 2 ^ 11 + c.tcore * 2 ^ 13 +
    (if c.cmatch then 2 ^ 21 else 0) + c.mcore * 2 ^ 22

def Context.astatBits (c : Context) : Nat :=
  c.runs + c.drop * 2 ^ 16 + c.faults * 2 ^ 32 + (if c.susp then 2 ^ 40 else 0) +
    (if c.badprog then 2 ^ 41 else 0) + c.badpc * 2 ^ 42 + c.tdrop * 2 ^ 48

/-- The words of a program store or a table that an access of `size` bytes reaches. -/
def hostWords (off size : Nat) : List Nat := if size = 8 then [off / 4, off / 4 + 1] else [off / 4]

/-- What an offset inside a context names. -/
inductive CtxReg where
  | words (target : AbTarget) (off : Nat)
  | actl
  | astat
  | nothing
  deriving DecidableEq, Repr

def ctxReg (off : Nat) : CtxReg :=
  if off < 0x100 then .words .program off
  else if 0x1000 ≤ off then .words .table (off - 0x1000)
  else if off = 0x100 then .actl
  else if off = 0x108 then .astat
  else .nothing

def Context.writeReg (c : Context) (off size : Nat) (v : Word) : Context :=
  match ctxReg off with
  | .words t o => ((hostWords o size).zip [v.extractLsb' 0 32, v.extractLsb' 32 32]).foldl
      (fun c x => c.hostWord t x.1 x.2) c
  | .actl => c.actl v.toNat
  | .astat => if v.getLsbD 41 then { c with badprog := false } else c
  | .nothing => c

def Context.readReg (c : Context) (off size : Nat) : Nat × Context :=
  match ctxReg off with
  | .words t o =>
    let word (i : Nat) : Word32 := match t with
      | .program => Tab.look 0 c.prog i
      | .table => c.word i
    ((hostWords o size).foldr (fun i acc => (word i).toNat + 2 ^ 32 * acc) 0, c)
  | .actl => (c.actlBits, c)
  | .astat => (c.astatBits, { c with runs := 0, drop := 0, faults := 0, tdrop := 0 })
  | .nothing => (0, c)

/-! Module registers (R473). -/

/-- The identity record (R485). -/
def identityRecord : List Byte :=
  [0x41#8, 0x57#8, 0x2D#8, 0x4E#8, 0x35#8, 0x2D#8, 0x37#8, 0x36#8, 0x38#8] ++ List.replicate 7 0 ++
    [Config.stepping] ++ List.replicate 7 0 ++ leBytes 8 Config.serial.toNat ++ leBytes 4 Config.firmware.toNat ++
    List.replicate 220 0

/-- DMCTL and DMSTAT (R466). -/
def State.dmctlBits (s : State) : Nat :=
  s.dmCore + (if s.dmActive then 2 ^ 7 else 0) + (if (s.core s.dmCore).seq.brkHalt then 2 ^ 10 else 0)

def State.dmstatBits (s : State) : Nat :=
  let c := s.core s.dmCore
  (if c.seq.halted then 1 else 0) + (if s.dmBusy then 2 else 0) + s.dmErr * 2 ^ 2 + (if c.svc then 2 ^ 5 else 0)

/-- A write of DMCTL: the core and the RW bits, then the requests. -/
def State.dmctlWrite (s : State) (v : Nat) : State :=
  let s := { s with dmCore := bits v 6 0 }
  let s := s.dmctlActive (v.testBit 7)
  let s := if v.testBit 7 then s.onSeq s.dmCore fun q => { q with brkHalt := v.testBit 10 } else s
  let s := if v.testBit 8 then s.dmctlHaltreq else s
  if v.testBit 9 then s.dmctlResumereq else s

/-- LEASE (R476). -/
def State.leaseBits (s : State) : Nat :=
  s.owner + (if s.link0 then 2 else 0) + (if s.link1 then 4 else 0) + s.epoch * 2 ^ 16 + s.stale * 2 ^ 32

/-- A read of a register of a stack (R398, R413, R414). -/
def State.stackRead (s : State) (k off : Nat) : Nat × State :=
  let x := s.stack k
  match off with
  | 0x00 => (stksumOf x, s.onStack k fun x => { x with corrcnt := 0 })
  | 0x08 => (x.cycles, s)
  | 0x10 => (x.erraddr, s)
  | off => if 0x40 ≤ off ∧ off < 0xA0 then (Tab.look 0 x.bankstat ((off - 0x40) / 8), s) else (0, s)

/-- Bits of a number cleared where `v` has a 1. -/
def clearBits (x v : Nat) : Nat := x - (x &&& v)

def State.stackWrite (s : State) (k off v : Nat) : State :=
  match off with
  | 0x00 => s.onStack k fun x => { x with sum := clearBits x.sum (v % 256) }
  | 0x08 => if bits v 23 0 < 2300 then s else s.onStack k fun x => { x with cycles := bits v 23 0 }
  | off =>
    if 0x40 ≤ off ∧ off < 0xA0 then s.onStack k fun x =>
      let i := (off - 0x40) / 8
      { x with bankstat := Tab.store x.bankstat i (clearBits (Tab.look 0 x.bankstat i) v) }
    else s

/-- A read of a module register. -/
def State.moduleRead (s : State) (off : Nat) : Nat × State :=
  match off with
  | 0x0000 => (if s.ready then 1 else 0, s)
  | 0x0100 => (s.leaseBits, { s with stale := 0 })
  | 0x0108 => (s.lremain, s)
  | 0x0118 => (s.llen, s)
  | 0x0200 => (if s.pctlErr then 2 ^ 8 else 0, s)
  | 0x0208 => (s.pmask, s)
  | 0x0308 => (s.rsaddr, s)
  | 0x0600 => (s.mpwr, s)
  | 0x0608 => (balBits s.pool, s)
  | 0x0610 => (s.adrop, { s with adrop := 0 })
  | 0x0700 => (s.boxSide + (if s.boxUp then 2 else 0), s)
  | 0x3000 => (s.dmctlBits, s)
  | 0x3008 => (s.dmstatBits, s)
  | off =>
    if 0x400 ≤ off ∧ off < 0x600 then (s.partOf (2 * ((off - 0x400) / 8)), s)
    else if 0x800 ≤ off ∧ off < 0x900 then (leNat ((identityRecord.drop (off - 0x800)).take 8), s)
    else if 0x1000 ≤ off ∧ off < 0x2000 then (Tab.look 0 s.vfmap ((off - 0x1000) / 8), s)
    else if 0x2000 ≤ off ∧ off < 0x2200 then
      let c := s.ctx ((off - 0x2000) / 8)
      (c.apart + (if c.owner.isSome then 64 else 0), s)
    else if 0x3100 ≤ off ∧ off < 0x3200 then
      let i := 2 * ((off - 0x3100) / 8)
      ((Tab.look (0 : Word32) s.adata i).toNat + (Tab.look (0 : Word32) s.adata (i + 1)).toNat * 2 ^ 32, s)
    else if 0x4000 ≤ off ∧ off < 0x6000 then s.stackRead ((off - 0x4000) / 0x200) ((off - 0x4000) % 0x200)
    else (0, s)

/-- A write of PCTL (R478): the W1C bit, then the operation. -/
def State.pctlWrite (s : State) (v : Nat) : State :=
  let s := if v.testBit 8 then { s with pctlErr := false } else s
  match bits v 1 0 with
  | 1 => s.create (bits v 7 2)
  | 2 => s.destroy (bits v 7 2)
  | _ => s

/-- A write of a module register, once the lease rule lets it act. -/
def State.moduleWrite (s : State) (off : Nat) (w : Word) : State :=
  let v := w.toNat
  match off with
  | 0x0118 => if 1000 ≤ bits v 31 0 ∧ bits v 31 0 ≤ 10000000 then { s with llen := bits v 31 0 } else s
  | 0x0200 => s.pctlWrite v
  | 0x0208 => { s with pmask := v }
  | 0x0308 => if v % 4096 = 0 then { s with rsaddr := v } else s
  | 0x0600 => s.setLimit w
  | 0x0700 => { s with boxSide := bits v 0 0 }
  | 0x3000 => s.dmctlWrite v
  | 0x3008 => { s with dmErr := clearBits s.dmErr (bits v 4 2) }
  | 0x3010 => s.abstractCommand w
  | off =>
    if 0x1000 ≤ off ∧ off < 0x2000 then s.mapVf ((off - 0x1000) / 8) w
    else if 0x2000 ≤ off ∧ off < 0x2200 then s.aownWrite ((off - 0x2000) / 8) w
    else if 0x3100 ≤ off ∧ off < 0x3200 then
      let i := 2 * ((off - 0x3100) / 8)
      { s with adata := Tab.store (Tab.store s.adata i (w.extractLsb' 0 32)) (i + 1) (w.extractLsb' 32 32) }
    else if 0x4000 ≤ off ∧ off < 0x6000 then s.stackWrite ((off - 0x4000) / 0x200) ((off - 0x4000) % 0x200) v
    else s

/-- The offsets of PF BAR0 that hold a register (R473). -/
def moduleListed (o : Nat) : Bool :=
  let within (lo hi : Nat) : Bool := decide (lo ≤ o) && decide (o < hi)
  [0x0, 0x100, 0x108, 0x110, 0x118, 0x200, 0x208, 0x300, 0x308, 0x600, 0x608, 0x610, 0x700, 0x3000, 0x3008,
    0x3010].contains o ||
    within 0x400 0x600 || within 0x800 0x900 || within 0x1000 0x2000 || within 0x2000 0x2200 || within 0x3100 0x3200 ||
    (within 0x4000 0x6000 &&
      ([0x0, 0x8, 0x10].contains (o % 0x200) || (decide (0x40 ≤ o % 0x200) && decide (o % 0x200 < 0xA0))))

/-! The requests (R470, R475). -/

/-- What an offset of a function's BAR0 names. -/
inductive HostReg where
  | module (off : Nat)
  | window (p off : Nat)
  /-- A context's registers, in the window of partition `p`. -/
  | context (p k off : Nat)
  | nothing
  deriving DecidableEq, Repr

/-- A register of the window of partition `p`. -/
def HostReg.inWindow (p off : Nat) : HostReg :=
  if 0x80000 ≤ off then .context p ((off - 0x80000) / 0x2000) ((off - 0x80000) % 0x2000) else .window p off

def State.hostReg (s : State) (off : Nat) : HostReg :=
  match s.focus.fn.vf with
  | none =>
    if off < 0x1000000 then .module off
    else
      let p := (off - 0x1000000) / 0x100000
      if p < 40 then HostReg.inWindow p ((off - 0x1000000) % 0x100000) else .nothing
  | some v => match s.vfPart v with
    | some p => if off < 0x100000 then HostReg.inWindow p off else .nothing
    | none => .nothing

/-- An access has its full width and alignment (R471). -/
def HostReg.wide (r : HostReg) (size : Nat) : Bool :=
  match r with
  | .module o => size == 8 && o % 8 == 0
  | .window _ o => size == 8 && o % 8 == 0
  | .context _ _ o => (size == 8 && o % 8 == 0) ||
      (match ctxReg o with
       | .words _ _ => size == 4 && o % 4 == 0
       | _ => false)
  | .nothing => true

/-- The partition whose window a request addresses. -/
def HostReg.part : HostReg → Option Nat
  | .window p _ => some p
  | .context p _ _ => some p
  | _ => none

/-- HOST_REGISTER_WRITE. LRENEW and RESYNC have lease rules of their own (R476, R482). -/
def State.hostRegWrite (s : State) (off size : Nat) (v : Word) : State :=
  let r := s.hostReg off
  if !r.wide size || s.tornHere then s.refuseWrite r.part
  else match r with
  | .module 0x110 => s.renew (bits v.toNat 15 0) (v.getLsbD 16)
  | .module 0x300 => if v.getLsbD 0 then s.resyncGo else s
  | .module o => if moduleListed o then s.moduleDo fun s => s.moduleWrite o v else s
  | .window p o => s.windowDo p (pfOnlyReg o) fun s => s.windowReg p o v
  | .context p k o => if (s.ctx k).owner = some p then
      s.windowDo p false fun s => s.onCtx k fun c => c.writeReg o size v else s
  | .nothing => s

/-- The value of a register, and the state as the read leaves it. -/
def State.hostRegValue (s : State) (size : Nat) : HostReg → Nat × State
  | .module o => s.moduleRead o
  | .window p o =>
    if (s.part p).exists_ then
      let s := if o = 0x228 then s.meterNow p else s
      let r := (s.part p).readReg o
      (r.1, s.setPart p r.2)
    else (0, s)
  | .context p k o =>
    if (s.ctx k).owner = some p then
      let r := (s.ctx k).readReg o size
      (r.1, s.onCtx k fun _ => r.2)
    else (0, s)
  | .nothing => (0, s)

/-- A torn interface passes no host request (R484). -/
def State.fnTorn (s : State) : Bool :=
  match s.focus.fn.vf with
  | some v => s.iface s.focus.fn.port v == 3
  | none => false

/-- HOST_REGISTER_READ. -/
def State.hostRegRead (s : State) (off size : Nat) : State :=
  let r := s.hostReg off
  if !r.wide size || s.fnTorn then s.emitOut (.unsupported s.focus.fn)
  else
    let x := s.hostRegValue size r
    x.2.emitOut (.data s.focus.fn (leBytes size x.1))

end Sys2Proof.Machine
end

