-- ==== Sys2Proof/Machine/ExecHost.lean ====
section
/-! DEFINITION. The meanings of the hosts' requests, the interfaces, the box link, resets and temperature. A request
comes through the function in the focus, and names a partition or a context in `idx`. -/

namespace Sys2Proof.Machine

/-- A function of the module: a port, and its PF or one of its 512 VFs (R470). -/
def HostFn.exists_ (f : HostFn) : Bool :=
  decide (f.port < 2) && match f.vf with
    | some v => decide (v < 512)
    | none => true

/-- Runs a host request through the function in the focus. -/
def State.runHost (s : State) (ev : State → State) : Host.Outcome State Fault Refusal :=
  if HostFn.exists_ s.focus.fn then .next (ev s) else .fault .noSuchUnit

/-- Runs a host request that names a partition. -/
def State.runHostPart (s : State) (ev : State → Nat → State) : Host.Outcome State Fault Refusal :=
  if HostFn.exists_ s.focus.fn && decide (s.focus.idx < 40) then .next (ev s s.focus.idx) else .fault .noSuchUnit

/-- Runs a host request that names a filter context. -/
def State.runHostCtx (s : State) (ev : State → Nat → State) : Host.Outcome State Fault Refusal :=
  if HostFn.exists_ s.focus.fn && decide (s.focus.idx < 64) then .next (ev s s.focus.idx) else .fault .noSuchUnit

/-- Runs an event of a memory stack. -/
def State.runStack (s : State) (ev : State → Nat → State) : Host.Outcome State Fault Refusal :=
  if s.focus.idx < 16 then .next (ev s s.focus.idx) else .fault .noSuchUnit

/-- ABSTRACT_COMMAND (R467). -/
def execAbstractCommand (value : Word) (s : State) : Host.Outcome State Fault Refusal :=
  s.runHost fun s => s.moduleDo fun s => s.abstractCommand value

/-- DMCTL_ACTIVE (R466). -/
def execDmctlActive (on : Bool) (s : State) : Host.Outcome State Fault Refusal :=
  s.runHost fun s => s.moduleDo fun s => s.dmctlActive on

/-- HOST_WRITE (R373). -/
def execHostWrite (off : Nat) (bytes : List Byte) (s : State) : Host.Outcome State Fault Refusal :=
  s.runHost fun s => s.hostMemWrite off bytes

/-- HOST_ATOMIC (R376). -/
def execHostAtomic (off : Nat) (op : HostAtomicOp) (size : Nat) (a : BitVec 128) (b : BitVec 128) (s : State) :
    Host.Outcome State Fault Refusal :=
  s.runHost fun s => s.hostMemAtomic off op size a b

/-- HOST_READ (R374). -/
def execHostRead (off : Nat) (n : Nat) (s : State) : Host.Outcome State Fault Refusal :=
  s.runHost fun s => s.hostMemRead off n

/-- HOST_TABLE_WRITE (R437). -/
def execHostTableWrite (target : AbTarget) (index : Nat) (value : Word32) (s : State) : Host.Outcome State Fault Refusal :=
  s.runHostCtx fun s k => s.hostTable k target index value

/-- HOST_REGISTER_WRITE (R471). -/
def execHostRegisterWrite (off : Nat) (size : Nat) (value : Word) (s : State) : Host.Outcome State Fault Refusal :=
  s.runHost fun s => s.hostRegWrite off size value

/-- VFMAP_WRITE (R478). -/
def execVfmapWrite (vf : Nat) (value : Word) (s : State) : Host.Outcome State Fault Refusal :=
  s.runHost fun s => s.moduleDo fun s => s.mapVf vf value

/-- LRENEW (R477). -/
def execLrenew (epoch : BitVec 16) (s : State) : Host.Outcome State Fault Refusal :=
  s.runHost fun s => s.renew epoch.toNat false

/-- LRENEW_YIELD (R477). -/
def execLrenewYield (epoch : BitVec 16) (s : State) : Host.Outcome State Fault Refusal :=
  s.runHost fun s => s.renew epoch.toNat true

/-- EPWR_WRITE (R418). -/
def execEpwrWrite (value : Word) (s : State) : Host.Outcome State Fault Refusal :=
  s.runHostPart fun s p => s.windowDo p true fun s => s.setShare p value

/-- MPWR_WRITE (R486). -/
def execMpwrWrite (value : Word) (s : State) : Host.Outcome State Fault Refusal :=
  s.runHost fun s => s.moduleDo fun s => s.setLimit value

/-- ABUDGET_WRITE (R435). -/
def execAbudgetWrite (value : Word) (s : State) : Host.Outcome State Fault Refusal :=
  s.runHostPart fun s p => s.windowDo p true fun s => s.abudgetWrite p value

/-- ACTL_WRITE (R431). -/
def execActlWrite (value : Word) (s : State) : Host.Outcome State Fault Refusal :=
  s.runHostCtx fun s k => s.contextDo k fun s => s.actlWrite k value

/-- AOWN_WRITE (R430). -/
def execAownWrite (value : Word) (s : State) : Host.Outcome State Fault Refusal :=
  s.runHostCtx fun s k => s.moduleDo fun s => s.aownWrite k value

/-- TCTL_WRITE (R393). -/
def execTctlWrite (value : Word) (s : State) : Host.Outcome State Fault Refusal :=
  s.runHostPart fun s p => s.windowDo p true fun s => s.setTctl p value

/-- TRLEN_WRITE (R474). -/
def execTrlenWrite (base : Bool) (value : Word) (s : State) : Host.Outcome State Fault Refusal :=
  s.runHostPart fun s p => s.windowDo p false fun s => s.setTrace p base value

/-- PORT_LINK_CHANGE (R476). -/
def execPortLinkChange (up : Bool) (s : State) : Host.Outcome State Fault Refusal :=
  s.runHost fun s => s.linkChange s.focus.fn.port up

/-- BOX_LINK_NOTICE (R487). -/
def execBoxLinkNotice (notice : FarNotice) (s : State) : Host.Outcome State Fault Refusal :=
  .next (s.farNotice notice)

/-- SPDM_REQUEST (R485). -/
def execSpdmRequest (req : SpdmReq) (s : State) : Host.Outcome State Fault Refusal :=
  s.runHost fun s => s.spdmRequest req

/-- HOST_REGISTER_READ (R473). -/
def execHostRegisterRead (off : Nat) (size : Nat) (s : State) : Host.Outcome State Fault Refusal :=
  s.runHost fun s => s.hostRegRead off size

/-- INVREQ_GO (R394). -/
def execInvreqGo (s : State) : Host.Outcome State Fault Refusal :=
  s.runHostPart fun s p => s.windowDo p false fun s => s.invreqGo p

/-- DMCTL_HALTREQ (R466). -/
def execDmctlHaltreq (s : State) : Host.Outcome State Fault Refusal :=
  s.runHost fun s => s.moduleDo State.dmctlHaltreq

/-- DMCTL_RESUMEREQ (R466). -/
def execDmctlResumereq (s : State) : Host.Outcome State Fault Refusal :=
  s.runHost fun s => s.moduleDo State.dmctlResumereq

/-- LCTL_GO (R479). -/
def execLctlGo (s : State) : Host.Outcome State Fault Refusal :=
  s.runHostPart fun s p => s.windowDo p false fun s => s.lctlGo p

/-- LCTL_STOP (R481). -/
def execLctlStop (s : State) : Host.Outcome State Fault Refusal :=
  s.runHostPart fun s p => s.windowDo p false fun s => s.lctlStop p

/-- LCTL_PREEMPT (R481). -/
def execLctlPreempt (s : State) : Host.Outcome State Fault Refusal :=
  s.runHostPart fun s p => s.windowDo p false fun s => s.lctlPreempt p

/-- LCTL_RESUME (R481). -/
def execLctlResume (s : State) : Host.Outcome State Fault Refusal :=
  s.runHostPart fun s p => s.windowDo p false fun s => s.lctlResume p

/-- LCTL_UNLOAD (R479). -/
def execLctlUnload (s : State) : Host.Outcome State Fault Refusal :=
  s.runHostPart fun s p => s.windowDo p false fun s => s.lctlUnload p

/-- PCTL_CREATE (R478). -/
def execPctlCreate (s : State) : Host.Outcome State Fault Refusal :=
  s.runHost fun s => s.moduleDo fun s => s.create s.focus.idx

/-- PCTL_DESTROY (R478). -/
def execPctlDestroy (s : State) : Host.Outcome State Fault Refusal :=
  s.runHost fun s => s.moduleDo fun s => s.destroy s.focus.idx

/-- RESYNC_GO (R482). -/
def execResyncGo (s : State) : Host.Outcome State Fault Refusal :=
  s.runHost fun s => s.resyncGo

/-- BOX_LINK_DOWN (R488). -/
def execBoxLinkDown (s : State) : Host.Outcome State Fault Refusal :=
  .next s.boxDown

/-- FAR_LAUNCH_TIMEOUT (R488). -/
def execFarLaunchTimeout (s : State) : Host.Outcome State Fault Refusal :=
  s.runPart fun s p => s.farTimeout p

/-- INTERFACE_TORN (R484). -/
def execInterfaceTorn (s : State) : Host.Outcome State Fault Refusal :=
  s.runHost fun s => s.tearHere

/-- LOCK_INTERFACE (R483). -/
def execLockInterface (s : State) : Host.Outcome State Fault Refusal :=
  s.runHost fun s => s.lockInterface

/-- SCRUB_COMPLETE (R484). -/
def execScrubComplete (s : State) : Host.Outcome State Fault Refusal :=
  s.runPart fun s p => s.scrubComplete p

/-- COLD_RESET (R489). -/
def execColdReset (s : State) : Host.Outcome State Fault Refusal :=
  .next s.coldReset

/-- PF_FUNCTION_LEVEL_RESET (R489). -/
def execPfFunctionLevelReset (s : State) : Host.Outcome State Fault Refusal :=
  s.runHost fun s => s.pfReset

/-- VF_FUNCTION_LEVEL_RESET (R489). -/
def execVfFunctionLevelReset (s : State) : Host.Outcome State Fault Refusal :=
  s.runHost fun s => s.vfReset

/-- THERMAL_SHUTDOWN (R489). -/
def execThermalShutdown (s : State) : Host.Outcome State Fault Refusal :=
  .next s.thermalShutdown

/-- DOUBLED_REFRESH (R400). -/
def execDoubledRefresh (s : State) : Host.Outcome State Fault Refusal :=
  s.runStack fun s k => s.doubledRefresh k

/-- BOX_LINK_UP (R487). -/
def execBoxLinkUp (s : State) : Host.Outcome State Fault Refusal :=
  .next ({ s with boxUp := true })

end Sys2Proof.Machine
end

