-- ==== Sys2Proof/Machine/ExecScalar.lean ====
section
/-! DEFINITION. The meanings of the S-slot instructions as steps of their own: each issues where the focus stands,
takes its trap, or waits a cycle. -/

namespace Sys2Proof.Machine

/-- NOP (R77). -/
def execNop (f : SRRR) (s : State) : Host.Outcome State Fault Refusal :=
  s.runSlot fun fo s => s.liftCore fo (opNop fo f)

/-- ADD (R140). -/
def execAdd (f : SRRR) (s : State) : Host.Outcome State Fault Refusal :=
  s.runSlot fun fo s => s.liftCore fo (opAdd fo f)

/-- SUB (R140). -/
def execSub (f : SRRR) (s : State) : Host.Outcome State Fault Refusal :=
  s.runSlot fun fo s => s.liftCore fo (opSub fo f)

/-- AND (R140). -/
def execAnd (f : SRRR) (s : State) : Host.Outcome State Fault Refusal :=
  s.runSlot fun fo s => s.liftCore fo (opAnd fo f)

/-- OR (R140). -/
def execOr (f : SRRR) (s : State) : Host.Outcome State Fault Refusal :=
  s.runSlot fun fo s => s.liftCore fo (opOr fo f)

/-- XOR (R140). -/
def execXor (f : SRRR) (s : State) : Host.Outcome State Fault Refusal :=
  s.runSlot fun fo s => s.liftCore fo (opXor fo f)

/-- SHL (R140). -/
def execShl (f : SRRR) (s : State) : Host.Outcome State Fault Refusal :=
  s.runSlot fun fo s => s.liftCore fo (opShl fo f)

/-- SHR (R140). -/
def execShr (f : SRRR) (s : State) : Host.Outcome State Fault Refusal :=
  s.runSlot fun fo s => s.liftCore fo (opShr fo f)

/-- SHA (R140). -/
def execSha (f : SRRR) (s : State) : Host.Outcome State Fault Refusal :=
  s.runSlot fun fo s => s.liftCore fo (opSha fo f)

/-- MUL (R140). -/
def execMul (f : SRRR) (s : State) : Host.Outcome State Fault Refusal :=
  s.runSlot fun fo s => s.liftCore fo (opMul fo f)

/-- MULH (R140). -/
def execMulh (f : SRRR) (s : State) : Host.Outcome State Fault Refusal :=
  s.runSlot fun fo s => s.liftCore fo (opMulh fo f)

/-- DIV (R141). -/
def execDiv (f : SRRR) (s : State) : Host.Outcome State Fault Refusal :=
  s.runSlot fun fo s => s.liftCore fo (opDiv fo f)

/-- REM (R141). -/
def execRem (f : SRRR) (s : State) : Host.Outcome State Fault Refusal :=
  s.runSlot fun fo s => s.liftCore fo (opRem fo f)

/-- MIN (R140). -/
def execMin (f : SRRR) (s : State) : Host.Outcome State Fault Refusal :=
  s.runSlot fun fo s => s.liftCore fo (opMin fo f)

/-- MAX (R140). -/
def execMax (f : SRRR) (s : State) : Host.Outcome State Fault Refusal :=
  s.runSlot fun fo s => s.liftCore fo (opMax fo f)

/-- SLT (R140). -/
def execSlt (f : SRRR) (s : State) : Host.Outcome State Fault Refusal :=
  s.runSlot fun fo s => s.liftCore fo (opSlt fo f)

/-- SLTN (R140). -/
def execSltn (f : SRRR) (s : State) : Host.Outcome State Fault Refusal :=
  s.runSlot fun fo s => s.liftCore fo (opSltn fo f)

/-- ADDI (R142). -/
def execAddi (f : SRI) (s : State) : Host.Outcome State Fault Refusal :=
  s.runSlot fun fo s => s.liftCore fo (opAddi fo f)

/-- ANDI (R142). -/
def execAndi (f : SRI) (s : State) : Host.Outcome State Fault Refusal :=
  s.runSlot fun fo s => s.liftCore fo (opAndi fo f)

/-- ORI (R142). -/
def execOri (f : SRI) (s : State) : Host.Outcome State Fault Refusal :=
  s.runSlot fun fo s => s.liftCore fo (opOri fo f)

/-- XORI (R142). -/
def execXori (f : SRI) (s : State) : Host.Outcome State Fault Refusal :=
  s.runSlot fun fo s => s.liftCore fo (opXori fo f)

/-- SHLI (R142). -/
def execShli (f : SRI) (s : State) : Host.Outcome State Fault Refusal :=
  s.runSlot fun fo s => s.liftCore fo (opShli fo f)

/-- SHRI (R142). -/
def execShri (f : SRI) (s : State) : Host.Outcome State Fault Refusal :=
  s.runSlot fun fo s => s.liftCore fo (opShri fo f)

/-- SHAI (R142). -/
def execShai (f : SRI) (s : State) : Host.Outcome State Fault Refusal :=
  s.runSlot fun fo s => s.liftCore fo (opShai fo f)

/-- LUI (R142). -/
def execLui (f : SRI) (s : State) : Host.Outcome State Fault Refusal :=
  s.runSlot fun fo s => s.liftCore fo (opLui fo f)

/-- LDB (R143). -/
def execLdb (f : SRI) (s : State) : Host.Outcome State Fault Refusal :=
  s.runSlot fun fo s => s.liftCore fo (opLdb fo f)

/-- LDBZ (R143). -/
def execLdbz (f : SRI) (s : State) : Host.Outcome State Fault Refusal :=
  s.runSlot fun fo s => s.liftCore fo (opLdbz fo f)

/-- LDH (R143). -/
def execLdh (f : SRI) (s : State) : Host.Outcome State Fault Refusal :=
  s.runSlot fun fo s => s.liftCore fo (opLdh fo f)

/-- LDHZ (R143). -/
def execLdhz (f : SRI) (s : State) : Host.Outcome State Fault Refusal :=
  s.runSlot fun fo s => s.liftCore fo (opLdhz fo f)

/-- LDW (R143). -/
def execLdw (f : SRI) (s : State) : Host.Outcome State Fault Refusal :=
  s.runSlot fun fo s => s.liftCore fo (opLdw fo f)

/-- LDWZ (R143). -/
def execLdwz (f : SRI) (s : State) : Host.Outcome State Fault Refusal :=
  s.runSlot fun fo s => s.liftCore fo (opLdwz fo f)

/-- LDD (R143). -/
def execLdd (f : SRI) (s : State) : Host.Outcome State Fault Refusal :=
  s.runSlot fun fo s => s.liftCore fo (opLdd fo f)

/-- STB (R143). -/
def execStb (f : SRI) (s : State) : Host.Outcome State Fault Refusal :=
  s.runSlot fun fo s => s.liftCore fo (opStb fo f)

/-- STH (R143). -/
def execSth (f : SRI) (s : State) : Host.Outcome State Fault Refusal :=
  s.runSlot fun fo s => s.liftCore fo (opSth fo f)

/-- STW (R143). -/
def execStw (f : SRI) (s : State) : Host.Outcome State Fault Refusal :=
  s.runSlot fun fo s => s.liftCore fo (opStw fo f)

/-- STD (R143). -/
def execStd (f : SRI) (s : State) : Host.Outcome State Fault Refusal :=
  s.runSlot fun fo s => s.liftCore fo (opStd fo f)

/-- BEQ (R145). -/
def execBeq (f : SB) (s : State) : Host.Outcome State Fault Refusal :=
  s.runControl fun fo s => s.liftCore fo (opBeq fo f)

/-- BNE (R145). -/
def execBne (f : SB) (s : State) : Host.Outcome State Fault Refusal :=
  s.runControl fun fo s => s.liftCore fo (opBne fo f)

/-- BLT (R145). -/
def execBlt (f : SB) (s : State) : Host.Outcome State Fault Refusal :=
  s.runControl fun fo s => s.liftCore fo (opBlt fo f)

/-- BGE (R145). -/
def execBge (f : SB) (s : State) : Host.Outcome State Fault Refusal :=
  s.runControl fun fo s => s.liftCore fo (opBge fo f)

/-- BLTN (R145). -/
def execBltn (f : SB) (s : State) : Host.Outcome State Fault Refusal :=
  s.runControl fun fo s => s.liftCore fo (opBltn fo f)

/-- BGEN (R145). -/
def execBgen (f : SB) (s : State) : Host.Outcome State Fault Refusal :=
  s.runControl fun fo s => s.liftCore fo (opBgen fo f)

/-- JMP (R146). -/
def execJmp (f : SJ) (s : State) : Host.Outcome State Fault Refusal :=
  s.runControl fun fo s => s.liftCore fo (opJmp fo f)

/-- CALL (R146). -/
def execCall (f : SJ) (s : State) : Host.Outcome State Fault Refusal :=
  s.runControl fun fo s => s.liftCore fo (opCall fo f)

/-- JR (R147). -/
def execJr (f : SRRR) (s : State) : Host.Outcome State Fault Refusal :=
  s.runControl fun fo s => s.liftCore fo (opJr fo f)

/-- RET (R147). -/
def execRet (f : SRRR) (s : State) : Host.Outcome State Fault Refusal :=
  s.runControl fun fo s => s.liftCore fo (opRet fo f)

/-- LOOPR (R148). -/
def execLoopr (f : SB) (s : State) : Host.Outcome State Fault Refusal :=
  s.runControl fun fo s => s.liftCore fo (opLoopr fo f)

/-- CTLRD (R139). -/
def execCtlrd (f : SRI) (s : State) : Host.Outcome State Fault Refusal :=
  s.runSlot fun fo s => s.liftCore fo (opCtlrd fo f)

/-- CTLWR (R139). -/
def execCtlwr (f : SRI) (s : State) : Host.Outcome State Fault Refusal :=
  s.runSlot fun fo s => s.liftCore fo (opCtlwr fo f)

/-- CAPLD (R157). -/
def execCapld (f : SRI) (s : State) : Host.Outcome State Fault Refusal :=
  s.runSlot fun fo s => opCapld fo f s

/-- CAPLD_MEMORY (R157). -/
def execCapldMemory (f : SRI) (s : State) : Host.Outcome State Fault Refusal :=
  s.runAccess fun fo s => opCapldMemory fo f s

/-- CAPST (R158). -/
def execCapst (f : SRI) (s : State) : Host.Outcome State Fault Refusal :=
  s.runAccess fun fo s => opCapst fo f s

/-- CNARROW (R159). -/
def execCnarrow (f : SRRR) (s : State) : Host.Outcome State Fault Refusal :=
  s.runSlot fun fo s => s.liftCore fo (opCnarrow fo f)

/-- CQUERY (R160). -/
def execCquery (f : SRRR) (s : State) : Host.Outcome State Fault Refusal :=
  s.runSlot fun fo s => opCquery fo f s

/-- GLD (R161). -/
def execGld (f : SRI) (s : State) : Host.Outcome State Fault Refusal :=
  s.runAccess fun fo s => opGld fo f s

/-- GST (R161). -/
def execGst (f : SRI) (s : State) : Host.Outcome State Fault Refusal :=
  s.runAccess fun fo s => opGst fo f s

/-- PHASE (R164). -/
def execPhase (f : SRI) (s : State) : Host.Outcome State Fault Refusal :=
  s.runControl fun fo s => s.liftCore fo (opPhase fo f)

/-- GBAR (R165). -/
def execGbar (f : SRI) (s : State) : Host.Outcome State Fault Refusal :=
  s.runSlot fun fo s => opGbar fo f s

/-- FENCE_E (R163). -/
def execFenceE (f : SRI) (s : State) : Host.Outcome State Fault Refusal :=
  s.runSlot fun fo s => s.liftCore fo (opFenceE fo f)

/-- IDLE (R166). -/
def execIdle (f : SRI) (s : State) : Host.Outcome State Fault Refusal :=
  s.runSlot fun fo s => s.liftCore fo (opIdle fo f)

/-- TRAP (R454). -/
def execTrap (f : SRI) (s : State) : Host.Outcome State Fault Refusal :=
  s.runControl fun fo s => s.liftCore fo (opTrap fo f)

/-- TRET (R452). -/
def execTret (f : SRI) (s : State) : Host.Outcome State Fault Refusal :=
  s.runControl fun fo s => s.liftCore fo (opTret fo f)

/-- HALT (R453). -/
def execHalt (f : SRI) (s : State) : Host.Outcome State Fault Refusal :=
  s.runControl fun fo s => s.liftCore fo (opHalt fo f)

/-- DBGBRK (R454). -/
def execDbgbrk (f : SRI) (s : State) : Host.Outcome State Fault Refusal :=
  s.runControl fun fo s => s.liftCore fo (opDbgbrk fo f)

/-- QPOP_S (R229). -/
def execQpopS (f : SQ) (s : State) : Host.Outcome State Fault Refusal :=
  s.runSlot fun fo s => s.liftCore fo (opQpopS fo f)

/-- QPEEK_S (R229). -/
def execQpeekS (f : SQ) (s : State) : Host.Outcome State Fault Refusal :=
  s.runSlot fun fo s => s.liftCore fo (opQpeekS fo f)

/-- QPUSH_S (R230). -/
def execQpushS (f : SQ) (s : State) : Host.Outcome State Fault Refusal :=
  s.runSlot fun fo s => s.liftCore fo (opQpushS fo f)

/-- QSTAT_S (R231). -/
def execQstatS (f : SQ) (s : State) : Host.Outcome State Fault Refusal :=
  s.runSlot fun fo s => s.liftCore fo (opQstatS fo f)

/-- QFLUSH_S (R232). -/
def execQflushS (f : SQ) (s : State) : Host.Outcome State Fault Refusal :=
  s.runSlot fun fo s => s.liftCore fo (opQflushS fo f)

end Sys2Proof.Machine
end

