-- ==== Sys2Proof/Machine/ExecVector.lean ====
section
/-! DEFINITION. The meanings of the V-slot instructions as steps of their own: each issues where the focus stands,
takes its trap, or waits a cycle. -/

namespace Sys2Proof.Machine

/-- QPOP_V (R229). -/
def execQpopV (f : VQ) (s : State) : Host.Outcome State Fault Refusal :=
  s.runSlot fun fo s => s.liftCore fo (opQpopV fo f)

/-- QPEEK_V (R229). -/
def execQpeekV (f : VQ) (s : State) : Host.Outcome State Fault Refusal :=
  s.runSlot fun fo s => s.liftCore fo (opQpeekV fo f)

/-- QPUSH_V (R230). -/
def execQpushV (f : VQ) (s : State) : Host.Outcome State Fault Refusal :=
  s.runSlot fun fo s => s.liftCore fo (opQpushV fo f)

/-- QSTAT_V (R231). -/
def execQstatV (f : VQ) (s : State) : Host.Outcome State Fault Refusal :=
  s.runSlot fun fo s => s.liftCore fo (opQstatV fo f)

/-- QFLUSH_V (R232). -/
def execQflushV (f : VQ) (s : State) : Host.Outcome State Fault Refusal :=
  s.runSlot fun fo s => s.liftCore fo (opQflushV fo f)

/-- VADD (R179). -/
def execVadd (f : VR) (s : State) : Host.Outcome State Fault Refusal :=
  s.runSlot fun fo s => s.liftCore fo (opVadd fo f)

/-- VSUB (R179). -/
def execVsub (f : VR) (s : State) : Host.Outcome State Fault Refusal :=
  s.runSlot fun fo s => s.liftCore fo (opVsub fo f)

/-- VMUL (R179). -/
def execVmul (f : VR) (s : State) : Host.Outcome State Fault Refusal :=
  s.runSlot fun fo s => s.liftCore fo (opVmul fo f)

/-- VMULH (R179). -/
def execVmulh (f : VR) (s : State) : Host.Outcome State Fault Refusal :=
  s.runSlot fun fo s => s.liftCore fo (opVmulh fo f)

/-- VMADD (R179). -/
def execVmadd (f : VR) (s : State) : Host.Outcome State Fault Refusal :=
  s.runSlot fun fo s => s.liftCore fo (opVmadd fo f)

/-- VMIN (R179). -/
def execVmin (f : VR) (s : State) : Host.Outcome State Fault Refusal :=
  s.runSlot fun fo s => s.liftCore fo (opVmin fo f)

/-- VMAX (R179). -/
def execVmax (f : VR) (s : State) : Host.Outcome State Fault Refusal :=
  s.runSlot fun fo s => s.liftCore fo (opVmax fo f)

/-- VABS (R179). -/
def execVabs (f : VR) (s : State) : Host.Outcome State Fault Refusal :=
  s.runSlot fun fo s => s.liftCore fo (opVabs fo f)

/-- VNEG (R179). -/
def execVneg (f : VR) (s : State) : Host.Outcome State Fault Refusal :=
  s.runSlot fun fo s => s.liftCore fo (opVneg fo f)

/-- VAND (R179). -/
def execVand (f : VR) (s : State) : Host.Outcome State Fault Refusal :=
  s.runSlot fun fo s => s.liftCore fo (opVand fo f)

/-- VOR (R179). -/
def execVor (f : VR) (s : State) : Host.Outcome State Fault Refusal :=
  s.runSlot fun fo s => s.liftCore fo (opVor fo f)

/-- VXOR (R179). -/
def execVxor (f : VR) (s : State) : Host.Outcome State Fault Refusal :=
  s.runSlot fun fo s => s.liftCore fo (opVxor fo f)

/-- VSHL (R179). -/
def execVshl (f : VR) (s : State) : Host.Outcome State Fault Refusal :=
  s.runSlot fun fo s => s.liftCore fo (opVshl fo f)

/-- VSHR (R179). -/
def execVshr (f : VR) (s : State) : Host.Outcome State Fault Refusal :=
  s.runSlot fun fo s => s.liftCore fo (opVshr fo f)

/-- VSHA (R179). -/
def execVsha (f : VR) (s : State) : Host.Outcome State Fault Refusal :=
  s.runSlot fun fo s => s.liftCore fo (opVsha fo f)

/-- VCMP (R180). -/
def execVcmp (f : VR) (s : State) : Host.Outcome State Fault Refusal :=
  s.runSlot fun fo s => s.liftCore fo (opVcmp fo f)

/-- VSEL (R181). -/
def execVsel (f : VR) (s : State) : Host.Outcome State Fault Refusal :=
  s.runSlot fun fo s => s.liftCore fo (opVsel fo f)

/-- VFADD (R182). -/
def execVfadd (f : VR) (s : State) : Host.Outcome State Fault Refusal :=
  s.runSlot fun fo s => s.liftCore fo (opVfadd fo f)

/-- VFSUB (R182). -/
def execVfsub (f : VR) (s : State) : Host.Outcome State Fault Refusal :=
  s.runSlot fun fo s => s.liftCore fo (opVfsub fo f)

/-- VFMUL (R182). -/
def execVfmul (f : VR) (s : State) : Host.Outcome State Fault Refusal :=
  s.runSlot fun fo s => s.liftCore fo (opVfmul fo f)

/-- VFMA (R182). -/
def execVfma (f : VR) (s : State) : Host.Outcome State Fault Refusal :=
  s.runSlot fun fo s => s.liftCore fo (opVfma fo f)

/-- VFMIN (R184). -/
def execVfmin (f : VR) (s : State) : Host.Outcome State Fault Refusal :=
  s.runSlot fun fo s => s.liftCore fo (opVfmin fo f)

/-- VFMAX (R184). -/
def execVfmax (f : VR) (s : State) : Host.Outcome State Fault Refusal :=
  s.runSlot fun fo s => s.liftCore fo (opVfmax fo f)

/-- VFCMP (R180). -/
def execVfcmp (f : VR) (s : State) : Host.Outcome State Fault Refusal :=
  s.runSlot fun fo s => s.liftCore fo (opVfcmp fo f)

/-- VCVT (R185). -/
def execVcvt (f : VR) (s : State) : Host.Outcome State Fault Refusal :=
  s.runSlot fun fo s => s.liftCore fo (opVcvt fo f)

/-- VQUANT (R186). -/
def execVquant (f : VR) (s : State) : Host.Outcome State Fault Refusal :=
  s.runSlot fun fo s => s.liftCore fo (opVquant fo f)

/-- VDEQ (R187). -/
def execVdeq (f : VR) (s : State) : Host.Outcome State Fault Refusal :=
  s.runSlot fun fo s => s.liftCore fo (opVdeq fo f)

/-- VEXP2 (R188). -/
def execVexp2 (f : VR) (s : State) : Host.Outcome State Fault Refusal :=
  s.runSlot fun fo s => s.liftCore fo (opVexp2 fo f)

/-- VLOG2 (R188). -/
def execVlog2 (f : VR) (s : State) : Host.Outcome State Fault Refusal :=
  s.runSlot fun fo s => s.liftCore fo (opVlog2 fo f)

/-- VRCP (R188). -/
def execVrcp (f : VR) (s : State) : Host.Outcome State Fault Refusal :=
  s.runSlot fun fo s => s.liftCore fo (opVrcp fo f)

/-- VRSQ (R188). -/
def execVrsq (f : VR) (s : State) : Host.Outcome State Fault Refusal :=
  s.runSlot fun fo s => s.liftCore fo (opVrsq fo f)

/-- VRED (R190). -/
def execVred (f : VR) (s : State) : Host.Outcome State Fault Refusal :=
  s.runSlot fun fo s => s.liftCore fo (opVred fo f)

/-- VPERM (R191). -/
def execVperm (f : VR) (s : State) : Host.Outcome State Fault Refusal :=
  s.runSlot fun fo s => s.liftCore fo (opVperm fo f)

/-- VSHUF (R192). -/
def execVshuf (f : VR) (s : State) : Host.Outcome State Fault Refusal :=
  s.runSlot fun fo s => s.liftCore fo (opVshuf fo f)

/-- VBCAST (R193). -/
def execVbcast (f : VI) (s : State) : Host.Outcome State Fault Refusal :=
  s.runSlot fun fo s => s.liftCore fo (opVbcast fo f)

/-- VBCAST_LANE (R193). -/
def execVbcastLane (f : VI) (s : State) : Host.Outcome State Fault Refusal :=
  s.runSlot fun fo s => s.liftCore fo (opVbcastLane fo f)

/-- VEXTR (R194). -/
def execVextr (f : VR) (s : State) : Host.Outcome State Fault Refusal :=
  s.runSlot fun fo s => s.liftCore fo (opVextr fo f)

/-- VLD (R195). -/
def execVld (f : VM) (s : State) : Host.Outcome State Fault Refusal :=
  s.runSlot fun fo s => s.liftCore fo (opVld fo f)

/-- VST (R195). -/
def execVst (f : VM) (s : State) : Host.Outcome State Fault Refusal :=
  s.runSlot fun fo s => s.liftCore fo (opVst fo f)

/-- VLDS (R195). -/
def execVlds (f : VM) (s : State) : Host.Outcome State Fault Refusal :=
  s.runSlot fun fo s => s.liftCore fo (opVlds fo f)

/-- VSTS (R195). -/
def execVsts (f : VM) (s : State) : Host.Outcome State Fault Refusal :=
  s.runSlot fun fo s => s.liftCore fo (opVsts fo f)

/-- VGATH (R195). -/
def execVgath (f : VM) (s : State) : Host.Outcome State Fault Refusal :=
  s.runSlot fun fo s => s.liftCore fo (opVgath fo f)

/-- VSCAT (R195). -/
def execVscat (f : VM) (s : State) : Host.Outcome State Fault Refusal :=
  s.runSlot fun fo s => s.liftCore fo (opVscat fo f)

/-- PAND (R199). -/
def execPand (f : VR) (s : State) : Host.Outcome State Fault Refusal :=
  s.runSlot fun fo s => s.liftCore fo (opPand fo f)

/-- POR (R199). -/
def execPor (f : VR) (s : State) : Host.Outcome State Fault Refusal :=
  s.runSlot fun fo s => s.liftCore fo (opPor fo f)

/-- PXOR (R199). -/
def execPxor (f : VR) (s : State) : Host.Outcome State Fault Refusal :=
  s.runSlot fun fo s => s.liftCore fo (opPxor fo f)

/-- PNOT (R199). -/
def execPnot (f : VR) (s : State) : Host.Outcome State Fault Refusal :=
  s.runSlot fun fo s => s.liftCore fo (opPnot fo f)

/-- PPOP (R199). -/
def execPpop (f : VR) (s : State) : Host.Outcome State Fault Refusal :=
  s.runSlot fun fo s => s.liftCore fo (opPpop fo f)

/-- PFIRST (R199). -/
def execPfirst (f : VR) (s : State) : Host.Outcome State Fault Refusal :=
  s.runSlot fun fo s => s.liftCore fo (opPfirst fo f)

/-- ACCPOP (R290). -/
def execAccpop (f : VR) (s : State) : Host.Outcome State Fault Refusal :=
  s.runSlot fun fo s => s.liftCore fo (opAccpop fo f)

/-- VORDK (R200). -/
def execVordk (f : VR) (s : State) : Host.Outcome State Fault Refusal :=
  s.runSlot fun fo s => s.liftCore fo (opVordk fo f)

/-- VDIGIT (R201). -/
def execVdigit (f : VR) (s : State) : Host.Outcome State Fault Refusal :=
  s.runSlot fun fo s => s.liftCore fo (opVdigit fo f)

/-- VCNT (R202). -/
def execVcnt (f : VR) (s : State) : Host.Outcome State Fault Refusal :=
  s.runSlot fun fo s => s.liftCore fo (opVcnt fo f)

/-- VNWATCH (R203). -/
def execVnwatch (f : VR) (s : State) : Host.Outcome State Fault Refusal :=
  s.runSlot fun fo s => s.liftCore fo (opVnwatch fo f)

/-- DNORM (R213). -/
def execDnorm (f : VR) (s : State) : Host.Outcome State Fault Refusal :=
  s.runSlot fun fo s => s.liftCore fo (opDnorm fo f)

/-- DEXP (R214). -/
def execDexp (f : VR) (s : State) : Host.Outcome State Fault Refusal :=
  s.runSlot fun fo s => s.liftCore fo (opDexp fo f)

/-- DEXP_RAW (R214). -/
def execDexpRaw (f : VR) (s : State) : Host.Outcome State Fault Refusal :=
  s.runSlot fun fo s => s.liftCore fo (opDexpRaw fo f)

/-- DDOT (R215). -/
def execDdot (f : VR) (s : State) : Host.Outcome State Fault Refusal :=
  s.runSlot fun fo s => s.liftCore fo (opDdot fo f)

/-- DDOTM (R216). -/
def execDdotm (f : VR) (s : State) : Host.Outcome State Fault Refusal :=
  s.runSlot fun fo s => s.liftCore fo (opDdotm fo f)

/-- DSCALE (R217). -/
def execDscale (f : VR) (s : State) : Host.Outcome State Fault Refusal :=
  s.runSlot fun fo s => s.liftCore fo (opDscale fo f)

/-- DSCALE_ADD (R217). -/
def execDscaleAdd (f : VR) (s : State) : Host.Outcome State Fault Refusal :=
  s.runSlot fun fo s => s.liftCore fo (opDscaleAdd fo f)

/-- DSCALE_SUB (R217). -/
def execDscaleSub (f : VR) (s : State) : Host.Outcome State Fault Refusal :=
  s.runSlot fun fo s => s.liftCore fo (opDscaleSub fo f)

/-- DSET (R219). -/
def execDset (f : VR) (s : State) : Host.Outcome State Fault Refusal :=
  s.runSlot fun fo s => s.liftCore fo (opDset fo f)

/-- DADD (R218). -/
def execDadd (f : VR) (s : State) : Host.Outcome State Fault Refusal :=
  s.runSlot fun fo s => s.liftCore fo (opDadd fo f)

/-- DNEG (R219). -/
def execDneg (f : VR) (s : State) : Host.Outcome State Fault Refusal :=
  s.runSlot fun fo s => s.liftCore fo (opDneg fo f)

/-- DMOV (R219). -/
def execDmov (f : VR) (s : State) : Host.Outcome State Fault Refusal :=
  s.runSlot fun fo s => s.liftCore fo (opDmov fo f)

/-- DZERO (R219). -/
def execDzero (f : VR) (s : State) : Host.Outcome State Fault Refusal :=
  s.runSlot fun fo s => s.liftCore fo (opDzero fo f)

/-- DNORMQ (R219). -/
def execDnormq (f : VR) (s : State) : Host.Outcome State Fault Refusal :=
  s.runSlot fun fo s => s.liftCore fo (opDnormq fo f)

/-- DNORMQ_DEV (R219). -/
def execDnormqDev (f : VR) (s : State) : Host.Outcome State Fault Refusal :=
  s.runSlot fun fo s => s.liftCore fo (opDnormqDev fo f)

end Sys2Proof.Machine
end

