-- ==== Sys2Proof/Machine/Dispatch.lean ====
section
/-! DEFINITION. The dispatch: one arm for each row of the opcode table, at the unit that the focus names. -/

namespace Sys2Proof.Machine

def exec (i : Instr) (s : State) : Host.Outcome State Fault Refusal :=
  match i with
  | .nop f => Sys2Proof.Machine.execNop f s
  | .add f => Sys2Proof.Machine.execAdd f s
  | .sub f => Sys2Proof.Machine.execSub f s
  | .and f => Sys2Proof.Machine.execAnd f s
  | .or f => Sys2Proof.Machine.execOr f s
  | .xor f => Sys2Proof.Machine.execXor f s
  | .shl f => Sys2Proof.Machine.execShl f s
  | .shr f => Sys2Proof.Machine.execShr f s
  | .sha f => Sys2Proof.Machine.execSha f s
  | .mul f => Sys2Proof.Machine.execMul f s
  | .mulh f => Sys2Proof.Machine.execMulh f s
  | .div f => Sys2Proof.Machine.execDiv f s
  | .rem f => Sys2Proof.Machine.execRem f s
  | .min f => Sys2Proof.Machine.execMin f s
  | .max f => Sys2Proof.Machine.execMax f s
  | .slt f => Sys2Proof.Machine.execSlt f s
  | .sltn f => Sys2Proof.Machine.execSltn f s
  | .addi f => Sys2Proof.Machine.execAddi f s
  | .andi f => Sys2Proof.Machine.execAndi f s
  | .ori f => Sys2Proof.Machine.execOri f s
  | .xori f => Sys2Proof.Machine.execXori f s
  | .shli f => Sys2Proof.Machine.execShli f s
  | .shri f => Sys2Proof.Machine.execShri f s
  | .shai f => Sys2Proof.Machine.execShai f s
  | .lui f => Sys2Proof.Machine.execLui f s
  | .ldb f => Sys2Proof.Machine.execLdb f s
  | .ldbz f => Sys2Proof.Machine.execLdbz f s
  | .ldh f => Sys2Proof.Machine.execLdh f s
  | .ldhz f => Sys2Proof.Machine.execLdhz f s
  | .ldw f => Sys2Proof.Machine.execLdw f s
  | .ldwz f => Sys2Proof.Machine.execLdwz f s
  | .ldd f => Sys2Proof.Machine.execLdd f s
  | .stb f => Sys2Proof.Machine.execStb f s
  | .sth f => Sys2Proof.Machine.execSth f s
  | .stw f => Sys2Proof.Machine.execStw f s
  | .std f => Sys2Proof.Machine.execStd f s
  | .beq f => Sys2Proof.Machine.execBeq f s
  | .bne f => Sys2Proof.Machine.execBne f s
  | .blt f => Sys2Proof.Machine.execBlt f s
  | .bge f => Sys2Proof.Machine.execBge f s
  | .bltn f => Sys2Proof.Machine.execBltn f s
  | .bgen f => Sys2Proof.Machine.execBgen f s
  | .jmp f => Sys2Proof.Machine.execJmp f s
  | .call f => Sys2Proof.Machine.execCall f s
  | .jr f => Sys2Proof.Machine.execJr f s
  | .ret f => Sys2Proof.Machine.execRet f s
  | .loopr f => Sys2Proof.Machine.execLoopr f s
  | .ctlrd f => Sys2Proof.Machine.execCtlrd f s
  | .ctlwr f => Sys2Proof.Machine.execCtlwr f s
  | .capld f => Sys2Proof.Machine.execCapld f s
  | .capldMemory f => Sys2Proof.Machine.execCapldMemory f s
  | .capst f => Sys2Proof.Machine.execCapst f s
  | .cnarrow f => Sys2Proof.Machine.execCnarrow f s
  | .cquery f => Sys2Proof.Machine.execCquery f s
  | .gld f => Sys2Proof.Machine.execGld f s
  | .gst f => Sys2Proof.Machine.execGst f s
  | .phase f => Sys2Proof.Machine.execPhase f s
  | .gbar f => Sys2Proof.Machine.execGbar f s
  | .fenceE f => Sys2Proof.Machine.execFenceE f s
  | .idle f => Sys2Proof.Machine.execIdle f s
  | .trap f => Sys2Proof.Machine.execTrap f s
  | .tret f => Sys2Proof.Machine.execTret f s
  | .halt f => Sys2Proof.Machine.execHalt f s
  | .dbgbrk f => Sys2Proof.Machine.execDbgbrk f s
  | .qpopS f => Sys2Proof.Machine.execQpopS f s
  | .qpeekS f => Sys2Proof.Machine.execQpeekS f s
  | .qpushS f => Sys2Proof.Machine.execQpushS f s
  | .qstatS f => Sys2Proof.Machine.execQstatS f s
  | .qflushS f => Sys2Proof.Machine.execQflushS f s
  | .qpopV f => Sys2Proof.Machine.execQpopV f s
  | .qpeekV f => Sys2Proof.Machine.execQpeekV f s
  | .qpushV f => Sys2Proof.Machine.execQpushV f s
  | .qstatV f => Sys2Proof.Machine.execQstatV f s
  | .qflushV f => Sys2Proof.Machine.execQflushV f s
  | .vadd f => Sys2Proof.Machine.execVadd f s
  | .vsub f => Sys2Proof.Machine.execVsub f s
  | .vmul f => Sys2Proof.Machine.execVmul f s
  | .vmulh f => Sys2Proof.Machine.execVmulh f s
  | .vmadd f => Sys2Proof.Machine.execVmadd f s
  | .vmin f => Sys2Proof.Machine.execVmin f s
  | .vmax f => Sys2Proof.Machine.execVmax f s
  | .vabs f => Sys2Proof.Machine.execVabs f s
  | .vneg f => Sys2Proof.Machine.execVneg f s
  | .vand f => Sys2Proof.Machine.execVand f s
  | .vor f => Sys2Proof.Machine.execVor f s
  | .vxor f => Sys2Proof.Machine.execVxor f s
  | .vshl f => Sys2Proof.Machine.execVshl f s
  | .vshr f => Sys2Proof.Machine.execVshr f s
  | .vsha f => Sys2Proof.Machine.execVsha f s
  | .vcmp f => Sys2Proof.Machine.execVcmp f s
  | .vsel f => Sys2Proof.Machine.execVsel f s
  | .vfadd f => Sys2Proof.Machine.execVfadd f s
  | .vfsub f => Sys2Proof.Machine.execVfsub f s
  | .vfmul f => Sys2Proof.Machine.execVfmul f s
  | .vfma f => Sys2Proof.Machine.execVfma f s
  | .vfmin f => Sys2Proof.Machine.execVfmin f s
  | .vfmax f => Sys2Proof.Machine.execVfmax f s
  | .vfcmp f => Sys2Proof.Machine.execVfcmp f s
  | .vcvt f => Sys2Proof.Machine.execVcvt f s
  | .vquant f => Sys2Proof.Machine.execVquant f s
  | .vdeq f => Sys2Proof.Machine.execVdeq f s
  | .vexp2 f => Sys2Proof.Machine.execVexp2 f s
  | .vlog2 f => Sys2Proof.Machine.execVlog2 f s
  | .vrcp f => Sys2Proof.Machine.execVrcp f s
  | .vrsq f => Sys2Proof.Machine.execVrsq f s
  | .vred f => Sys2Proof.Machine.execVred f s
  | .vperm f => Sys2Proof.Machine.execVperm f s
  | .vshuf f => Sys2Proof.Machine.execVshuf f s
  | .vbcast f => Sys2Proof.Machine.execVbcast f s
  | .vbcastLane f => Sys2Proof.Machine.execVbcastLane f s
  | .vextr f => Sys2Proof.Machine.execVextr f s
  | .vld f => Sys2Proof.Machine.execVld f s
  | .vst f => Sys2Proof.Machine.execVst f s
  | .vlds f => Sys2Proof.Machine.execVlds f s
  | .vsts f => Sys2Proof.Machine.execVsts f s
  | .vgath f => Sys2Proof.Machine.execVgath f s
  | .vscat f => Sys2Proof.Machine.execVscat f s
  | .pand f => Sys2Proof.Machine.execPand f s
  | .por f => Sys2Proof.Machine.execPor f s
  | .pxor f => Sys2Proof.Machine.execPxor f s
  | .pnot f => Sys2Proof.Machine.execPnot f s
  | .ppop f => Sys2Proof.Machine.execPpop f s
  | .pfirst f => Sys2Proof.Machine.execPfirst f s
  | .accpop f => Sys2Proof.Machine.execAccpop f s
  | .vordk f => Sys2Proof.Machine.execVordk f s
  | .vdigit f => Sys2Proof.Machine.execVdigit f s
  | .vcnt f => Sys2Proof.Machine.execVcnt f s
  | .vnwatch f => Sys2Proof.Machine.execVnwatch f s
  | .dnorm f => Sys2Proof.Machine.execDnorm f s
  | .dexp f => Sys2Proof.Machine.execDexp f s
  | .dexpRaw f => Sys2Proof.Machine.execDexpRaw f s
  | .ddot f => Sys2Proof.Machine.execDdot f s
  | .ddotm f => Sys2Proof.Machine.execDdotm f s
  | .dscale f => Sys2Proof.Machine.execDscale f s
  | .dscaleAdd f => Sys2Proof.Machine.execDscaleAdd f s
  | .dscaleSub f => Sys2Proof.Machine.execDscaleSub f s
  | .dset f => Sys2Proof.Machine.execDset f s
  | .dadd f => Sys2Proof.Machine.execDadd f s
  | .dneg f => Sys2Proof.Machine.execDneg f s
  | .dmov f => Sys2Proof.Machine.execDmov f s
  | .dzero f => Sys2Proof.Machine.execDzero f s
  | .dnormq f => Sys2Proof.Machine.execDnormq f s
  | .dnormqDev f => Sys2Proof.Machine.execDnormqDev f s
  | .bmodeCompute f => Sys2Proof.Machine.execBmodeCompute f s
  | .bmodeScratch f => Sys2Proof.Machine.execBmodeScratch f s
  | .bplane f => Sys2Proof.Machine.execBplane f s
  | .bload f => Sys2Proof.Machine.execBload f s
  | .bprec f => Sys2Proof.Machine.execBprec f s
  | .bsparse f => Sys2Proof.Machine.execBsparse f s
  | .bsparseDense f => Sys2Proof.Machine.execBsparseDense f s
  | .boutl f => Sys2Proof.Machine.execBoutl f s
  | .btag f => Sys2Proof.Machine.execBtag f s
  | .brun f => Sys2Proof.Machine.execBrun f s
  | .bacc f => Sys2Proof.Machine.execBacc f s
  | .bstat f => Sys2Proof.Machine.execBstat f s
  | .bclr f => Sys2Proof.Machine.execBclr f s
  | .bclrAll f => Sys2Proof.Machine.execBclrAll f s
  | .bdir f => Sys2Proof.Machine.execBdir f s
  | .bzero f => Sys2Proof.Machine.execBzero f s
  | .accalloc f => Sys2Proof.Machine.execAccalloc f s
  | .accfree f => Sys2Proof.Machine.execAccfree f s
  | .accband f => Sys2Proof.Machine.execAccband f s
  | .accbandLocal f => Sys2Proof.Machine.execAccbandLocal f s
  | .accnorm f => Sys2Proof.Machine.execAccnorm f s
  | .accclr f => Sys2Proof.Machine.execAccclr f s
  | .accrd f => Sys2Proof.Machine.execAccrd f s
  | .accrdRemote f => Sys2Proof.Machine.execAccrdRemote f s
  | .accexp f => Sys2Proof.Machine.execAccexp f s
  | .accexpRemote f => Sys2Proof.Machine.execAccexpRemote f s
  | .acchead f => Sys2Proof.Machine.execAcchead f s
  | .accexport f => Sys2Proof.Machine.execAccexport f s
  | .cpset f => Sys2Proof.Machine.execCpset f s
  | .cpgo f => Sys2Proof.Machine.execCpgo f s
  | .cpwait f => Sys2Proof.Machine.execCpwait f s
  | .cpmark f => Sys2Proof.Machine.execCpmark f s
  | .cpfollow f => Sys2Proof.Machine.execCpfollow f s
  | .cpmcast f => Sys2Proof.Machine.execCpmcast f s
  | .cpmcastMsg f => Sys2Proof.Machine.execCpmcastMsg f s
  | .cpfill f => Sys2Proof.Machine.execCpfill f s
  | .cpshell f => Sys2Proof.Machine.execCpshell f s
  | .cpacc f => Sys2Proof.Machine.execCpacc f s
  | .cpaccOne f => Sys2Proof.Machine.execCpaccOne f s
  | .memrowCopy f => Sys2Proof.Machine.execMemrowCopy f s
  | .memrowZero f => Sys2Proof.Machine.execMemrowZero f s
  | .ewalk f => Sys2Proof.Machine.execEwalk f s
  | .cpinv f => Sys2Proof.Machine.execCpinv f s
  | .cpfence f => Sys2Proof.Machine.execCpfence f s
  | .cpexportRead f => Sys2Proof.Machine.execCpexportRead f s
  | .cpexportCarry f => Sys2Proof.Machine.execCpexportCarry f s
  | .cpexportReceive f => Sys2Proof.Machine.execCpexportReceive f s
  | .cpcoll f => Sys2Proof.Machine.execCpcoll f s
  | .carry f => Sys2Proof.Machine.execCarry f s
  | .carryRemote f => Sys2Proof.Machine.execCarryRemote f s
  | .carryw f => Sys2Proof.Machine.execCarryw f s
  | .carryst f => Sys2Proof.Machine.execCarryst f s
  | .softError err => Sys2Proof.Machine.execSoftError err s
  | .eventIntake ev => Sys2Proof.Machine.execEventIntake ev s
  | .filterExit f => Sys2Proof.Machine.execFilterExit f s
  | .filterBr f => Sys2Proof.Machine.execFilterBr f s
  | .filterLde f => Sys2Proof.Machine.execFilterLde f s
  | .filterLdi f => Sys2Proof.Machine.execFilterLdi f s
  | .filterLih f => Sys2Proof.Machine.execFilterLih f s
  | .filterAddi f => Sys2Proof.Machine.execFilterAddi f s
  | .filterAdd f => Sys2Proof.Machine.execFilterAdd f s
  | .filterSub f => Sys2Proof.Machine.execFilterSub f s
  | .filterAnd f => Sys2Proof.Machine.execFilterAnd f s
  | .filterOr f => Sys2Proof.Machine.execFilterOr f s
  | .filterXor f => Sys2Proof.Machine.execFilterXor f s
  | .filterMin f => Sys2Proof.Machine.execFilterMin f s
  | .filterMax f => Sys2Proof.Machine.execFilterMax f s
  | .filterAbsd f => Sys2Proof.Machine.execFilterAbsd f s
  | .filterShl f => Sys2Proof.Machine.execFilterShl f s
  | .filterShr f => Sys2Proof.Machine.execFilterShr f s
  | .filterSha f => Sys2Proof.Machine.execFilterSha f s
  | .filterLog2 f => Sys2Proof.Machine.execFilterLog2 f s
  | .filterHash f => Sys2Proof.Machine.execFilterHash f s
  | .filterEwma f => Sys2Proof.Machine.execFilterEwma f s
  | .filterTld f => Sys2Proof.Machine.execFilterTld f s
  | .filterTst f => Sys2Proof.Machine.execFilterTst f s
  | .filterTadd f => Sys2Proof.Machine.execFilterTadd f s
  | .filterTrig f => Sys2Proof.Machine.execFilterTrig f s
  | .abstractCommand value => Sys2Proof.Machine.execAbstractCommand value s
  | .dmctlActive on => Sys2Proof.Machine.execDmctlActive on s
  | .hostWrite off bytes => Sys2Proof.Machine.execHostWrite off bytes s
  | .hostAtomic off op size a b => Sys2Proof.Machine.execHostAtomic off op size a b s
  | .hostRead off n => Sys2Proof.Machine.execHostRead off n s
  | .hostTableWrite target index value => Sys2Proof.Machine.execHostTableWrite target index value s
  | .hostRegisterWrite off size value => Sys2Proof.Machine.execHostRegisterWrite off size value s
  | .vfmapWrite vf value => Sys2Proof.Machine.execVfmapWrite vf value s
  | .lrenew epoch => Sys2Proof.Machine.execLrenew epoch s
  | .lrenewYield epoch => Sys2Proof.Machine.execLrenewYield epoch s
  | .epwrWrite value => Sys2Proof.Machine.execEpwrWrite value s
  | .mpwrWrite value => Sys2Proof.Machine.execMpwrWrite value s
  | .abudgetWrite value => Sys2Proof.Machine.execAbudgetWrite value s
  | .actlWrite value => Sys2Proof.Machine.execActlWrite value s
  | .aownWrite value => Sys2Proof.Machine.execAownWrite value s
  | .tctlWrite value => Sys2Proof.Machine.execTctlWrite value s
  | .trlenWrite base value => Sys2Proof.Machine.execTrlenWrite base value s
  | .portLinkChange up => Sys2Proof.Machine.execPortLinkChange up s
  | .boxLinkNotice notice => Sys2Proof.Machine.execBoxLinkNotice notice s
  | .spdmRequest req => Sys2Proof.Machine.execSpdmRequest req s
  | .hostRegisterRead off size => Sys2Proof.Machine.execHostRegisterRead off size s
  | .bundleIssue => Sys2Proof.Machine.execBundleIssue s
  | .slackExhausted => Sys2Proof.Machine.execSlackExhausted s
  | .instructionFetch => Sys2Proof.Machine.execInstructionFetch s
  | .faultDelivery => Sys2Proof.Machine.execFaultDelivery s
  | .phaseStart => Sys2Proof.Machine.execPhaseStart s
  | .phaseBoundary => Sys2Proof.Machine.execPhaseBoundary s
  | .reckonerTick => Sys2Proof.Machine.execReckonerTick s
  | .leaseExpiry => Sys2Proof.Machine.execLeaseExpiry s
  | .bmodeSwitch => Sys2Proof.Machine.execBmodeSwitch s
  | .mCommandStart => Sys2Proof.Machine.execMCommandStart s
  | .passToken => Sys2Proof.Machine.execPassToken s
  | .accumulate => Sys2Proof.Machine.execAccumulate s
  | .rowSetFull => Sys2Proof.Machine.execRowSetFull s
  | .cpfollowHandover => Sys2Proof.Machine.execCpfollowHandover s
  | .remoteDrain => Sys2Proof.Machine.execRemoteDrain s
  | .remoteRowImage => Sys2Proof.Machine.execRemoteRowImage s
  | .copyCommandStart => Sys2Proof.Machine.execCopyCommandStart s
  | .copyTransfer => Sys2Proof.Machine.execCopyTransfer s
  | .commandComplete => Sys2Proof.Machine.execCommandComplete s
  | .resultRecord => Sys2Proof.Machine.execResultRecord s
  | .markerRecord => Sys2Proof.Machine.execMarkerRecord s
  | .translationMarker => Sys2Proof.Machine.execTranslationMarker s
  | .peerReadRequest => Sys2Proof.Machine.execPeerReadRequest s
  | .delivery => Sys2Proof.Machine.execDelivery s
  | .collective => Sys2Proof.Machine.execCollective s
  | .carryWindow => Sys2Proof.Machine.execCarryWindow s
  | .remoteCarry => Sys2Proof.Machine.execRemoteCarry s
  | .carrystRecord => Sys2Proof.Machine.execCarrystRecord s
  | .seedWord => Sys2Proof.Machine.execSeedWord s
  | .atomic => Sys2Proof.Machine.execAtomic s
  | .rowCopy => Sys2Proof.Machine.execRowCopy s
  | .zeroFill => Sys2Proof.Machine.execZeroFill s
  | .lookupRecord => Sys2Proof.Machine.execLookupRecord s
  | .watchdogReset => Sys2Proof.Machine.execWatchdogReset s
  | .translation => Sys2Proof.Machine.execTranslation s
  | .invreqGo => Sys2Proof.Machine.execInvreqGo s
  | .invalidationComplete => Sys2Proof.Machine.execInvalidationComplete s
  | .eventDispatch => Sys2Proof.Machine.execEventDispatch s
  | .filterRun => Sys2Proof.Machine.execFilterRun s
  | .preemptionStop => Sys2Proof.Machine.execPreemptionStop s
  | .contextSave => Sys2Proof.Machine.execContextSave s
  | .rowSetRestore => Sys2Proof.Machine.execRowSetRestore s
  | .resumeRestart => Sys2Proof.Machine.execResumeRestart s
  | .debugStop => Sys2Proof.Machine.execDebugStop s
  | .dmctlHaltreq => Sys2Proof.Machine.execDmctlHaltreq s
  | .dmctlResumereq => Sys2Proof.Machine.execDmctlResumereq s
  | .traceSample => Sys2Proof.Machine.execTraceSample s
  | .lctlGo => Sys2Proof.Machine.execLctlGo s
  | .lctlStop => Sys2Proof.Machine.execLctlStop s
  | .lctlPreempt => Sys2Proof.Machine.execLctlPreempt s
  | .lctlResume => Sys2Proof.Machine.execLctlResume s
  | .lctlUnload => Sys2Proof.Machine.execLctlUnload s
  | .pctlCreate => Sys2Proof.Machine.execPctlCreate s
  | .pctlDestroy => Sys2Proof.Machine.execPctlDestroy s
  | .resyncGo => Sys2Proof.Machine.execResyncGo s
  | .boxLinkDown => Sys2Proof.Machine.execBoxLinkDown s
  | .farLaunchTimeout => Sys2Proof.Machine.execFarLaunchTimeout s
  | .interfaceTorn => Sys2Proof.Machine.execInterfaceTorn s
  | .lockInterface => Sys2Proof.Machine.execLockInterface s
  | .scrubComplete => Sys2Proof.Machine.execScrubComplete s
  | .coldReset => Sys2Proof.Machine.execColdReset s
  | .pfFunctionLevelReset => Sys2Proof.Machine.execPfFunctionLevelReset s
  | .vfFunctionLevelReset => Sys2Proof.Machine.execVfFunctionLevelReset s
  | .thermalShutdown => Sys2Proof.Machine.execThermalShutdown s
  | .deviceAccessComplete => Sys2Proof.Machine.execDeviceAccessComplete s
  | .doubledRefresh => Sys2Proof.Machine.execDoubledRefresh s
  | .boxLinkUp => Sys2Proof.Machine.execBoxLinkUp s

end Sys2Proof.Machine
end

