-- ==== Sys2Proof/Machine/Schedule.lean ====
section
/-! DEFINITION. The order of the events of a cycle (R35, R36, R263, R323, R428, R436; log 3, log 4): which events
each stage of a cycle holds, and the passing of a cycle. An event that is not enabled when its turn comes does
nothing (log 5). -/

namespace Sys2Proof.Machine

def todo (core idx : Nat) (what : Instr) : Due := { at_ := { core := core, idx := idx }, what := some what }

/-- The cores that are listed, by number. -/
def State.coreNums (s : State) : List Nat := s.cores.map (·.1)

/-! Stage 0: what arrives in this cycle. -/

def Msg.event (m : Msg) : Due :=
  todo m.dst m.no (match m.body with
    | .peerRead _ _ _ _ _ => .peerReadRequest
    | .operand _ _ _ _ _ _ => .peerReadRequest
    | .data _ _ _ _ _ _ => .delivery
    | .word _ _ _ => .delivery
    | .drain _ _ _ _ => .remoteDrain
    | .image _ _ => .remoteRowImage
    | .carry _ _ _ _ _ _ => .remoteCarry)

/-- When a message that has arrived acts on its target in a cycle. -/
inductive Serving where
  /-- With the arrivals: it needs no port. -/
  | first
  /-- As the M engine's write of a drained row (R299, R304). -/
  | engine
  /-- It needs ports, which the pod network asks for last (R304, R305). -/
  | last
  deriving DecidableEq, Repr

def MsgBody.serving : MsgBody → Serving
  | .word _ _ _ => .first
  | .drain _ _ _ _ => .first
  | .image _ _ => .engine
  | _ => .last

/-- The messages of one kind that have arrived. -/
def State.arrived (s : State) (k : Serving) : List Msg :=
  s.msgs.filter fun m => decide (m.at_ ≤ s.now) && m.body.serving == k

/-- Row sets that BDIR or BZERO makes FULL in this cycle (R279, R280). -/
def Core.setsDue (c : Core) (now : Nat) : List Nat :=
  (c.eng.mq.filter fun m => m.begun && (m.due.any fun d => decide (d ≤ now)) && match m.work with
    | .bdir _ _ _ _ => true
    | .bzero _ => true
    | _ => false).map (·.id)

def State.arrivals (s : State) : List Due :=
  (s.coreNums.map fun n =>
    let c := s.core n
    ((c.setsDue s.now).map fun id => todo n id .rowSetFull) ++
    (c.fetches.filter fun f => decide (f.2 ≤ s.now)).map (fun f => todo n f.1 .instructionFetch) ++
    (match c.seq.access with
     | some a => if a.ready || decide (s.now < a.due) then [] else [todo n 0 .deviceAccessComplete]
     | none => [])).flatten ++
  (s.units.map fun u => (u.2.serving.filter fun w => w.due.any fun t => decide (t ≤ s.now)).map
    fun _ => todo 0 u.1 .translation).flatten ++
  (s.arrived .first).map Msg.event ++
  (s.parts.filter fun p => p.2.inval.isSome).map fun p => todo 0 p.1 .invalidationComplete

/-! Stages 1 and 2: the sequencers; a core whose barrier was not complete tries once more (R113). -/

/-- A sequencer that has something to do in this cycle. -/
def Core.wantsIssue (c : Core) (now : Nat) : Bool :=
  c.seq.acted != now + 1 && !c.seq.halted &&
    (c.seq.run == .running || (c.seq.run == .atPhase && !c.seq.arrivedFaults.isEmpty))

def State.issues (s : State) : List Due :=
  (s.coreNums.filter fun n => (s.core n).wantsIssue s.now).map fun n => todo n 0 .bundleIssue

/-! Stage 3: the engines. -/

/-- A stopped or aborted core takes no further copy, window, record, row or collective step (R56, R458). -/
def Core.enginesLive (c : Core) : Bool :=
  match c.seq.run with
  | .stopped _ => false
  | .aborted => false
  | _ => true

def MCmd.events (n : Nat) (m : MCmd) : List Due :=
  if !m.begun then [todo n m.id .mCommandStart]
  else match m.work with
    | .pass _ => [todo n m.id .accumulate, todo n m.id .passToken]
    | .bmode _ => [todo n m.id .bmodeSwitch]
    | .btag _ _ _ => [todo n m.id .mCommandStart]
    | .put _ _ => [todo n m.id .mCommandStart]
    | _ => []

/-- What moves a started copy command on by a cycle. -/
def CopyKind.event : CopyKind → Instr
  | .acc _ => .atomic
  | .accOne _ => .atomic
  | .rowCopy => .rowCopy
  | .rowZero => .zeroFill
  | .walk => .lookupRecord
  | .coll => .collective
  | .mark _ => .markerRecord
  | .inv => .translationMarker
  | _ => .copyTransfer

def State.chanEvents (s : State) (n ch : Nat) : List Due :=
  let c := s.core n
  match (c.chan ch).queue with
  | [] => []
  | m :: _ =>
    let work := match m.kind with
      | .mark _ => [todo n ch m.kind.event]
      | .inv => [todo n ch m.kind.event]
      | _ => if m.started && !m.stale then [todo n ch m.kind.event] else [todo n ch .copyCommandStart]
    let dog := if !(s.part c.part).requests.isEmpty then [todo n ch .watchdogReset] else []
    work ++ dog ++ [todo n ch .commandComplete]

def State.carryEvents (s : State) (n : Nat) : List Due :=
  match (s.core n).eng.carry.queue with
  | [] => []
  | m :: _ => [todo n 0 (if m.kind = .status then .carrystRecord else .carryWindow)]

/-- The channels of a stopped core end the copies they are in (R458), and the in-memory units that work for it end the items
that they hold (R399). -/
def State.restEvents (s : State) (n : Nat) : List Due :=
  ((List.range 8).map fun ch =>
    if (s.core n).midCopy ch then [todo n ch .copyTransfer]
    else match (s.core n).unitCmd ch with
      | some m => if s.holdsItem n ch m then [todo n ch m.kind.event, todo n ch .watchdogReset] else []
      | none => []).flatten

/-- The engines of a core in the order of their priority at a port (R305): M, carry, channels. -/
def State.engines (s : State) (n : Nat) : List Due :=
  let c := s.core n
  let live := c.enginesLive
  ((s.arrived .engine).filter fun m => m.dst == n).map Msg.event ++
  (c.eng.mq.map (MCmd.events n)).flatten ++
  ((c.eng.fills.filter fun f => live || f.chan.isNone).map fun f => todo n f.id .rowSetFull) ++
  (if c.isStopped then s.restEvents n
   else if !live then []
   else
    (List.range c.eng.follows.length).map (fun i => todo n i .cpfollowHandover) ++
    s.carryEvents n ++
    ((List.range 8).map (s.chanEvents n)).flatten ++
    (List.range c.eng.exports.length).map (fun k => todo n (8 + k) .copyCommandStart) ++
    ([0, 1].filter fun q => !(Tab.look [] c.eng.results q).isEmpty).map (fun q => todo n q .resultRecord) ++
    (if c.part < 40 ∧ c.seedReady then [todo n 0 .seedWord] else []))

/-! Stages 4 and 5: the Abacus takes up to 8 events and executes up to 16 filter instructions (R428, R434). -/

def State.abacus (s : State) : List Due :=
  (List.replicate (min 8 s.intake.length) (todo 0 0 .eventDispatch)) ++
  (List.range 64).filterMap fun k => if (s.ctx k).en then some (todo 0 k .filterRun) else none

def State.filterSteps (s : State) : List Due :=
  (((List.range 64).map fun i => (s.now + i) % 64).filter fun k => (s.ctx k).run.isSome).take 16 |>.map fun k =>
    { at_ := { idx := k }, what := none }

/-! Stage 6: what the end of the cycle brings, at the new cycle. -/

/-- Events in arrival order (R428). -/
def State.eventsInOrder (s : State) : List AbEvent :=
  let key (e : AbEvent) : Nat := e.cls.toNat * 256 + (if e.nocore then 0 else 1 + e.pcore.toNat)
  (s.events ++ (s.cores.map fun c => c.2.events).flatten).mergeSort fun a b => decide (key a ≤ key b)

/-- What a partition has to do. -/
def State.partEvents (s : State) (p : Nat) : List Due :=
  let x := s.part p
  let cores := s.participants p
  (cores.filter fun n => (s.core n).seq.preempt).map (fun n => todo n 0 .preemptionStop) ++
  (if x.state = 6 then [todo 0 p .contextSave] else []) ++
  (x.restore.map fun n => todo n 0 .rowSetRestore) ++
  (match x.ready with
   | some r => if x.waiting then [] else if r.resume.isSome then [todo 0 p .resumeRestart] else [todo 0 p .phaseStart]
   | none => []) ++
  (if x.run.isSome then [todo 0 p .phaseBoundary] else []) ++
  (if x.loadAt + x.resumeAt = 0 then [] else [todo 0 p .farLaunchTimeout]) ++
  (if x.scrubbing then [todo 0 p .scrubComplete] else []) ++
  (if x.dsamp ≠ 0 ∧ x.sampled + x.dsamp ≤ s.now then cores.map fun n => todo n 0 .traceSample else [])

def State.cycleEnd (s : State) : List Due :=
  s.eventsInOrder.map (fun e => todo 0 0 (.eventIntake e)) ++
  (if s.now % 2300 = 0 then [todo 0 0 .reckonerTick, todo 0 0 .leaseExpiry] else []) ++
  (s.parts.map fun p => s.partEvents p.1).flatten

/-- Compute banks with a pass in progress count a cycle each (R58). -/
def Core.countBanks (c : Core) : Core :=
  let n := (c.eng.mq.map fun m => if m.begun then match m.work with
      | .pass p => p.banks.length
      | _ => 0
    else 0).sum
  { c with bal := { c.bal with bank := satAdd32 c.bal.bank n } }

/-- A cycle passes for a core: status records show it, mode changes take effect, and pipelines, results of the M slot,
timed commands and held records go on. -/
def Core.cycle (c : Core) (now : Nat) : Core :=
  let c := (((c.stampFaults now).countBanks.showDue now).settle.clock now).retireDue now
  [0, 1, 2, 3, 4, 5, 10, 11].foldl Core.unhold c

/-- A cycle passes. -/
def State.passCycle (s : State) : State :=
  { s with
    now := s.now + 1
    cores := s.cores.map fun c => (c.1, c.2.cycle (s.now + 1))
    units := s.units.map fun u => (u.1, u.2.cycle (s.now + s.params.walk)) }

/-- The next stage begins. -/
def State.nextStage (s : State) : State :=
  match s.stage with
  | 0 => { s with stage := 1, agenda := s.issues }
  | 1 => { s with stage := 2, agenda := s.issues }
  | 2 => { s with stage := 3, agenda := (s.coreNums.map s.engines).flatten ++ (s.arrived .last).map Msg.event }
  | 3 => { s with stage := 4, agenda := s.abacus }
  | 4 => { s with stage := 5, agenda := s.filterSteps }
  | 5 =>
    let s := s.passCycle
    { s with stage := 6, agenda := s.cycleEnd }
  | _ => { s with stage := 0, agenda := s.arrivals }

/-- An empty agenda: the boot of a module that has power (R489), else the next stage. A module that is off
does nothing. -/
def State.idleStep (s : State) : State :=
  if s.ready then s.nextStage
  else if s.off then s
  else { s with agenda := [todo 0 0 .coldReset] }

end Sys2Proof.Machine
end

