-- ==== Sys2Proof/Machine/Step.lean ====
section
/-! DEFINITION. The step: the event at the front of the agenda happens at its focus; a filter run fetches and
executes its next instruction; an empty agenda opens the next stage of the cycle (log 3). And where an instruction
is placed so that the next step runs it (log 6). -/

namespace Sys2Proof.Machine

/-- The next instruction of the run of context `k`. -/
def State.fetchFilter (s : State) (k : Nat) : Option Word32 :=
  (s.ctx k).run.map fun r => Tab.look 0 (s.ctx k).prog r.pc

/-- One filter instruction of the run of the context in the focus (R436). -/
def stepFilter (s : State) : Host.Outcome State Fault Refusal :=
  match s.fetchFilter s.focus.idx with
  | none => .next s
  | some w => match decodeFilter w with
    | some i => exec i s
    | none => .fault .badFilterWord

/-- The step of the machine. In a module that is off nothing happens but its cold reset (R489). -/
def step (s : State) : Host.Outcome State Fault Refusal :=
  match s.agenda with
  | [] => .next s.idleStep
  | d :: rest =>
    if s.off && d.what != some .coldReset then .next { s with agenda := rest }
    else match d.what with
    | some i => exec i { s with agenda := rest, focus := d.at_ }
    | none => stepFilter { s with agenda := rest, focus := d.at_ }

/-- A filter instruction in context 0, whose run is about to fetch it. -/
def State.withFilterWord (s : State) (w : Nat) : State :=
  { s.onCtx 0 fun c => { c with
      prog := Tab.store c.prog 0 (BitVec.ofNat 32 w), len := 64, en := true
      run := some { pc := 0, ev := { cls := 0, part := 0, pcore := 0, nocore := true, time := 0, payload := 0 } } } with
    agenda := [{ at_ := {}, what := none }] }

/-- A bundle in a code line of core 0, which is about to issue it. -/
def State.withBundle (s : State) (w : Nat) : State :=
  { s.onCore 0 fun c => { c with
      icache := Tab.store c.icache 0 (oneBundleLine (tableWords 14 w))
      seq := { c.seq with run := .running, pc := 4, arrive := .branch } } with
    agenda := [{ at_ := {}, what := some .bundleIssue }] }

/-- The instruction `w` placed where the next step fetches (log 6). -/
def State.withFetchWord (s : State) (nbits w : Nat) : State :=
  if nbits ≤ 32 then s.withFilterWord w else s.withBundle w

end Sys2Proof.Machine
end

