-- ==== Sys2Proof/Safety.lean ====
section
/-! DEFINITION. The terms in which the statements speak: where an instruction acts, what it sends down the
pipeline, when an access is open, and what a frame leaves. -/

namespace Sys2Proof.Machine

/-! Where a slot operation acts. -/

/-- The focus names one of the module's 128 cores (R15). -/
abbrev State.onACore (s : State) : Prop := s.focus.core < 128

/-- The core that the focus names. -/
def State.hereCore (s : State) : Core := s.core s.focus.core

/-- A change of the core in the focus, and of nothing else in the module. -/
def State.changesHere (s : State) (f : Core → Core) : State := s.setCore s.focus.core (f s.hereCore)

/-- A core whose pipeline has taken in results, each with its latency, in issue order (R92): nothing else of the
core changes. -/
def Core.takesIn (c : Core) (l : List (Nat × WriteBack)) : Core :=
  { c with seq := { c.seq with
      flight := c.seq.flight ++ l.map fun x => { due := c.seq.tick + x.1, wb := x.2 } } }

/-- The module after an operation whose whole effect is the results that it sends down the pipeline of its
core. -/
def State.sends (s : State) (l : List (Nat × WriteBack)) : State := s.changesHere fun c => c.takesIn l

/-! Where the sequencer goes on. -/

/-- Nothing that the bundle has issued so far ends it in another way: no HALT, TRET, PHASE, trap that follows, or
taken branch is noted. -/
abbrev Core.plainEnd (c : Core) : Prop :=
  c.seq.haltOp = false ∧ c.seq.tret = false ∧ c.seq.ended = false ∧ c.seq.after = none ∧ c.seq.redirect = none

/-- The successor of R66 of the bundle at the program counter of the core in the focus, and whether it opens a
line. -/
def State.nextBundle (s : State) : Word × Bool :=
  let pc := s.hereCore.seq.pc
  s.successor s.focus.core (lineNumber pc) (Tab.look 0 s.hereCore.icache (lineNumber pc)) (pc.toNat % 128 / 4)

/-- The module after a bundle of one operation that sends `l`: its core goes to the target, or to the successor
of R66 when there is none, with a fresh bundle; nothing else changes. -/
def State.goesOn (s : State) (l : List (Nat × WriteBack)) (target : Option (Word × Arrival)) : State :=
  let r := s.nextBundle
  let x := target.getD (r.1, if r.2 then .newLine else .sequential)
  s.changesHere fun c =>
    { c with seq := { (c.takesIn l).seq.goTo x.1 x.2 with succ := r.1, succNew := r.2 } }

/-! Vector operations. -/

/-- The draws of an operation over `n` results (R177): none outside mode SR; in mode SR the next `n` of q7, which
leave it. `d` is the core after the draws are taken. -/
def Core.drawn (c : Core) (rm : RMode) (n : Nat) (bs : List Nat) (d : Core) : Prop :=
  (rm ≠ .sr ∧ bs = [] ∧ d = c) ∨
  (rm = .sr ∧ n ≤ c.drawsSeen.length ∧ bs = (c.drawsSeen.take n).map (·.toNat) ∧ d = c.dropDraws n)

/-- The module after an element-wise V operation whose only effect is `e i` for element `i` of its destination
group, sent with latency `L` under PG and PZ. -/
def State.elementwise (s : State) (L : Nat) (f : VR) (e : Nat → Nat) : State :=
  s.changesHere fun c => mapElts c L f (tyOf f).width e

/-! Local memory. -/

/-- Nothing stops or delays a slot access to local memory (R144, R196): the checks of address, alignment, bank mode
and export pass, its ports are free, and no watermark lies below it. -/
abbrev Core.accessOpen (c : Core) (fo : Focus) (x : SlotAccess) (most : Option Nat := none) : Prop :=
  c.checkPieces x = none ∧ c.conflict fo.now fo.slot x most = none ∧ c.frozenAt x = none ∧ c.watermark x = none

/-- The module after a slot access that holds its ports (R197) and sends `l`. -/
def State.accesses (s : State) (x : SlotAccess) (l : List (Nat × WriteBack)) : State :=
  s.changesHere fun c => (c.holdPorts s.now s.focus.slot x).takesIn l

/-- The module after the slot operation in the focus has trapped (R447). -/
def State.traps (s : State) (cause : Nat) (det : Word) : State :=
  s.trapHere s.focus.core { cause := cause, det := det, slot := s.focus.slot }

/-- The core that a trap finds: its wait is over, and the results in flight are visible (R447 step 2). -/
def State.drained (s : State) : Core := (s.hereCore.logDeviation s.now true).drainAll s.now

/-! Engine commands. -/

/-- The M engine's queue, and the scoreboard where the command takes an entry, have room (R107, R268). -/
abbrev State.mRoom (s : State) (rd wr : Option (Nat × Nat)) : Prop :=
  s.hereCore.eng.mq.length < s.params.mdepth ∧
  ((rd.isSome = true ∨ wr.isSome = true) → s.hereCore.eng.sb.length < 16)

/-- The core in the focus once it has given its M engine a command with its resources and extents (R263, R308). -/
def State.engaged (s : State) (work : MWork) (uses : List Nat) (rd wr : Option (Nat × Nat)) : Core :=
  s.hereCore.mPush s.now s.hereCore.seq.pc s.hereCore.scycle none work uses rd wr

/-- The module after an M instruction that gave the engine a command and did nothing else. -/
def State.engages (s : State) (work : MWork) (uses : List Nat) (rd wr : Option (Nat × Nat)) : State :=
  s.changesHere fun _ => s.engaged work uses rd wr

/-- A region of local memory that a bank instruction may use (R271): aligned, inside local memory, and in no
compute-mode bank. -/
abbrev Core.regionOpen (c : Core) (q : Int) (align n : Nat) : Prop :=
  q % (align : Int) = 0 ∧ 0 ≤ q ∧ q + n ≤ 0x140000 ∧ c.computeBank q.toNat n = none

/-- A row set that may be written while passes run (R262): a shadow one, and not FILLING. -/
abbrev Core.shadowOpen (c : Core) (b : PassBank) : Prop :=
  (c.bank b.bank).mode = true ∧ (c.bank b.bank).act ≠ b.rs ∧ (c.setOf b).state ≠ 1

/-- A device side of a copy that nothing stops (R155, R69, R329): the capability check passes, a write meets no
code, every page is found, and the partition's traffic passes to each. `u` is the module after the probe. -/
abbrev State.sideOpen (s : State) (fo : Focus) (creg : Nat) (x : Cap) (need : Nat) (write : Bool) (lo : Int)
    (len : Nat) (runs : List (Int × Nat)) (pages : List Page) (u : State) : Prop :=
  let c := s.core fo.core
  let at_ (r : Int × Nat) : Nat × Nat := (x.base.toNat + r.1.toNat, r.2)
  (s.capCheck c creg x need [0] lo len).isLeft = true ∧
  (write = true → ∀ r ∈ runs, s.hitsCode c.part (at_ r).1 r.2 = false) ∧
  s.probeAll (podOf fo.core) c.part write (runs.map at_) = (.inl pages, u) ∧
  (∀ p ∈ pages, u.reaches c.part p = true)

/-- Both sides of a copy command (R329, R330, R335, R336): each device side is open, each local side passes, the
sides do not overlap where they may not, and the formats fit. `sp` and `dp` are the pages found. -/
abbrev State.sidesOpen (s : State) (fo : Focus) (m : CopyCmd) (srcLocal srcDev dstLocal dstDev : Bool)
    (sp dp : List Page) (u : State) : Prop :=
  let c := s.core fo.core
  let n := m.nest
  let se := n.srcExtent m.src
  let de := n.dstExtent m.dst
  let probed : State := if srcDev then (s.probeAll (podOf fo.core) c.part false
    ((n.srcRuns m.src).map fun r => (m.sc.base.toNat + r.1.toNat, r.2))).2 else s
  (if srcDev then s.sideOpen fo m.scr m.sc Perm.rd false se.1 se.2 (n.srcRuns m.src) sp probed
   else sp = [] ∧ c.localReach m srcLocal (n.srcRuns m.src) m.readsScales m.readExtent false = none) ∧
  (if dstDev then probed.sideOpen fo m.dcr m.dc Perm.wr true de.1 de.2 (n.dstRuns m.dst) dp u
   else dp = [] ∧ u = probed ∧ c.localReach m dstLocal (n.dstRuns m.dst) m.writesScales m.writeExtent true = none) ∧
  m.overlapBad = false ∧
  (srcDev = true → m.formatBad (n.srcRuns m.src) m.sc.base.toNat sp = false) ∧
  (dstDev = true → m.formatBad (n.dstRuns m.dst) m.dc.base.toNat dp = false) ∧
  (srcDev = false → dstDev = false → m.formatBad [] 0 [] = false)

/-- The channel, and the scoreboard where the command takes an entry, have room (R107, R310, R323). -/
abbrev State.cRoom (u : State) (fo : Focus) (ch : Nat) (m : CopyCmd) : Prop :=
  ((u.core fo.core).chan ch).queue.length < 4 ∧
  ((m.readExtent.isSome = true ∨ m.writeExtent.isSome = true) → (u.core fo.core).eng.sb.length < 16)

/-- `t` is the module `u` with the command at the end of its channel (R323, R332): numbered, with the bundle, SEQ and
phase of its issue, the releases that it waits for (R369), and its scoreboard entry. Registers, memory, device memory and the other channels stay. -/
def State.places (u : State) (fo : Focus) (ch : Nat) (m : CopyCmd) (t : State) : Prop :=
  let c := u.core fo.core
  let d := t.core fo.core
  let x := c.chan ch
  (d.chan ch).queue = x.queue ++
    [{ m with
      id := c.eng.nextId, slot := fo.slot, bundle := c.seq.pc, seq := x.seq, pidx := c.pidx, relOut := c.releases m }] ∧
  (d.chan ch).seq = (x.seq + 1) % 2 ^ 16 ∧ d.eng.nextId = c.eng.nextId + 1 ∧
  d.eng.sb = c.eng.sb ++ (if m.readExtent.isSome || m.writeExtent.isSome then
    [{ id := c.eng.nextId, rd := m.readExtent, wr := m.writeExtent }] else []) ∧
  (∀ k, k ≠ ch → d.chan k = c.chan k) ∧ d.regs = c.regs ∧ d.mem = c.mem ∧ d.eng.mq = c.eng.mq ∧
  t.dev = u.dev ∧ t.parts = u.parts ∧ (∀ k, k ≠ fo.core → t.core k = u.core k)

/-! Requests of the hosts. -/

/-- The request comes through the PF of the port that holds the lease (R470, R476). -/
abbrev State.throughOwner (s : State) : Prop :=
  s.focus.fn.vf = none ∧ s.focus.fn.port = s.owner ∧ s.owner < 2

/-- The request may write the window of partition `p` (R470, R471, R476): the partition exists, and the request comes
through the PF, for a register of the PF alone through the owner's, or through a VF of the partition whose interface is
not torn. -/
abbrev State.throughWindow (s : State) (p : Nat) (pfOnly : Bool) : Prop :=
  p < 40 ∧ (s.part p).pairs ≠ 0 ∧ s.focus.fn.port < 2 ∧
    ((s.focus.fn.vf = none ∧ (pfOnly = true → s.focus.fn.port = s.owner)) ∨
      (pfOnly = false ∧ ∃ v, s.focus.fn.vf = some v ∧ v < 512 ∧ s.iface s.focus.fn.port v ≠ 3 ∧ s.vfPart v = some p))

/-- The request may write the registers of context `k` (R430, R471): through the window of its owner. -/
abbrev State.throughContext (s : State) (k : Nat) : Prop :=
  k < 64 ∧ ∃ p, (s.ctx k).owner = some p ∧ s.throughWindow p false

end Sys2Proof.Machine
end

