-- ==== Sys2Proof/Certificates/Slice0/Obligations.lean ====
section
/-! DEFINITION. The statements for the provers, in the order of the spec's chapters. Each says, for every state
and every operand that meet its hypotheses, what the machine does. Where a clause names the state after `.next`
as a change of the state before, what it does not name is unchanged. The focus of a state says where an instruction
acts (log 2), and what a statement says of it holds for every focus that meets its hypotheses. -/

open Sys2Proof Sys2Proof.Machine

/-! Integer instructions (R140 to R142). -/

/-- The register forms but DIV and REM (R140): the result is bits [63:0] of the exact value, sent to s[SD] with
the latency of R95, and nothing else of the module changes. A and B are the operands as the N bit reads them.
The immediate forms (R142), with the immediate as R72 reads it; a shift's count lies between 0 and 63, as
decode demands of it. -/
def Obligations.ScalarResults : Prop :=
  (∀ (s : State) (f : SRRR), s.onACore →
     let a := s.hereCore.sreg f.sa.toNat
     let b := s.hereCore.sreg f.sb.toNat
     let k := b.toNat % 64
     let n : Bool := f.fn.getLsbD 0
     let A : Int := if n then a.toNat else a.toInt
     let B : Int := if n then b.toNat else b.toInt
     let gives (L : Nat) (v : Int) : Host.Outcome State Fault Refusal :=
       .next (s.sends [(L, .scalar f.sd.toNat (BitVec.ofInt 64 v))])
     exec (.add f) s = gives 1 (a.toInt + b.toInt) ∧
     exec (.sub f) s = gives 1 (a.toInt - b.toInt) ∧
     exec (.and f) s = gives 1 (a &&& b).toInt ∧
     exec (.or f) s = gives 1 (a ||| b).toInt ∧
     exec (.xor f) s = gives 1 (a ^^^ b).toInt ∧
     exec (.shl f) s = gives 1 (a.toInt * 2 ^ k) ∧
     exec (.shr f) s = gives 1 ((a.toNat : Int) / 2 ^ k) ∧
     exec (.sha f) s = gives 1 (a.toInt / 2 ^ k) ∧
     exec (.mul f) s = gives 3 (a.toInt * b.toInt) ∧
     exec (.mulh f) s = gives 3 (A * B / 2 ^ 64) ∧
     exec (.min f) s = gives 1 (min A B) ∧
     exec (.max f) s = gives 1 (max A B) ∧
     exec (.slt f) s = gives 1 (if a.toInt < b.toInt then 1 else 0) ∧
     exec (.sltn f) s = gives 1 (if a.toNat < b.toNat then 1 else 0)) ∧
  (∀ (s : State) (f : SRI), s.onACore →
     let a := s.hereCore.sreg f.sa.toNat
     let i : Int := match f.ext with
       | none => f.imm.toInt
       | some e => (e ++ f.imm).toInt
     let gives (v : Int) : Host.Outcome State Fault Refusal :=
       .next (s.sends [(1, .scalar f.sd.toNat (BitVec.ofInt 64 v))])
     exec (.addi f) s = gives (a.toInt + i) ∧
     exec (.andi f) s = gives (a &&& BitVec.ofInt 64 i).toInt ∧
     exec (.ori f) s = gives (a ||| BitVec.ofInt 64 i).toInt ∧
     exec (.xori f) s = gives (a ^^^ BitVec.ofInt 64 i).toInt ∧
     (0 ≤ i → i < 64 → exec (.shli f) s = gives (a.toInt * 2 ^ i.toNat)) ∧
     (0 ≤ i → i < 64 → exec (.shri f) s = gives ((a.toNat : Int) / 2 ^ i.toNat)) ∧
     (0 ≤ i → i < 64 → exec (.shai f) s = gives (a.toInt / 2 ^ i.toNat)) ∧
     exec (.lui f) s = gives (i * 2 ^ 18))

/-- DIV and REM (R141): the quotient is rounded towards zero, the remainder takes the sign of the dividend, a zero
divisor gives −1 and the dividend, and neither traps. -/
def Obligations.DivisionRoundsTowardsZero : Prop :=
  ∀ (s : State) (f : SRRR), s.onACore →
    let a := s.hereCore.sreg f.sa.toNat
    let b := s.hereCore.sreg f.sb.toNat
    let n : Bool := f.fn.getLsbD 0
    let A : Int := if n then a.toNat else a.toInt
    let B : Int := if n then b.toNat else b.toInt
    ∃ q r : Int,
      exec (.div f) s = .next (s.sends [(20, .scalar f.sd.toNat (BitVec.ofInt 64 q))]) ∧
      exec (.rem f) s = .next (s.sends [(20, .scalar f.sd.toNat (BitVec.ofInt 64 r))]) ∧
      (B = 0 → q = -1 ∧ r = A) ∧
      (B ≠ 0 → A = q * B + r ∧ r.natAbs < B.natAbs ∧ (0 ≤ A → 0 ≤ r) ∧ (A ≤ 0 → r ≤ 0))

/-! Control flow (R145 to R148). -/

/-- The conditional branches (R145) and JMP (R146), each executed alone, as a bundle of its own (log 2): it goes to
its own address plus 4 times the offset of R72 when the branch is taken, else to its successor (R66); it sends no
result.
CALL, JR, RET and LOOPR (R146 to R148), each a bundle of its own (log 2): CALL links s31 to the successor of R66; JR and RET go to the address
in their register; LOOPR counts down modulo 2^64 and branches until the count is zero.
Clauses here rest on choices of the model: log 2. -/
def Obligations.ControlFlowGoesToItsTarget : Prop :=
  (∀ (s : State), s.onACore → s.hereCore.plainEnd →
     (∀ f : SB,
       let a := s.hereCore.sreg f.sa.toNat
       let b := s.hereCore.sreg f.sb.toNat
       let off : Int := match f.ext with
         | none => f.off.toInt
         | some e => (e ++ f.off).toInt
       let there : Word × Arrival := (BitVec.ofInt 64 (s.hereCore.seq.pc.toInt + 4 * off), .branch)
       let goes (taken : Bool) : Host.Outcome State Fault Refusal :=
         .next (s.goesOn [] (if taken then some there else none))
       exec (.beq f) s = goes (decide (a = b)) ∧
       exec (.bne f) s = goes (decide (a ≠ b)) ∧
       exec (.blt f) s = goes (decide (a.toInt < b.toInt)) ∧
       exec (.bge f) s = goes (decide (b.toInt ≤ a.toInt)) ∧
       exec (.bltn f) s = goes (decide (a.toNat < b.toNat)) ∧
       exec (.bgen f) s = goes (decide (b.toNat ≤ a.toNat))) ∧
     (∀ f : SJ,
       let off : Int := match f.ext with
         | none => f.off.toInt
         | some e => (e ++ f.off).toInt
       exec (.jmp f) s =
         .next (s.goesOn [] (some (BitVec.ofInt 64 (s.hereCore.seq.pc.toInt + 4 * off), .branch))))) ∧
  (∀ (s : State), s.onACore → s.hereCore.plainEnd →
     (∀ f : SJ,
       let off : Int := match f.ext with
         | none => f.off.toInt
         | some e => (e ++ f.off).toInt
       exec (.call f) s = .next (s.goesOn [(1, .scalar 31 s.nextBundle.1)]
         (some (BitVec.ofInt 64 (s.hereCore.seq.pc.toInt + 4 * off), .branch)))) ∧
     (∀ f : SRRR, exec (.jr f) s = .next (s.goesOn [] (some (s.hereCore.sreg f.sa.toNat, .register)))) ∧
     (∀ f : SRRR, exec (.ret f) s = .next (s.goesOn [] (some (s.hereCore.sreg 31, .register)))) ∧
     (∀ f : SB,
       let n := BitVec.ofInt 64 ((s.hereCore.sreg f.sa.toNat).toInt - 1)
       let off : Int := match f.ext with
         | none => f.off.toInt
         | some e => (e ++ f.off).toInt
       exec (.loopr f) s = .next (s.goesOn [(1, .scalar f.sa.toNat n)]
         (if n = 0 then none
          else some (BitVec.ofInt 64 (s.hereCore.seq.pc.toInt + 4 * off), .branch)))))

/-! Local loads and stores (R143, R144, R198). -/

/-- The local loads (R143): where no check of R144 stops the access, the value is sent to s[SD] with latency 4,
extended as the mnemonic says. `sriAddr` is s[SA] + OFF with its steps.
The local stores (R143): the low bytes of s[SD], least significant first, are sent to memory and are there
after one pipeline cycle.
Bytes sent to memory by a store stand there once they land (R198): every byte of the range is the one stored,
every byte outside reads as before, no register, flag, queue or engine changes, and the rows they touch take
tag 0 (R249).
Clauses here rest on choices of the model: log 20. -/
def Obligations.LocalLoadsAndStores : Prop :=
  (∀ (s : State) (f : SRI), s.onACore →
     let c := s.hereCore
     let a := sriAddr s.here f c
     let loads (i : Instr) (n : Nat) (v : Word) : Prop :=
       let x : SlotAccess := { write := false, pieces := [(a, n)] }
       c.accessOpen s.here x → exec i s = .next (s.accesses x [(4, .scalar f.sd.toNat v)])
     let byte (i : Nat) : Byte := c.mem.byte (a.toNat + i)
     loads (.ldb f) 1 ((byte 0).signExtend 64) ∧
     loads (.ldbz f) 1 ((byte 0).setWidth 64) ∧
     loads (.ldh f) 2 ((byte 1 ++ byte 0).signExtend 64) ∧
     loads (.ldhz f) 2 ((byte 1 ++ byte 0).setWidth 64) ∧
     loads (.ldw f) 4 ((byte 3 ++ byte 2 ++ byte 1 ++ byte 0).signExtend 64) ∧
     loads (.ldwz f) 4 ((byte 3 ++ byte 2 ++ byte 1 ++ byte 0).setWidth 64) ∧
     loads (.ldd f) 8 (byte 7 ++ byte 6 ++ byte 5 ++ byte 4 ++ byte 3 ++ byte 2 ++ byte 1 ++ byte 0)) ∧
  (∀ (s : State) (f : SRI), s.onACore →
     let c := s.hereCore
     let a := sriAddr s.here f c
     let v := c.sreg f.sd.toNat
     let stores (i : Instr) (n : Nat) : Prop :=
       let x : SlotAccess := { write := true, pieces := [(a, n)] }
       c.accessOpen s.here x →
         exec i s = .next (s.accesses x
           [(1, .mem a.toNat ((List.range n).map fun j => v.extractLsb' (8 * j) 8))])
     stores (.stb f) 1 ∧ stores (.sth f) 2 ∧ stores (.stw f) 4 ∧ stores (.std f) 8) ∧
  (∀ (c : Core) (a : Nat) (bs : List Byte),
     let d := c.apply ctlInfo (.mem a bs)
     (∀ i, i < bs.length → d.mem.byte (a + i) = bs.getD i 0) ∧
     (∀ k, (k < a ∨ a + bs.length ≤ k) → d.mem.byte k = c.mem.byte k) ∧
     (∀ k, a ≤ k → k < a + bs.length → d.tagAt k = 0) ∧
     (∀ k, (k / 256 * 256 + 256 ≤ a ∨ a + bs.length ≤ k / 256 * 256) → d.tagAt k = c.tagAt k) ∧
     d.regs = c.regs ∧ d.ctl = c.ctl ∧ d.q = c.q ∧ d.eng = c.eng ∧ d.seq = c.seq)

/-- Checks 1 to 3 of R144, in their order: outside local memory the local-address trap, then the
misaligned-access trap with the address, then the bank-mode trap with the bank.
Clauses here rest on choices of the model: log 20. -/
def Obligations.LocalAccessTraps : Prop :=
  ∀ (s : State) (f : SRI), s.onACore →
    let c := s.hereCore
    let a := sriAddr s.here f c
    let trapped (n : Nat) (i : Instr) : Prop :=
      ((a < 0 ∨ 0x13FFFF < a + n - 1) → exec i s = .next (s.traps 0x0A (BitVec.ofInt 64 a))) ∧
      (0 ≤ a → a + n - 1 ≤ 0x13FFFF → a % n ≠ 0 → exec i s = .next (s.traps 0x0B (BitVec.ofInt 64 a))) ∧
      (0 ≤ a → a < 0x100000 → a % n = 0 → (c.bank (a.toNat / 65536)).mode = true →
        exec i s = .next (s.traps 0x0C (BitVec.ofNat 64 (a.toNat / 65536))))
    trapped 1 (.ldb f) ∧ trapped 1 (.ldbz f) ∧ trapped 2 (.ldh f) ∧ trapped 2 (.ldhz f) ∧ trapped 4 (.ldw f) ∧
    trapped 4 (.ldwz f) ∧ trapped 8 (.ldd f) ∧ trapped 1 (.stb f) ∧ trapped 2 (.sth f) ∧ trapped 4 (.stw f) ∧
    trapped 8 (.std f)

/-! Traps and service code (R445 to R454). -/

/-- Taking a trap of class R outside service code with TRAPVEC set (R445, R447): the core drains, the trap
registers describe the trapped issue, one trap event goes to the Abacus (R427) and, when the trace is on, a trace record
of the trap, or of the breakpoint, to the trace buffer (R469), SVC becomes 1 and MOVED 0, and the sequencer goes to
TRAPVEC as to a branch target. Every other register is as the drain left it, other cores are untouched. -/
def Obligations.TakingATrapEntersServiceCode : Prop :=
  ∀ (s : State) (cause : Nat) (det : Word), s.onACore →
    let n := s.focus.core
    let d := s.drained
    let t := s.traps cause det
    let e := t.core n
    (cause ≠ 0x07 ∧ cause ≠ 0x51) → cause < 256 → s.focus.slot < 8 → d.ctlOf 0x087 ≠ 0 → d.svc = false →
      e.ctlOf 0x080 = BitVec.ofNat 64 cause ∧
      e.ctlOf 0x081 = s.hereCore.seq.pc ∧
      e.ctlOf 0x082 = BitVec.ofNat 64 s.hereCore.scycle ∧
      e.ctlOf 0x083 = BitVec.ofNat 64 (s.hereCore.seq.rem + 256 * s.hereCore.seq.idx) ∧
      e.ctlOf 0x084 = BitVec.ofNat 64 s.focus.slot ∧
      e.ctlOf 0x085 = det ∧
      e.ctlOf 0x086 = 0 ∧
      e.ctlOf 0x087 = d.ctlOf 0x087 ∧
      e.svc = true ∧ e.ctlBits 0x088 7 7 = 0 ∧
      e.seq.run = .running ∧ e.seq.pc = d.ctlOf 0x087 ∧ e.seq.arrive = .branch ∧ e.seq.flight = [] ∧
      e.seq.sticky = d.seq.sticky ∧ e.seq.svcSticky = none ∧
      e.regs = d.regs ∧ e.mem = d.mem ∧
      (∀ k, k < 0x080 ∨ 0x088 < k → e.ctlOf k = d.ctlOf k) ∧
      (∀ m, m ≠ n → t.core m = s.core m) ∧
      let c := s.hereCore
      let pc := c.seq.pc.toNat
      let issue := c.seq.rem + 256 * c.seq.idx
      e.events = (d.event s.now 6 (words32 [pc, pc / 2 ^ 32, c.scycle, cause + s.focus.slot * 2 ^ 8 + issue * 2 ^ 11,
        d.lcore + d.pidx * 2 ^ 16, d.starts, 0, 0])).events ∧
      let x := s.part d.part
      let w := s.changesHere fun _ => (d.trapRegs { cause := cause, det := det, slot := s.focus.slot } none c.seq.pc
        c.seq.rem c.seq.idx c.scycle).trapEvent s.now
      let record : Nat := (if cause = 0x1A then 2 else 1) + d.num * 2 ^ 4 + d.lcore * 2 ^ 16 + d.pidx * 2 ^ 48 +
        pc * 2 ^ 64 + d.scycle * 2 ^ 128 + det.toNat * 2 ^ 192
      let traced := w.writeVirtual (podOf n) d.part (x.trbase + 32 * x.trnext) (leBytes 32 record) .pass
      let memory (v : State) : Prop := t.dev = v.dev ∧ t.host0 = v.host0 ∧ t.host1 = v.host1
      (x.trlen = 0 → memory s ∧ t.parts = s.parts) ∧
      (∀ v, x.trlen ≠ 0 → traced = (none, v) → memory v ∧
        t.part d.part = { x with trnext := (x.trnext + 1) % x.trlen }) ∧
      (∀ err v, x.trlen ≠ 0 → traced = (some err, v) → memory v ∧
        t.part d.part = { x with trdrop := min (x.trdrop + 1) (2 ^ 32 - 1) })

/-- A trap of class A, a trap without a service vector, and a trap inside service code abort the phase (R447 step 5,
R56): the partition reads ABORTED, nothing runs or waits, every participating core has stopped, and the
trapping core's trap registers describe the trap.
HALT (R453) aborts the phase from service code and is the illegal-operation trap elsewhere; PHASE (R164, R449)
ends the segment, and is the illegal-operation trap in service code. -/
def Obligations.AbortsAndPhaseEnds : Prop :=
  (∀ (s : State) (cause : Nat) (det : Word), s.onACore →
     let n := s.focus.core
     let d := s.drained
     let t := s.traps cause det
     (cause = 0x07 ∨ cause = 0x51 ∨ d.ctlOf 0x087 = 0 ∨ d.svc = true) → cause < 256 →
       (t.part d.part).state = 5 ∧ (t.part d.part).run = none ∧ (t.part d.part).ready = none ∧
       (t.core n).seq.run = .aborted ∧
       (t.core n).ctlOf 0x080 = BitVec.ofNat 64 cause ∧
       (t.core n).ctlOf 0x085 = det ∧
       ∀ m ∈ s.participants d.part, (t.core m).seq.run = .aborted) ∧
  (∀ (s : State) (f : SRI), s.onACore → s.hereCore.plainEnd →
     let c := s.hereCore
     let r := s.nextBundle
     (c.svc = true → ∃ t, exec (.halt f) s = .next t ∧
       (t.part c.part).state = 5 ∧ (t.part c.part).run = none ∧
       ∀ m ∈ s.participants c.part, (t.core m).seq.run = .aborted) ∧
     (c.svc = false → exec (.halt f) s = .next (s.traps 0x01 0)) ∧
     (c.svc = false → exec (.phase f) s = .next (s.changesHere fun c => { c with seq := { c.seq with
       succ := r.1, succNew := r.2, ended := true, run := .atPhase, stall := 0, made := [], begun := false } })) ∧
     (c.svc = true → exec (.phase f) s = .next (s.traps 0x01 0)))

/-- TRAP and DBGBRK (R454): the trap follows the whole issue of the bundle. TRAPADDR is the successor of R66, TRAPREP
is 0 and TRAPDET is the code; with DMCTL.BRKHALT set, DBGBRK stops the core at the successor instead.
TRET (R452) ends service code: SVC becomes 0, SCYC becomes TRAPCYC, and the sequencer resumes the bundle at
TRAPADDR at issue IDX with REM issues to make, waits at PHASE again when the fault found it there, or, when TRAPADDR
has been written, branches to it. Outside service code it is the illegal-operation trap.
Clauses here rest on choices of the model: logs 13 and 67. -/
def Obligations.TrapInstructionsAndTret : Prop :=
  (∀ (s : State) (f : SRI), s.onACore → s.hereCore.plainEnd →
     let n := s.focus.core
     let d := s.hereCore.drainAll s.now
     let code := BitVec.ofNat 64 (f.imm.toNat % 256)
     let traps (i : Instr) (cause : Nat) : Prop :=
       ∃ t, exec i s = .next t ∧
         (t.core n).ctlOf 0x080 = BitVec.ofNat 64 cause ∧
         (t.core n).ctlOf 0x081 = s.nextBundle.1 ∧
         (t.core n).ctlOf 0x083 = 0 ∧
         (t.core n).ctlOf 0x085 = code ∧
         (t.core n).svc = true ∧ (t.core n).seq.pc = d.ctlOf 0x087 ∧ (t.core n).seq.arrive = .branch
     d.ctlOf 0x087 ≠ 0 → d.svc = false →
       traps (.trap f) 0x19 ∧
       (s.hereCore.seq.brkHalt = false → traps (.dbgbrk f) 0x1A) ∧
       (s.hereCore.seq.brkHalt = true → s.hereCore.seq.halted = false →
         ∃ t, exec (.dbgbrk f) s = .next t ∧ (t.core n).seq.halted = true ∧
           (t.core n).seq.pc = s.nextBundle.1 ∧ (t.core n).svc = false ∧ (t.core n).regs = d.regs)) ∧
  (∀ (s : State) (f : SRI), s.onACore →
     let n := s.focus.core
     let c := s.hereCore
     (c.svc = true → c.plainEnd → c.seq.pending = [] →
       ∃ t, exec (.tret f) s = .next t ∧
         (t.core n).svc = false ∧ (t.core n).scycle = c.ctlBits 0x082 31 0 ∧
         (t.core n).seq.pc = c.ctlOf 0x081 ∧ (t.core n).seq.sticky = c.seq.sticky ∧
         (t.core n).regs = c.regs ∧ (t.core n).mem = c.mem ∧
         (c.ctlBits 0x088 7 7 = 1 → (t.core n).seq.arrive = .branch ∧ (t.core n).seq.begun = false) ∧
         (c.ctlBits 0x088 7 7 ≠ 1 → c.seq.parked = false →
           (t.core n).seq.arrive = returnArrival (c.ctlOf 0x081) (c.ctlBits 0x083 7 0) ∧
           (t.core n).seq.rem = c.ctlBits 0x083 7 0 ∧ (t.core n).seq.idx = c.ctlBits 0x083 15 8 ∧
           (t.core n).seq.run = c.seq.run) ∧
         (c.ctlBits 0x088 7 7 ≠ 1 → c.seq.parked = true → (t.core n).seq.run = .atPhase)) ∧
     (c.svc = false → exec (.tret f) s = .next (s.traps 0x01 0)))

/-! Control registers and capabilities (R139, R155 to R163). -/

/-- CTLWR (R139): the checks in their order, each the illegal-operand trap with the register unchanged; otherwise
the write takes effect two cycles later, RW fields taking the bits of s[SA] and W1C bits being cleared where s[SA]
holds 1. `ctlInfo` gives the fields of each register (R138). A write to TRAPADDR sets TSTAT.MOVED (R445); one to SEED0 to
SEED3 writes the state word, empties q7 and its set-aside draws, and begins or, for SEED3, ends the seeding state (R234).
CTLRD (R139, R5): an unassigned number is the illegal-operand trap; a register without RC fields is read with
latency 2 and keeps its value, and one with RC fields is cleared by the read; PEAK restarts at USED (R312). What
conversions of the same cycle add to ZBLK enters at the end of the cycle, saturating (R122). ENTR takes the next
free value.
Clauses here rest on choices of the model: logs 11 and 37. -/
def Obligations.ControlRegisterAccesses : Prop :=
  (∀ (s : State) (f : SRI), s.onACore →
     let c := s.hereCore
     let n := f.imm.toNat
     let v := c.sreg f.sa.toNat
     (ctlInfo n = none → exec (.ctlwr f) s = .next (s.traps 0x02 0)) ∧
     ∀ i, ctlInfo n = some i →
       ((i.rw = 0 ∧ i.w1c = 0 ∨ i.svc = true ∧ c.svc = false ∨ v.toNat &&& i.all ≠ v.toNat) →
         exec (.ctlwr f) s = .next (s.traps 0x02 0)) ∧
       (¬ (i.rw = 0 ∧ i.w1c = 0) → (i.svc = true → c.svc = true) → v.toNat &&& i.all = v.toNat →
         exec (.ctlwr f) s = .next (s.sends [(2, .ctlWrite n v)]) ∧
         ((n < 0x060 ∨ 0x063 < n) → ∀ d : Core,
           ((d.apply ctlInfo (.ctlWrite n v)).regs = d.regs ∧ (d.apply ctlInfo (.ctlWrite n v)).mem = d.mem) ∧
           (n ≠ 0x081 → ∀ k, (d.apply ctlInfo (.ctlWrite n v)).ctlOf k =
             if k = n then ((d.ctlOf n &&& ~~~(BitVec.ofNat 64 i.rw)) ||| (v &&& BitVec.ofNat 64 i.rw)) &&&
               ~~~(v &&& BitVec.ofNat 64 i.w1c)
             else d.ctlOf k)) ∧
         (n = 0x081 → ∀ d : Core,
           let e := d.apply ctlInfo (.ctlWrite n v)
           e.ctlOf 0x081 = v ∧ e.ctlBits 0x088 7 7 = 1 ∧ (∀ j, j ≠ 7 → (e.ctlOf 0x088).getLsbD j = (d.ctlOf 0x088).getLsbD j) ∧
           ∀ k, k ≠ 0x081 → k ≠ 0x088 → e.ctlOf k = d.ctlOf k) ∧
         (0x060 ≤ n → n ≤ 0x063 → ∀ d : Core,
           let e := d.apply ctlInfo (.ctlWrite n v)
           (∀ k, e.ctlOf k = if k = n then v else d.ctlOf k) ∧ e.q = { d.q with draws := [], aside := [] } ∧
           (e.seeding = true ↔ n ≠ 0x063) ∧ e.regs = d.regs ∧ e.mem = d.mem))) ∧
  (∀ (s : State) (f : SRI), s.onACore →
     let c := s.hereCore
     let n := f.imm.toNat
     let v : WriteBack := .scalar f.sd.toNat (BitVec.ofNat 64 (c.ctlView n))
     (ctlInfo n = none → exec (.ctlrd f) s = .next (s.traps 0x02 0)) ∧
     ∀ i, ctlInfo n = some i →
       (i.rc = 0 → n ≠ 0x064 → exec (.ctlrd f) s = .next (s.sends [(2, v)])) ∧
       (i.rc ≠ 0 → n ≠ 0x07C → exec (.ctlrd f) s = .next (s.changesHere fun c =>
         (c.setCtl n (c.ctlOf n &&& ~~~(BitVec.ofNat 64 i.rc))).takesIn [(2, v)])) ∧
       (n = 0x07C → exec (.ctlrd f) s = .next (s.changesHere fun c =>
         ((c.setCtl n (c.ctlOf n &&& ~~~(BitVec.ofNat 64 i.rc))).setCtlBits n 9 5 c.eng.sb.length).takesIn
           [(2, v)])) ∧
       (n = 0x064 → exec (.ctlrd f) s = .next (s.changesHere fun c =>
         ({ c with free := c.free + 1 } : Core).takesIn [(2, .scalar f.sd.toNat (Config.entropy c.num c.free))])) ∧
       ∀ d : Core, d.endZblk.ctlBits 0x016 63 32 = min (2 ^ 32 - 1) (d.ctlBits 0x016 63 32 + d.zNew) ∧
         d.endZblk.zNew = 0 ∧ ∀ k, k ≠ 0x016 → d.endZblk.ctlOf k = d.ctlOf k)

/-- Every CTLRD of an assigned register, and every CTLWR that no check of R139 stops, completes: the value that the
register shows goes to s[SD], the value of s[SA] goes to the register, each after two pipeline cycles, and the
register files and memory stay. -/
def Obligations.ControlAccessesComplete : Prop :=
  ∀ (s : State) (f : SRI), s.onACore → (ctlInfo f.imm.toNat).isSome = true →
    let n := s.focus.core
    let c := s.hereCore
    let i := (ctlInfo f.imm.toNat).getD {}
    let v := c.sreg f.sa.toNat
    (∃ t, exec (.ctlrd f) s = .next t ∧
      (t.core n).seq.flight = c.seq.flight ++ [{ due := c.seq.tick + 2
                                                 wb := .scalar f.sd.toNat (BitVec.ofNat 64 (c.ctlView f.imm.toNat)) }] ∧
      (t.core n).regs = c.regs ∧ (t.core n).mem = c.mem ∧ ∀ m, m ≠ n → t.core m = s.core m) ∧
    ((i.rw ≠ 0 ∨ i.w1c ≠ 0) → (i.svc = true → c.svc = true) → v.toNat &&& i.all = v.toNat →
      exec (.ctlwr f) s = .next (s.sends [(2, .ctlWrite f.imm.toNat v)]))

/-- CNARROW and CQUERY (R159, R160): narrowing checks the mask, the tag and the range in this order, and keeps the
entry and the type; a query reads one field of the register named.
The table form of CAPLD (R157): entry s[SA] + IDX of the image's table with TAG 1, or the capability fault. -/
def Obligations.CapabilityRegisterResults : Prop :=
  (∀ (s : State) (f : SRRR), s.onACore →
     let c := s.hereCore
     let m := (c.sreg (f.sb.toNat + 1)).toNat
     let o := (c.sreg f.sb.toNat).toNat
     let x := c.cap f.sa.toNat
     let queries (v : Nat) : Prop :=
       exec (.cquery f) s = .next (s.sends [(2, .scalar f.sd.toNat (BitVec.ofNat 64 v))])
     (m / 2 ^ 58 ≠ 0 → exec (.cnarrow f) s = .next (s.traps 0x02 0)) ∧
     (m / 2 ^ 58 = 0 → x.tag = false →
       exec (.cnarrow f) s = .next (s.traps 0x0F (BitVec.ofNat 64 (capDetail f.sa.toNat 1 o)))) ∧
     (m / 2 ^ 58 = 0 → x.tag = true → x.length.toNat < o + m % 2 ^ 48 →
       exec (.cnarrow f) s = .next (s.traps 0x0F (BitVec.ofNat 64 (capDetail f.sa.toNat 2 o)))) ∧
     (m / 2 ^ 58 = 0 → x.tag = true → o + m % 2 ^ 48 ≤ x.length.toNat →
       exec (.cnarrow f) s = .next (s.sends [(2, .cap f.sd.toNat {
         base := x.base + BitVec.ofNat 64 o, length := BitVec.ofNat 48 m
         perm := x.perm &&& BitVec.ofNat 10 (m / 2 ^ 48), type := x.type, tag := true, entry := x.entry })])) ∧
     (f.fn.toNat = 0 → queries x.base.toNat) ∧
     (f.fn.toNat = 1 → queries x.length.toNat) ∧
     (f.fn.toNat = 2 → queries x.perm.toNat) ∧
     (f.fn.toNat = 3 → queries (s.effectivePerm c x)) ∧
     (f.fn.toNat = 4 → queries x.type.toNat) ∧
     (f.fn.toNat = 5 → queries ((if x.tag then 1 else 0) + 256 * x.entry.toNat))) ∧
  (∀ (s : State) (f : SRI), s.onACore →
     let c := s.hereCore
     let i := (c.sreg f.sa.toNat).toNat + f.imm.toNat % 256
     let l := (s.ttOf c).caps
     let e := l.getD i {}
     ((l.length ≤ i ∨ e.used = false ∨ e.holders.testBit c.lcore = false) →
       exec (.capld f) s = .next (s.traps 0x0F (BitVec.ofNat 64 (capDetail f.sd.toNat 5 i)))) ∧
     (i < l.length → e.used = true → e.holders.testBit c.lcore = true →
       exec (.capld f) s = .next (s.sends [(4, .cap f.sd.toNat
         { e.cap with tag := true, entry := BitVec.ofNat 8 i })])))

/-- The check of R155, test by test: tag, range, permission as the write grants reduce it and type, and other
cores' grants over the bytes; what passes all of them has the address BASE + off. -/
def Obligations.CapabilityCheckFollowsItsProcedure : Prop :=
  ∀ (s : State) (c : Core) (creg : Nat) (x : Cap) (need : Nat) (types : List Nat) (off : Int) (n : Nat),
    let e := (s.ttOf c).caps.getD x.entry.toNat {}
    let granted := e.wg = true ∧ e.wcore = c.lcore ∧ e.wfirst ≤ c.pidx ∧ c.pidx ≤ e.wlast
    let inRange := 0 ≤ off ∧ off + n ≤ x.length.toNat
    let permitted := (∀ b, need.testBit b = true → x.perm.toNat.testBit b = true ∧ (b = 1 → granted)) ∧
      x.type.toNat ∈ types
    let a := x.base.toNat + off.toNat
    let voided := ∃ f ∈ (s.ttOf c).caps, f.wg = true ∧ f.wcore ≠ c.lcore ∧ f.wfirst ≤ c.pidx ∧
      c.pidx ≤ f.wlast ∧ rangesMeet a n f.cap.base.toNat f.cap.length.toNat = true
    let answer := s.capCheck c creg x need types off n
    (x.tag = false → answer = .inr (capDetail creg 1 off)) ∧
    (x.tag = true → ¬ inRange → answer = .inr (capDetail creg 2 off)) ∧
    (x.tag = true → inRange → ¬ permitted → answer = .inr (capDetail creg 3 off)) ∧
    (x.tag = true → inRange → permitted → voided → answer = .inr (capDetail creg 4 off)) ∧
    (x.tag = true → inRange → permitted → ¬ voided → answer = .inl a)

/-- GLD and the memory form of CAPLD (R157, R161): once the checks pass and the bundle's device access is ready with
its bytes, the access closes and the value is sent with latency 4; TAG is 1 only for a record that CAPST of this
launch wrote there (R158).
GST and CAPST (R158, R161): once the stack has accepted the write, the bytes go to the pages that the address
translated to, the access closes, and no register changes; the core notes them as its own last bytes of the phase (R162).
CAPST writes the capability, its entry and the seal, and
notes the record of this launch.
Clauses here rest on choices of the model: log 11. -/
def Obligations.DeviceAccesses : Prop :=
  (∀ (s : State) (f : SRI) (x : DevAccess), s.onACore → s.hereCore.seq.access = some x → x.ready = true →
     let c := s.hereCore
     let closed (l : List (Nat × WriteBack)) : State := s.changesHere fun c =>
       ({ c with seq := { c.seq with access := none } } : Core).takesIn l
     let off := gldOffset s.here f c
     let r := f.imm.toNat / 2 ^ 10
     let off' := recordOffset f c
     let r' := f.imm.toNat / 2 ^ 9 % 16
     let v := leNat x.data
     (∀ a, s.capCheck c r (c.cap r) Perm.rd [0, 2] off 8 = .inl a → off % 8 = 0 →
       exec (.gld f) s = .next (closed [(4, .scalar f.sd.toNat (BitVec.ofNat 64 v))])) ∧
     (∀ a, s.capCheck c r' (c.cap r') (Perm.rd + Perm.cl) [1] off' 32 = .inl a → off' % 32 = 0 →
       exec (.capldMemory f) s = .next (closed [(4, .cap f.sd.toNat {
         base := BitVec.ofNat 64 v, length := BitVec.ofNat 48 (v / 2 ^ 64), perm := BitVec.ofNat 10 (v / 2 ^ 112)
         type := BitVec.ofNat 6 (v / 2 ^ 122), tag := s.verifies (s.ttOf c).launch a v
         entry := BitVec.ofNat 8 (v / 2 ^ 128) })]))) ∧
  (∀ (s : State) (f : SRI) (x : DevAccess), s.onACore → s.hereCore.seq.access = some x → x.ready = true →
     let c := s.hereCore
     let closed : State := s.changesHere fun c => { c with seq := { c.seq with access := none } }
     let off := gldOffset s.here f c
     let r := f.imm.toNat / 2 ^ 10
     let off' := recordOffset f c
     let r' := f.imm.toNat / 2 ^ 9 % 16
     let y := c.cap f.sd.toNat
     let noted (bs : List Byte) (t : Tab Byte) : Tab Byte :=
       ((pagePlaces x.pages).zip bs).foldl (fun t e => Tab.store t e.1 e.2) t
     let launch := (s.ttOf c).launch
     let body := y.base.toNat + y.length.toNat * 2 ^ 64 + y.perm.toNat * 2 ^ 112 + y.type.toNat * 2 ^ 122 +
       y.entry.toNat * 2 ^ 128
     (∀ a, s.capCheck c r (c.cap r) Perm.wr [0] off 8 = .inl a → s.hitsCode c.part a 8 = false → off % 8 = 0 →
       let bs := leBytes 8 (c.sreg f.sd.toNat).toNat
       exec (.gst f) s = .next (((closed.writePages x.pages bs).onCore s.focus.core fun c =>
         { c with own := noted bs c.own }).closeAccess s.focus.core)) ∧
     (∀ a, y.tag = true → s.capCheck c r' (c.cap r') (Perm.wr + Perm.cs) [1] off' 32 = .inl a →
       s.hitsCode c.part a 32 = false → off' % 32 = 0 →
       let rec_ := body + (Config.capSeal launch (BitVec.ofNat 136 body) a).toNat * 2 ^ 136
       ∃ t, exec (.capst f) s = .next t ∧ t.dev = (closed.writePages x.pages (leBytes 32 rec_)).dev ∧
         (t.core s.focus.core).regs = c.regs ∧ (t.core s.focus.core).seq.access = none ∧
         (t.core s.focus.core).own = noted (leBytes 32 rec_) c.own ∧
         t.verifies launch a rec_ = true) ∧
     (y.tag = false → exec (.capst f) s = .next (s.traps 0x0F (BitVec.ofNat 64 (capDetail f.sd.toNat 1 off')))))

/-- GBAR, FENCE.E, IDLE and NOP (R163, R165, R166, R77). GBAR arrives once and goes through when every member of
its group has arrived, counting the barrier; until then it waits with cause 3, DETAIL k, its arrival made once; outside
its group it is the illegal-operand trap. FENCE.E notes the
commands under way, IDLE takes the sticky operation of each slot it names, and NOP changes nothing. -/
def Obligations.BarrierFenceAndIdle : Prop :=
  ∀ (s : State) (f : SRI) (g : SRRR), s.onACore →
    let n := s.focus.core
    let c := s.hereCore
    let k := f.imm.toNat % 256
    let u := s.arrive n k
    let all : Prop := ∀ l ∈ membersOf (s.group c k), Tab.look 0 c.seq.barred k < u.arrivedAt c k l
    exec (.nop g) s = .next (s.sends []) ∧
    exec (.fenceE f) s = .next (s.changesHere fun c => { c with seq := { c.seq with
      fenced := (c.openIds ++ c.seq.fenced).eraseDups } }) ∧
    (c.svc = false → exec (.idle f) s = .next (s.changesHere fun c => { c with seq := { c.seq with
      sticky := c.seq.sticky.filter fun e => !(f.imm.toNat % 64).testBit e.1 } })) ∧
    (c.svc = false → (s.groupOk c k && s.isMember c k c.lcore) = false →
      exec (.gbar f) s = .next (s.traps 0x02 0)) ∧
    (c.svc = false → (s.groupOk c k && s.isMember c k c.lcore) = true → all →
      exec (.gbar f) s = .next (u.onCore n fun c => { c with seq := { c.seq with
        barred := Tab.store c.seq.barred k (Tab.look 0 c.seq.barred k + 1) } })) ∧
    (c.svc = false → (s.groupOk c k && s.isMember c k c.lcore) = true → ¬ all →
      let w := s.keepAttempt u n
      let n0 := Tab.look 0 c.seq.barred k
      let cause : WaitCause := { code := 3, slot := s.focus.slot, detail := k }
      exec (.gbar f) s = .next (w.waitCycle n [cause]) ∧
      Tab.look 0 (w.core n).seq.arrivals k =
        (if Tab.look 0 c.seq.arrivals k = n0 then n0 + 1 else Tab.look 0 c.seq.arrivals k) ∧
      (w.core n).seq.barred = c.seq.barred ∧ (w.core n).regs = c.regs ∧ (w.core n).ctl = c.ctl ∧
      (∀ m, m ≠ n → w.core m = s.core m) ∧
      (s.stage ≠ 1 → c.seq.preempt = false → c.strict = false → c.ctlBits 0x014 31 0 ≠ 0 →
        ∃ t, exec (.gbar f) s = .next t ∧ (t.core n).ctlBits 0x014 31 0 = c.ctlBits 0x014 31 0 - 1 ∧
          (t.core n).seq.wait = some {
            lost := min ((c.seq.wait.map (·.lost)).getD 0 + 1) (2 ^ 32 - 1), causes := [cause] } ∧
          (t.core n).seq.arrivals = (w.core n).seq.arrivals ∧ (t.core n).seq.barred = c.seq.barred)) ∧
    (c.svc = true → exec (.idle f) s = .next (s.traps 0x01 0) ∧ exec (.gbar f) s = .next (s.traps 0x01 0))

/-! Queues (R223 to R232). -/

/-- QPOP and QPEEK of a record queue (R227, R229): the front record is sent to s[SD] with latency 2, or zero
extended to v[VD] with latency 3; a pop removes it and a peek does not; `.nf` clears FLAGS.Q. On an empty queue
`.nf` only sets FLAGS.Q, and a scheduled queue with nothing pending is the queue-underflow trap.
Draws leave q7 in their order (R226, R229): QPOP_S takes four, the first in the lowest bits, and QPOP_V one for
each 16-bit element of its group; set-aside draws go first. With too few, `.nf` sets FLAGS.Q and takes none; without it
the bundle deviates with cause 1, DETAIL 7, and every draw that is there is set aside for it. -/
def Obligations.PopsAndDrawsTakeFronts : Prop :=
  (∀ (s : State) (f : SQ) (g : VQ), s.onACore →
     let c := s.hereCore
     let q := f.qn.toNat
     let p := g.qn.toNat
     let flag (nf : BitVec 1) (b : Bool) : List (Nat × WriteBack) := if nf = 1 then [(1, .flagQ b)] else []
     let under (q : Nat) : Prop := q = 3 ∧ c.pendingUnits q = 0
     (q ≠ 7 → ∀ v r, c.queue q = v :: r →
       let l := (2, .scalar f.sd.toNat v) :: flag f.nf false
       exec (.qpeekS f) s = .next (s.sends l) ∧
       exec (.qpopS f) s = .next (s.changesHere fun c => (c.setQueue q r).takesIn l)) ∧
     (p ≠ 7 → ∀ v r, c.queue p = v :: r →
       let l := (3, .vec (c.physV g.vd.toNat) (v.setWidth 2048) allBits) :: flag g.nf false
       exec (.qpeekV g) s = .next (s.sends l) ∧
       exec (.qpopV g) s = .next (s.changesHere fun c => (c.setQueue p r).takesIn l)) ∧
     (q ≠ 7 → c.queue q = [] →
       (f.nf = 1 → exec (.qpopS f) s = .next (s.sends (flag 1 true)) ∧
         exec (.qpeekS f) s = .next (s.sends (flag 1 true))) ∧
       (f.nf = 0 → under q → exec (.qpopS f) s = .next (s.traps 0x12 (BitVec.ofNat 64 q)) ∧
         exec (.qpeekS f) s = .next (s.traps 0x12 (BitVec.ofNat 64 q)))) ∧
     (p ≠ 7 → c.queue p = [] →
       (g.nf = 1 → exec (.qpopV g) s = .next (s.sends (flag 1 true)) ∧
         exec (.qpeekV g) s = .next (s.sends (flag 1 true))) ∧
       (g.nf = 0 → under p → exec (.qpopV g) s = .next (s.traps 0x12 (BitVec.ofNat 64 p)) ∧
         exec (.qpeekV g) s = .next (s.traps 0x12 (BitVec.ofNat 64 p))))) ∧
  (∀ (s : State) (f : SQ) (g : VQ), s.onACore → f.qn.toNat = 7 → g.qn.toNat = 7 →
     let c := s.hereCore
     let flag (nf : BitVec 1) : List (Nat × WriteBack) := if nf = 1 then [(1, .flagQ false)] else []
     let k := gsize g.gs
     (∀ a b d e r, c.drawsSeen = a :: b :: d :: e :: r →
       (c.dropDraws 4).drawsSeen = r ∧
       exec (.qpeekS f) s = .next (s.sends ((2, .scalar f.sd.toNat (e ++ d ++ b ++ a)) :: flag f.nf)) ∧
       exec (.qpopS f) s = .next (s.changesHere fun c =>
         (c.dropDraws 4).takesIn ((2, .scalar f.sd.toNat (e ++ d ++ b ++ a)) :: flag f.nf))) ∧
     (∀ l r, c.drawsSeen = l ++ r → l.length = 128 * k →
       (c.dropDraws (128 * k)).drawsSeen = r ∧
       exec (.qpeekV g) s = .next (s.changesHere fun c =>
         (putElts c 3 g.vd.toNat k g.pg g.pz 16 (l.map (·.toNat))).takesIn (flag g.nf)) ∧
       exec (.qpopV g) s = .next (s.changesHere fun c =>
         (putElts (c.dropDraws (128 * k)) 3 g.vd.toNat k g.pg g.pz 16 (l.map (·.toNat))).takesIn (flag g.nf))) ∧
     let lacks (i : Instr) (n : Nat) (nf : BitVec 1) (pop : Bool) : Prop :=
       (nf = 1 → exec i s = .next (s.sends [(1, .flagQ true)])) ∧
       (nf = 0 →
         let w := s.keepAttempt (s.changesHere fun c => c.missDraws n pop) s.focus.core
         exec i s = .next (w.waitCycle s.focus.core [{ code := 1, slot := s.focus.slot, detail := 7 }]) ∧
         (w.core s.focus.core).q.aside = c.drawsSeen ∧ (w.core s.focus.core).q.draws = [] ∧
         (c.q.need = 0 → c.q.owed = 0 → (w.core s.focus.core).q.need = n))
     (c.drawsSeen.length < 4 → lacks (.qpopS f) 4 f.nf true ∧ lacks (.qpeekS f) 4 f.nf false) ∧
     (c.drawsSeen.length < 128 * k → lacks (.qpopV g) (128 * k) g.nf true ∧ lacks (.qpeekV g) (128 * k) g.nf false))

/-- QPUSH (R224, R227, R230): with room, the bytes of s[SD], the 32 low bytes of v[VD], or the registers of a
stream's group enter the queue after two cycles; without room it is the queue-overflow trap, or with `.nf` nothing
but FLAGS.Q.
QSTAT and QFLUSH (R231, R232). The status word is the visible units, the pending ones, the depth and the kind;
a flush cancels the pushes in flight and empties the queue after one cycle, and is the illegal-operand trap while a
command that consumes the queue is under way. -/
def Obligations.PushesFlushesAndStatus : Prop :=
  (∀ (s : State) (f : SQ) (g : VQ), s.onACore →
     let c := s.hereCore
     let room (q n : Nat) : Prop := c.visibleUnits q + c.pendingUnits q + n ≤ queueDepth q
     let flag (nf : BitVec 1) : List (Nat × WriteBack) := if nf = 1 then [(1, .flagQ false)] else []
     let pushes (i : Instr) (q n : Nat) (nf : BitVec 1) (l : List (Nat × WriteBack)) : Prop :=
       (room q n → exec i s = .next (s.sends (l ++ flag nf))) ∧
       (¬ room q n → nf = 0 → exec i s = .next (s.traps 0x11 (BitVec.ofNat 64 q))) ∧
       (¬ room q n → nf = 1 → exec i s = .next (s.sends [(1, .flagQ true)]))
     let q := g.qn.toNat
     let k := gsize g.gs
     pushes (.qpushS f) f.qn.toNat 8 f.nf
       [(2, .scales f.qn.toNat ((List.range 8).map fun j => (c.sreg f.sd.toNat).extractLsb' (8 * j) 8))] ∧
     ((q = 8 ∨ q = 9) → pushes (.qpushV g) q 32 g.nf
       [(2, .scales q ((List.range 32).map fun j => (c.vreg g.vd.toNat).extractLsb' (8 * j) 8))]) ∧
     (¬ (q = 8 ∨ q = 9) → pushes (.qpushV g) q k g.nf
       ((List.range k).map fun j => (2, .stream q (c.vreg (g.vd.toNat + j)))))) ∧
  (∀ (s : State) (f : SQ) (g : VQ), s.onACore →
     let c := s.hereCore
     let word (q : Nat) : Nat :=
       c.visibleUnits q + c.pendingUnits q * 2 ^ 16 + queueDepth q * 2 ^ 32 + queueKind q * 2 ^ 48
     let flushes (i : Instr) (q : Nat) : Prop :=
       (c.queueInUse q = true → exec i s = .next (s.traps 0x02 0)) ∧
       (c.queueInUse q = false → ∃ d : Core,
         exec i s = .next (s.changesHere fun _ => d.takesIn [(1, .flush q)]) ∧
         d.pendingUnits q = 0 ∧ d.regs = c.regs ∧ d.ctl = c.ctl ∧ d.mem = c.mem ∧ d.q = c.q ∧
         (∀ p, p ≠ q → d.pendingUnits p = c.pendingUnits p) ∧
         (∀ w ∈ c.seq.flight, w.wb.pushes = none → w ∈ d.seq.flight))
     exec (.qstatS f) s = .next (s.sends [(1, .scalar f.sd.toNat (BitVec.ofNat 64 (word f.qn.toNat)))]) ∧
     exec (.qstatV g) s = .next (s.sends
       [(1, .vec (c.physV g.vd.toNat) (BitVec.ofNat 2048 (word g.qn.toNat)) allBits)]) ∧
     flushes (.qflushS f) f.qn.toNat ∧ flushes (.qflushV g) g.qn.toNat ∧
     ∀ (d : Core) (q : Nat), (d.apply ctlInfo (.flush q)).visibleUnits q = 0)

/-! Vector instructions (R167 to R203). -/

/-- Where the results of a grouped operation land (R168, R173, R170): once visible, element `i` of the group is the
new value where its predicate bit is set or PG is 0, zero where it is clear and PZ is 1, and its old value
otherwise; no other register changes. The registers are those that the names stood for at issue.
Clauses here rest on choices of the model: log 23. -/
def Obligations.MaskedElementsKeepOrClear : Prop :=
  ∀ (c d : Core) (L r k : Nat) (pg : BitVec 4) (pz : BitVec 1) (t : ETy) (es : List Nat),
    (c.seq.flight = []) → r + k ≤ 384 → (r < 256 → r + k ≤ 256) → k ≤ 8 → es.length = k * lanes t.width →
    let w := t.width
    let after := ((putElts c L r k pg pz w es).seq.flight).foldl (fun x e => x.apply ctlInfo e.wb) d
    (∀ e ∈ (putElts c L r k pg pz w es).seq.flight, e.due = c.seq.tick + L) ∧
    (∀ i, i < k * lanes w →
      let p := c.physV (r + i / lanes w)
      elt w (after.vphys p).toNat (i % lanes w) =
        if active c pg w i then es.getD i 0 % 2 ^ w
        else if pz = 1 then 0 else elt w (d.vphys p).toNat (i % lanes w)) ∧
    (∀ p, (∀ j, j < k → p ≠ c.physV (r + j)) → after.vphys p = d.vphys p) ∧
    after.regs = { d.regs with v := after.regs.v } ∧ after.ctl = d.ctl ∧ after.mem = d.mem ∧ after.q = d.q

/-- The arithmetic of the integer types (R179): element by element the exact result of the operands read as the
type selects, clamped to the type's range with `.sat` and cut to its low bits without; NUMSTAT.SAT is reported when
a clamp changes a value, DEDUCED of an unmasked element alone (log 24; R173, R179 and R121 do not say it).
Clauses here rest on choices of the model: log 24. -/
def Obligations.VectorIntegerResults : Prop :=
  ∀ (s : State) (f : VR), s.onACore → (tyOf f).fmt? = none →
    let c := s.hereCore
    let t := tyOf f
    let w := t.width
    let el (r : BitVec 9) (i : Nat) : Int := t.toInt (elt w (c.group r.toNat (gsize f.gs)) i)
    let a := el f.va
    let b := el f.vb
    let clamps : Bool := f.fn.getLsbD 0
    let gives (L : Nat) (x : Nat → Int) : Host.Outcome State Fault Refusal :=
      let y (i : Nat) : Int := if clamps then max t.lo (min t.hi (x i)) else x i
      .next ((s.elementwise L f fun i => lowBits (y i) w).changesHere fun e => e.takesIn
        (if (List.range (gsize f.gs * lanes w)).any fun i => active c f.pg w i && decide (y i ≠ x i)
          then [(L, .numstat true false 0)] else []))
    exec (.vadd f) s = gives 2 (fun i => a i + b i) ∧
    exec (.vsub f) s = gives 2 (fun i => a i - b i) ∧
    exec (.vmul f) s = gives 4 (fun i => a i * b i) ∧
    exec (.vmulh f) s = gives 4 (fun i => a i * b i / 2 ^ w) ∧
    exec (.vmadd f) s = gives 4 (fun i => a i * b i + el f.vc i) ∧
    exec (.vmin f) s = gives 2 (fun i => min (a i) (b i)) ∧
    exec (.vmax f) s = gives 2 (fun i => max (a i) (b i)) ∧
    exec (.vabs f) s = gives 2 (fun i => (a i).natAbs) ∧
    exec (.vneg f) s = gives 2 (fun i => - a i)

/-- The operations on the bits of each element (R179, R181, R184, R200 to R202): logic, shifts, the sign operations
of the floating types, select, keys, digits and counts. A shift's count is VC with `.imm`, else the low bits of b.
The keys of VORDK sort as their elements do (R200): for integer and floating types, a lesser element has the
lesser key, with `.desc` the greater one; every NaN has the key of the canonical NaN. -/
def Obligations.VectorBitResults : Prop :=
  (∀ (s : State) (f : VR), s.onACore →
     let c := s.hereCore
     let t := tyOf f
     let w := t.width
     let el (r : BitVec 9) (i : Nat) : Nat := elt w (c.group r.toNat (gsize f.gs)) i
     let a := el f.va
     let b := el f.vb
     let m (i : Nat) : Nat := if f.fn.getLsbD 0 then f.vc.toNat else b i % w
     let gives (L : Nat) (e : Nat → Nat) : Host.Outcome State Fault Refusal := .next (s.elementwise L f e)
     exec (.vand f) s = gives 2 (fun i => a i &&& b i) ∧
     exec (.vor f) s = gives 2 (fun i => a i ||| b i) ∧
     exec (.vxor f) s = gives 2 (fun i => a i ^^^ b i) ∧
     exec (.vshl f) s = gives 2 (fun i => a i * 2 ^ m i) ∧
     exec (.vshr f) s = gives 2 (fun i => a i / 2 ^ m i) ∧
     exec (.vsha f) s = gives 2 (fun i => lowBits (signExt (a i) w / 2 ^ m i) w) ∧
     exec (.vsel f) s = gives 2 (fun i => if maskBit (c.preg f.vc.toNat) w i then a i else b i) ∧
     exec (.vordk f) s = gives 3 (fun i => orderKey t (f.fn.getLsbD 0) (f.fn.getLsbD 1) (a i)) ∧
     exec (.vdigit f) s = gives 3 (fun i => a i / 2 ^ f.vc.toNat % 2 ^ f.vb.toNat) ∧
     (f.fn.toNat = 0 → exec (.vcnt f) s = gives 3 (fun i => (List.range w).countP (a i).testBit)) ∧
     (f.fn.toNat = 1 → exec (.vcnt f) s = gives 3 (fun i => w - (List.range w).foldl (fun n j =>
       if (a i).testBit j then j + 1 else n) 0)) ∧
     (f.fn.toNat = 2 → exec (.vcnt f) s = gives 3 (fun i =>
       ((List.range w).find? (a i).testBit).getD w)) ∧
     ∀ F, t.fmt? = some F →
       let nan (x : Nat) : Bool := (F.decode x).isNan
       exec (.vabs f) s = gives 2 (fun i => if nan (a i) then F.nanCode else a i % 2 ^ (w - 1)) ∧
       exec (.vneg f) s = gives 2 (fun i => if nan (a i) then F.nanCode else a i ^^^ 2 ^ (w - 1)) ∧
       exec (.vfmin f) s = gives 4 (fun i => minMax F false (a i) (b i)) ∧
       exec (.vfmax f) s = gives 4 (fun i => minMax F true (a i) (b i))) ∧
  (∀ (t : ETy) (z : Bool) (x y : Nat), x < 2 ^ t.width → y < 2 ^ t.width → t ≠ .e4 → t ≠ .e5 →
     ((t.val x).lt (t.val y) = true →
       orderKey t false z x < orderKey t false z y ∧ orderKey t true z y < orderKey t true z x) ∧
     (∀ F, t.fmt? = some F → (F.decode x).isNan = true → orderKey t false z x = orderKey t false z F.nanCode))

/-- VCMP and VFCMP (R180): with latency 2 every bit of the predicate that belongs to an unmasked element is the
result of its comparison; a masked element's bits keep their value, or are cleared with PZ.
The predicate instructions (R199), and VNWATCH (R203), which writes no register and sends the Abacus one event of
class 3 with the norm watch of the unmasked elements.
Clauses here rest on choices of the model: log 10. -/
def Obligations.PredicatesAndComparisons : Prop :=
  (∀ (s : State) (f : VR), s.onACore →
     let c := s.hereCore
     let t := tyOf f
     let w := t.width
     let el (r : BitVec 9) (i : Nat) : Nat := elt w (c.group r.toNat (gsize f.gs)) i
     let sets (i : Instr) (test : Nat → Prop) : Prop := ∃ v en : PReg,
       exec i s = .next (s.sends [(2, .pred f.vd.toNat v en)]) ∧
       ∀ j, j < 256 →
         let e := j * 8 / w
         (en.getLsbD j = true ↔ (active c f.pg w e = true ∨ f.pz = 1)) ∧
         (v.getLsbD j = true ↔ (active c f.pg w e = true ∧ test e))
     let a (i : Nat) : Int := t.toInt (el f.va i)
     let b (i : Nat) : Int := t.toInt (el f.vb i)
     let x (i : Nat) : Val := t.val (el f.va i)
     let y (i : Nat) : Val := t.val (el f.vb i)
     let un (i : Nat) : Prop := (x i).isNan = true ∨ (y i).isNan = true
     (f.fn.toNat = 0 → sets (.vcmp f) fun i => a i = b i) ∧
     (f.fn.toNat = 1 → sets (.vcmp f) fun i => a i ≠ b i) ∧
     (f.fn.toNat = 2 → sets (.vcmp f) fun i => a i < b i) ∧
     (f.fn.toNat = 3 → sets (.vcmp f) fun i => a i ≤ b i) ∧
     (f.fn.toNat = 4 → sets (.vcmp f) fun i => b i < a i) ∧
     (f.fn.toNat = 5 → sets (.vcmp f) fun i => b i ≤ a i) ∧
     (f.fn.toNat = 0 → sets (.vfcmp f) fun i => (x i).eqv (y i) = true) ∧
     (f.fn.toNat = 1 → sets (.vfcmp f) fun i => ¬ (x i).eqv (y i) = true) ∧
     (f.fn.toNat = 2 → sets (.vfcmp f) fun i => (x i).lt (y i) = true) ∧
     (f.fn.toNat = 3 → sets (.vfcmp f) fun i => ¬ un i ∧ ¬ (y i).lt (x i) = true) ∧
     (f.fn.toNat = 4 → sets (.vfcmp f) fun i => (y i).lt (x i) = true) ∧
     (f.fn.toNat = 5 → sets (.vfcmp f) fun i => ¬ un i ∧ ¬ (x i).lt (y i) = true) ∧
     (f.fn.toNat = 6 → sets (.vfcmp f) fun i => un i) ∧
     (f.fn.toNat = 7 → sets (.vfcmp f) fun i => ¬ un i)) ∧
  (∀ (s : State) (f : VR), s.onACore →
     let c := s.hereCore
     let w := (tyOf f).width
     let a := c.preg f.va.toNat
     let b := c.preg f.vb.toNat
     let sets (p : PReg) : Host.Outcome State Fault Refusal :=
       .next (s.sends [(1, .pred f.vd.toNat p (BitVec.allOnes 256))])
     let bit (i : Nat) : Bool := a.getLsbD (i * w / 8)
     let unmasked := (List.range (gsize f.gs * lanes w)).filter (active c f.pg w)
     let watch := normWatch (unmasked.map fun i => (tyOf f).val (elt w (c.group f.va.toNat (gsize f.gs)) i))
     exec (.pand f) s = sets (a &&& b) ∧ exec (.por f) s = sets (a ||| b) ∧
     exec (.pxor f) s = sets (a ^^^ b) ∧ exec (.pnot f) s = sets (~~~a) ∧
     exec (.ppop f) s = .next (s.sends [(2, .scalar f.vd.toNat (BitVec.ofNat 64 ((List.range (lanes w)).countP bit)))]) ∧
     (∃ k, exec (.pfirst f) s = .next (s.sends [(2, .scalar f.vd.toNat (BitVec.ofNat 64 k))]) ∧
       (∀ i, i < k → i < lanes w → bit i = false) ∧ ((k < lanes w ∧ bit k = true) ∨ k = lanes w)) ∧
     exec (.vnwatch f) s = .next (s.changesHere fun c => c.event s.now 3 (words32
       [c.seq.pc.toNat, c.seq.pc.toNat / 2 ^ 32, c.scycle,
         f.vc.toNat + (if watch.2.1 then 2 ^ 9 else 0) + (if watch.2.2 then 2 ^ 10 else 0) + unmasked.length * 2 ^ 16,
         watch.1, c.lcore + c.pidx * 2 ^ 16, c.starts, 0])))

/-- VFADD, VFSUB, VFMUL and VFMA (R182, R177): each element is the exact value rounded once in mode RM, with latency
4; mode SR takes one draw for each element, masked ones included.
The special functions (R188, R189), with latency 10: element by element the function of R188; the special cases
of R189 are its values at the inputs of that table.
Clauses here rest on choices of the model: log 10. -/
def Obligations.FloatAndSpecialResults : Prop :=
  (∀ (s : State) (f : VR) (bs : List Nat) (d : Core), s.onACore →
     let c := s.hereCore
     let t := tyOf f
     let w := t.width
     let rm := rmOf f
     let v (r : BitVec 9) (i : Nat) : Val := t.val (elt w (c.group r.toNat (gsize f.gs)) i)
     let a := v f.va
     let b := v f.vb
     let add : Val → Val → Val := addVal (rm == .rdn)
     let gives (x : Nat → Val) : Host.Outcome State Fault Refusal :=
       .next (s.changesHere fun _ => mapElts d 4 f w fun i => (roundTo t (x i) rm (bs.getD i 0)).code)
     c.drawn rm (gsize f.gs * lanes w) bs d →
       exec (.vfadd f) s = gives (fun i => add (a i) (b i)) ∧
       exec (.vfsub f) s = gives (fun i => add (a i) (b i).negate) ∧
       exec (.vfmul f) s = gives (fun i => mulVal (a i) (b i)) ∧
       exec (.vfma f) s = gives (fun i => add (mulVal (a i) (b i)) (v f.vc i))) ∧
  ((∀ (s : State) (f : VR) (F : FFmt), s.onACore → (tyOf f).fmt? = some F →
     let c := s.hereCore
     let a (i : Nat) : Nat := elt (tyOf f).width (c.group f.va.toNat (gsize f.gs)) i
     let gives (g : SpecialFn) : Host.Outcome State Fault Refusal :=
       .next (s.elementwise 10 f fun i => special g F (F.decode (a i)))
     exec (.vexp2 f) s = gives .exp2 ∧ exec (.vlog2 f) s = gives .log2 ∧
     exec (.vrcp f) s = gives .rcp ∧ exec (.vrsq f) s = gives .rsq) ∧
   ∀ (F : FFmt), F = .f32 ∨ F = .f16 ∨ F = .bf16 →
     let zero (neg : Bool) : Nat := F.signBit neg
     let inf (neg : Bool) : Nat := F.signBit neg + F.infCode
     let one := F.bias.toNat * 2 ^ F.mw
     let row (x : Val) (e l r q : Nat) : Prop :=
       special .exp2 F x = e ∧ special .log2 F x = l ∧ special .rcp F x = r ∧ special .rsq F x = q
     row .nan F.nanCode F.nanCode F.nanCode F.nanCode ∧
     row (.inf true) (zero false) F.nanCode (zero true) F.nanCode ∧
     row (F.decode (zero true)) one (inf true) (inf true) (inf true) ∧
     row (F.decode (zero false)) one (inf true) (inf false) (inf false) ∧
     (∀ m e, m ≠ 0 → special .log2 F (.num true m e) = F.nanCode ∧ special .rsq F (.num true m e) = F.nanCode) ∧
     row (.inf false) (inf false) (inf false) (zero false) (zero false) ∧
     row (F.decode one) (one + 2 ^ F.mw) (zero false) one one)

/-- Rounding a magnitude m·2^e to a count of 2^k, k > e (R8, R117): the answer is one of the two neighbours, and by
mode the nearest with ties to even, the lower, the one on the sign's side, or the one that the draw selects. An
exact multiple stays.
What a format represents it rounds to itself (R115, R117): every code but a NaN is the rounding of its own value,
in every mode and with any draw. -/
def Obligations.RoundingPicksANeighbour : Prop :=
  (∀ (neg : Bool) (m n b : Nat) (e : Int), b < 2 ^ 16 →
     let r (rm : RMode) : Nat := roundMag neg m e (e + n) rm b
     let u := 2 ^ n
     (∀ rm, (r rm = m / u ∨ r rm = m / u + 1) ∧ (m % u = 0 → r rm = m / u)) ∧
     2 * r .rne * u ≤ 2 * m + u ∧ 2 * m ≤ 2 * r .rne * u + u ∧
     ((2 * r .rne * u = 2 * m + u ∨ 2 * m = 2 * r .rne * u + u) → r .rne % 2 = 0) ∧
     r .rtz = m / u ∧
     (m % u ≠ 0 → r .rdn = m / u + (if neg then 1 else 0) ∧ r .rup = m / u + (if neg then 0 else 1)) ∧
     (r .sr = m / u + 1 ↔ u * 2 ^ 16 ≤ (m % u) * 2 ^ 16 + b * u)) ∧
  (∀ (F : FFmt) (c b : Nat) (rm : RMode), c < 2 ^ F.width → b < 2 ^ 16 → (F.decode c).isNan = false →
     roundFloat F (F.decode c) rm b = { code := c, sat := false, nan := false })

/-- VCVT (R185): with latency 4, each converted lane of each member is its source lane rounded once; the other
destination lanes keep their values, a masked lane keeps its or is cleared; a clamp or a NaN of an unmasked lane is
reported to NUMSTAT.
VQUANT and VDEQ (R186, R187): a quantised run is packed from byte 0 of its registers, block after block, its
scales are the bytes of v[VB], and everything beyond is zero; NUMSTAT and one converter event for each block that
reports follow R121 and R128. VDEQ gives each element the value of its packed code and its block's scale, rounded
once.
Clauses here rest on choices of the model: logs 24 and 26. -/
def Obligations.ConversionsAndQuantisation : Prop :=
  (∀ (s : State) (f : VR) (bs : List Nat) (d : Core), s.onACore →
     let c := s.hereCore
     let td := tyOf f
     let ts := ety (f.fn.toNat % 16)
     let wd := td.width
     let ws := ts.width
     let part := f.fn.toNat / 16
     let n := 2048 / max ws wd
     let g := gsize f.gs
     let src (j i : Nat) : Nat := elt ws (c.vreg (f.va.toNat + j)).toNat (if wd ≤ ws then i else part * n + i)
     let res (j i : Nat) : Rounded := roundTo td (ts.val (src j i)) (rmOf f) (bs.getD (j * n + i) 0)
     let lane (i : Nat) : Nat := if wd ≤ ws then part * n + i else i
     part < max ws wd / min ws wd → c.drawn (rmOf f) (g * n) bs d →
       ∃ (v en : Nat → VReg) (sat nan : Bool),
         exec (.vcvt f) s = .next (s.changesHere fun _ =>
           (d.takesIn ((List.range g).map fun j => (4, .vec (c.physV (f.vd.toNat + j)) (v j) (en j)))).putNumstat 4
             sat nan 0) ∧
         (sat = true ↔ ∃ j i, j < g ∧ i < n ∧ active c f.pg wd (lane i) = true ∧ (res j i).sat = true) ∧
         (nan = true ↔ ∃ j i, j < g ∧ i < n ∧ active c f.pg wd (lane i) = true ∧ (res j i).nan = true) ∧
         ∀ j, j < g →
           (∀ i, i < n →
             elt wd (v j).toNat (lane i) =
               (if active c f.pg wd (lane i) then (res j i).code % 2 ^ wd else 0) ∧
             elt wd (en j).toNat (lane i) =
               (if active c f.pg wd (lane i) ∨ f.pz = 1 then 2 ^ wd - 1 else 0)) ∧
           (∀ l, l < lanes wd → (∀ i, i < n → l ≠ lane i) → elt wd (en j).toNat l = 0)) ∧
  (∀ (s : State) (f : VR) (bs : List Nat) (d : Core), s.onACore →
     let c := s.hereCore
     let t := tyOf f
     let F := mxElt f.fn.toNat
     let n := quantN f
     let bl := quantBlockLen f
     let x (i : Nat) : Val := t.val (elt t.width (c.group f.va.toNat (quantRegs f)) i)
     let block (k : Nat) : QBlock := quantBlock F (rmOf f)
       (if f.fn.getLsbD 4 then some (elt 8 (c.vreg f.vc.toNat).toNat k) else none)
       ((List.range bl).map fun i => x (bl * k + i)) ((bs.drop (bl * k)).take bl)
     let blocks := (List.range (n / bl)).map block
     let report (k : Nat) : Option Nat := blockKind (block k).sat (block k).nan (block k).zblk
     let scales := (c.vreg f.vb.toNat).toNat
     let packed := c.group f.va.toNat (packedRegs f)
     c.drawn (rmOf f) n bs d →
       exec (.vquant f) s = .next (s.changesHere fun _ =>
         (List.range (n / bl)).foldl
           (fun c k => match report k with
             | some kind => c.converterEvent s.now c.seq.pc.toNat c.scycle kind k 0
             | none => c)
           ((putWhole (putWhole d 6 f.vd.toNat (packedRegs f) (packCodes F.width (blocks.map (·.codes)).flatten))
             6 f.vb.toNat 1 (packElts 8 (blocks.map (·.scale)))).putNumstat 6
             (blocks.any (·.sat)) (blocks.any (·.nan)) (blocks.countP (·.zblk)))) ∧
       exec (.vdeq f) s = .next (s.changesHere fun _ =>
         putElts d 4 f.vd.toNat (quantRegs f) f.pg f.pz t.width ((List.range n).map fun i =>
           (roundTo t (deqVal F (elt 8 scales (i / bl)) (unpackCode F.width packed i)) (rmOf f) (bs.getD i 0)).code)))

/-- VRED (R190): with latency 8, lane j of v[VD] is segment j of the group reduced, masked elements counting as the
identity, and every other lane is zero; a floating sum is the balanced tree of rounded additions.
Permutation and broadcast (R191 to R194): VPERM looks its index up in the table and gives 0 outside it, VSHUF
follows its pattern, VBCAST gives every element the immediate or one lane, and VEXTR cuts 256 bytes from k on.
Clauses here rest on choices of the model: log 24, that VBCAST reports SAT and NAN of unmasked elements alone. -/
def Obligations.ReductionsAndPermutations : Prop :=
  (∀ (s : State) (f : VR), s.onACore →
     let c := s.hereCore
     let t := tyOf f
     let w := t.width
     let n := gsize f.gs * lanes w
     let sg := f.fn.toNat / 8
     let m := if sg = 0 then n else 2 ^ sg
     let op := f.fn.toNat % 8
     let src := c.group f.va.toNat (gsize f.gs)
     let x (ident : Nat) (i : Nat) : Nat := if active c f.pg w i then elt w src i else ident
     let seg (ident j : Nat) : List Nat := (List.range m).map fun i => x ident (m * j + i)
     let gives (r : Nat → Nat) : Prop :=
       exec (.vred f) s = .next (s.sends [(8, .vec (c.physV f.vd.toNat)
         (BitVec.ofNat 2048 (packElts w ((List.range (n / m)).map r))) allBits)])
     m ≤ n → n / m ≤ lanes w →
       (t.fmt? = none →
         (op = 0 → gives fun j => (seg 0 j).sum % 2 ^ w) ∧
         (op = 1 → gives fun j => lowBits ((seg (lowBits t.hi w) j).foldl (fun a b => min a (t.toInt b)) t.hi) w) ∧
         (op = 2 → gives fun j => lowBits ((seg (lowBits t.lo w) j).foldl (fun a b => max a (t.toInt b)) t.lo) w) ∧
         (op = 3 → gives fun j => (seg (2 ^ w - 1) j).foldl (· &&& ·) (2 ^ w - 1)) ∧
         (op = 4 → gives fun j => (seg 0 j).foldl (· ||| ·) 0) ∧
         (op = 5 → gives fun j => (seg 0 j).foldl (· ^^^ ·) 0)) ∧
       ∀ F, t.fmt? = some F →
         let add (a b : Nat) : Nat :=
           (roundFloat F (addVal (rmOf f == .rdn) (F.decode a) (F.decode b)) (rmOf f) 0).code
         (op = 0 → gives fun j => (addTree add (ilog2 m) (seg (F.signBit true) j)).headD 0) ∧
         (op = 1 → gives fun j => (seg F.infCode j).foldl (minMax F false) F.infCode) ∧
         (op = 2 → gives fun j =>
           (seg (F.signBit true + F.infCode) j).foldl (minMax F true) (F.signBit true + F.infCode))) ∧
  (∀ (s : State) (f : VR) (g : VI) (bs : List Nat) (d : Core), s.onACore →
     let c := s.hereCore
     let w := (tyOf f).width
     let n := lanes w
     let va := (c.vreg f.va.toNat).toNat
     let vb := (c.vreg f.vb.toNat).toNat
     let whole (e : Nat → Nat) : Prop :=
       exec (.vshuf f) s = .next (s.sends [(3, .vec (c.physV f.vd.toNat)
         (BitVec.ofNat 2048 (packElts w ((List.range n).map e))) allBits)])
     let tg := ety g.ty.toNat
     let rm := (rmode? g.rm.toNat).getD .rne
     let k := gsize g.gs * lanes tg.width
     exec (.vperm f) s = .next (s.changesHere fun c => putElts c 3 f.vd.toNat 1 f.pg f.pz w ((List.range n).map fun i =>
       if elt w vb i < gsize f.gs * n then elt w (c.group f.va.toNat (gsize f.gs)) (elt w vb i) else 0)) ∧
     (f.fn.toNat = 0 → whole fun i => if i % 2 = 0 then elt w va (i / 2) else elt w vb (i / 2)) ∧
     (f.fn.toNat = 1 → whole fun i => if i % 2 = 0 then elt w va (i / 2 + n / 2) else elt w vb (i / 2 + n / 2)) ∧
     (f.fn.toNat = 2 → whole fun i => if 2 * i < n then elt w va (2 * i) else elt w vb (2 * i - n)) ∧
     (f.fn.toNat = 3 → whole fun i => if 2 * i + 1 < n then elt w va (2 * i + 1) else elt w vb (2 * i + 1 - n)) ∧
     (f.fn.toNat = 4 → whole fun i => elt w va (n - 1 - i)) ∧
     (f.fn.toNat = 5 → whole fun i => elt w va ((i + f.vc.toNat) % n)) ∧
     (f.vc.toNat < 256 → ∃ v : VReg,
       exec (.vextr f) s = .next (s.sends [(2, .vec (c.physV f.vd.toNat) v allBits)]) ∧
       ∀ j, j < 256 → elt 8 v.toNat j =
         if j + f.vc.toNat < 256 then elt 8 va (j + f.vc.toNat) else elt 8 vb (j + f.vc.toNat - 256)) ∧
     exec (.vbcastLane g) s = .next (s.changesHere fun c => putElts c 2 g.vd.toNat (gsize g.gs) g.pg g.pz tg.width
       ((List.range k).map fun _ => elt tg.width (c.vreg g.va.toNat).toNat (g.imm.toNat % 512))) ∧
     (c.drawn rm k bs d →
       let r (i : Nat) : Rounded := bcastElt tg g.imm rm (bs.getD i 0)
       let on (p : Rounded → Bool) : Bool := (List.range k).any fun i => active c g.pg tg.width i && p (r i)
       exec (.vbcast g) s = .next (s.changesHere fun _ =>
         (putElts d 2 g.vd.toNat (gsize g.gs) g.pg g.pz tg.width ((List.range k).map fun i => (r i).code)).putNumstat 2
           (on (·.sat)) (on (·.nan)) 0)) ∧
     (tg.isInt = true → ∀ b, bcastElt tg g.imm rm b = { code := lowBits g.imm.toInt tg.width }) ∧
     (tg.isInt = false → ∀ b, bcastElt tg g.imm rm b =
       roundTo tg (FFmt.f32.decode (g.imm ++ (0 : BitVec 14)).toNat) rm b))

/-- The vector loads and stores (R195, R198), where nothing of R144 stops or delays the access: a load sends the
bytes at its addresses, an element-wise one under PG; a store sends its bytes, element after element, and masked
elements send nothing. `vmAddr` is s[SA] + o with its steps.
Clauses here rest on choices of the model: log 20. -/
def Obligations.VectorLoadsAndStores : Prop :=
  ∀ (s : State) (f : VM), s.onACore →
    let c := s.hereCore
    let k := gsize f.gs
    let a := vmAddr s.here f c
    let w := vmWidth f
    let n := 2048 * k / w
    let x := c.group f.vd.toNat k
    let whole (wr : Bool) : SlotAccess :=
      { write := wr, pieces := (List.range k).map fun (j : Nat) => (a + 256 * (j : Int), 256) }
    let strided (i : Nat) : Int := a + i * (c.sreg f.sb.toNat).toInt
    let gathered (i : Nat) : Int := a + (elt w (c.group f.va.toNat k) i * w / 8 : Nat)
    let on := (List.range n).filter fun i => active c f.pg w i
    let parts (wr : Bool) (at_ : Nat → Int) : SlotAccess := { write := wr, pieces := on.map fun i => (at_ i, w / 8) }
    let loads (i : Instr) (L : Nat) (at_ : Nat → Int) : Prop :=
      c.accessOpen s.here (parts false at_) (some 4) → exec i s = .next (s.changesHere fun c =>
        putElts (c.holdPorts s.now s.focus.slot (parts false at_)) L f.vd.toNat k f.pg f.pz w
          ((List.range n).map fun i =>
            if active c f.pg w i then Memory.num c.mem (at_ i).toNat (w / 8) else 0))
    let stores (i : Instr) (L : Nat) (at_ : Nat → Int) : Prop :=
      c.accessOpen s.here (parts true at_) (some 4) → exec i s = .next (s.accesses (parts true at_)
        (on.map fun i => (L, .mem (at_ i).toNat (leBytes (w / 8) (elt w x i)))))
    (c.accessOpen s.here (whole false) → exec (.vld f) s = .next (s.accesses (whole false)
      ((List.range k).map fun j => (6, .vec (c.physV (f.vd.toNat + j))
        (BitVec.ofNat 2048 (Memory.num c.mem (a.toNat + 256 * j) 256)) allBits)))) ∧
    (c.accessOpen s.here (whole true) → exec (.vst f) s = .next (s.accesses (whole true)
      [(2, .mem a.toNat ((List.range k).map fun j =>
        leBytes 256 (c.vreg (f.vd.toNat + j)).toNat).flatten)])) ∧
    loads (.vlds f) 6 strided ∧ loads (.vgath f) 12 gathered ∧
    stores (.vsts f) 2 strided ∧ stores (.vscat f) 6 gathered

/-! Directions (R204 to R219). -/

/-- Moves, raw conversion and queries (R214, R219). A direction of g registers is written member by member; DSET
writes zero components with a special code, or with a length that is no unit, and the non-finite code then. -/
def Obligations.DirectionMovesAndQueries : Prop :=
  ∀ (s : State) (f : VR), s.onACore →
    let c := s.hereCore
    let g := gsize f.gs
    let run (x : Nat → VReg) (L : Nat) : List (Nat × WriteBack) :=
      (List.range g).map fun j => (L, .dir (f.vd.toNat + j) (x j))
    let norm (L : Nat) (n : Word32) : List (Nat × WriteBack) := [(L, .norm f.vd.toNat n)]
    let d := c.dgroup f.va.toNat g
    let x := c.group f.va.toNat g
    let n := (c.sreg f.vb.toNat).setWidth 32
    let dev (x : Nat) : Int := ((List.range (128 * g)).map fun i => comp x i * comp x i).sum - 2 ^ 30
    exec (.dzero f) s = .next (s.sends (run (fun _ => 0) 1 ++ norm 1 0x80000000#32)) ∧
    exec (.dmov f) s = .next (s.sends (run (fun j => c.dreg (f.va.toNat + j)) 2 ++ norm 2 (c.nreg f.va.toNat))) ∧
    (∃ v, exec (.dneg f) s = .next (s.sends (run v 2)) ∧ ∀ j i, j < g → i < 128 →
      comp (v j).toNat i = min 32767 (- comp d (128 * j + i))) ∧
    exec (.dexpRaw f) s = .next (s.changesHere fun c => putElts c 8 f.vd.toNat g f.pg f.pz 16
      ((List.range (128 * g)).map fun i => elt 16 d i)) ∧
    exec (.dnormq f) s = .next (s.sends [(3, .scalar f.vd.toNat ((c.nreg f.va.toNat).signExtend 64))]) ∧
    exec (.dnormqDev f) s = .next (s.sends [(3, .scalar f.vd.toNat (BitVec.ofInt 64 (dev d)))]) ∧
    ((n = 0x80000000#32 ∨ n = 0x7FFFFFFF#32) →
      exec (.dset f) s = .next (s.sends (run (fun _ => 0) 2 ++ norm 2 n))) ∧
    (¬ (n = 0x80000000#32 ∨ n = 0x7FFFFFFF#32) → 2 ^ 20 < (dev x).natAbs →
      exec (.dset f) s = .next (s.sends (run (fun _ => 0) 2 ++ norm 2 0x7FFFFFFF#32))) ∧
    (¬ (n = 0x80000000#32 ∨ n = 0x7FFFFFFF#32) → (dev x).natAbs ≤ 2 ^ 20 →
      exec (.dset f) s = .next (s.sends (run (fun j => c.vreg (f.va.toNat + j)) 2 ++ norm 2 n)))

/-- Products and norm arithmetic (R215 to R217). The cosine of two directions tests the non-finite code before the
zero code; DSCALE leaves the components and clamps at the top with NUMSTAT.SAT.
Conversion to and from directions and weighted sums (R213, R214, R218): the special codes are tested in their
order, and everything else is renormalised (R208) or rounded once. `faithExp2`, `renormalise`, `normCode` and
`dexpTrunc` are Faith24 of a power of two, Renormalise, NormCode and the truncation of R214; they compute logarithms and
powers by the brackets of log 10.
Clauses here rest on choices of the model: log 10. -/
def Obligations.DirectionArithmetic : Prop :=
  (∀ (s : State) (f : VR), s.onACore →
     let c := s.hereCore
     let g := gsize f.gs
     let zero := 0x80000000#32
     let nonfin := 0x7FFFFFFF#32
     let cos (a b : Nat) : Nat :=
       if c.nreg a = nonfin ∨ c.nreg b = nonfin then 0x7FC00000
       else if c.nreg a = zero ∨ c.nreg b = zero then 0
       else
         let d := ((List.range (128 * g)).map fun i => comp (c.dgroup a g) i * comp (c.dgroup b g) i).sum
         (roundFloat .f32 (Val.ofInt (max (-2 ^ 30) (min (2 ^ 30) d)) (-30)) (rmOf f) 0).code
     let a := c.nreg f.va.toNat
     let b := c.nreg f.vb.toNat
     let norm (n : Word32) (sat : Bool) : Host.Outcome State Fault Refusal :=
       .next (s.sends ((3, .norm f.vd.toNat n) :: if sat then [(3, .numstat true false 0)] else []))
     let code (v : Int) : Host.Outcome State Fault Refusal :=
       if v < -2 ^ 31 + 1 then norm zero false
       else if 2 ^ 31 - 2 < v then norm 0x7FFFFFFE#32 true else norm (BitVec.ofInt 32 v) false
     exec (.ddot f) s = .next (s.sends [(10, .scalar f.vd.toNat (BitVec.ofNat 64 (cos f.va.toNat f.vb.toNat)))]) ∧
     exec (.ddotm f) s = .next (s.changesHere fun c => putElts c 12 f.vd.toNat 1 f.pg f.pz 32
       ((List.range 64).map fun j => if j ≤ f.vc.toNat then cos f.va.toNat (f.vb.toNat + j * g) else 0)) ∧
     (exec (.dscale f) s =
       if a = nonfin then norm nonfin false else if a = zero then norm zero false
       else code (a.toInt + (f.vb ++ f.vc).toInt * 2 ^ 12)) ∧
     (exec (.dscaleAdd f) s =
       if a = nonfin ∨ b = nonfin then norm nonfin false else if a = zero ∨ b = zero then norm zero false
       else code (a.toInt + b.toInt)) ∧
     (exec (.dscaleSub f) s =
       if a = nonfin ∨ b = nonfin then norm nonfin false else if a = zero ∨ b = zero then norm zero false
       else code (a.toInt - b.toInt))) ∧
  (∀ (s : State) (f : VR) (bs : List Nat) (d : Core), s.onACore →
     let c := s.hereCore
     let t := tyOf f
     let w := t.width
     let F := fmtOf f
     let g := gsize f.gs
     let zero := 0x80000000#32
     let nonfin := 0x7FFFFFFF#32
     let gives (i : Instr) (x : Nat) (L : Nat) (n : Word32) (sat : Bool) : Prop :=
       exec i s = .next (s.sends ((List.range g).map (fun j => (L, .dir (f.vd.toNat + j) (member x j))) ++
         (L + 2, .norm f.vd.toNat n) :: if sat then [(L + 2, .numstat true false 0)] else []))
     let renormed (i : Instr) (L : Nat) (base : Int) (r : List Int × NormVal) : Prop :=
       (∀ cs, r = (cs, .zero) → gives i 0 L zero false) ∧
       (∀ cs l, r = (cs, .value l) →
         let q := normCode false cs (base + l)
         gives i (packComps q.1) L (BitVec.ofNat 32 q.2.1) q.2.2)
     let xs := (List.range (128 * g)).map fun i =>
       if active c f.pg w i then t.val (elt w (c.group f.va.toNat (dirRun w g)) i) else .num false 0 0
     let na := c.nreg f.va.toNat
     let nb := c.nreg f.vb.toNat
     let ca := (List.range (128 * g)).map (comp (c.dgroup f.va.toNat g))
     let cb := (List.range (128 * g)).map (comp (c.dgroup f.vb.toNat g))
     let σ : Int := if f.fn.getLsbD 0 then -1 else 1
     let ρ := faithExp2 (na.toInt - nb.toInt).natAbs
     let up : Int := 2 ^ (-ρ.2).toNat
     ((xs.any fun x => !x.isNum) = true → gives (.dnorm f) 0 14 nonfin false) ∧
     ((xs.any fun x => !x.isNum) = false →
       renormed (.dnorm f) 14 0 (renormalise (commonExp xs).1 (commonExp xs).2)) ∧
     ((na = nonfin ∨ nb = nonfin) → gives (.dadd f) 0 16 nonfin false) ∧
     (na = zero → nb = zero → gives (.dadd f) 0 16 zero false) ∧
     (na = zero → nb ≠ zero → nb ≠ nonfin →
       gives (.dadd f) (packComps (cb.map fun x => max (-32768) (min 32767 (σ * x)))) 16 nb false) ∧
     (nb = zero → na ≠ zero → na ≠ nonfin → gives (.dadd f) (packComps ca) 16 na false) ∧
     (na ≠ nonfin → nb ≠ nonfin → na ≠ zero → nb ≠ zero →
       renormed (.dadd f) 16 (max na.toInt nb.toInt) (renormalise
         ((ca.zip cb).map fun p => if nb.toInt ≤ na.toInt then p.1 * up + σ * ρ.1 * p.2
           else ρ.1 * p.1 + σ * up * p.2) (ρ.2 - 15))) ∧
     (c.drawn (rmOf f) (128 * g) bs d →
       exec (.dexp f) s = .next (s.changesHere fun _ => putElts d 8 f.vd.toNat (dirRun w g) f.pg f.pz w
         ((List.range (128 * g)).map fun i =>
           let x := comp (c.dgroup f.va.toNat g) i
           if na = nonfin then F.nanCode else if na = zero ∨ x = 0 then 0
           else
             let y := dexpTrunc F x.natAbs na.toInt
             (roundFloat F (.num (decide (x < 0)) y.1 y.2) (rmOf f) (bs.getD i 0)).code))))

/-! Compute banks and accumulators (R236 to R301). -/

/-- A command given to the M engine (R263, R268, R308): it takes the next number at the end of the queue with its
work, the resources it names and its bundle, and an entry of the scoreboard for its extents. Nothing else of the
core changes but the peak that SBSTAT keeps.
The bank instructions that change no row set but through a command (R269 to R275, R277 to R280), each under its
own checks and with room in the engine. BPLANE and BSTAT give the engine no command.
Clauses here rest on choices of the model: logs 4, 30 and 66. -/
def Obligations.BankInstructionsIssue : Prop :=
  (∀ (s : State) (work : MWork) (uses : List Nat) (rd wr : Option (Nat × Nat)),
     let c := s.hereCore
     let d := s.engaged work uses rd wr
     d.eng.mq = c.eng.mq ++ [{ id := c.eng.nextId, bundle := c.seq.pc, scyc := c.scycle, at_ := s.now, work := work
                               uses := uses, follow := none, begun := false, due := none }] ∧
     d.eng.nextId = c.eng.nextId + 1 ∧
     d.eng.sb = c.eng.sb ++
       (if rd.isSome || wr.isSome then [{ id := c.eng.nextId, rd := rd, wr := wr }] else []) ∧
     d.eng.banks = c.eng.banks ∧ d.eng.acc = c.eng.acc ∧ d.eng.alloc = c.eng.alloc ∧ d.eng.owners = c.eng.owners ∧
     d.eng.fills = c.eng.fills ∧ d.eng.chans = c.eng.chans ∧ d.eng.exports = c.eng.exports ∧
     d.regs = c.regs ∧ d.mem = c.mem ∧ d.tags = c.tags ∧ d.q = c.q ∧ d.seq = c.seq ∧
     ∀ n, n ≠ 0x07C → d.ctlOf n = c.ctlOf n) ∧
  (∀ (s : State) (f : MF), s.onACore →
     let c := s.hereCore
     let bank := f.bk.toNat
     let rs := f.rs.toNat
     let b := c.nameSet bank rs
     let v := c.viewSet b
     let set := c.setOf b
     let q := mAddr s.here f c
     let tag := f.fn.toNat % 16
     let compute : Prop := (c.bank bank).mode = true
     let afmt := f.fn.toNat / 16
     let wfmt := f.fn.toNat % 16
     let x := (c.sreg f.sa.toNat).toNat
     let n := (c.sreg f.sb.toNat).toNat
     let sixteen (fmt : Nat) : Prop := fmt = 8
     (compute → set.state = 2 → set.tag = tag → s.mRoom none none →
       exec (.bplane f) s = .next (s.changesHere fun c => c.setBank bank { c.bank bank with act := rs })) ∧
     (c.shadowOpen b → c.regionOpen q 256 16384 → c.exportHit q.toNat 16384 false = none → (∀ i, i < 16384 → c.tagAt (q.toNat + i) = tag) →
       s.mRoom (extent q.toNat 16384) none →
       ∃ t, exec (.bload f) s = .next t ∧
         (t.core s.focus.core).eng.mq = (s.engaged (.bload b q.toNat tag) [b.key] (extent q.toNat 16384) none).eng.mq ∧
         (t.core s.focus.core).eng.fills = c.eng.fills ++ [{
           id := c.eng.nextId, chan := none, set := b
           addr := q.toNat, tag := tag }] ∧
         (t.core s.focus.core).setOf b = { set with state := 1 } ∧
         (∀ k, k ≠ bank → (t.core s.focus.core).bank k = c.bank k) ∧ (t.core s.focus.core).mem = c.mem) ∧
     (compute → set.state = 0 → (v.storage ≠ 0 → ¬ sixteen wfmt ∧ ¬ sixteen afmt) → s.mRoom none none →
       exec (.bprec f) s =
         .next (s.engages (.bprec b wfmt afmt (actPlanes afmt f.imm.toNat)) [b.key] none none)) ∧
     (compute → set.state = 0 → s.mRoom none none →
       exec (.bsparseDense f) s = .next (s.engages (.bsparse b 0 0) [b.key] none none)) ∧
     (1 ≤ f.fn.toNat → f.fn.toNat ≤ 3 → compute → set.state = 0 → ¬ sixteen v.wfmt → ¬ sixteen v.afmt →
       c.regionOpen q 256 256 → c.exportHit q.toNat 256 false = none →
      s.mRoom (extent q.toNat 256) none →
       exec (.bsparse f) s =
         .next (s.engages (.bsparse b f.fn.toNat q.toNat) [b.key] (extent q.toNat 256) none)) ∧
     (x < 2 ^ 16 → x / 256 < v.cols → compute → set.state = 2 → s.mRoom none none →
       exec (.boutl f) s =
         .next (s.engages (.boutl b (x % 256) (x / 256) (signExt n 16)) [b.key] none none)) ∧
     (n < 2 ^ 13 → c.regionOpen q 256 (256 * n) → c.exportHit q.toNat (256 * n) true = none →
       s.mRoom none (extent q.toNat (256 * n)) →
       exec (.btag f) s = .next (s.engages (.btag q.toNat n tag) [] none (extent q.toNat (256 * n)))) ∧
     (c.visibleUnits 3 + c.pendingUnits 3 + 1 ≤ 8 → s.mRoom none none →
       exec (.bstat f) s = .next (s.changesHere fun c =>
         { c with eng := { c.eng with posts := c.eng.posts ++ [.bstat (s.now + 4) bank] } })) ∧
     (c.shadowOpen b → s.mRoom none none →
       exec (.bclr f) s = .next ((s.engages (.bclr b false) [b.key] none none).changesHere fun c =>
         c.onSet b fun r => { r with state := 0 }) ∧
       exec (.bclrAll f) s = .next ((s.engages (.bclr b true) [b.key] none none).changesHere fun c =>
         c.onSet b fun r => { r with state := 0 }) ∧
       exec (.bzero f) s = .next (s.engages (.bzero b) [b.key] none none)) ∧
     (c.shadowOpen b → v.storage = 0 → (v.state = 2 → sixteen v.wfmt ∧ sixteen v.afmt) → s.mRoom none none →
       exec (.bdir f) s = .next (s.engages (.bdir b (f.fn.toNat % 32)
         ((List.range (bdirCount f)).map fun i =>
           c.dirColumn (bdirFirst f + i * bdirGroup f) (bdirGroup f) (bdirPart f)) (c.emptyForDir b)) [b.key] none none)))

/-- BMODE (R238 to R240, R269): a mask that is zero, or an export in a bank that would turn to compute mode, is the
trap; otherwise each bank of the mask in the other mode turns from the next cycle on, empty of bytes, row sets and
outliers, and every other bank stays. -/
def Obligations.ModeChangesEmptyTheirBanks : Prop :=
  ∀ (s : State) (f : MF) (compute : Bool), s.onACore →
    let n := s.focus.core
    let c := s.hereCore
    let m := f.imm.toNat
    let i : Instr := if compute then .bmodeCompute f else .bmodeScratch f
    let turns (b : Nat) : Prop := b < 16 ∧ m.testBit b = true ∧ (c.bank b).mode ≠ compute
    (m = 0 → exec i s = .next (s.traps 0x02 0)) ∧
    (m ≠ 0 → (∀ b, turns b → compute = true → c.exportHit (b * 65536) 65536 true = none) →
      (∀ b, (c.bank b).turn = none) → s.mRoom none (maskExtent m) →
      ∃ t, exec i s = .next t ∧
        (t.core n).eng.mq = (s.engaged (.bmode m)
          ((maskBanks m).map fun b => (List.range 4).map (setKey b)).flatten none (maskExtent m)).eng.mq ∧
        (t.core n).mem = c.mem ∧ (t.core n).regs = c.regs ∧
        let d := (t.core n).settle
        (∀ b, turns b → d.bank b = { mode := compute, gen := (c.bank b).gen + 1 }) ∧
        (∀ b, ¬ turns b → d.bank b = c.bank b) ∧
        (∀ a, (∃ b, turns b ∧ a / 65536 = b) → d.mem.byte a = 0) ∧
        (∀ a, (∀ b, turns b → a / 65536 ≠ b) → d.mem.byte a = c.mem.byte a) ∧ d.regs = c.regs)

/-- BRUN and BACC (R250, R276, R286): under the checks of R276 in force at issue, one pass of T tokens over the
active row sets of the mask enters the engine with its resources and its operand's extent, and H of every
accumulator row that it reaches falls by the accumulates it will make there.
Clauses here rest on choices of the model: logs 36 and 4. -/
def Obligations.PassesIssueUnderTheirChecks : Prop :=
  ∀ (s : State) (f : MF) (onto : Bool), s.onACore →
    let c := s.hereCore
    let i : Instr := if onto then .bacc f else .brun f
    let m := f.imm.toNat
    let x := (c.sreg f.sb.toNat).toNat
    let count := x % 64
    let src := x / 256
    let remote := f.fn.getLsbD 0
    let banks := maskBanks m
    let act (k : Nat) : PassBank := c.nameSet k (c.bank k).act
    let set (k : Nat) : RowSet := c.setOf (act k)
    let first := set (banks.headD 0)
    let ab := f.ab.toNat
    let ar := mRow s.here f
    let q : Int := (c.sreg f.sa.toNat).toNat + s.focus.dv.a
    let n := count * tokenBytes first.storage first.planes
    let tag := f.fn.toNat / 16
    let rows := passRows onto ab ar count (banks.map set)
    let p : Pass := {
      onto := onto, banks := banks.map act, ab := ab, ar := ar, count := count, addr := q
      remote := if remote then some src else none, grp := f.grp.toNat, planar := f.fn.getLsbD 1
      half := if f.fn.getLsbD 2 then 1 else 0, tag := tag
      afmt := first.afmt, planes := first.planes, storage := first.storage }
    let rd := if remote then none else extent q.toNat n
    m ≠ 0 → x < 2 ^ 16 → x / 64 % 4 = 0 → 1 ≤ count → count ≤ 32 →
    (remote = false → src = 0) →
    (remote = true → s.inPod c src = true ∧ s.groupOk c f.grp.toNat = true ∧
      s.isMember c f.grp.toNat c.lcore = true) →
    (∀ k ∈ banks, (c.bank k).mode = true ∧ (set k).state = 2 ∧ (set k).afmt = first.afmt ∧
      (set k).planes = first.planes ∧ (set k).storage = first.storage) →
    ab + banks.length ≤ 16 → (∀ r ∈ rows, r.2.1 ≤ 31) →
    (remote = false → c.regionOpen q 64 n ∧ c.exportHit q.toNat n false = none ∧
      ∀ j, j < n → c.tagAt (q.toNat + j) = tag) →
    (∀ j, j < banks.length → c.allocated (ab + j) = true) →
    (c.ctlBits 0x015 1 1 = 1 → ∀ r ∈ rows, r.2.2 ≤ (c.accRow r.1 r.2.1).h) →
    (∀ r ∈ rows, Tab.has c.eng.bandExports (r.1 * 4 + r.2.1 / 8) = false) →
    s.mRoom rd none →
      exec i s = .next (s.changesHere fun _ => (s.engaged (.pass p)
        (p.banks.map PassBank.key ++ rows.map fun r => rowKey r.1 r.2.1) rd none).lowerH rows)

/-- The accumulator instructions (R284, R291 to R300), each under its checks and with room in the engine. H of the
rows they set, the allocation and the owners of bands follow the issue; the rest is the engine's command.
Clauses here rest on choices of the model: logs 30, 36 and 40. -/
def Obligations.AccumulatorInstructionsIssue : Prop :=
  ∀ (s : State) (f : MF), s.onACore →
    let c := s.hereCore
    let m := f.imm.toNat
    let x := (c.sreg f.sa.toNat).toNat
    let ab := f.ab.toNat
    let row := mRow s.here f
    let ar := f.ar.toNat
    let band := ab * 4 + ar / 8
    let grp := f.grp.toNat
    let open_ (b : Nat) : Prop := c.allocated b = true
    let unexported (band : Nat) : Prop := Tab.has c.eng.bandExports band = false
    let drainable : Prop := Tab.has c.eng.owners (ab * 4 + row / 8) = true →
      s.isMember c (Tab.look 0 c.eng.owners (ab * 4 + row / 8)) c.lcore = true
    let good : Prop := x < 2 ^ 24 ∧ x % 2 ^ 16 ≠ 0x8000
    let h := x / 2 ^ 16 % 256
    let noExport (b : Nat) : Prop := ∀ k, k < 4 → unexported (b * 4 + k)
    let n := f.imm.toNat % 32 + 1
    let rows := (List.range n).map fun i => (ab, row + i)
    let holder := (c.sreg f.sb.toNat).toNat
    let remoteOk : Prop := holder < 256 ∧ s.inPod c holder = true ∧ s.groupOk c grp = true ∧
      s.isMember c grp c.lcore = true
    let q := mAddr s.here f c
    let fmt := f.fn.toNat % 4
    let ext := extent q.toNat (accexpBytes fmt)
    let target : Prop := c.regionOpen q 256 (accexpBytes fmt) ∧ c.exportHit q.toNat (accexpBytes fmt) true = none
    let setsH (l : List (Nat × Nat)) (v : Nat) (d : Core) : Core := l.foldl (fun d r => d.setH r.1 r.2 v) d
    let frees (d : Core) (alloc : Nat) : Core := { d with eng := { d.eng with
      alloc := alloc, owners := d.eng.owners.filter fun o => !m.testBit (o.1 / 4) } }
    let owns (o : Tab Nat) (d : Core) : Core := { d with eng := { d.eng with owners := o } }
    let given (w : MWork) (uses : List Nat) (wr : Option (Nat × Nat)) : Core := s.engaged w uses none wr
    let goes (i : Instr) (d : Core) : Prop := exec i s = .next (s.changesHere fun _ => d)
    (m ≠ 0 → good → m &&& c.eng.alloc = 0 → s.mRoom none none →
      goes (.accalloc f) (frees (setsH (maskRows m) h
        (given (.accalloc m (signExt x 16)) (keysOf (maskRows m)) none)) (c.eng.alloc ||| m))) ∧
    (m ≠ 0 → (∀ b ∈ maskBanks m, open_ b ∧ noExport b) → s.mRoom none none →
      goes (.accfree f) (frees (given (.accfree m) (keysOf (maskRows m)) none) (c.eng.alloc &&& (65535 - m)))) ∧
    (open_ ab → ar % 8 = 0 → s.groupOk c grp = true → unexported band → s.mRoom none none →
      goes (.accband f) (owns (Tab.store c.eng.owners band grp)
        (given (.accband ab (ar / 8) (some grp)) (keysOf (bandRows ab ar)) none))) ∧
    (open_ ab → ar % 8 = 0 → unexported band → s.mRoom none none →
      goes (.accbandLocal f) (owns (Tab.drop c.eng.owners band)
        (given (.accband ab (ar / 8) none) (keysOf (bandRows ab ar)) none))) ∧
    (open_ ab → unexported (ab * 4 + row / 8) → s.mRoom none none →
      goes (.accnorm f) (setsH [(ab, row)] (m % 256) (given (.accnorm ab row (m % 256)) [rowKey ab row] none))) ∧
    (open_ ab → row + n ≤ 32 → good → (∀ r ∈ rows, unexported (r.1 * 4 + r.2 / 8)) → s.mRoom none none →
      goes (.accclr f) (setsH rows h (given (.accclr ab row n (signExt x 16)) (keysOf rows) none))) ∧
    (open_ ab → drainable → (f.fn.getLsbD 1 = true → unexported (ab * 4 + row / 8)) →
      c.visibleUnits 6 + c.pendingUnits 6 + 1 ≤ 4 → s.mRoom none none →
      goes (.accrd f) ((given (.accrd ab row (c.accRow ab row).h (f.fn.getLsbD 1)) [rowKey ab row] none).addPost
        (.image none c.eng.nextId {}))) ∧
    (remoteOk → c.visibleUnits 6 + c.pendingUnits 6 + 1 ≤ 4 → s.mRoom none none →
      goes (.accrdRemote f) ((given (.drain holder ab row grp none) [] none).addPost
        (.image none c.eng.nextId {}))) ∧
    (open_ ab → drainable → (f.fn.getLsbD 3 = true → unexported (ab * 4 + row / 8)) → target → s.mRoom none ext →
      goes (.accexp f) (given (.accexp ab row (c.accRow ab row).h fmt q.toNat (f.fn.getLsbD 3)) [rowKey ab row] ext)) ∧
    (remoteOk → target → s.mRoom none ext →
      goes (.accexpRemote f) (given (.drain holder ab row grp (some (fmt, q.toNat))) [] ext)) ∧
    (open_ ab → c.visibleUnits 3 + c.pendingUnits 3 + 1 ≤ 8 → s.mRoom none none →
      goes (.acchead f) (c.addPost (.head (s.now + 4) ab row (c.accRow ab row).h))) ∧
    (open_ ab → ar % 8 = 0 → s.groupOk c grp = true → Tab.has c.eng.owners band = true →
      Tab.look 0 c.eng.owners band = grp → s.mRoom none none →
      let d := given (.accexport ab (ar / 8) grp) (keysOf (bandRows ab ar)) none
      let l := c.eng.bandExports
      let l' := if Tab.has l band then l else Tab.store l band grp
      goes (.accexport f) { d with eng := { d.eng with bandExports := l' } })

/-- One addend arriving at an accumulator element (R285): a NaN mark stays and a NaN addend sets it, with 3 for X; otherwise the
addend is rounded to the row's unit, clamped, added and clamped again, OVF noting each clamp, and no other element
changes.
ACCPOP (R290): the front image of q6 leaves the queue, and its 64 elements, scaled by 2^J and rounded to TY, are
sent with latency 6 under PG; a NaN mark is a NaN, and unmasked lanes report to NUMSTAT. With nothing there and
nothing pending it is the queue-underflow trap.
Clauses here rest on choices of the model: log 24, that masked lanes report nothing. -/
def Obligations.AccumulatorsAddAndConvert : Prop :=
  (∀ (r : AccRow) (i : Nat) (a : Addend),
     let r' := r.add i a
     let lim (x : Int) : Int := max (-2 ^ 63) (min (2 ^ 63 - 1) x)
     let x := roundRNE a.s (a.e - r.e + 16) 0
     let sum := Tab.look 0 r.elems i + lim x
     r'.e = r.e ∧ r'.h = r.h ∧ (∀ j, j ≠ i → Tab.look 0 r'.elems j = Tab.look 0 r.elems j) ∧
     (r.nan.testBit i = true → r' = r) ∧
     (r.nan.testBit i = false → a.nan = true → r'.nan = r.nan ||| 2 ^ i ∧
       Tab.look 0 r'.elems i = 3 ∧ r'.ovf = r.ovf) ∧
     (r.nan.testBit i = false → a.nan = false → r'.nan = r.nan ∧ Tab.look 0 r'.elems i = lim sum ∧
       (r'.ovf = true ↔ r.ovf = true ∨ lim x ≠ x ∨ lim sum ≠ sum))) ∧
  (∀ (s : State) (f : VR), s.onACore →
     let c := s.hereCore
     let t := tyOf f
     (∀ r rest, c.q.rows = r :: rest →
       let x (i : Nat) : Rounded := roundTo t (if r.nan.testBit i then .nan
         else Val.ofInt (Tab.look 0 r.elems i) (r.e + f.vc.toInt - 16)) .rne 0
       let on (p : Rounded → Bool) : Bool := (List.range 64).any fun i => active c f.pg 32 i && p (x i)
       exec (.accpop f) s = .next (s.changesHere fun c =>
         (putElts { c with q := { c.q with rows := rest } } 6 f.vd.toNat 1 f.pg f.pz 32
           ((List.range 64).map fun i => (x i).code)).putNumstat 6 (on (·.sat)) (on (·.nan)) 0)) ∧
     (c.q.rows = [] → c.pendingUnits 6 = 0 → exec (.accpop f) s = .next (s.traps 0x12 6)))

/-! Copy channels and the carry engine (R313 to R358). -/

/-- The copy instructions (R343 to R353, R356): under their checks, and with room, the command enters its channel as
`places` says. Where a command fills a row set, that row set is FILLING from the issue on.
CPCOLL (R356, R357): the plan block is read as a slot access, the two device regions are checked, and the
collective enters its channel as the next of its group.
Clauses here rest on choices of the model: logs 4 and 43. -/
def Obligations.CopyAndCollectiveCommands : Prop :=
  (∀ (s : State) (f : CF) (n : Nest) (sp dp : List Page) (u v : State), s.onACore →
     let fo := s.here
     let c := s.hereCore
     let ch := f.ch.toNat
     let ca := c.cap f.ca.toNat
     let cb := c.cap f.cb.toNat
     let src := cSrc fo f c
     let dst := cDst fo f c
     let grp := f.grp.toNat
     let member : Prop := s.groupOk c grp = true ∧ s.isMember c grp c.lcore = true
     let places (i : Instr) (w : State) (m : CopyCmd) : Prop :=
       w.cRoom fo ch m → ∃ t, exec i s = .next t ∧ w.places fo ch m t
     let fills (i : Instr) (w : State) (m : CopyCmd) : Prop :=
       w.cRoom fo ch m → ∃ t, exec i s = .next t ∧ w.places fo ch m t ∧
         ((t.core fo.core).setOf ((w.core fo.core).nameSet n.bank n.rs)).state = 1
     let unused (a b : Bool) : Prop := (a = false → f.ca = 0) ∧ (b = false → f.cb = 0)
     let probed (m : CopyCmd) : CopyCmd := { m with spages := sp, dpages := dp }
     let go : CopyCmd := { f.command 0x02 .go with
       nest := n, src := src, dst := dst, sc := ca, dc := cb, gen := (c.bank n.bank).gen }
     let sheller : CopyCmd := { f.command 0x08 .shell with
       nest := n, src := src, sc := ca, gen := (c.bank n.bank).gen }
     let cast : CopyCmd := { f.command 0x06 .mcast with nest := n, src := src, dst := dst, sc := ca }
     let fill : CopyCmd := { f.command 0x07 .fill with
       nest := n, dst := dst, value := c.sreg f.sa.toNat, dc := cb }
     let castOk : Prop := member ∧ ∀ l ∈ membersOf (s.group c grp), s.inPod c l = true
     let op := f.fn.toNat % 8
     let e := accWidth op
     let rows := f.imm.toNat + 1
     let count := (c.sreg f.sb.toNat).toNat
     let table : Int := (c.sreg f.sa.toNat).toNat
     let onDevice (x : Cap) (runs : List (Int × Nat)) (pages : List Page) : Prop := accHostFault x runs pages = none
     let whole (off : Int) (pages : List Page) : Prop := off % 4096 = 0 ∧ ∀ p ∈ pages, p.loc = 0
     let copy : CopyCmd := { f.command 0x10 .rowCopy with
       src := src, dst := dst, sc := ca, dc := cb, n := rows, spages := sp, dpages := dp }
     let zero : CopyCmd := { f.command 0x10 .rowZero with dst := dst, dc := cb, n := rows, dpages := dp }
     ((c.chan ch).desc = some n → goKinds dst n = true → unused (n.skind == 1) (n.dkind == 1) →
       (n.skind = 2 → s.inPod c n.peer = true ∧ s.groupOk c n.pgrp = true ∧ s.isMember c n.pgrp c.lcore = true) →
       s.sidesOpen fo go (n.skind == 0) (n.skind == 1) (n.dkind == 0) (n.dkind == 1) sp dp u →
       (n.dkind ≠ 2 → places (.cpgo f) u (probed go)) ∧
       (n.dkind = 2 → c.shadowOpen (c.nameSet n.bank n.rs) →
         (u.core fo.core).eng.banks = c.eng.banks → fills (.cpgo f) u (probed go))) ∧
     ((c.chan ch).desc = some n → n.skind ≤ 1 → n.dkind = 0 → n.fmt = 0 → unused (n.skind == 1) false → castOk →
       s.sidesOpen fo cast (n.skind == 0) (n.skind == 1) false false sp dp u → places (.cpmcast f) u (probed cast)) ∧
     (castOk → places (.cpmcastMsg f) s { f.command 0x06 .msg with value := c.sreg f.sa.toNat }) ∧
     ((c.chan ch).desc = some n → n.dkind ≤ 1 → n.fmt = 0 → unused false (n.dkind == 1) →
       s.sidesOpen fo fill false false (n.dkind == 0) (n.dkind == 1) sp dp u → places (.cpfill f) u (probed fill)) ∧
     ((c.chan ch).desc = some n → n.skind ≤ 1 → n.dkind = 2 → n.fmt = 0 → unused (n.skind == 1) false →
       c.shadowOpen (c.nameSet n.bank n.rs) → (u.core fo.core).eng.banks = c.eng.banks →
       s.sidesOpen fo sheller (n.skind == 0) (n.skind == 1) false false sp dp u → fills (.cpshell f) u (probed sheller)) ∧
     ((c.chan ch).desc = some n → n.skind = 0 → n.dkind = 1 → n.fmt = 0 → n.inner % e = 0 →
       (∀ r ∈ n.dstRuns dst, r.1 % (e : Int) = 0) →
       c.localSide (n.srcRuns src) (n.srcExtent src).1 (n.srcExtent src).2 false = none →
       s.sideOpen fo f.cb.toNat cb Perm.at_ true (n.dstExtent dst).1 (n.dstExtent dst).2 (n.dstRuns dst) dp u →
       onDevice cb (n.dstRuns dst) dp →
       places (.cpacc f) u { f.command 0x09 (.acc op) with
         nest := n, src := src, dst := dst, dc := cb, dpages := dp }) ∧
     (dst % (e : Int) = 0 → s.sideOpen fo f.cb.toNat cb Perm.at_ true dst e [(dst, e)] dp u →
       onDevice cb [(dst, e)] dp →
       places (.cpaccOne f) u { f.command 0x09 (.accOne op) with
         dst := dst, dc := cb, dpages := dp, value := c.sreg f.sa.toNat }) ∧
     (whole src sp → whole dst dp →
       ((ca.base.toNat : Int) + src + 4096 * rows ≤ cb.base.toNat + dst ∨
         (cb.base.toNat : Int) + dst + 4096 * rows ≤ ca.base.toNat + src) →
       s.sideOpen fo f.ca.toNat ca (Perm.row + Perm.rd) false src (4096 * rows) [(src, 4096 * rows)] sp v →
       v.sideOpen fo f.cb.toNat cb (Perm.row + Perm.wr) true dst (4096 * rows) [(dst, 4096 * rows)] dp u →
       (pageStacks ca src rows sp ++ pageStacks cb dst rows dp).eraseDups.length ≤ 1 →
       (∀ a ∈ sp, ∀ b ∈ dp, a.mx = b.mx) → places (.memrowCopy f) u copy) ∧
     (whole dst dp →
       s.sideOpen fo f.cb.toNat cb (Perm.row + Perm.wr) true dst (4096 * rows) [(dst, 4096 * rows)] dp u →
       (pageStacks cb dst rows dp).length ≤ 1 → places (.memrowZero f) u zero) ∧
     (1 ≤ count → count ≤ 4096 → member → table % 64 = 0 →
       c.localSide [(table, 64 * count)] table (64 * count) false = none →
       places (.ewalk f) s { f.command 0x11 .walk with src := table, n := count, sc := ca, dc := cb }) ∧
     places (.cpmark f) s { f.command 0x04 (.mark f.imm.toNat) with note := true } ∧
     places (.cpinv f) s (f.command 0x12 .inv)) ∧
  (∀ (s : State) (f : CF) (p : Plan) (sp dp : List Page) (u v : State), s.onACore →
     let fo := s.here
     let c := s.hereCore
     let grp := f.grp.toNat
     let q : Int := (c.sreg f.sa.toNat).toNat
     let x : SlotAccess := { write := false, align := false, pieces := [(q, 64)] }
     let members := (membersOf (s.group c grp)).length
     let sl := p.srcLen members
     let dl := p.dstLen members
     let ca := c.cap f.ca.toNat
     let cb := c.cap f.cb.toNat
     let m : CopyCmd := { f.command 0x15 .coll with
       plan := p, src := p.soff, dst := p.doff, sc := ca, dc := cb, spages := sp, dpages := dp
       n := Tab.look 0 c.colls grp }
     s.groupOk c grp = true → s.isMember c grp c.lcore = true → q % 64 = 0 → c.accessOpen fo x →
     readPlan (c.mem.bytes q.toNat 64) = .inl p →
     (s.accesses x []).sideOpen fo f.ca.toNat ca (Perm.rd + Perm.coll) false p.soff sl [((p.soff : Int), sl)] sp v →
     v.sideOpen fo f.cb.toNat cb (Perm.wr + Perm.coll) true p.doff dl [((p.doff : Int), dl)] dp u →
     u.cRoom fo f.ch.toNat m →
       ∃ t, exec (.cpcoll f) s = .next t ∧ u.places fo f.ch.toNat m t ∧
         Tab.look 0 (t.core fo.core).colls grp = Tab.look 0 (u.core fo.core).colls grp + 1)

/-- Descriptors, waits, fences, follow-ons and exports (R324, R333, R342, R346, R354, R355). CPSET copies a nest
block to its channel; CPWAIT and CPFENCE note their masks, and a mask of zero is the illegal-operand trap; CPFOLLOW
carries the M operation of its bundle; CPEXPORT adds an entry to the export table.
An export comes into force once its entry of the scoreboard is clear and its cycle has come (R355).
Clauses here rest on choices of the model: logs 41 and 66. -/
def Obligations.DescriptorsWaitsAndExports : Prop :=
  (∀ (s : State) (f : CF), s.onACore →
     let c := s.hereCore
     let ch := f.ch.toNat
     let x := c.chan ch
     let q := cpsetAddr f c
     let size := if q < 0 then 128 else if c.mem.num (q.toNat + 2) 2 = 256 then 256 else 128
     let access : SlotAccess := { write := false, align := false, pieces := [(q, size)] }
     let mask := f.imm.toNat % 256
     let rq := if s.focus.slot = 5 then 1 else 0
     let a := (c.sreg f.sa.toNat).toNat
     let len := (c.sreg f.sb.toNat).toNat
     let grp := f.grp.toNat
     let exports (i : Instr) (kind : Nat) : Prop :=
       s.groupOk c grp = true → a % 256 = 0 → len % 256 = 0 → 1 ≤ len → len ≤ 2 ^ 20 → a + len ≤ 0x140000 →
       c.eng.exports.length < 8 → (∀ e ∈ c.eng.exports, rangesMeet a len e.addr e.len = false) →
       c.computeBank a len = none → c.eng.sb.length < 16 →
       ∃ t, exec i s = .next t ∧
         (t.core s.focus.core).eng.exports = c.eng.exports ++ [{ addr := a, len := len, grp := grp, kind := kind
                                                                 id := c.eng.nextId, from_ := s.now + 2, live := false }] ∧
         (t.core s.focus.core).eng.sb = c.eng.sb ++ [{ id := c.eng.nextId, rd := none, wr := some (a, len) }] ∧
         (t.core s.focus.core).regs = c.regs ∧ (t.core s.focus.core).mem = c.mem
     let follows (op : Instr) (a b : Word) : Prop := c.carriedOp = some op →
       exec (.cpfollow f) s = .next (s.changesHere fun c =>
         ({ c with eng := { c.eng with nextId := c.eng.nextId + 1, follows := c.eng.follows ++ [{
           id := c.eng.nextId, op := op, a := a, b := b, chan := ch, cmd := x.lastData.map (·.1)
           seq := (x.lastData.map (·.2.1)).getD x.seq, cmdBundle := (x.lastData.map (·.2.2)).getD c.seq.pc
           bundle := c.seq.pc, scyc := c.scycle }] } } : Core).setChan ch { x with seq := (x.seq + 1) % 2 ^ 16 })
     (∀ d, c.accessOpen s.here access → readNest (c.mem.bytes q.toNat size) = .inl d →
       exec (.cpset f) s = .next ((s.accesses access []).changesHere fun c =>
         c.setChan ch { x with desc := some d, seq := (x.seq + 1) % 2 ^ 16 })) ∧
     (∀ off, c.accessOpen s.here access → readNest (c.mem.bytes q.toNat size) = .inr off →
       exec (.cpset f) s = .next (s.traps 0x4B (BitVec.ofNat 64 off))) ∧
     (mask = 0 → exec (.cpwait f) s = .next (s.traps 0x02 0) ∧ exec (.cpfence f) s = .next (s.traps 0x02 0)) ∧
     (mask ≠ 0 →
       exec (.cpwait f) s = .next (s.changesHere fun c => { c with eng := { c.eng with
         nextId := c.eng.nextId + 1
         results := Tab.store c.eng.results rq (Tab.look [] c.eng.results rq ++ [.wait c.eng.nextId mask]) } }) ∧
       exec (.cpfence f) s = .next (s.changesHere fun c => { c with eng := { c.eng with
         nextId := c.eng.nextId + 1, fences := c.eng.fences ++ [(c.eng.nextId, mask)] } })) ∧
     (∀ g, follows (.brun g) (c.sreg g.sa.toNat) (c.sreg g.sb.toNat) ∧
       follows (.bacc g) (c.sreg g.sa.toNat) (c.sreg g.sb.toNat) ∧ follows (.bplane g) 0 0) ∧
     (f.fn.toNat % 4 = 0 → exports (.cpexportRead f) 0) ∧ exports (.cpexportCarry f) 1 ∧
     exports (.cpexportReceive f) 2) ∧
  (∀ (s : State) (k : Nat) (e : Export), s.onACore → s.focus.idx = 8 + k → s.hereCore.eng.exports[k]? = some e →
     e.live = false → e.from_ ≤ s.now → s.hereCore.sbClear e.id = true →
     exec .copyCommandStart s = .next (s.changesHere fun c => ({ c with eng := { c.eng with
       exports := c.eng.exports.map fun y => if y.id = e.id then { y with live := true } else y } } : Core).sbDrop e.id))

/-- The carry instructions (R313, R318 to R321): under the checks of R319 and with room, the command enters the
carry engine with its table, its windows or its word, and a scoreboard entry for a local table.
Clauses here rest on choices of the model: log 4. -/
def Obligations.CarryCommandsIssue : Prop :=
  ∀ (s : State) (f : CF), s.onACore →
    let c := s.hereCore
    let q := carryAddr s.here f c
    let x := (c.sreg f.sb.toNat).toNat
    let n := x % 2 ^ 16
    let len := x / 2 ^ 16 % 2 ^ 32
    let t := x / 2 ^ 56
    let grp := f.grp.toNat
    let op := f.fn.toNat % 8
    let fits (n : Nat) : Prop := q % 4 = 0 ∧ 0 ≤ q ∧ q + n ≤ 0x140000
    let free (n : Nat) : Prop := c.computeBank q.toNat n = none ∧
      ∀ e ∈ c.eng.exports, e.kind = 1 ∨ rangesMeet q.toNat n e.addr e.len = false
    let queues (i : Instr) (kind : CarryKind) (op : Nat) (ext : Option (Nat × Nat)) : Prop :=
      c.eng.carry.queue.length < s.params.cdepth → (ext.isSome = true → c.eng.sb.length < 16) →
      ∃ t, exec i s = .next t ∧
        (t.core s.focus.core).eng.carry = { c.eng.carry with queue := c.eng.carry.queue ++ [{
          id := c.eng.nextId, bundle := c.seq.pc, kind := kind, op := op, done := 0, at_ := 0, open_ := 0 }] } ∧
        (t.core s.focus.core).eng.sb = c.eng.sb ++
          (if ext.isSome then [{ id := c.eng.nextId, rd := ext, wr := ext }] else []) ∧
        (t.core s.focus.core).eng.nextId = c.eng.nextId + 1 ∧ (t.core s.focus.core).regs = c.regs ∧
        (t.core s.focus.core).mem = c.mem ∧ (t.core s.focus.core).q = c.q
    let stream : Prop := n ≠ 0 ∧ len ≠ 0 ∧ x / 2 ^ 48 % 256 = 0
    (stream → t = 0 → fits (4 * len) → free (4 * len) →
      queues (.carry f) (.table q.toNat len n) op (extent q.toNat (4 * len))) ∧
    (stream → s.inPod c t = true → s.groupOk c grp = true → s.isMember c grp c.lcore = true →
      s.isMember c grp t = true → fits (4 * len) →
      queues (.carryRemote f) (.remote t grp q.toNat len n) op none) ∧
    (fits 4 → free 4 →
      queues (.carryw f) (.word q.toNat (BitVec.ofNat 32 x)) op (some (q.toNat, 4))) ∧
    queues (.carryst f) .status 0 none

/-! The Abacus (R426 to R441). `c` is the filter context in the focus and `r` its run. -/

/-- The filter instructions on registers (R440): the result is written to fd as its low 32 bits, where f0 discards it
(R430), and the run goes on at the next index or ends when that is LEN or more (R436). Nothing else of the module
changes.
The filter instructions that branch, end the run, touch the table or trigger (R436, R438, R440, R441). A branch is
taken when its condition holds; a table index is the exact sum, and one of 1024 or more ends the run, counts a fault and
does nothing else; a trigger's notice goes where TDEST sends it and the run goes on.
Clauses here rest on choices of the model: log 50. -/
def Obligations.FilterInstructionResults : Prop :=
  (∀ (s : State) (r : FilterRun) (g : FA) (f : FI), s.focus.idx < 64 → (s.ctx s.focus.idx).run = some r →
     let c := s.ctx s.focus.idx
     let reg (x : BitVec 4) : Word32 := if x = 0 then 0 else Tab.look 0 c.regs x.toNat
     let on : Option FilterRun := if r.pc + 1 < c.len then some { r with pc := r.pc + 1 } else none
     let puts (fd : BitVec 4) (v : Int) : Host.Outcome State Fault Refusal :=
       let regs := if fd = 0 then c.regs else Tab.store c.regs fd.toNat (BitVec.ofInt 32 v)
       .next (s.onCtx s.focus.idx fun c => { c with regs := regs, run := on })
     let ga := reg g.fa
     let gb := reg g.fb
     let a := reg f.fa
     let n := f.imm.toNat % 32
     let d := (reg f.fd).toInt
     let e : Nat := r.ev.cls.toNat + r.ev.part.toNat * 2 ^ 3 + r.ev.pcore.toNat * 2 ^ 9 +
       (if r.ev.nocore then 1 else 0) * 2 ^ 16 + r.ev.time.toNat * 2 ^ 32 + r.ev.payload.toNat * 2 ^ 64
     (g.sub.toNat < 10 → exec (.filterLde g) s = puts g.fd (e / 2 ^ (32 * g.sub.toNat) % 2 ^ 32 : Nat)) ∧
     exec (.filterLdi f) s = puts f.fd f.imm.toInt ∧
     exec (.filterLih f) s = puts f.fd (a.toNat % 2 ^ 16 + f.imm.toNat * 2 ^ 16 : Nat) ∧
     exec (.filterAddi f) s = puts f.fd (a.toInt + f.imm.toInt) ∧
     exec (.filterAdd g) s = puts g.fd (ga.toInt + gb.toInt) ∧
     exec (.filterSub g) s = puts g.fd (ga.toInt - gb.toInt) ∧
     exec (.filterAnd g) s = puts g.fd (ga &&& gb).toInt ∧
     exec (.filterOr g) s = puts g.fd (ga ||| gb).toInt ∧
     exec (.filterXor g) s = puts g.fd (ga ^^^ gb).toInt ∧
     exec (.filterMin g) s = puts g.fd (min ga.toInt gb.toInt) ∧
     exec (.filterMax g) s = puts g.fd (max ga.toInt gb.toInt) ∧
     exec (.filterAbsd g) s = puts g.fd (min (ga.toInt - gb.toInt).natAbs (2 ^ 31 - 1) : Nat) ∧
     exec (.filterShl f) s = puts f.fd (a.toNat * 2 ^ n : Nat) ∧
     exec (.filterShr f) s = puts f.fd (a.toNat / 2 ^ n : Nat) ∧
     exec (.filterSha f) s = puts f.fd (a.toInt / 2 ^ n) ∧
     (ga = 0 → exec (.filterLog2 g) s = puts g.fd 0xFFFFFFFF) ∧
     (∀ v : Nat, 2 ^ v ≤ ga.toNat → ga.toNat < 2 ^ (v + 1) → exec (.filterLog2 g) s = puts g.fd v) ∧
     (∀ b : Nat, f.imm.toNat = b → 1 ≤ b → b ≤ 10 → ∀ m : Nat,
       (f.sub = 0 → m = 0x9E3779B1) → (f.sub = 1 → m = 0x85EBCA77) → (f.sub = 2 → m = 0xC2B2AE3D) →
       (f.sub = 3 → m = 0x27D4EB2F) → f.sub.toNat < 4 →
       exec (.filterHash f) s = puts f.fd (a.toNat * m % 2 ^ 32 / 2 ^ (32 - b) : Nat)) ∧
     (f.imm.toNat < 16 → exec (.filterEwma f) s = puts f.fd (d + (a.toInt - d) / 2 ^ f.imm.toNat))) ∧
  (∀ (s : State) (r : FilterRun) (g : FA) (f : FI), s.focus.idx < 64 → (s.ctx s.focus.idx).run = some r →
     let k := s.focus.idx
     let c := s.ctx k
     let reg (x : BitVec 4) : Word32 := if x = 0 then 0 else Tab.look 0 c.regs x.toNat
     let on (n : Nat) : Option FilterRun := if r.pc + n < c.len then some { r with pc := r.pc + n } else none
     let a := reg g.fa
     let b := reg g.fb
     let holds : Bool := match g.fd.toNat with
       | 0 => decide (a = b)
       | 1 => decide (a ≠ b)
       | 2 => decide (a.toInt < b.toInt)
       | 3 => decide (b.toInt ≤ a.toInt)
       | 4 => decide (a.toNat < b.toNat)
       | 5 => decide (b.toNat ≤ a.toNat)
       | _ => true
     let i := (reg f.fa).toNat + f.imm.toNat
     let old : Word32 := Tab.look 0 c.table i
     let faults := min (c.faults + 1) 0xFF
     let becomes (d : Context) : Host.Outcome State Fault Refusal := .next (s.onCtx k fun _ => d)
     let stores (v : Word32) : Context := { c with table := Tab.store c.table i v, run := on 1 }
     let loaded := if f.fd = 0 then c.regs else Tab.store c.regs f.fd.toNat old
     let sum := min (old.toNat + (reg f.fd).toNat) (2 ^ 32 - 1)
     let note : Nat := k + r.ev.cls.toNat * 2 ^ 6 + f.imm.toNat % 256 * 2 ^ 16 + (reg f.fa).toNat * 2 ^ 32
     let lost := min (c.tdrop + 1) 0xFFFF
     exec (.filterExit g) s = becomes { c with run := none } ∧
     (g.sub.toNat < 64 → exec (.filterBr g) s = becomes { c with run := on (if holds then g.sub.toNat else 1) }) ∧
     (i < 1024 → exec (.filterTld f) s = becomes { c with regs := loaded, run := on 1 }) ∧
     (i < 1024 → exec (.filterTst f) s = becomes (stores (reg f.fd))) ∧
     (i < 1024 → exec (.filterTadd f) s = becomes (stores (BitVec.ofNat 32 sum))) ∧
     (1024 ≤ i → ∀ x ∈ [Instr.filterTld f, .filterTst f, .filterTadd f],
       exec x s = becomes { c with run := none, faults := faults }) ∧
     (∀ p, c.owner = some p → c.tdest = 0 →
       ((s.part p).tt = none → exec (.filterTrig f) s = becomes { c with tdrop := lost, run := on 1 }) ∧
       (∀ t, (s.part p).tt = some t → Tab.has t.binding c.tcore = false →
         exec (.filterTrig f) s = becomes { c with tdrop := lost, run := on 1 }) ∧
       (∀ t, (s.part p).tt = some t → Tab.has t.binding c.tcore = true →
         let n := Tab.look 0 t.binding c.tcore
         ∃ u, exec (.filterTrig f) s = .next u ∧ u.ctx k = { c with run := on 1 } ∧ u.parts = s.parts ∧
           (∀ m, m ≠ n → u.core m = s.core m) ∧
           (((s.core n).queue 5).length < 8 →
             u.core n = (s.core n).setQueue 5 ((s.core n).queue 5 ++ [BitVec.ofNat 64 note])) ∧
           (8 ≤ ((s.core n).queue 5).length → (u.core n).queue 5 = (s.core n).queue 5))) ∧
     (∀ p, c.owner = some p → c.tdest = 1 →
       let x := s.part p
       (x.arslots = 0 ∨ (x.artail + 1) % x.arslots = x.arhead →
         exec (.filterTrig f) s = becomes { c with tdrop := lost, run := on 1 }) ∧
       (x.arslots ≠ 0 → (x.artail + 1) % x.arslots ≠ x.arhead →
         ∃ u, exec (.filterTrig f) s = .next u ∧ u.ctx k = { c with run := on 1 } ∧
           (u.part p).artail = (x.artail + 1) % x.arslots ∧
           u.hostMem s.owner = (s.hostMem s.owner).write (x.arbase + 8 * x.artail) (leBytes 8 note) ∧
           u.dev = s.dev ∧ u.cores = s.cores ∧ .msix s.owner (1 + p) ∈ u.out)) ∧
     (∀ p, c.owner = some p → c.tdest = 2 →
       let x := s.part p
       (x.trlen = 0 → exec (.filterTrig f) s = becomes { c with run := on 1 }) ∧
       (∀ v, x.trlen ≠ 0 → s.writeVirtual (podOf (x.cores.headD 0)) p (x.trbase + 32 * x.trnext)
           (leBytes 32 (4 + r.ev.pcore.toNat * 2 ^ 4 + note * 2 ^ 192)) .pass = (none, v) →
         exec (.filterTrig f) s = .next ((v.onPart p fun x => { x with trnext := (x.trnext + 1) % x.trlen }).onCtx k
           fun _ => { c with run := on 1 }))))

/-- What the Abacus does with an event (R428, R433 to R435). Intake appends it, or counts it in ADROP when 1024 wait;
dispatch gives the front event to the contexts it reaches; a context starts a run on its front event while its owner's
budget lasts, and is suspended and drops its queue when it does not.
Clauses here rest on choices of the model: log 5. -/
def Obligations.EventsAreTakenDispatchedAndRun : Prop :=
  ∀ (s : State) (ev : AbEvent),
    (∃ t, exec (.eventIntake ev) s = .next t ∧ t.ctxs = s.ctxs ∧ t.parts = s.parts ∧
      (s.intake.length < 1024 → t.intake = s.intake ++ [ev] ∧ t.adrop = s.adrop) ∧
      (1024 ≤ s.intake.length → t.intake = s.intake ∧ t.adrop = min (s.adrop + 1) (2 ^ 32 - 1))) ∧
    (s.intake = [] → exec .eventDispatch s = .next s) ∧
    (∀ rest, s.intake = ev :: rest →
      ∃ t, exec .eventDispatch s = .next t ∧ t.intake = rest ∧ t.cores = s.cores ∧ t.parts = s.parts ∧
        ∀ k, let c := s.ctx k
          let reached : Prop := c.en = true ∧ c.cls = ev.cls.toNat ∧
            (∃ p, c.owner = some p ∧ (ev.part.toNat = p ∨ ev.part = 63)) ∧
            (c.cmatch = true → ev.nocore = false ∧ ev.pcore.toNat = c.mcore)
          (¬ reached → t.ctx k = c) ∧
          (reached → c.susp = false → c.queue.length < 64 → t.ctx k = { c with queue := c.queue ++ [ev] }) ∧
          (reached → (c.susp = true ∨ 64 ≤ c.queue.length) →
            t.ctx k = { c with drop := min (c.drop + 1) 0xFFFF })) ∧
    (∀ rest p, s.focus.idx < 64 → let c := s.ctx s.focus.idx
      c.run = none → c.queue = ev :: rest → c.owner = some p → c.en = true → c.susp = false →
      let x := s.part p
      (c.len + x.bused ≤ x.budget → exec .filterRun s = .next ((s.onPart p fun x => { x with bused := x.bused + c.len }).onCtx
        s.focus.idx fun c =>
          { c with queue := rest, runs := min (c.runs + 1) 0xFFFF, run := some { pc := 0, ev := ev } })) ∧
      (x.budget < c.len + x.bused → exec .filterRun s = .next (s.onCtx s.focus.idx fun c =>
          { c with susp := true, drop := min (c.drop + c.queue.length) 0xFFFF, queue := [] })))

/-! Events of a core: its sequencer, its stops, and the faults that reach it. -/

/-- A cycle of a sequencer (R36, R71, R108, R112, R68). A planned stall passes and SCYC grows; an issue whose operations
all act makes SCYC grow, names the bundle as issued last, and goes on with the next repeat or, after the last, with the
successor of R66; a wait with no slack left traps; a line that was fetched enters the instruction cache.
Clauses here rest on choices of the model: logs 5 and 67. -/
def Obligations.SequencersIssueStallAndFetch : Prop :=
  ∀ (s : State), s.onACore →
    let n := s.focus.core
    let c := s.hereCore
    let active : Prop := c.seq.run = .running ∧ c.seq.halted = false ∧ c.seq.acted ≠ s.now + 1
    (c.seq.acted = s.now + 1 ∨ c.seq.halted = true → exec .bundleIssue s = .next s) ∧
    (∀ k, active → c.seq.stall = k + 1 → c.svc = false →
      exec .bundleIssue s = .next (s.changesHere fun c => { c.setCtlBits 0x012 31 0 (c.scycle + 1) with
        seq := { c.seq with stall := k, passed := true, acted := s.now + 1 } })) ∧
    (∀ (b : Bundle) (d : Core) (u : State), active → c.seq.stall = 0 → c.seq.after = none → c.seq.haltReq = false →
      c.seq.preempt = false → c.svc = false → c.seq.arrivedFaults = [] → c.seq.replay = none → c.seq.access = none →
      (∀ r, (s.part c.part).run = some r → c.scycle < ((s.phaseOf c).grades.getD r.grade {}).length) →
      c.badLines.contains (lineNumber c.seq.pc) = false →
      c.ahead = (.bundle b, d) → d.svc = false → d.seq.preempt = false →
      d.issueTrap b (d.issueOps b) = none →
      State.runOps ((b.ops.find? fun x => x.1 == 3).map (·.2)) n
        (((s.setCore n d).findSuccessor n).onCore n fun c => { c with q := { c.q with need := 0, owed := 0 } })
        (d.issueOps b) = { s := u } →
      let x := u.core n
      x.plainEnd → x.svc = false →
      ∃ t, exec .bundleIssue s = .next t ∧
        (t.core n).scycle = (x.scycle + 1) % 2 ^ 32 ∧ (t.core n).seq.last = x.seq.pc ∧
        (t.core n).seq.acted = u.now + 1 ∧ (t.core n).seq.passed = true ∧ (t.core n).regs = x.regs ∧
        (1 < x.seq.rem → (t.core n).seq.pc = x.seq.pc ∧ (t.core n).seq.idx = x.seq.idx + 1 ∧
          (t.core n).seq.rem = x.seq.rem - 1) ∧
        (x.seq.rem ≤ 1 → (t.core n).seq.pc = x.seq.succ ∧ (t.core n).seq.begun = false ∧
          (t.core n).seq.stall = b.head.stall ∧
          (t.core n).seq.arrive = (if x.seq.succNew then .newLine else .sequential)) ∧
        ∀ m, m ≠ n → t.core m = u.core m) ∧
    (c.seq.wait = none → exec .slackExhausted s = .next s) ∧
    (∀ w, c.seq.wait = some w → c.seq.run = .running → c.svc = false → c.strict = false → c.ctlBits 0x014 31 0 = 0 →
      let x := firstCause w.causes
      exec .slackExhausted s =
        .next (s.trapHere n { cause := 0x08, det := BitVec.ofNat 64 x.code, slot := x.slot })) ∧
    (let line := s.focus.idx
     let due : Prop := Tab.has c.fetches line = true ∧ Tab.look 0 c.fetches line ≤ s.now
     (¬ due → exec .instructionFetch s = .next s) ∧
     (∀ bs v, due → s.inCode c.part line = true →
        s.readVirtual (podOf n) c.part (128 * line) 128 .queue = (.inl bs, v) →
        ∃ t, exec .instructionFetch s = .next t ∧ t.dev = v.dev ∧
          Tab.has (t.core n).icache line = true ∧
          Tab.look 0 (t.core n).icache line = BitVec.ofNat 1024 (leNat bs) ∧
          Tab.has (t.core n).fetches line = false ∧ (t.core n).regs = (v.core n).regs) ∧
     (due → s.inCode c.part line = false → exec .instructionFetch s = .next (s.changesHere fun c =>
        { c with fetches := Tab.drop c.fetches line, badLines := line :: c.badLines })))

/-- What else strikes a core (R450, R457, R468, R469, R444, R161, R162, R462). A fault that has arrived is delivered at the
boundary with its source in TRAPCAUSE and its command in TRAPCMD, or waits while service code runs; a pre-emption or a
debug request stops the core, drained, before its next bundle; an error is replayed or is the machine-check fault; an
open access completes, and a GLD returns the core's own last bytes of the phase (R162), or its data-check fault; a resume
reads each row set that is not local again, the rows that its fill had written where it is FILLING, compares them with the
saved CRC-32, and counts that core as restored. Rows that differ, and a source that cannot be read (log 53), make the row
set EMPTY, end its fill and raise the plane-integrity fault; a sheller's fill that had written no row starts its stream
again. The REM and IDX of a delivered fault rest on logs 34 and 67.
Clauses here rest on choices of the model: logs 5, 17, 32, 34, 53 and 67. -/
def Obligations.FaultsAndStopsReachTheirCore : Prop :=
  ∀ (s : State), s.onACore →
    let n := s.focus.core
    let c := s.hereCore
    let d := c.drainAll s.now
    let others (t : State) : Prop := ∀ m, m ≠ n → t.core m = s.core m
    (∀ f, c.seq.arrivedFaults = [f] → c.seq.run = .running → c.seq.halted = false → c.seq.stall = 0 →
      let l := c.logDeviation s.now true
      let e := ({ l with seq := { l.seq with arrivedFaults := [], acted := s.now + 1 } } : Core).drainAll s.now
      (c.svc = false → f.cause ≠ 0x07 → f.cause ≠ 0x51 → e.ctlOf 0x087 ≠ 0 → e.svc = false →
        ∃ t, exec .faultDelivery s = .next t ∧ others t ∧
          (t.core n).ctlOf 0x080 =
            BitVec.ofNat 64 (f.cause + 2 ^ 8 + f.src * 2 ^ 9 + f.chan * 2 ^ 12 + f.seq % 2 ^ 16 * 2 ^ 16) ∧
          (t.core n).ctlOf 0x081 = (s.dueAt n).1 ∧ (t.core n).ctlOf 0x082 = BitVec.ofNat 64 c.scycle ∧
          (t.core n).ctlOf 0x083 = BitVec.ofNat 64 ((s.dueAt n).2 + 256 * c.seq.idx) ∧
          (c.seq.begun = true → s.dueAt n = (c.seq.pc, c.seq.rem)) ∧
          (t.core n).ctlOf 0x084 = 7 ∧ (t.core n).ctlOf 0x085 = f.det ∧ (t.core n).ctlOf 0x086 = f.cmd ∧
          (t.core n).svc = true ∧ (t.core n).seq.pc = e.ctlOf 0x087 ∧ (t.core n).regs = e.regs) ∧
      (c.svc = true → c.seq.pending.length < 16 → exec .faultDelivery s = .next (s.changesHere fun c =>
        { c with seq := { c.seq with arrivedFaults := [], pending := c.seq.pending ++ [f] } }))) ∧
    (c.seq.preempt = false → exec .preemptionStop s = .next s) ∧
    (c.seq.preempt = true → c.seq.halted = false → c.seq.run = .running → c.seq.stall = 0 → c.seq.after = none →
      c.svc = false → c.seq.safePt = true →
      ∃ t, exec .preemptionStop s = .next t ∧ others t ∧ (t.core n).seq.run = .stopped 0 ∧
        (t.core n).seq.wait = none ∧ (t.core n).seq.flight = [] ∧ (t.core n).seq.pc = d.seq.pc ∧
        (t.core n).regs = d.regs ∧ (t.core n).mem = d.mem) ∧
    (c.seq.haltReq = true → c.seq.halted = false →
      ∃ t, exec .debugStop s = .next t ∧ others t ∧ (t.core n).seq.halted = true ∧ (t.core n).seq.haltReq = false ∧
        (t.core n).seq.wait = none ∧ (t.core n).seq.pc = d.seq.pc ∧ (t.core n).regs = d.regs ∧
        (t.core n).mem = d.mem) ∧
    ((s.part c.part).dsamp = 0 → exec .traceSample s = .next s) ∧
    ((s.part c.part).dsamp ≠ 0 → (s.participants c.part).contains n = true →
      ∃ t, exec .traceSample s = .next t ∧ t.cores = s.cores ∧ (t.part c.part).sampled = s.now) ∧
    (∀ err : SoftError,
      (err.replayable = true → exec (.softError err) s = .next (s.changesHere fun c =>
        { c with seq := { c.seq with replay := some (replayCause err) } })) ∧
      (err.replayable = false → exec (.softError err) s = .next (s.changesHere fun c => c.postFault
        { cause := 0x51, det := BitVec.ofNat 64 (SoftSite.code err.site + err.index.toNat * 2 ^ 8) }))) ∧
    (∀ x, c.seq.access = some x → x.ready = false → x.due ≤ s.now →
      (x.write = true → exec .deviceAccessComplete s = .next (s.changesHere fun c =>
        { c with seq := { c.seq with access := some { x with ready := true } } })) ∧
      (x.write = false →
        let ends (v : State) (y : DevAccess) : Host.Outcome State Fault Refusal :=
          .next (v.onCore n fun c => { c with seq := { c.seq with access := some { y with ready := true } } })
        let own (bs : List Byte) : List Byte :=
          if c.own = [] then bs else ((pagePlaces x.pages).zip bs).map fun e => Tab.look e.2 c.own e.1
        (∀ bs v, s.readPages x.pages = (.inl bs, v) →
          ((∀ f, x.op ≠ .gld f) → exec .deviceAccessComplete s = ends v { x with data := bs }) ∧
          (∀ f, x.op = .gld f → exec .deviceAccessComplete s = ends v { x with data := own bs })) ∧
        (∀ d v, s.readPages x.pages = (.inr d, v) → exec .deviceAccessComplete s = ends v { x with fault := some {
          cause := 0x4D, det := BitVec.ofNat 64 d, src := 4, cmd := c.seq.pc } }))) ∧
    (let others_ (l : List (Nat × Nat)) : Prop := ∀ b, b < 16 → (c.bank b).mode = true → ∀ r, r < 4 →
        (b, r) ∉ l → (c.setOf (c.nameSet b r)).prov = none
     let restored (v : State) : State :=
        (v.onPart c.part fun x => { x with restore := x.restore.filter (· != n) }).soon c.part .resumeRestart
     (s.part c.part).restore.contains n = true →
      (others_ [] → exec .rowSetRestore s = .next (restored s)) ∧
      ∀ b r pr v, b < 16 → r < 4 → (c.bank b).mode = true → others_ [(b, r)] →
        let y := c.nameSet b r
        let set := c.setOf y
        let count := c.imageBytes y
        let unwritten : Prop := set.state = 1 ∧ pr.sheller = true ∧ count = 0
        let read := s.refilled c pr (if set.state = 1 && !pr.sheller then count else pr.nest.total)
        let crc (m : Memory) : Nat := crc32 (Memory.bytes m 0 count)
        set.prov = some pr → set.state ≠ 0 →
        (¬ unwritten →
          (∀ image, read = (some (some image), v) →
            (crc image = crc set.image → exec .rowSetRestore s = .next (restored (v.onCore n fun c =>
              c.onSet y fun r => { r with image := image }))) ∧
            (crc image ≠ crc set.image → exec .rowSetRestore s = .next (restored (v.onCore n fun c => c.restoreFails y)))) ∧
          (read = (some none, v) →
            exec .rowSetRestore s = .next (restored (v.onCore n fun c => c.restoreFails y))) ∧
          (read = (none, v) → exec .rowSetRestore s = .next { s with units := v.units })) ∧
        (∀ ch m, unwritten → c.fillOf y = some (ch, m) → exec .rowSetRestore s = .next (restored (s.onCore n fun c =>
          (c.onCopy ch m.id fun m => { m with moved := 0, buf := none, ahead := [] }).onFill m.id fun f => { f with
            start := f.start.map fun _ => s.now })))) ∧
    (∀ (d : Core) (bank rs : Nat),
      let y := d.nameSet bank rs
      let e := d.restoreFails y
      let det := BitVec.ofNat 64 (bank + rs * 16)
      let reports (f : FaultRec) : Prop := e.seq = { d.seq with arrivedFaults := d.seq.arrivedFaults ++ [f] }
      (e.setOf y).state = 0 ∧ e.regs = d.regs ∧ e.mem = d.mem ∧ e.ctl = d.ctl ∧
      ((∀ f ∈ d.eng.fills, f.set ≠ y) → reports { cause := 0x44, det := det, src := 1 }) ∧
      (∀ f ch m, (d.eng.fills.find? fun f => f.set == y) = some f → f.chan = some ch → d.copyCmd ch f.id = some m →
        m.status = none →
        reports { cause := 0x44, det := det, src := 2, chan := ch, seq := m.seq, cmd := m.bundle } ∧
        (∀ g ∈ e.eng.fills, g.id ≠ f.id) ∧ e.copyCmd ch f.id = some { m with status := some 3 }))

/-! Events of the M engine, the accumulator, the carry engine and the seed generator. -/

/-- The M engine at work (R263, R240, R253, R255, R285, R264, R280, R266). `m` is the command that the focus numbers. A
command that may start does, one that may not leaves the machine as it is; a mode switch retires the banks of before; a
token takes its scales from the front of q8; a token whose addends have arrived is accumulated; a row set whose image
and scales are there becomes FULL; a carried operation follows its copy.
CPFOLLOW_HANDOVER (R266): the carried operation waits for its copy; it is dropped when the copy faulted; else it is
checked as its issue would be and takes its place in the engine's order, or faults.
Clauses here rest on choices of the model: logs 5, 38 and 41. -/
def Obligations.EngineCommandsAndCarriedOperations : Prop :=
  (∀ (s : State) (m : MCmd), s.onACore →
     let n := s.focus.core
     let id := s.focus.idx
     let c := s.hereCore
     c.mCmd id = some m →
       ((m.begun = true ∨ c.canStart m = false) → exec .mCommandStart s = .next s) ∧
       (m.begun = false → c.canStart m = true →
         (∀ p, m.work = .pass p → p.remote = none →
           ∃ t x y, exec .mCommandStart s = .next t ∧ (t.core n).livePass id = some (x, y) ∧ y.at_ = s.now + 2 ∧
             y.next = p.next ∧ y.jobs = p.jobs ∧ (t.core n).regs = c.regs ∧ (t.core n).mem = c.mem ∧
             (t.core n).q = c.q ∧ t.dev = s.dev ∧ t.msgs = s.msgs) ∧
         (∀ b w a k, m.work = .bprec b w a k → exec .mCommandStart s = .next (s.changesHere fun c =>
           (c.onSet b fun r => { r with wfmt := w, afmt := a, planes := k }).endM id)) ∧
         (∀ mask, m.work = .bmode mask → exec .mCommandStart s = .next (s.changesHere fun c =>
           c.onM id fun x => { x with begun := true, due := some (s.now + 1) })) ∧
         (∀ l bank row grp d, m.work = .drain l bank row grp d →
           ∃ t, exec .mCommandStart s = .next t ∧ t.cores = (s.changesHere fun c =>
               c.onM id fun x => { x with begun := true }).cores ∧
             ∃ x, t.msgs = s.msgs ++ [x] ∧ x.src = n ∧ x.body = .drain id bank row grp ∧
               x.dst = (s.physOf c l).getD n)) ∧
       (∀ mask d, m.work = .bmode mask → m.due = some d →
         (s.now < d → exec .bmodeSwitch s = .next s) ∧
         (d ≤ s.now → exec .bmodeSwitch s = .next (s.changesHere fun c => ({ c with eng := { c.eng with
           retired := c.eng.retired.filter fun r => r.upto != id } } : Core).endM id))) ∧
       (∀ p bs, m.begun = true → m.work = .pass p → p.remote = none → p.bytes = some bs → p.at_ ≤ s.now →
         p.next < p.count → c.scaleTurn id = true →
         let k := tokenBlocks p.storage
         let job (v : List Nat) : TokenJob := { due := s.now + p.planes - 1 + 14, tok := p.next, bytes := bs, scales := v }
         k ≤ (c.scaleQ 8).length → frameBad (((c.scaleQ 8).take k).map (·.2)) = false →
         ∃ t x y, exec .passToken s = .next t ∧ (t.core n).scaleQ 8 = (c.scaleQ 8).drop k ∧
           (t.core n).livePass id = some (x, y) ∧ y.next = p.next + 1 ∧
           y.jobs = p.jobs ++ [job (((c.scaleQ 8).take k).map fun u => u.1.toNat)] ∧ (t.core n).regs = c.regs) ∧
       (∀ p job rest, m.begun = true → m.work = .pass p → p.jobs = job :: rest →
         (s.now < job.due → exec .accumulate s = .next (s.changesHere fun c => c)) ∧
         (job.due ≤ s.now → (rest ≠ [] ∨ p.next < p.count) → exec .accumulate s = .next (s.changesHere fun c =>
           (c.applyToken s.now m p job).setPass id { p with jobs := rest })) ∧
         (job.due ≤ s.now → rest = [] → p.count ≤ p.next → exec .accumulate s = .next (s.changesHere fun c =>
           ((c.applyToken s.now m p job).setPass id { p with jobs := [] }).onM id fun m =>
             { m with due := some (job.due + 2) }))) ∧
       (∀ b d, m.work = .bzero b → m.due = some d → (c.eng.fills.find? fun f => f.id == id) = none →
         (s.now < d → exec .rowSetFull s = .next (s.changesHere fun c => c)) ∧
         (d ≤ s.now → exec .rowSetFull s = .next (s.changesHere fun c => (c.onSet b fun r =>
           let emptied := c.eng.mq.any fun m => decide (id < m.id) && (match m.work with
             | .bclr x _ => x == b
             | _ => false)
           let state := if r.state = 1 then 1 else if emptied then 0 else 2
           { r with image := [], scales := [], tag := 0, prov := if r.state = 1 then r.prov else none
                    state := state }).endM id))) ∧
       (∀ f t₀, (c.eng.fills.find? fun f => f.id == id) = some f → f.start = some t₀ → t₀ < s.now → m.due = none →
         f.chan = none → f.rows = 64 → f.full = true → f.taken = f.cols * f.blocks →
         (c.bank f.set.bank).gen = f.set.gen →
         ∃ t, exec .rowSetFull s = .next t ∧
           (t.core n).setOf f.set = { c.setOf f.set with state := 2, tag := f.tag, prov := none } ∧
           (t.core n).mCmd id = none ∧ (t.core n).regs = c.regs ∧ (t.core n).mem = c.mem)) ∧
  (∀ (s : State) (f : Follow), s.onACore →
     let n := s.focus.core
     let i := s.focus.idx
     let c := s.hereCore
     let gone : Core := { c with eng := { c.eng with follows := c.eng.follows.eraseIdx i } }
     let faults (x : Nat × Nat) : Core := gone.postFault {
       cause := x.1, det := BitVec.ofNat 64 x.2, src := 2, chan := f.chan, seq := f.seq, cmd := f.cmdBundle }
     let becomes (d : Core) : Host.Outcome State Fault Refusal := .next (s.changesHere fun _ => d)
     c.eng.follows[i]? = some f →
       (c.followed f = .waits → exec .cpfollowHandover s = .next s) ∧
       (c.followed f = .lost → exec .cpfollowHandover s = becomes gone) ∧
       (∀ g : MF, c.followed f = .landed → c.eng.mq.length < s.params.mdepth →
         (f.op = .bplane g → c.bplaneTrap g = none →
           exec .cpfollowHandover s = becomes (gone.setActive g.bk.toNat g.rs.toNat)) ∧
         (∀ x, f.op = .bplane g → c.bplaneTrap g = some x → exec .cpfollowHandover s = becomes (faults x)) ∧
         (∀ onto x, f.op = (if onto then .bacc g else .brun g) →
           s.passPlan c { core := n, slot := 3, now := s.now } onto g f.a f.b = .inl x →
           exec .cpfollowHandover s = becomes (faults x)) ∧
         (∀ onto p rows, f.op = (if onto then .bacc g else .brun g) →
           s.passPlan c { core := n, slot := 3, now := s.now } onto g f.a f.b = .inr (p, rows) →
           c.eng.sb.length < 16 → c.seq.fenced.contains f.id = false →
           exec .cpfollowHandover s = becomes ((gone.mPush s.now f.bundle f.scyc (some (f.chan, f.seq, f.cmdBundle))
             (.pass p) (p.uses rows) p.extent none).lowerH rows))))

/-- One cycle of a window's updates (R303, R314, R315): a first part of the merged pairs, in order, each word becoming
op of what it holds and the value; the rest is left for later cycles, and no register changes.
Remote drains, carries and draws (R284, R292, R298, R314 to R317, R321, R233). `m` is the message that the focus
numbers.
Clauses here rest on choices of the model: logs 4 and 63. -/
def Obligations.CarriesDrainsAndDrawsComplete : Prop :=
  (∀ (c e : Core) (now req id op addr k : Nat) (l left : List (Nat × Nat)) (nan : Bool),
     c.carryCycle now req id op addr l = .made e k left nan →
       left = l.drop k ∧ e.regs = c.regs ∧ e.seq = c.seq ∧ (l ≠ [] → 0 < k) ∧
       (c.eng.retired = [] → e.mem = (l.take k).foldl (fun m p =>
         m.write (addr + 4 * p.1) (leBytes 4 (carryOp op (leNat (m.bytes (addr + 4 * p.1) 4)) p.2))) c.mem)) ∧
  (∀ (s : State) (m : Msg), s.onACore →
     let n := s.focus.core
     let no := s.focus.idx
     let c := s.hereCore
     (s.msg no = some m → ∀ cmd bank row grp, m.body = .drain cmd bank row grp →
       let h := s.core m.dst
       (h.allocated bank = true → h.bandOpen bank row grp = true → s.isMember h grp (s.core m.src).lcore = true →
         ∃ t x, exec .remoteDrain s = .next t ∧ t.cores = s.cores ∧ t.dev = s.dev ∧
           t.msgs = (s.msgs.filter fun y => y.no != no) ++ [x] ∧ x.src = m.dst ∧ x.dst = m.src ∧
           x.body = .image cmd ((h.accRow bank row).image (h.accRow bank row).h)) ∧
       (h.allocated bank = false → exec .remoteDrain s = .next ((s.dropMsg no).onCore m.src fun c =>
         c.refuseM cmd 0x13 bank))) ∧
     (s.msg no = some m → ∀ cmd row x l b r g, m.body = .image cmd row →
       (s.core m.dst).mCmd cmd = some x → x.work = .drain l b r g none →
       exec .remoteRowImage s = .next ((s.dropMsg no).onCore m.dst fun c =>
         (c.setImage cmd (max s.now (x.at_ + 8)) row).endM cmd)) ∧
     (s.msg no = some m → s.windowTurn m = true → m.src ≠ m.dst →
       ∀ cmd a len op grp pairs, m.body = .carry cmd a len op grp pairs →
       let h := s.core m.dst
       let refused (p : Nat × Nat) : Option (Nat × Nat) :=
         s.refusal h 1 0x48 grp (a + 4 * p.1) 4 (s.core m.src).lcore
       (∀ y, pairs.findSome? refused = some y → ∃ t, exec .remoteCarry s = .next t ∧
         t.msgs = s.msgs.filter (fun y => y.no != no) ∧ (t.core m.dst).mem = h.mem ∧
         t.core m.src = (s.core m.src).carryRefused cmd y.1 y.2) ∧
       (∀ e k left nan, pairs.findSome? refused = none →
         h.carryCycle s.now 18 h.eng.nextId op a pairs = .made e k left nan →
         ∃ t, exec .remoteCarry s = .next t ∧ (t.core m.dst).mem = e.mem ∧ (t.core m.dst).regs = h.regs ∧
           (left = [] → t.msgs = s.msgs.filter (fun y => y.no != no) ∧ (t.core m.dst).eng.carry.remote = none ∧
             t.core m.src = ((s.core m.src).carryCounted k nan).carryAnswered cmd) ∧
           (left ≠ [] → (t.core m.dst).eng.carry.remote = some no ∧
             t.msg no = some { m with body := .carry cmd a len op grp left } ∧
             t.core m.src = (s.core m.src).carryCounted k nan))) ∧
     (∀ k rest, c.eng.carry.queue = k :: rest → c.eng.carry.remote = none → c.heldIn 2 = false →
       k.at_ ≤ s.now → c.sbClear k.id = true → k.failed = false →
       let runs (d : Core) (a total : Nat) (l : List (Nat × Nat)) : Prop :=
         exec .carryWindow s = .next (s.changesHere fun _ => d.localWindow s.now k a total l)
       (∀ a v, k.kind = .word a v → runs c a 1 (k.left.getD [(0, v.toNat)])) ∧
       (∀ a len total l, k.kind = .table a len total → k.left = some l → runs c a total l) ∧
       (∀ a len total l, k.kind = .table a len total → k.left = none → c.windowPairs = some l →
         ((∀ p ∈ l, p.1 = 0xFFFFFFFF ∨ p.1 < len) →
           runs (c.dropWindow.setCarry { c.eng.carry with
             merged := min (c.eng.carry.merged + (mergePairs k.op l).2) 65535 }) a total (mergePairs k.op l).1) ∧
         (∀ p, l.find? (fun p => p.1 != 0xFFFFFFFF && decide (len ≤ p.1)) = some p →
           exec .carryWindow s = .next (s.changesHere fun c => c.dropWindow.carryFault k 0x49 p.1))) ∧
       (k.kind = .status →
         let x := c.eng.carry
         let v := x.applied + x.merged * 2 ^ 32 + (if x.fault then 2 ^ 48 else 0) + (if x.nan then 2 ^ 49 else 0)
         exec .carrystRecord s = .next (s.changesHere fun c =>
           (c.setCarry { queue := rest }).post 2 (BitVec.ofNat 64 v)))) ∧
     (∀ (l : List (Nat × Nat)) (a total : Nat) (k : CarryCmd) (rest : List CarryCmd), c.eng.carry.queue = k :: rest →
       let d := c.localWindow s.now k a total l
       ∀ e j left nan, c.carryCycle s.now 16 k.id k.op a l = .made e j left nan →
         d.mem = e.mem ∧ d.regs = c.regs ∧
         d.eng.carry.applied = min (c.eng.carry.applied + j) (2 ^ 32 - 1) ∧
         d.eng.carry.nan = (c.eng.carry.nan || nan) ∧
         (left = [] → k.done + 1 = total → d.eng.carry.queue = rest.filter fun y => y.id != k.id) ∧
         (left ≠ [] → d.eng.carry.queue.head? = some { k with left := some left }) ∧
         (left = [] → k.done + 1 ≠ total →
           d.eng.carry.queue.head? = some { k with left := none, done := k.done + 1, at_ := s.now + 1 })) ∧
     (c.seedReady = false → exec .seedWord s = .next (s.changesHere fun c => c)) ∧
     (c.seedReady = true → c.q.need = 0 →
       let w := Seed.draws 32 c.seed
       ∃ t, exec .seedWord s = .next t ∧ (t.core n).q.draws = c.q.draws ++ w.1 ∧ (t.core n).q.aside = c.q.aside ∧
         (t.core n).seed = w.2 ∧ (t.core n).regs = c.regs ∧ (t.core n).mem = c.mem))

/-! Events of the copy channels, of what travels between cores, and of the units of the stacks. -/

/-- A copy channel at work (R310, R323, R326, R331 to R333, R344, R345, R348, R353). `m` is the command at the front of
the channel in the focus. It starts once its scoreboard entry and its fences let it and its probe, where it needs one,
has passed; a piece that is there is written and one that is wanted is read, each through its port; a finished command
leaves, and posts its record to q10 when it has `.note`; a result record enters its queue once it has room; markers
leave in their turn. A channel whose record a full queue does not take waits (R221); the last write of a command follows
its release (R334, R369), and an acquire at partition or system scope waits for what the box link had brought (R370).
Clauses here rest on choices of the model: logs 4, 5, 14, 71 and 83. -/
def Obligations.CopiesStartMoveAndComplete : Prop :=
  ∀ (s : State) (m : CopyCmd) (rest : List CopyCmd), s.onACore →
    let n := s.focus.core
    let ch := s.focus.idx
    let c := s.hereCore
    let x := c.chan ch
    let p := m.dstPiece
    let q := m.srcPiece
    let readPorts := c.enginePorts s.now (8 + ch) (if m.nest.skind = 0 then portsOf q.at_.toNat q.len false else [])
    let writePorts (c : Core) : Bool × Core :=
      c.enginePorts s.now (8 + ch) (if m.localDst then portsOf p.at_.toNat p.len true else [])
    let behind := x.queue.filter fun y => y.id != m.id
    let stays := if m.hostMarks = [] then behind else behind.map (fun y => { y with stale := y.usesDevice })
    let left (d : Core) : Core := (d.setChan ch { x with queue := stays }).sbDrop m.id
    let note (tag : Nat) : Word := BitVec.ofNat 64 (ch + m.code * 2 ^ 3 + m.status.getD 0 * 2 ^ 10 + tag * 2 ^ 16 +
      m.seq % 2 ^ 16 * 2 ^ 32 + m.pidx * 2 ^ 48)
    let leaves (tag : Nat) (d : Core) : Core := if m.note then (left d).post 10 (note tag) else left d
    let free : Prop := c.chanWaits ch = false
    let may : Prop := free ∧ m.status = none ∧ m.started = true ∧ m.stale = false ∧ m.at_ ≤ s.now ∧ m.scq = [] ∧
      m.scalesTurn = false ∧ m.moved < m.nest.total ∧ (c.eng.fills.find? fun f => f.id == m.id) = none ∧
      c.eng.retired = [] ∧ 0 < p.len
    let mayWrite : Prop := m.moved + p.len < m.nest.total ∨ c.lastHeld m = false
    let ready : Prop := may ∧ m.wanted ≤ m.ahead.length ∧ (writePorts c).1 = true ∧ mayWrite
    let bytes : List Byte := if m.kind = .fill then fillBytes m.value p.at_ p.len else m.ahead.take p.len
    let open_ (a : Int) (len : Nat) : Prop := c.engineFault m.id a.toNat len (8 + ch) = none
    let moves (mem : Memory) : Prop := ∃ t y, exec .copyTransfer s = .next t ∧ (t.core n).mem = mem ∧
      (t.core n).copyCmd ch m.id = some y ∧ y.moved = m.moved + p.len ∧ (t.core n).regs = c.regs
    x.queue = m :: rest →
      (ch < 8 → m.status = none → m.stale = false →
        (m.started = true ∨ c.sbClear m.id = false ∨ c.copyHeld ch m = true) →
        exec .copyCommandStart s = .next s) ∧
      (ch < 8 → m.status = none → m.stale = false → m.started = false → c.sbClear m.id = true →
        c.copyHeld ch m = false → free → (s.acquireWaits c m = true →
          exec .copyCommandStart s = .next (s.beginAcquire n ch m.id)) ∧
        (s.acquireWaits c m = false → m.fills = none → exec .copyCommandStart s = .next (s.changesHere fun c => c.onCopy ch m.id fun m =>
          { m with started := true, since := s.now, safe := s.now
                   at_ := s.now + (if m.usesDevice then s.params.mem else 1) }))) ∧
      (∀ v, ch < 8 → m.status = none → m.stale = true → m.started = true → free →
        (s.probeAgain n ch m = (.wait false, v) → exec .copyCommandStart s = .next v) ∧
        (s.probeAgain n ch m = (.wait true, v) → (v.part c.part).inval.isSome = true →
          exec .copyCommandStart s = .next (v.onCore n fun c => c.releaseMarks ch)) ∧
        (∀ a b, s.probeAgain n ch m = (.stop a b, v) →
          exec .copyCommandStart s = .next (v.onCore n fun c => c.stopHead ch m.id a b)) ∧
        (s.probeAgain n ch m = (.ok (), v) → exec .copyCommandStart s = .next v)) ∧
      (ready → (m.kind = .fill ∨ m.kind = .go) → m.nest.dkind = 0 → open_ p.at_ bytes.length →
        p.len ≤ bytes.length → moves (c.mem.write p.at_.toNat bytes)) ∧
      (∀ page v, ready → (m.kind = .fill ∨ m.kind = .go) → m.nest.dkind = 1 → m.nest.fmt = 0 →
        (s.setCore n (writePorts c).2).cmdWrite n m.dc m.dpages p.at_ bytes = (.ok page, v) →
        ∃ t, exec .copyTransfer s = .next t ∧ t.dev = v.dev ∧ t.host0 = v.host0 ∧ t.host1 = v.host1 ∧
          (t.core n).mem = c.mem ∧ (t.core n).regs = c.regs) ∧
      (may → mayWrite → m.kind = .go → m.nest.skind = 0 → m.nest.dkind = 0 → m.ahead = [] → 0 < q.len → m.wanted ≤ q.len →
        readPorts.1 = true → open_ q.at_ q.len → open_ p.at_ p.len →
        (writePorts ((readPorts.2.onCopy ch m.id fun m => m.take (c.mem.bytes q.at_.toNat q.len) [] []).stepCopy
          s.now ch m.id)).1 = true →
        p.len ≤ q.len → moves (c.mem.write p.at_.toNat (c.mem.bytes q.at_.toNat p.len))) ∧
      (may → (m.kind = .go ∨ m.kind = .mcast ∨ m.kind = .shell) → m.nest.skind ≤ 1 → m.ahead.length + q.len < m.wanted →
        (m.kind = .mcast → c.castTurn m.id = true) → readPorts.1 = true →
        (m.nest.skind = 0 → open_ q.at_ q.len → ∃ t y, exec .copyTransfer s = .next t ∧ (t.core n).mem = c.mem ∧
          (t.core n).copyCmd ch m.id = some y ∧ y.ahead = m.ahead ++ c.mem.bytes q.at_.toNat q.len ∧
          y.moved = m.moved) ∧
        (∀ bs page v, m.nest.skind = 1 → m.nest.fmt = 0 → bs.length = q.len →
          (s.setCore n readPorts.2).cmdRead n m.sc m.spages q.at_ q.len = (.ok (bs, page), v) →
          ∃ t y, exec .copyTransfer s = .next t ∧ (t.core n).mem = c.mem ∧ t.dev = v.dev ∧
            (t.core n).copyCmd ch m.id = some y ∧ y.ahead = m.ahead ++ bs ∧ y.moved = m.moved)) ∧
      (free → m.status = none → c.copyDone m = true → (∀ k, m.kind ≠ .mark k) →
        exec .commandComplete s = .next (s.changesHere (leaves 0))) ∧
      (free → m.status = some 3 → (∀ op, m.kind ≠ .accOne op) → (∀ k, m.kind ≠ .mark k) →
        exec .commandComplete s = .next (s.changesHere (leaves 0))) ∧
      (∀ tag, free → m.status = none → m.kind = .mark tag → exec .markerRecord s = .next (s.changesHere (leaves tag))) ∧
      (free → m.status = none → m.kind = .inv → exec .translationMarker s = .next ((s.changesHere fun c =>
        let d := leaves 0 c
        let y := d.chan ch
        let kept := y.queue.length - behindMarks y.queue
        d.setChan ch { y with queue := y.queue.mapIdx fun i z => if i < kept then z else
          { z with stale := z.usesDevice } }).onUnit (podOf n) fun u =>
            { u.forgetWalks c.part with cache := u.cache.filter fun e => e.1 != c.part })) ∧
      (∀ r, (c.queue ch).length < queueDepth ch → let keep (d : Core) : Core := { d with eng := { d.eng with results := Tab.store d.eng.results ch r } }
        (∀ id k v, Tab.look [] c.eng.results ch = .value id k (some v) :: r →
          exec .resultRecord s = .next (s.changesHere fun c => (keep c).post ch v)) ∧
        (∀ id mask, Tab.look [] c.eng.results ch = .wait id mask :: r → c.openBefore mask id = false →
          (∀ k, k < 8 → mask.testBit k = true → ∀ i ∈ (c.chan k).faults, id ≤ i) →
          exec .resultRecord s = .next (s.changesHere fun c => (keep c).post ch (BitVec.ofNat 64 mask))))

/-- What travels between cores (R276, R303, R340, R347). `x` is the message that the focus numbers: a holder that does
not refuse a peer read or a remote operand reads the bytes, a row a cycle, and returns them; a receive region takes the
bytes of a multicast, a row a cycle, and q11 its word; the sender's command counts the delivery. A read that reaches
private memory is refused (R302, R340).
Clauses here rest on choices of the model: logs 4, 39, 63 and 75. -/
def Obligations.PeersAnswerAndTakeDeliveries : Prop :=
  ∀ (s : State) (x : Msg),
    let no := s.focus.idx
    let h := s.core x.dst
    let from_ := s.core x.src
    let gone (t : State) : Prop := t.msgs = s.msgs.filter (fun m => m.no != no) ∧ t.dev = s.dev
    let stays (t : State) (b : MsgBody) : Prop := t.msg no = some { x with body := b } ∧ t.core x.src = from_
    let served (a : Int) (k : Nat) (write : Bool) : Prop :=
      (h.enginePorts s.now 18 (portsOf a.toNat k write)).1 = true
    (∀ grp a n l, 0x100000 < a + n → h.computeBank a n = none →
      s.refusal h 0 0x46 grp a n l = some (0x46, h.lcore + a % 2 ^ 24 * 2 ^ 8)) ∧
    (s.msg no = some x → x.src ≠ x.dst →
      (∀ cmd ch a n grp, x.body = .peerRead cmd ch a n grp →
        (∀ y, s.refusal h 0 0x46 grp a n from_.lcore = some y →
          exec .peerReadRequest s = .next ((s.dropMsg no).onCore x.src fun c => c.stopCopy ch cmd y.1 y.2)) ∧
        (s.refusal h 0 0x46 grp a n from_.lcore = none → served a n false →
          ∃ t, exec .peerReadRequest s = .next t ∧ gone t ∧ t.core x.src = from_.onCopy ch cmd fun m =>
            { m with ahead := m.ahead ++ h.mem.bytes a.toNat n, open_ := 0, at_ := s.now + s.travel x.dst x.src })) ∧
      (∀ cmd a n grp tag got m p, x.body = .operand cmd a n grp tag got →
        (got = [] → s.refusal h 0 0x46 grp a n from_.lcore = none ∧ h.tagTrap a.toNat n tag = none) →
        let k := rowPart a n
        served a k false → from_.livePass cmd = some (m, p) →
        ∃ t, exec .peerReadRequest s = .next t ∧
          (k < n → stays t (.operand cmd (a + k) (n - k) grp tag (got ++ h.mem.bytes a.toNat k))) ∧
          (n ≤ k → gone t ∧ t.core x.src = from_.setPass cmd { p with
            bytes := some (got ++ h.mem.bytes a.toNat k), at_ := max p.at_ (s.now + s.travel x.dst x.src) })) ∧
      (∀ cmd ch a bs tag grp, x.body = .data cmd ch a bs tag grp → s.behind x = false →
        (∀ y, s.refusal h 2 0x47 grp a bs.length from_.lcore = some y →
          exec .delivery s = .next ((s.dropMsg no).onCore x.src fun c => c.stopCopy ch cmd y.1 y.2)) ∧
        (let k := rowPart a bs.length
         s.refusal h 2 0x47 grp a bs.length from_.lcore = none → served a k true →
          ∃ t, exec .delivery s = .next t ∧ (t.core x.dst).mem = h.mem.write a.toNat (bs.take k) ∧
            (t.core x.dst).regs = h.regs ∧
            (k < bs.length → stays t (.data cmd ch (a + k) (bs.drop k) tag grp)) ∧
            (bs.length ≤ k → gone t ∧ t.core x.src = from_.onCopy ch cmd fun m => { m with open_ := m.open_ - 1 }))) ∧
      (∀ cmd ch v, x.body = .word cmd ch v → (h.queue 11).length < 8 → s.behind x = false →
        ∃ t, exec .delivery s = .next t ∧ gone t ∧ t.core x.dst = h.setQueue 11 (h.queue 11 ++ [v]) ∧
          t.core x.src = from_.onCopy ch cmd fun m => { m with open_ := m.open_ - 1 }))

/-- The units of the stacks (R350, R357, R377, R398, R404, R405, R407 to R411). `m` is the started command at the front
of the channel in the focus. An atomic replaces the word it reads and returns the old one; a row copy moves 4 KiB, a
zero fill clears them; a lookup's reduced row leaves for its core; a collective folds or gathers its members' blocks;
an item that overruns the watchdog's bound, counted from each request by itself, is reset. The last item of a command
begins once its release has ended (R334, R369); until then its unit is at its safe point.
Clauses here rest on choices of the model: logs 4, 5, 14 and 83. -/
def Obligations.StackUnitsActOnMemory : Prop :=
  ∀ (s : State) (m : CopyCmd), s.onACore →
    let n := s.focus.core
    let ch := s.focus.idx
    let c := s.hereCore
    let rowed (t u : State) : Prop := t.core n = (u.core n).itemDone s.now ch m.id fun y =>
      { y with units := y.units + 1, at_ := y.at_ + s.params.row }
    let mayEnd : Prop := m.units + 1 < m.n ∨ c.lastHeld m = false
    (c.unitHead s.now ch = some m →
      (∀ op, m.kind = .accOne op → m.units = 0 → c.lastHeld m = true →
        exec .atomic s = .next (s.changesHere fun c => c.itemIdle s.now ch m.id)) ∧
      (∀ op page bs u v, m.kind = .accOne op → m.units = 0 → c.lastHeld m = false →
        let a := m.dc.base.toNat + m.dst.toNat
        s.cmdPage n m.dpages a true = (.page page, u) →
        u.devRead (page.at a) (accWidth op) page.cache = (.inl bs, v) →
        let new := accumulateOp op (leNat bs) (m.value.toNat % 2 ^ (8 * accWidth op))
        exec .atomic s = .next ((v.devWrite (page.at a) (leBytes (accWidth op) new) page.mx page.cache).onCore n fun c =>
          (c.itemDone s.now ch m.id fun m => { m with units := 1 }).setResult m.id (BitVec.ofNat 64 (leNat bs)))) ∧
      (∀ p q a b u v, m.kind = .rowCopy → m.units < m.n → mayEnd →
        s.rowAt n m m.sc m.spages m.src false = (.page p, a, u) →
        u.rowAt n m m.dc m.dpages m.dst true = (.page q, b, v) →
        (sameSubarray a b = true →
          ∃ t, exec .rowCopy s = .next t ∧ t.dev = v.dev.write b (v.dev.bytes a 4096) ∧ rowed t v) ∧
        (∀ w, sameSubarray a b = false → (v.rowLines (some a) b).copyThroughBuffer a b = (none, w) →
          ∃ t, exec .rowCopy s = .next t ∧ t.dev = w.dev ∧ w.dev = v.dev.write b (v.dev.bytes a 4096) ∧ rowed t w)) ∧
      (∀ q b v, m.kind = .rowZero → m.units < m.n → mayEnd → s.rowAt n m m.dc m.dpages m.dst true = (.page q, b, v) →
        ∃ t, exec .zeroFill s = .next t ∧ t.dev = v.dev.clear b 4096 ∧ rowed t v) ∧
      (m.kind = .walk → m.units < m.n → mayEnd → s.walkTurn n ch m.since = true →
        let a := m.src.toNat + 64 * m.units
        let g := c.enginePorts s.now (8 + ch) (portsOf a 64 false)
        let x := leNat (g.2.engineBytes m.id a 64)
        let r := readLookup x
        let u := s.setCore n g.2
        g.1 = true → g.2.engineFault m.id a 64 (8 + ch) = none →
        (∀ e, u.lookupErr g.2 m x r = some e → exec .lookupRecord s = .next (u.walkFault n ch m e)) ∧
        (∀ y v, u.lookupErr g.2 m x r = none → r.nidx = 1 → u.lookupRow n m r 0 = (.inl y, v) →
          exec .lookupRecord s = .next (v.deliverRecord n ch m r (r.result [y])))) ∧
      (∀ u, m.kind = .coll → m.units = 0 →
        let found := s.collMembers c m.grp m.n
        let ms := found.map (·.1)
        let here := ms.filterMap (·.here)
        (∀ y ∈ found, y.2 = true) → (∀ y ∈ here, s.collReady y.1 y.2.1 y.2.2 = true) →
        (s.part c.part).farBoundary = 0 →
        (∀ x ∈ ms, ∀ b, s.physOf c x.lcore = none → s.farBlock c.part m.grp m.n c.starts x.lcore = some b →
          b.plan = some m.plan.shape) →
        (∀ y ∈ here, y.2.2.plan.kind = m.plan.kind ∧ y.2.2.plan.type = m.plan.type ∧
          y.2.2.plan.op = m.plan.op ∧ y.2.2.plan.count = m.plan.count) →
        s.collGather c.part m.grp m.n c.starts ms = (true, u) →
        (∀ y ∈ here, ∃ z, (u.core y.1).copyCmd y.2.1 y.2.2.id = some z ∧ z.status = none) →
        exec .collective s = .next (u.collDeliver c.part m.grp m.n c.starts ms))) ∧
    (∀ (p : Plan) (srcs : List (List Byte)) (j i : Nat),
      (p.kind = 1 → p.received srcs j = srcs.flatten) ∧
      (p.kind = 0 → ety p.type = .i32 → p.op = 0 → i < p.count →
        (p.elems (p.received srcs j)).getD i 0 = (srcs.map fun b => (p.elems b).getD i 0).sum % 2 ^ 32)) ∧
    (∀ k, c.unitCmd ch = some m → m.unitStack n = some k →
      let x := s.part c.part
      let asked (at_ : Nat) : Prop := (∃ i, x.inval = some i ∧ i.at_ = at_) ∨ x.preemptAt = some at_
      let late (at_ : Nat) : Prop := at_ + (s.stack k).cycles ≤ s.now ∧ m.safe ≤ at_
      (((∀ at_, asked at_ → ¬ late at_) ∨ s.holdsItem n ch m = false) → exec .watchdogReset s = .next s) ∧
      (∀ at_, asked at_ → late at_ → s.holdsItem n ch m = true →
        ∃ t y, exec .watchdogReset s = .next t ∧ (t.core n).copyCmd ch m.id = some y ∧ y.status = some 2 ∧
          (t.stack k).sum.testBit 5 = true ∧
          (x.inval.isSome = true → (t.part c.part).invAborts = (x.invAborts + 1) % 2 ^ 16)))

/-! Events of partitions, of the reckoner and of translation. `p` is the partition that the focus numbers. -/

/-- The start, the restart and the boundary of a phase (R49, R52, R55, R420, R422, R425, R464). A ready phase whose
balance covers an allowed grade starts in the first such grade, once the translations of its first lines are there:
the balance pays its energy, and every participating core begins its segment's first bundle with SCYC 0; else the
partition waits. A phase restarted from its records goes on
where it stopped. A boundary reconciles the balance, ends every export, and makes the next phase ready or ends the
timetable; in a two-box partition each module tells the other that its cores are at PHASE, then that it has reached the
boundary, once, and waits for the other (R380).
Clauses here rest on choices of the model: logs 3, 5, 9, 22, 52 and 76. -/
def Obligations.PhasesStartRestartAndEnd : Prop :=
  ∀ (s : State) (t : Timetable), s.focus.idx < 40 →
    let p := s.focus.idx
    let x := s.part p
    let cores := s.participants p
    let same (u : State) (l : List Nat) : Prop := ∀ n, n ∉ l → u.core n = s.core n
    x.tt = some t →
      (x.ready = none → exec .phaseStart s = .next s ∧ exec .resumeRestart s = .next s) ∧
      (∀ r g, x.ready = some r → x.state = 2 → x.restore = [] →
        let ph := t.phases.getD r.idx {}
        let e := ph.energyOf g
        let run (elapsed : Nat) : PhaseRun := { idx := r.idx, grade := g, started := s.now - elapsed, energy := e }
        (coveredGrade x ph r = none → r.resume = none →
          exec .phaseStart s = .next (s.onPart p fun x => { x with waiting := true })) ∧
        (coveredGrade x ph r = some g → r.resume = none → s.startWaits p g = true → exec .phaseStart s = .next s) ∧
        (coveredGrade x ph r = some g → r.resume = none → s.startWaits p g = false →
          ∃ u, exec .phaseStart s = .next u ∧ (u.part p).run = some (run 0) ∧ (u.part p).ready = none ∧
            (u.part p).bal = x.bal - e ∧ (u.part p).starts = (x.starts + 1) % 2 ^ 32 ∧
            (u.part p).pidx = r.idx ∧ u.dev = s.dev ∧ same u (u.participants p) ∧
            ∀ n ∈ u.participants p, (u.core n).seq.run = .running ∧ (u.core n).scycle = 0 ∧
              (u.core n).seq.pc = BitVec.ofNat 64 (t.entryAt r.idx g (s.core n).lcore) ∧
              (u.core n).seq.arrive = .branch ∧ (u.core n).regs = (s.core n).regs ∧
              (u.core n).mem = (s.core n).mem) ∧
        (∀ k, coveredGrade x ph r = some g → r.resume = some k → k ≠ 1 →
          ∃ u, exec .resumeRestart s = .next u ∧
            (u.part p).run = some (run ((x.savedRun.map (·.started)).getD 0)) ∧ (u.part p).ready = none ∧
            (u.part p).bal = x.bal - e ∧ (u.part p).starts = x.starts ∧ u.dev = s.dev ∧
            ∀ n ∈ u.participants p,
              (u.core n).seq.run = (if (s.core n).seq.ended then .atPhase else .running) ∧
              (u.core n).seq.pc = (s.core n).seq.pc ∧ (u.core n).seq.preempt = false ∧
              (u.core n).regs = (s.core n).regs ∧ (u.core n).mem = (s.core n).mem)) ∧
      (∀ r, x.run = some r →
        let told : Prop := t.twobox = false ∨ x.phasedSent = true ∨ s.phasedHere p = false
        let tells (u : Partition) (n : FarNotice) : Host.Outcome State Fault Refusal :=
          .next ((s.setPart p u).emitOut (.far n))
        (told → (s.atBoundary p = false ∨ x.savesBoundary = true) → exec .phaseBoundary s = .next s) ∧
        (t.twobox = true → x.phasedSent = false → s.phasedHere p = true → s.atBoundary p = false →
          exec .phaseBoundary s = tells { x with phasedSent := true } (.phased p)) ∧
        (t.twobox = true → x.phasedSent = true → s.atBoundary p = true → x.savesBoundary = false →
          let crossing := x.state == 6 && !x.farAsked
          (x.farSent = false → exec .phaseBoundary s =
            tells { x with farSent := true, crossed := x.crossed || crossing } (.boundary p crossing)) ∧
          (x.farSent = true → x.farBoundary = 0 → exec .phaseBoundary s = .next s)) ∧
        (s.atBoundary p = true → t.twobox = false → t.balcap = 0xFF → x.state = 2 →
          let b := capBalance (x.bal + r.energy - (x.metered + Config.metered s.nFree)) x.cap
          let next := (t.phases.getD r.idx {}).next
          ∃ u, exec .phaseBoundary s = .next u ∧ (u.part p).run = none ∧ (u.part p).bal = b.1 ∧
            (next = 0xFFFF → (u.part p).state = 3 ∧ (u.part p).ready = none) ∧
            (next ≠ 0xFFFF → (u.part p).state = 2 ∧ (u.part p).ready = some { idx := next } ∧
              u.agenda = { at_ := { idx := p }, what := some .phaseStart } :: s.agenda) ∧
            u.dev = s.dev ∧ same u cores ∧
            ∀ n ∈ cores, (u.core n).seq.run = .idle ∧ (u.core n).seq.ended = false ∧
              (u.core n).eng.exports = [] ∧ (u.core n).eng.bandExports = [] ∧ (u.core n).regs = (s.core n).regs))

/-- The tick of the reckoner and the lease (R417, R419, R435, R477). A tick takes the thermal factor, counts the lease
down, gives every account its watts and resets the filter budgets; a lease that ends or is yielded passes to the other
port when its link is up. A reading above 115 degrees powers the module off (R489).
The long events of a partition and of a stack (R386, R391, R395, R396, R400, R457, R461, R484, R488): a save once
every core has stopped and settled, which writes each core's record of 4 MiB page by page at SAVEBASE + (L mod 128) × 4 MiB
and keeps the cores beside their records (log 19); what a record holds at its head and of s0 to s31; a load that the far module does not answer, the end of a scrub and of an
invalidation, a walk's end, and a stack that doubles its refresh.
Clauses here rest on choices of the model: logs 5, 9, 16, 19, 49, 61, 71 and 76. -/
def Obligations.TicksSavesAndScrubs : Prop :=
  (∀ (s : State),
     (∃ t, exec .reckonerTick s = .next t ∧ t.ticks = s.ticks + 1 ∧
       (115 < Config.hottest s.ticks → t = { s with off := true, ready := false, agenda := [], ticks := s.ticks + 1 }) ∧
       (Config.hottest s.ticks ≤ 115 → t.lremain = s.lremain - 1 ∧
         t.tf = thermalFactor (Config.hottest s.ticks) ∧ (∀ k, (t.ctx k).susp = false) ∧
         ∀ p, p < 40 → (t.part p).bused = 0 ∧
           let x := s.part p
           let v := x.watts * t.tf + x.rho
           (x.pairs ≠ 0 → x.ready = none →
             (t.part p).bal = (capBalance (x.bal + (v / 256 : Nat)) x.cap).1 ∧ (t.part p).rho = v % 256))) ∧
     (s.lremain ≠ 0 → s.yield = false → exec .leaseExpiry s = .next s) ∧
     (s.lremain = 0 ∨ s.yield = true →
       let other := 1 - s.owner
       (s.linkUp other = false → exec .leaseExpiry s = .next { s with yield := false }) ∧
       (s.linkUp other = true → exec .leaseExpiry s = .next { s with
         owner := other, epoch := (s.epoch + 1) % 2 ^ 16, lremain := s.llen, yield := false
         out := s.out ++ [.msix other 0] }))) ∧
  (∀ (s : State),
     let k := s.focus.idx
     let x := s.part k
     let cores := s.savers k
     (k < 40 → x.state ≠ 6 → exec .contextSave s = .next (s.tellHeld k)) ∧
     (∀ t v, k < 40 → x.tt = some t → t.twobox = false → x.state = 6 → x.saveSet = [] → x.preemptAt.isSome = true →
       x.restore = [] → (∀ n ∈ cores, (s.core n).isStopped = true ∧ (s.core n).settled = true ∧ s.unitsRest n = true) →
       cores.foldl (fun (acc : Bool × State) n =>
         let r := acc.2.recordPages k (x.recordAt (s.core n).lcore)
         (acc.1 && r.1, r.2)) (true, s) = (true, v) →
       let grade := ((x.run.orElse fun _ => x.savedRun).map (·.grade)).getD 0
       let kept (a : State) (c : Core) : Core :=
         if x.run.isNone then c else { c with bal := { c.bal with phaseAt := a.now - c.bal.phaseAt } }
       let saves (a : State) (n : Nat) : State :=
         let c := a.core n
         let m := c.record t.launch a.nFree (match c.seq.run with
           | .stopped j => j
           | _ => x.saveKind) grade
         let b : State := { a with nFree := a.nFree + 1 }
         ((List.range 1024).foldl (fun (b : State) i => (b.writeVirtual (b.part k).pod k
             ((a.part k).savebase + c.lcore % 128 * 2 ^ 22 + 4096 * i) (Memory.bytes m (4096 * i) 4096)).2) b).onPart k
           fun y => { y with saved := { lcore := c.lcore, core := kept a c, record := m } :: y.saved }
       let written := cores.foldl saves v
       ∃ u, exec .contextSave s = .next u ∧ (u.part k).state = 7 ∧ (u.part k).run = none ∧
         (u.part k).ready = none ∧ (u.part k).preemptAt = none ∧
         u.dev = written.dev ∧ u.host0 = written.host0 ∧ u.host1 = written.host1 ∧
         (u.part k).saved = (written.part k).saved ∧
         (u.part k).saveSet = (cores.map fun n => (s.core n).lcore) ∧
         (∀ n ∈ cores, ∃ r ∈ (u.part k).saved, r.lcore = (s.core n).lcore ∧ r.core = kept s (s.core n)) ∧
         .msix u.owner (1 + k) ∈ u.out) ∧
     (∀ (c : Core) (launch free kind grade : Nat),
       let m := c.record launch free kind grade
       Memory.bytes m 0 32 = leBytes 32 (1 + 0x0040 * 2 ^ 16 + c.lcore * 2 ^ 32 + c.pidx * 2 ^ 48 + c.starts * 2 ^ 64 +
         c.scycle * 2 ^ 96 + c.seq.pc.toNat * 2 ^ 128 + kind * 2 ^ 192 + grade * 2 ^ 194) ∧
       (∀ r, r < 32 → Memory.bytes m (0x100 + 8 * r) 8 = leBytes 8 (c.sreg r).toNat)) ∧
     (k < 40 → x.loading = none → (x.twoBox = false ∨ x.resumeAt = 0) → exec .farLaunchTimeout s = .next s) ∧
     (k < 40 → x.loading.isSome = true → x.loadAt ≠ 0 → x.loadAt + 2300000000 ≤ s.now + 1 →
       ∃ u, exec .farLaunchTimeout s = .next u ∧ (u.part k).state = 4 ∧ (u.part k).code = 7 ∧
         (u.part k).loading = none ∧ .msix s.owner (1 + k) ∈ u.out ∧ u.cores = s.cores) ∧
     (k < 40 → x.scrubbing = false → exec .scrubComplete s = .next s) ∧
     (k < 40 → x.scrubbing = true → x.tcen = true →
       ∃ u, exec .scrubComplete s = .next u ∧ (u.part k).needScrub = false ∧ (u.part k).scrubbing = false ∧
         (∀ r ∈ (mappedRanges 5 s (x.tcroot * 4096)).1, ∀ a, r.1 ≤ a → a < r.1 + r.2 → Memory.byte u.dev a = 0) ∧
         (∀ port v, v < 512 → s.vfPart v = some k → s.iface port v = 3 → u.iface port v = 0) ∧ u.cores = s.cores) ∧
     (k < 40 → x.inval = none → exec .invalidationComplete s = .next s) ∧
     (∀ i, k < 40 → x.inval = some i →
       (∀ n ∈ x.cores, (s.core n).markWaits i.no = false ∧ (s.core n).accessMeets i = false) →
       ∃ u, exec .invalidationComplete s = .next u ∧ (u.part k).inval = none ∧
         (u.part k).invDone = (x.invDone + 1) % 2 ^ 32 ∧ u.cores = s.cores ∧
         (∀ j, ∀ w ∈ (u.unit j).walks, w.part = k → w.held = false)) ∧
     (k < 8 → (∀ w ∈ (s.unit k).serving, ∀ d, w.due = some d → s.now < d) → exec .translation s = .next s) ∧
     (∀ w, k < 8 → ((s.unit k).serving.find? fun w => w.due.any fun d => decide (d ≤ s.now)) = some w →
       let same (y : Walk) : Bool := y.part == w.part && y.unit == w.unit
       (∀ g v, s.walk k w.part (w.unit * 4096) = (.page g, v) →
         let mine (y : Walk) : Bool := y.part == w.part && g.covers (y.unit * 4096)
         ((g.wr = true ∨ ∃ y ∈ (v.unit k).walks, mine y = true ∧ y.read = true) →
           exec .translation s = .next (v.onUnit k fun u => { u with
             cache := ((w.part, g) :: u.cache).take 16384, walks := u.walks.filter fun y => !mine y })) ∧
         (g.wr = false → (∀ y ∈ (v.unit k).walks, mine y = true → y.read = false) →
           exec .translation s = .next (v.onUnit k fun u => { u with
             walks := u.walks.map fun y => if mine y then { y with fail := some (g.level, 4) } else y }))) ∧
       (∀ l r v, s.walk k w.part (w.unit * 4096) = (.fail l r, v) →
         exec .translation s = .next (v.onUnit k fun u => { u with
           walks := u.walks.map fun y => if same y then { y with fail := some (l, r) } else y })) ∧
       (∀ v, s.walk k w.part (w.unit * 4096) = (.wait, v) →
         exec .translation s = .next (v.onUnit k fun u => { u with
           walks := u.walks.map fun y => if same y then { y with held := true } else y }))) ∧
     (k < 16 → ∃ u, exec .doubledRefresh s = .next u ∧ (u.stack k).doubled = true ∧ (u.stack k).sum.testBit 6 = true ∧
       u.dev = s.dev ∧ u.cores = s.cores))

/-! Requests of the hosts (R373 to R376, R394, R418, R430 to R437, R470 to R489). -/

/-- A host's reads, writes and atomics of a partition's memory, and of a context's store and table (R373 to R376, R431,
R437, R484). Through a VF in RUN the window's pages with HOST set answer; a write to bytes under a write grant is
counted and discarded; an atomic returns the old value; what is refused changes no memory.
Clauses here rest on choices of the model: logs 18, 57 and 58. -/
def Obligations.HostsReachMemoryThroughTheWindow : Prop :=
  ∀ (s : State) (off n : Nat) (bs : List Byte) (op : HostAtomicOp) (a b : BitVec 128) (w : Word32),
    let fn := s.focus.fn
    HostFn.exists_ fn = true →
      (s.trafficPart = none →
        exec (.hostRead off n) s = .next (s.emitOut (.unsupported fn)) ∧
        ∃ u, exec (.hostWrite off bs) s = .next u ∧ u.dev = s.dev ∧ u.host0 = s.host0 ∧ u.host1 = s.host1 ∧
          u.cores = s.cores ∧ .aer fn ∈ u.out) ∧
      (∀ p, s.trafficPart = some p →
        let va := (s.part p).mwbase + off
        (∀ l u, off + bs.length ≤ 2 ^ 36 → s.hitsCode p va bs.length = false →
          s.hostPages p va bs.length true = (some l, u) →
          (u.granted p va bs.length = false → exec (.hostWrite off bs) s = .next (u.writePages l bs)) ∧
          (u.granted p va bs.length = true → exec (.hostWrite off bs) s = .next (u.onPart p fun x =>
            { x with refwr := min (x.refwr + 1) (2 ^ 32 - 1) }))) ∧
        (∀ l u v got, off + n ≤ 2 ^ 36 → s.hostPages p va n false = (some l, u) →
          u.readPages l = (.inl got, v) → exec (.hostRead off n) s = .next (v.emitOut (.data fn got))) ∧
        (∀ g u v got, (n = 4 ∨ n = 8 ∨ (op = .cas ∧ n = 16)) → off + n ≤ 2 ^ 36 → va % n = 0 →
          s.hitsCode p va n = false → s.resolve (s.part p).pod p va true false = (.page g, u) → g.loc = 0 →
          g.host = true → u.granted p va n = false → u.devRead (g.at va) n g.cache = (.inl got, v) →
          let old := leNat got
          let x := a.toNat % 2 ^ (8 * n)
          let new : Nat := match op with
            | .fetchAdd => (old + a.toNat) % 2 ^ (8 * n)
            | .swap => x
            | .cas => if old = x then b.toNat % 2 ^ (8 * n) else old
          exec (.hostAtomic off op n a b) s =
            .next ((v.devWrite (g.at va) (leBytes n new) g.mx g.cache).emitOut (.data fn got))) ∧
        (va % 4 ≠ 0 → off + 4 ≤ 2 ^ 36 → exec (.hostAtomic off op 4 a b) s = .next (s.emitOut (.aborted fn)))) ∧
      (s.throughContext s.focus.idx →
        (off < 64 → (s.ctx s.focus.idx).en = false → exec (.hostTableWrite .program off w) s =
          .next (s.onCtx s.focus.idx fun c => { c with prog := Tab.store c.prog off w })) ∧
        ((s.ctx s.focus.idx).en = true →
          exec (.hostTableWrite .program off w) s = .next (s.onCtx s.focus.idx fun c => c)) ∧
        (off < 1024 → exec (.hostTableWrite .table off w) s =
          .next (s.onCtx s.focus.idx fun c => { c with table := Tab.store c.table off w })))

/-- The registers of a partition's window that a rule guards (R393, R394, R418, R431, R435, R439, R474, R479, R481). `p`
is the partition, and for ACTL the context, that the focus numbers. A resume takes the cores back from the list kept beside
their records, once each record reads as it was written (log 19); one saved at a boundary starts its phase afresh.
Clauses here rest on choices of the model: logs 19, 56 and 59. -/
def Obligations.WindowRegistersActOnTheirPartition : Prop :=
  ∀ (s : State) (v : Word),
    let p := s.focus.idx
    let x := s.part p
    let becomes (y : Partition) : Host.Outcome State Fault Refusal := .next (s.setPart p y)
    let w := v.toNat % 2 ^ 10
    let b := v.toNat % 2 ^ 16
    let others := (s.parts.map fun e => if e.1 = p then 0 else e.2.budget).sum
    (s.throughWindow p true →
      (s.sumWatts - x.watts + w ≤ s.mpwr → exec (.epwrWrite v) s = becomes { x with watts := w }) ∧
      (s.mpwr < s.sumWatts - x.watts + w → exec (.epwrWrite v) s = becomes { x with refused := true }) ∧
      (v.toNat.testBit 32 = false →
        (others + b ≤ 36800 → exec (.abudgetWrite v) s = becomes { x with budget := b }) ∧
        (36800 < others + b → exec (.abudgetWrite v) s = becomes { x with brefused := true })) ∧
      (x.tt = none → exec (.tctlWrite v) s =
        becomes { x with tcen := v.getLsbD 0, tcroot := v.toNat / 2 ^ 12 % 2 ^ 28 }) ∧
      (x.tt ≠ none → exec (.tctlWrite v) s = becomes x)) ∧
    (s.throughWindow p false →
      exec (.trlenWrite false v) s = becomes { x with trlen := v.toNat % 2 ^ 32, trnext := 0 } ∧
      (v.toNat % 2 ^ 57 % 4096 = 0 → exec (.trlenWrite true v) s =
        becomes { x with trbase := v.toNat % 2 ^ 57, trnext := 0 }) ∧
      (x.inval.isSome = true → exec .invreqGo s = becomes { x with invDrop := true }) ∧
      (x.inval = none → (x.invLen ≠ 0 ∨ x.invAll = true) →
        ∃ u i, exec .invreqGo s = .next u ∧ (u.part p).inval = some i ∧ i.at_ = s.now ∧
          (∀ j, ∀ e ∈ (u.unit j).cache, e.1 = p → e.2.meets x.invAll x.invBase x.invLen = false) ∧ u.dev = s.dev) ∧
      (x.queue.length < 4 → exec .lctlGo s = becomes { x with queue := x.queue ++ [x.limg] }) ∧
      (4 ≤ x.queue.length → exec .lctlGo s = becomes { x with qfull := true }) ∧
      (x.state = 2 → ∃ u, exec .lctlStop s = .next u ∧ (u.part p).state = 5 ∧ (u.part p).run = none ∧
        ∀ n ∈ s.participants p, (u.core n).seq.run = .aborted) ∧
      (x.state = 1 → ∃ u, exec .lctlStop s = .next u ∧ (u.part p).state = 4 ∧ (u.part p).code = 0x0C) ∧
      (x.state = 2 → ∃ u, exec .lctlPreempt s = .next u ∧ (u.part p).state = 6 ∧ (u.part p).preemptAt = some s.now ∧
        (∀ n ∈ s.participants p, (u.core n).seq.preempt = true ∧ (u.core n).regs = (s.core n).regs) ∧
        ∀ n, n ∉ s.participants p → u.core n = s.core n) ∧
      (∀ t, x.state = 7 → x.tt = some t → t.twobox = false →
        let checked := ((s.onPart p fun x => { x with resumeAt := s.now + 1, farTold := false }).checkRecords p x.saveSet).1
        ∃ z, exec .lctlResume s = .next z ∧
          (checked = .inr true → (z.part p).state = 7) ∧
          (checked = .inr false → (z.part p).state = 4 ∧ (z.part p).code = 0x0A) ∧
          ∀ l, checked = .inl l → (z.part p).state = 2 ∧ (z.part p).resumeAt = 0 ∧
            (z.part p).ready = some { idx := x.resumeIdx, resume := some x.saveKind
                                      only := if x.saveKind = 1 then none else x.savedRun.map (·.grade) } ∧
            ∀ r ∈ l, Tab.has t.binding r.lcore = true → (∀ y ∈ l, y ≠ r →
              Tab.look 0 t.binding y.lcore ≠ Tab.look 0 t.binding r.lcore) →
              let d := z.core (Tab.look 0 t.binding r.lcore)
              d.regs = r.core.regs ∧ d.mem = r.core.mem ∧ d.seq.preempt = false ∧
                (x.saveKind = 1 → d.seq.run = .idle ∧ d.seq.ended = false) ∧
                (x.saveKind ≠ 1 → d.seq.run = r.core.seq.run ∧ d.seq.ended = r.core.seq.ended)) ∧
      (x.state = 3 ∨ x.state = 4 ∨ x.state = 5 ∨ x.state = 7 →
        ∃ u, exec .lctlUnload s = .next u ∧ (u.part p).state = 0 ∧ (u.part p).tt = none ∧ u.cores = s.cores)) ∧
    (s.throughContext p →
      let c := s.ctx p
      let len := v.toNat / 2 ^ 4 % 2 ^ 7
      let cls := v.toNat / 2 % 2 ^ 3
      let tdest := v.toNat / 2 ^ 11 % 2 ^ 2
      (c.en = true → v.getLsbD 0 = false →
        exec (.actlWrite v) s = .next (s.onCtx p fun c => { c with en := false })) ∧
      (c.en = true → v.getLsbD 0 = true → exec (.actlWrite v) s = .next (s.onCtx p fun c => c)) ∧
      (c.en = false → v.getLsbD 0 = true → 1 ≤ len → len ≤ 64 → cls ≠ 7 → tdest ≠ 3 →
        (∀ i, i < len → decodeFilter (Tab.look 0 c.prog i) ≠ none) →
        ∃ u, exec (.actlWrite v) s = .next u ∧ (u.ctx p).en = true ∧ (u.ctx p).len = len ∧ (u.ctx p).cls = cls ∧
          (u.ctx p).tdest = tdest ∧ (u.ctx p).regs = [] ∧ (u.ctx p).queue = [] ∧ (u.ctx p).table = c.table) ∧
      (∀ i, c.en = false → v.getLsbD 0 = true → len ≤ 64 → cls ≠ 7 → tdest ≠ 3 → i < len →
        decodeFilter (Tab.look 0 c.prog i) = none → (∀ j, j < i → decodeFilter (Tab.look 0 c.prog j) ≠ none) →
        ∃ u, exec (.actlWrite v) s = .next u ∧ (u.ctx p).en = false ∧ (u.ctx p).badprog = true ∧
          (u.ctx p).badpc = i))

/-- The module's registers and requests that a rule guards (R430, R466 to R468, R470, R471, R475 to R478, R482, R486).
They act through the PF of the port that holds the lease; through another port's PF a write is discarded and counted.
Clauses here rest on choices of the model: logs 19, 56 and 59. -/
def Obligations.ModuleRequestsActThroughTheOwner : Prop :=
  ∀ (s : State) (v : Word) (e : BitVec 16),
    let k := s.focus.idx
    let w := v.toNat % 2 ^ 10
    let lower : List Instr := [.mpwrWrite v, .vfmapWrite k v, .dmctlActive true, .dmctlActive false, .abstractCommand v,
      .dmctlHaltreq, .dmctlResumereq, .pctlCreate, .pctlDestroy]
    (s.focus.fn.port < 2 → s.focus.fn.vf = none → s.focus.fn.port ≠ s.owner →
      ∀ i ∈ lower, exec i s = .next { s with stale := min (s.stale + 1) 0xFFFF }) ∧
    (s.throughOwner →
      (450 ≤ w → w ≤ 850 → s.sumWatts ≤ w → exec (.mpwrWrite v) s = .next { s with mpwr := w }) ∧
      (w < 450 ∨ 850 < w ∨ w < s.sumWatts → exec (.mpwrWrite v) s = .next { s with
        parts := s.parts.map fun x => (x.1, { x.2 with refused := true }) }) ∧
      (∀ f, f < 512 → s.iface 0 f = 0 → s.iface 1 f = 0 →
        exec (.vfmapWrite f v) s = .next { s with vfmap := Tab.store s.vfmap f (v.toNat % 2 ^ 7) }) ∧
      (k < 64 → ∀ c, s.ctx k = c →
        let part := v.toNat % 2 ^ 6
        let new := if v.getLsbD 6 then some part else none
        (new = c.owner → exec (.aownWrite v) s = .next (s.onCtx k fun c => { c with apart := part })) ∧
        (new ≠ c.owner → exec (.aownWrite v) s = .next (s.onCtx k fun _ => { owner := new, apart := part }))) ∧
      (e.toNat = s.epoch → exec (.lrenew e) s = .next { s with lremain := s.llen } ∧
        exec (.lrenewYield e) s = .next { s with lremain := s.llen, yield := true }) ∧
      (e.toNat ≠ s.epoch → exec (.lrenew e) s = .next { s with stale := min (s.stale + 1) 0xFFFF } ∧
        exec (.lrenewYield e) s = .next { s with stale := min (s.stale + 1) 0xFFFF }) ∧
      (k < 40 → (s.part k).pairs = 0 → s.pmask ≠ 0 → (∀ y ∈ s.parts, y.2.pairs &&& s.pmask = 0) →
        ∃ u, exec .pctlCreate s = .next u ∧ u.part k = { pairs := s.pmask } ∧ u.pctlErr = false ∧
          (∀ n, n < 128 → s.pmask.testBit (n / 2) = true → (u.core n).part = k) ∧
          ∀ n, s.pmask.testBit (n / 2) = false → u.core n = s.core n) ∧
      (40 ≤ k ∨ (s.part k).pairs ≠ 0 ∨ s.pmask = 0 → exec .pctlCreate s = .next { s with pctlErr := true }) ∧
      ((s.part k).pairs ≠ 0 → ((s.part k).state = 0 ∨ (s.part k).state = 4) →
        ∃ u, exec .pctlDestroy s = .next u ∧ Tab.has u.parts k = false ∧ u.pctlErr = false ∧
          ∀ n ∈ (s.part k).cores, (u.core n).part = 63 ∧ (u.core n).regs = {} ∧ (u.core n).mem = []) ∧
      ((s.part k).pairs = 0 → exec .pctlDestroy s = .next { s with pctlErr := true }) ∧
      exec (.dmctlActive true) s = .next { s with dmActive := true } ∧
      (∃ u, exec (.dmctlActive false) s = .next u ∧ u.dmActive = false ∧
        ∀ n, Tab.has s.cores n = true → (u.core n).seq.halted = false ∧ (u.core n).seq.brkHalt = false) ∧
      (s.dmActive = false → exec .dmctlHaltreq s = .next s ∧ exec .dmctlResumereq s = .next s) ∧
      (s.dmActive = true → let c := s.core s.dmCore
        (c.seq.run = .running → exec .dmctlHaltreq s = .next (s.setCore s.dmCore { c with
          seq := { c.seq with haltReq := true } })) ∧
        (c.seq.run = .idle → c.seq.halted = false →
          ∃ u, exec .dmctlHaltreq s = .next u ∧ (u.core s.dmCore).seq.halted = true) ∧
        (c.seq.halted = true → exec .dmctlResumereq s = .next (s.setCore s.dmCore { c with
          seq := { c.seq with halted := false, haltReq := false } }))) ∧
      (s.dmBusy = false → let c := s.core s.dmCore
        let no := v.toNat % 2 ^ 16
        let x := (Tab.look (0 : Word32) s.adata 0).toNat + (Tab.look (0 : Word32) s.adata 1).toNat * 2 ^ 32
        (c.seq.halted = false → exec (.abstractCommand v) s = .next { s with dmErr := 4 }) ∧
        (∀ r, c.seq.halted = true → r < 32 → no = 0x1000 + r →
          (v.getLsbD 16 = false → ∃ u, exec (.abstractCommand v) s = .next u ∧
            Tab.look 0 u.adata 0 = (c.sreg r).setWidth 32 ∧
            Tab.look 0 u.adata 1 = (c.sreg r).extractLsb' 32 32 ∧ u.core s.dmCore = c) ∧
          (v.getLsbD 16 = true → r ≠ 0 → ∃ u, exec (.abstractCommand v) s = .next u ∧
            (u.core s.dmCore).sreg r = BitVec.ofNat 64 x ∧
            ∀ q, q ≠ r → (u.core s.dmCore).sreg q = c.sreg q)) ∧
        (c.seq.halted = true → no = 0x0500 → exec (.abstractCommand v) s = .next { s with dmErr := 2 }))) ∧
    (s.focus.fn.port < 2 → s.focus.fn.vf = none → s.resync = none → s.rsaddr % 4096 = 0 →
      exec .resyncGo s = .next { s with resync := some s.focus.fn.port })

/-- Reads and writes of registers by offset (R471 to R476, R413). A request without the register's width or alignment
is refused; reads answer through either port, and clear what is RC; writes act through the owner.
Clauses here rest on choices of the model: logs 56 and 59, the latter for an unaligned write of RSADDR, which leaves it. -/
def Obligations.HostRegistersAnswerByOffset : Prop :=
  ∀ (s : State) (off size : Nat) (v : Word),
    let fn := s.focus.fn
    (HostFn.exists_ fn = true → (size ≠ 8 ∨ off % 8 ≠ 0) → fn.vf = none → off < 0x1000000 →
      exec (.hostRegisterRead off size) s = .next (s.emitOut (.unsupported fn)) ∧
      exec (.hostRegisterWrite off size v) s =
        .next { s with urLog := Tab.store s.urLog (fnNum fn) true, out := s.out ++ [.aer fn] }) ∧
    (fn.port < 2 → fn.vf = none →
      let answers (off value : Nat) (u : State) : Prop :=
        exec (.hostRegisterRead off 8) s = .next (u.emitOut (.data fn (leBytes 8 value)))
      answers 0x0000 (if s.ready then 1 else 0) s ∧
      answers 0x0100 (s.owner + (if s.link0 then 2 else 0) + (if s.link1 then 4 else 0) + s.epoch * 2 ^ 16 +
        s.stale * 2 ^ 32) { s with stale := 0 } ∧
      answers 0x0108 s.lremain s ∧ answers 0x0600 s.mpwr s ∧ answers 0x0610 s.adrop { s with adrop := 0 } ∧
      (∀ k, k < 16 → answers (0x4008 + 0x200 * k) (s.stack k).cycles s) ∧
      (∀ p, p < 40 → (s.part p).pairs ≠ 0 → let x := s.part p
        answers (0x1000000 + 0x100000 * p + 0x010) (x.state + (if x.qfull then 2 ^ 3 else 0) +
          x.queue.length * 2 ^ 4 + x.code * 2 ^ 8 + x.pidx % 2 ^ 16 * 2 ^ 16 + x.starts % 2 ^ 32 * 2 ^ 32) (s.setPart p x) ∧
        answers (0x1000000 + 0x100000 * p + 0x448) x.refwr (s.setPart p { x with refwr := 0 }))) ∧
    (s.throughOwner →
      let writes (off : Nat) (u : State) : Prop := exec (.hostRegisterWrite off 8 v) s = .next u
      let us := v.toNat % 2 ^ 32
      (1000 ≤ us → us ≤ 10000000 → writes 0x0118 { s with llen := us }) ∧
      writes 0x0208 { s with pmask := v.toNat } ∧ 
      writes 0x0308 (if v.toNat % 4096 = 0 then { s with rsaddr := v.toNat } else s) ∧ writes 0x0000 s ∧
      (∀ k, k < 16 → ∃ u, exec (.hostRegisterWrite (0x4000 + 0x200 * k) 8 v) s = .next u ∧
        ∀ i, (u.stack k).sum.testBit i = ((s.stack k).sum.testBit i && !(decide (i < 8) && v.getLsbD i))) ∧
      (∀ p, p < 40 → (s.part p).pairs ≠ 0 →
        (v.toNat % 2 ^ 57 % 4096 = 0 → writes (0x1000000 + 0x100000 * p)
          (s.onPart p fun x => { x with limg := v.toNat % 2 ^ 57 })) ∧
        writes (0x1000000 + 0x100000 * p + 0x208) (s.onPart p fun x => { x with cap := v.toNat % 2 ^ 48 }) ∧
        writes (0x1000000 + 0x100000 * p + 0x218) (s.onPart p fun x => { x with prio := v.toNat % 4 }))) ∧
    (fn.port < 2 → fn.vf = none → fn.port ≠ s.owner →
      exec (.hostRegisterWrite 0x0208 8 v) s = .next { s with stale := min (s.stale + 1) 0xFFFF })

/-- Interfaces, SPDM, the ports and the box link (R380, R476, R483 to R485, R487, R488). INTERFACE_TORN leaves RUN; the end
of a session tears what is locked or in RUN; a function-level reset of a VF tears its interface. A far boundary that a
request to pre-empt was crossing sends the cores that it had stopped on to theirs (R465).
Clauses here rest on choices of the model: logs 5, 11, 22, 61 and 78. -/
def Obligations.InterfacesAndLinksChangeState : Prop :=
  ∀ (s : State) (vf : Nat),
    let port := s.focus.fn.port
    let st := s.iface port vf
    let live := Tab.look false s.spdm port
    (∀ up, HostFn.exists_ s.focus.fn = true →
      (port = 0 → exec (.portLinkChange up) s = .next { s with link0 := up }) ∧
      (port = 1 → exec (.portLinkChange up) s = .next { s with link1 := up })) ∧
    (port < 2 → vf < 512 → s.focus.fn.vf = some vf →
      (st ≠ 2 → exec .interfaceTorn s = .next s) ∧
      ((st = 3 ∨ (st = 0 ∧ s.vfPart vf = none)) → exec .vfFunctionLevelReset s = .next s) ∧
      (∀ p i, s.vfPart vf = some p → ((i = .interfaceTorn ∧ st = 2) ∨ (i = .vfFunctionLevelReset ∧ st ≠ 3)) →
        ∃ u, exec i s = .next u ∧ u.iface port vf = 3 ∧ (u.part p).torn.testBit port = true ∧
          (u.part p).needScrub = true ∧ ∀ n, n ∉ (s.part p).cores → u.core n = s.core n) ∧
      (∀ p, s.vfPart vf = some p → live = true →
        ((s.part p).needScrub = true → (s.part p).tt = none →
          exec .lockInterface s = .next (s.onPart p fun x => { x with scrubbing := true })) ∧
        ((s.part p).needScrub = false → st = 0 →
          ∃ u, exec .lockInterface s = .next u ∧ u.iface port vf = 1 ∧ u.parts = s.parts)) ∧
      (live = false → exec .lockInterface s = .next s) ∧
      (∀ p, s.vfPart vf = some p → live = true → st = 1 →
        ∃ u, exec (.spdmRequest .startInterface) s = .next u ∧ u.iface port vf = 2 ∧
          (u.part p).torn.testBit port = false)) ∧
    (HostFn.exists_ s.focus.fn = true →
      (∃ u, exec (.spdmRequest .startSession) s = .next u ∧ Tab.look false u.spdm port = true ∧ u.tdisp = s.tdisp) ∧
      (∃ u, exec (.spdmRequest .endSession) s = .next u ∧ Tab.look false u.spdm port = false ∧
        ∀ f, f < 512 → (s.iface port f = 1 ∨ s.iface port f = 2) → u.iface port f = 3) ∧
      (∀ nonce, let answer := leBytes 64 s.firmware.digest.toNat
        exec (.spdmRequest (.getMeasurement 2 nonce)) s = .next (s.emitOut
          (.spdm (.getMeasurement 2 nonce) answer (some (spdmSigned nonce answer))))) ∧
      (∀ p nonce, p < 40 → let answer := leBytes 64 (s.part p).digest.toNat
        exec (.spdmRequest (.getMeasurement (16 + p) nonce)) s = .next (s.emitOut
          (.spdm (.getMeasurement (16 + p) nonce) answer (some (spdmSigned nonce answer))))) ∧
      (∀ k key, let no := port * 256 + BitVec.toNat k
        (live = true → ∃ u, exec (.spdmRequest (.keyProgram k key)) s = .next u ∧
          Tab.look {} u.ide no = { key := key, live := false } ∧ u.tdisp = s.tdisp) ∧
        (live = true → Tab.has s.ide no = true → ∃ u, exec (.spdmRequest (.keyGo k)) s = .next u ∧
          Tab.look {} u.ide no = { (Tab.look {} s.ide no : IdeStream) with live := true }) ∧
        (live = true → ∃ u, exec (.spdmRequest (.keyStop k)) s = .next u ∧ Tab.has u.ide no = false) ∧
        (live = false → ∃ u, exec (.spdmRequest (.keyProgram k key)) s = .next u ∧ u.ide = s.ide))) ∧
    (∀ p g l k b ok crossing d, let on (f : Partition → Partition) : State := s.onPart p f
      exec (.boxLinkNotice (.gbar p g l k)) s = .next { s with farArr := s.farArr ++ [(p, g, l, k)] } ∧
      exec (.boxLinkNotice (.collective b)) s = .next { s with farColl := s.farColl ++ [b] } ∧
      exec (.boxLinkNotice (.saved p ok)) s = .next (on fun x => { x with farSaved := some ok }) ∧
      exec (.boxLinkNotice (.held p)) s = .next (on fun x => { x with farHeld := true }) ∧
      exec (.boxLinkNotice (.phased p)) s = .next (on fun x => { x with farPhased := x.farPhased + 1 }) ∧
      ((s.part p).loading = none → exec (.boxLinkNotice (.launch p d ok)) s = .next { on fun x => { x with
          farLaunch := some (d, ok), farLaunchAt := s.now, farBoundary := 0, farPhased := 0, farHeld := false } with
        farArr := s.farArr.filter fun a => a.1 != p
        farColl := s.farColl.filter fun b => b.part != p }) ∧
      ((s.part p).state ≠ 6 → exec (.boxLinkNotice (.boundary p crossing)) s = .next (on fun x =>
        { x with farBoundary := x.farBoundary + 1 })) ∧
      ((s.part p).state = 6 → (s.part p).twoBox = true → (s.part p).saveKind ≠ 1 →
        ((s.part p).farAsked = false ∨ crossing = true) → ∃ u, exec (.boxLinkNotice (.boundary p crossing)) s = .next u ∧
          (u.part p).crossed = true ∧ (u.part p).farBoundary = (s.part p).farBoundary + 1 ∧
          ∀ n ∈ s.participants p, (u.core n).seq.preempt = false ∧ (u.core n).isStopped = false)) ∧
    exec .boxLinkUp s = .next { s with boxUp := true } ∧
    (∃ u, exec .boxLinkDown s = .next u ∧ u.boxUp = false ∧
      ∀ p t, p < 40 → (s.part p).tt = some t → t.twobox = true → (s.part p).state = 2 → (s.part p).loading = none →
        (u.part p).state = 5 ∧ (u.part p).code = 0x0B)

/-- Resets and power (R400, R477, R485, R489). A cold reset, and a function-level reset of the owner's PF, leave the
registers at their reset values and device memory zero, with READY set when the firmware is accepted; what lies outside
the module stays. A thermal shutdown powers it off.
Clauses here rest on choices of the model: logs 7 and 11. -/
def Obligations.ResetsClearTheModule : Prop :=
  ∀ (s : State),
    let cleared (u : State) : Prop :=
      u.ready = s.firmware.accepted s.fused ∧ u.off = false ∧ u.dev = [] ∧ u.slots = [] ∧ u.parts = [] ∧
      u.ctxs = [] ∧ u.msgs = [] ∧ u.memStacks = [] ∧ u.vfmap = [] ∧ u.tdisp = [] ∧ u.spdm = [] ∧ u.ide = [] ∧
      u.urLog = [] ∧ u.intake = [] ∧ u.adrop = 0 ∧ u.epoch = 1 ∧ u.lremain = 100000 ∧ u.llen = 100000 ∧
      u.mpwr = 850 ∧ u.pool = 0 ∧ u.pmask = 0 ∧ u.now = 0 ∧ u.host0 = s.host0 ∧ u.host1 = s.host1 ∧
      u.fused = s.fused ∧
      ∀ n, (u.core n).regs = {} ∧ (u.core n).mem = [] ∧ (u.core n).seq.run = .idle ∧ (u.core n).part = 63 ∧
        (u.core n).ctl = []
    let trained (k : Nat) : Bool := Config.trains s.resets k
    (∃ u, exec .coldReset s = .next u ∧ cleared u ∧ u.owner = (if trained 0 then 0 else 1) ∧
      u.link0 = trained 0 ∧ u.link1 = trained 1 ∧ u.boxUp = trained 2) ∧
    (s.throughOwner → ∃ u, exec .pfFunctionLevelReset s = .next u ∧ cleared u ∧
      u.owner = (if s.link0 then 0 else 1) ∧ u.link0 = s.link0 ∧ u.link1 = s.link1) ∧
    (s.focus.fn.vf = none → s.focus.fn.port < 2 → s.focus.fn.port ≠ s.owner →
      exec .pfFunctionLevelReset s = .next s) ∧
    exec .thermalShutdown s = .next { s with off := true, ready := false, agenda := [] }

/-! The step, the operations of a bundle, and the machine as a whole. -/

/-- The step (R35, R36, R436): the event at the front of the agenda happens where it strikes; a filter run executes the
instruction that its program store holds at its index, as decode reads it; an empty agenda opens the next stage of the
cycle, which the fifth ends; a module with power that has not booted boots, and one that is off waits for its cold
reset (R489).
Clauses here rest on choices of the model: log 3. -/
def Obligations.AStepRunsWhatIsDue : Prop :=
  ∀ (s : State),
    (∀ d rest i, s.agenda = d :: rest → d.what = some i → (s.off = false ∨ i = .coldReset) →
      step s = exec i { s with agenda := rest, focus := d.at_ }) ∧
    (∀ d rest, s.agenda = d :: rest → d.what ≠ some .coldReset → s.off = true →
      step s = .next { s with agenda := rest }) ∧
    (∀ d rest r, s.agenda = d :: rest → d.what = none → s.off = false → (s.ctx d.at_.idx).run = some r →
      let w := Tab.look 0 (s.ctx d.at_.idx).prog r.pc
      (∀ i, decodeFilter w = some i → step s = exec i { s with agenda := rest, focus := d.at_ }) ∧
      (decodeFilter w = none → step s = .fault .badFilterWord)) ∧
    (∀ d rest, s.agenda = d :: rest → d.what = none → s.off = false → (s.ctx d.at_.idx).run = none →
      step s = .next { s with agenda := rest, focus := d.at_ }) ∧
    (s.agenda = [] → s.ready = true → ∃ t, step s = .next t ∧
      t.stage = (if s.stage < 6 then s.stage + 1 else 0) ∧
      t.now = (if s.stage = 5 then s.now + 1 else s.now) ∧ t.dev = s.dev ∧ t.parts = s.parts ∧
      (s.stage ≠ 5 → t.cores = s.cores)) ∧
    (s.agenda = [] → s.ready = false → s.off = true → step s = .next s) ∧
    (s.agenda = [] → s.ready = false → s.off = false →
      step s = .next { s with agenda := [{ at_ := {}, what := some .coldReset }] })

/-- An instruction of a bundle acts as its meaning does (R71, R75): what the issue of a bundle does with an operation
is what exec does with it, but for the operations that end their bundle or close a device access, which exec carries to
the end of a bundle of their own.
Clauses here rest on choices of the model: logs 2 and 12. -/
def Obligations.BundleOperationsActAsTheirInstructions : Prop :=
  ∀ (s : State) (i : Instr), s.onACore → i.slotClass.isSome = true →
    (noSticky i = false ∨ ∃ f, i = .gbar f) → (∀ f, i ≠ .capldMemory f ∧ i ≠ .capst f ∧ i ≠ .gld f ∧ i ≠ .gst f) →
    exec i s = .next (s.settleSlot s.focus.core (State.slotOp s.hereCore.carriedOp s.here i s))

/-- No instruction is refused, and none stops where its unit exists: with a focus that names a unit of every kind each
answers a next state, and elsewhere each does so or stops because the module has no such unit.
Clauses here rest on choices of the model: logs 2 and 5. -/
def Obligations.EveryInstructionAnswers : Prop :=
  ∀ (s : State) (i : Instr),
    (s.focus.core < 128 → s.focus.idx < 8 → HostFn.exists_ s.focus.fn = true → ∃ t, exec i s = .next t) ∧
    ((∃ t, exec i s = .next t) ∨ exec i s = .fault .noSuchUnit) ∧
    (128 ≤ s.focus.core → i.slotClass.isSome = true → exec i s = .fault .noSuchUnit)

/-- The registers right after reset, where the spec gives them values (R33, R398, R415, R431, R435, R476, R489), and
the boot that follows: with a firmware that is accepted, power alone brings the module to READY.
The state after reset meets what every step keeps.
Clauses here rest on choices of the model: logs 6, 7 and 11. -/
def Obligations.ResetLeavesTheGivenValues : Prop :=
  (let s := State.reset
   s.ready = false ∧ s.epoch = 1 ∧ s.lremain = 100000 ∧ s.llen = 100000 ∧ s.mpwr = 850 ∧ s.stale = 0 ∧ s.pmask = 0 ∧
   s.adrop = 0 ∧ (∀ p, (s.part p).state = 0 ∧ (s.part p).watts = 0 ∧ (s.part p).pin = 0 ∧ (s.part p).budget = 0 ∧
     (s.part p).tvec = 0 ∧ (s.part p).trlen = 0 ∧ (s.part p).dsamp = 0) ∧
   (∀ k, (s.stack k).sum = 0 ∧ (s.stack k).corrcnt = 0 ∧ (s.stack k).cycles = 23000) ∧
   (∀ k, (s.ctx k).en = false ∧ (s.ctx k).runs = 0 ∧ (s.ctx k).drop = 0) ∧
   (∀ f, s.vfPart f = none) ∧ (∀ port f, s.iface port f = 0) ∧ s.dmActive = false ∧ s.dmErr = 0 ∧
   (∀ n, n < 128 → (s.core n).svc = false ∧ (s.core n).sreg 0 = 0 ∧ (s.core n).seq.run = .idle) ∧
   (∃ t u, step s = .next t ∧ step t = .next u ∧ u.ready = s.firmware.accepted s.fused ∧ u.dev = [] ∧
     u.owner = (if Config.trains s.resets 0 then 0 else 1))) ∧
  (Memory.wf State.reset.dev ∧ Memory.wf State.reset.host0 ∧ Memory.wf State.reset.host1 ∧
     State.reset.intake.length ≤ 1024)

/-- Results become visible in the cycle that their latency names and stay out of sight before (R92, R93): when a cycle
passes for a core whose pipeline moves, the results due at the next one land, and the others stay in flight. -/
def Obligations.ResultsLandInTheirCycle : Prop :=
  ∀ (c : Core) (r : Nat) (v : Word) (L : Nat), 1 ≤ L → 0 < r → c.seq.flight = [] →
    let d := c.emit L (.scalar r v)
    d.sreg r = c.sreg r ∧
    (L = 1 → (d.advance ctlInfo).sreg r = v ∧ (d.advance ctlInfo).seq.flight = []) ∧
    (1 < L → (d.advance ctlInfo).sreg r = c.sreg r ∧
      (d.advance ctlInfo).seq.flight = [{ due := c.seq.tick + L, wb := .scalar r v }]) ∧
    (∀ q, q ≠ r → (d.advance ctlInfo).sreg q = c.sreg q)

/-- What every step keeps: the memories hold their canonical form, and the intake queue its depth. -/
def Obligations.MemoriesStayCanonical : Prop :=
  ∀ (s t : State), Memory.wf s.dev → Memory.wf s.host0 → Memory.wf s.host1 → s.intake.length ≤ 1024 →
    step s = .next t →
    Memory.wf t.dev ∧ Memory.wf t.host0 ∧ Memory.wf t.host1 ∧ t.intake.length ≤ 1024

/-- Decode inverts encode: the words of a well-formed instruction, in the map of its slot class, decode to it; every
slot operation has one or two words, and every filter instruction exactly one. -/
def Obligations.DecodeInvertsEncode : Prop :=
  ∀ (i : Instr), i.WellFormed →
    (∀ ws, encode i = some ws → decodeAs i.slotClass ws = some i) ∧
    (i.slotClass.isSome = true → ∃ a rest, encode i = some (a :: rest) ∧ rest.length ≤ 1) ∧
    (∀ (f : FA) (g : FI), i ∈ [Instr.filterExit f, .filterBr f, .filterLde f, .filterLdi g, .filterLih g, .filterAddi g,
        .filterAdd f, .filterSub f, .filterAnd f, .filterOr f, .filterXor f, .filterMin f, .filterMax f, .filterAbsd f,
        .filterShl g, .filterShr g, .filterSha g, .filterLog2 f, .filterHash g, .filterEwma g, .filterTld g,
        .filterTst g, .filterTadd g, .filterTrig g] → ∃ w, encode i = some [w])

/-! Words written out from the encoding tables. -/

/-- Words put together bit by bit from the formats of R72, R73 and R439 and the codes of the tables decode to the
instruction they stand for; a filter branch with offset 0 and a hash of no bits are refused (R439, R440). -/
def Obligations.WordsDecodeAsWritten : Prop :=
  decodeAs (some .s) [0x02184400] = some (.add { sd := 3, sa := 1, sb := 2, fn := 0 }) ∧
  decodeAs (some .s) [0x22210001] = some (.addi { sd := 4, sa := 4, imm := 1, ext := none }) ∧
  decodeAs (some .s) [0x31380000, 0x00010000] = some (.lui { sd := 7, sa := 0, imm := 0, ext := some 0x10000 }) ∧
  decodeAs (some .s) [0x62217FFE] = some (.bne { sa := 4, sb := 5, off := 0x3FFE, ext := none }) ∧
  decodeAs (some .s) [0x88102003] = some (.capld { sd := 2, sa := 0, imm := 0x2003, ext := none }) ∧
  decodeAs (some .s) [0xC035C000] = some (.qpopS { sd := 6, qn := 11, nf := 1 }) ∧
  decodeAs (some .v) [0x300C0680, 0x07002800] = some (.vfadd
    { vd := 12, va := 13, pg := 0, pz := 0, gs := 0, vb := 14, vc := 0, ty := 10, rm := 0, fn := 0 }) ∧
  decodeAs (some .v) [0x62F20000, 0xA8000800] = some (.vst
    { vd := 0xF2, va := 0, pg := 0, pz := 0, gs := 0, sa := 21, sb := 0, off := 2, ty := 0, fn := 0 }) ∧
  decodeAs (some .v) [0x90081401, 0x00002000] = some (.dnorm
    { vd := 8, va := 40, pg := 0, pz := 0, gs := 1, vb := 0, vc := 0, ty := 8, rm := 0, fn := 0 }) ∧
  decodeAs (some .m) [0x10010002, 0x00000800] = some (.brun
    { bk := 0, rs := 0, ab := 2, ar := 0, sa := 0, sb := 2, grp := 0, imm := 8, fn := 0 }) ∧
  decodeAs (some .c) [0x04405200, 0x00000080] = some (.cpgo
    { ch := 1, sa := 0, sb := 5, ca := 2, cb := 0, acq := 0, rel := 0, scp := 0, grp := 0, imm := 0, fn := 0x80 }) ∧
  decodeFilter 0x08990012 = some (.filterBr { fd := 1, fa := 3, fb := 2, sub := 0x12 }) ∧
  decodeFilter 0x190001FF = some (.filterLdi { fd := 2, fa := 0, sub := 0, imm := 0x1FF }) ∧
  decodeFilter 0x90880004 = some (.filterHash { fd := 1, fa := 1, sub := 0, imm := 4 }) ∧
  decodeFilter 0x08990000 = none ∧
  decodeFilter 0x90880000 = none ∧
  decodeFilter 0x00000000 = some (.filterExit { fd := 0, fa := 0, fb := 0, sub := 0 })
end

