-- ==== Sys2Proof/Laws/Device.lean ====
section
/-! SUPPORT. What the check of a burst's code says: the stored code is the one of its contents (R132, R135). -/

namespace Sys2Proof.Machine

/-- A burst passes its check exactly when its stored code is the CRC-32 of its data and its scale slots. -/
theorem State.codeOk_iff (s : State) (u : Nat) : s.codeOk u = true ↔ s.storedCode u = s.checkCode u := by
  simp only [State.codeOk, State.storedCode, beq_iff_eq]
  constructor
  · intro h; rw [h]; exact BitVec.xor_zero
  · intro h
    have h2 : s.checkCode u ^^^ (s.checkCode u ^^^ Tab.look 0 s.bad u) = 0 := by rw [h]; exact BitVec.xor_self
    rwa [← BitVec.xor_assoc, BitVec.xor_self, BitVec.zero_xor] at h2

end Sys2Proof.Machine
end

