-- ==== Sys2Proof/Machine/Zpf.lean ====
section
/-! DEFINITION. The portable form (20_portable_form): the module and what zxt refuses (R490 to R495), the operations
of its units (R493, R494), what a module does on a core (R495), the translation to native bundles (R497 to R501), and
the placing of bundles in code lines (R89). -/

namespace Sys2Proof.Machine

/-! The module (R490 to R492). -/

/-- The kinds of values and ports (R491, R493). -/
inductive ZKind where
  | scalar | vector | predicate
  deriving DecidableEq, Repr

/-- A value entry (R491). -/
structure ZValue where
  kind : ZKind
  ty   : Nat
  arg  : Bool
  deriving DecidableEq, Repr

/-- OPR of a move (R492). -/
structure ZOp where
  op  : Nat
  z   : Bool
  ty  : Nat
  ty2 : Nat
  sub : Nat
  deriving DecidableEq, Repr

/-- The source of a move: a value, a result port, an immediate (R492). -/
inductive ZSource where
  | value (n : Nat)
  | port (n : Nat)
  | imm (x : Int)
  deriving DecidableEq, Repr

/-- The destination of a move (R492). -/
inductive ZDest where
  | value (n : Nat)
  | operand (n : Nat)
  | trigger (n : Nat) (o : ZOp)
  deriving DecidableEq, Repr

structure ZMove where
  src : ZSource
  dst : ZDest
  deriving DecidableEq, Repr

structure ZModule where
  vals  : List ZValue
  moves : List ZMove
  deriving DecidableEq, Repr

/-- What zxt names when it refuses: the header, the first failing entry or move (R495), or the settings (R497 to
R499). -/
inductive ZReject where
  | header
  | entry (n : Nat)
  | move (n : Nat)
  | settings
  deriving DecidableEq, Repr

/-- A value entry from its 8 bytes (R491). -/
def readZValue (w : Nat) : Option ZValue :=
  let v : ZValue := { kind := if w.testBit 0 then .scalar else .vector, ty := bits w 4 1, arg := w.testBit 5 }
  let ok := match v.kind with
    | .scalar => v.ty == 0
    | _ => decide (v.ty ≤ 12) && !v.arg
  if ok && bits w 63 6 == 0 then some v else none

/-- OPR from its 20 bits (R492). -/
def readZOp (w : Nat) : ZOp :=
  { op := bits w 6 0, z := w.testBit 7, ty := bits w 11 8, ty2 := bits w 15 12, sub := bits w 19 16 }

def readZSource (w : Nat) : Option ZSource :=
  match bits w 1 0 with
  | 0 => some (.value (bits w 11 4))
  | 1 => some (.port (bits w 11 4))
  | 2 => if bits w 11 4 = 0 then some (.imm (signExt (bits w 63 40) 24)) else none
  | _ => none

def readZDest (w : Nat) : Option ZDest :=
  match bits w 3 2 with
  | 0 => some (.value (bits w 19 12))
  | 1 => some (.operand (bits w 19 12))
  | 2 => some (.trigger (bits w 19 12) (readZOp (bits w 39 20)))
  | _ => none

/-- A move word (R492): OPR is zero without a trigger port, IMM without an immediate. -/
def readZMove (w : Nat) : Option ZMove :=
  match readZSource w, readZDest w with
  | some s, some d =>
    if (bits w 3 2 != 2 && bits w 39 20 != 0) || (bits w 1 0 != 2 && bits w 63 40 != 0) then none
    else some { src := s, dst := d }
  | _, _ => none

/-! Units and ports (R493). -/

/-- What a port of a unit is for. -/
inductive ZRole where
  | trigger | operand | result
  deriving DecidableEq, Repr

/-- The ports by number 8c + k (R493). -/
def zPort (p : Nat) : Option (ZRole × ZKind) :=
  match p with
  | 0 => some (.trigger, .scalar)
  | 1 => some (.operand, .scalar)
  | 4 => some (.result, .scalar)
  | 8 => some (.trigger, .scalar)
  | 11 => some (.operand, .vector)
  | 12 => some (.result, .vector)
  | 16 | 24 | 32 | 40 | 48 => some (.trigger, .vector)
  | 17 | 18 | 25 | 26 | 33 | 34 | 49 => some (.operand, .vector)
  | 20 | 28 | 36 | 44 => some (.result, .vector)
  | 53 => some (.result, .predicate)
  | 56 => some (.trigger, .scalar)
  | 60 => some (.result, .vector)
  | _ => none

def zRole (p : Nat) : Option ZRole := (zPort p).map (·.1)
def zKind (p : Nat) : Option ZKind := (zPort p).map (·.2)

/-- The operations with Z = 0 of a unit, by native opcode (R493). -/
def zUnitHas (u op : Nat) : Bool :=
  match u with
  | 0 => decide (0x01 ≤ op) && decide (op ≤ 0x10)
  | 1 => op == 0x30 || op == 0x31
  | 2 => [0x01, 0x02, 0x06, 0x07, 0x08, 0x09, 0x0A, 0x0B, 0x0C, 0x0D, 0x0E, 0x0F, 0x29, 0x41, 0x43].contains op
  | 3 => decide (0x03 ≤ op) && decide (op ≤ 0x05)
  | 4 => (decide (0x18 ≤ op) && decide (op ≤ 0x1D)) || op == 0x20
  | 5 => decide (0x24 ≤ op) && decide (op ≤ 0x28)
  | 6 => op == 0x10 || op == 0x1E
  | 7 => op == 0x40
  | _ => false

/-- Types of two registers (R491). -/
def zWide (ty : Nat) : Bool := (ety ty).width == 64

/-- The native operation reads operand b, c of its unit; the shift count of `.imm` is no port. -/
def ZOp.usesB (u : Nat) (o : ZOp) : Bool :=
  if o.z then true
  else match u with
    | 0 | 3 | 6 => true
    | 2 => [0x01, 0x02, 0x06, 0x07, 0x0A, 0x0B, 0x0C, 0x29].contains o.op ||
        (decide (0x0D ≤ o.op) && decide (o.op ≤ 0x0F) && decide (o.sub % 2 = 0))
    | 4 => o.op != 0x20
    | _ => false
def ZOp.usesC (u : Nat) (o : ZOp) : Bool :=
  if o.z then o.op == 0x02 else (u == 3 && o.op == 0x05) || (u == 4 && o.op == 0x1B)

/-- The operand ports that an operation of unit `u` reads, and the result ports that it writes. -/
def ZOp.reads (u : Nat) (o : ZOp) : List Nat :=
  8 * u :: (if o.usesB u then [8 * u + 1] else []) ++ (if o.usesC u then [8 * u + 2] else []) ++
    (if u = 1 ∧ o.op = 0x31 then [11] else [])
def ZOp.writes (u : Nat) (o : ZOp) : List Nat :=
  if u = 6 then [53] else if u = 1 ∧ o.op = 0x31 then [] else [8 * u + 4]

/-- The register numbers that the fields of a native operation take (R493), with that of slot T. -/
structure ZFields where
  a : Nat
  b : Nat
  c : Nat
  d : Nat
  y : Nat
  p : Nat
  t : Nat
  deriving DecidableEq, Repr

/-- A VR operation of the portable form: RM, PG and PZ are zero (R493). -/
def zVr (vd va vb vc : Nat) (wide : Bool) (ty fn : Nat) : VR :=
  { vd := BitVec.ofNat 9 vd, va := BitVec.ofNat 9 va, pg := 0, pz := 0, gs := if wide then 1 else 0
    vb := BitVec.ofNat 9 vb, vc := BitVec.ofNat 9 vc, ty := BitVec.ofNat 4 ty, rm := 0, fn := BitVec.ofNat 7 fn }

/-- A whole-register access of `regs` registers. -/
def zVm (vd sa : Nat) (wide : Bool) (off : Int) : VM :=
  { vd := BitVec.ofNat 9 vd, va := 0, pg := 0, pz := 0, gs := if wide then 1 else 0, sa := BitVec.ofNat 5 sa, sb := 0
    off := BitVec.ofInt 12 off, ty := 0, fn := 0 }

/-- The native operations of a trigger of unit `u` (R493, R494); none for an operation that the unit does not have. -/
def ZOp.native (u : Nat) (o : ZOp) (r : ZFields) : List Instr :=
  let b := if o.usesB u then r.b else 0
  let c := if o.usesC u then r.c else 0
  if o.z then
    if u != 4 then []
    else
      let widen (vd va : Nat) : Instr := .vcvt (zVr vd va 0 0 false o.ty (o.ty2 + 16 * o.sub))
      match o.op with
      | 0x01 => [widen r.y r.a, widen r.t r.b, .vfmul (zVr r.y r.y r.t 0 false o.ty 0)]
      | 0x02 => [widen r.y r.a, widen r.t r.b, .vfma (zVr r.y r.y r.t r.c false o.ty 0)]
      | _ => []
  else if !zUnitHas u o.op then []
  else match u with
    | 0 => (ofRrr o.op { sd := BitVec.ofNat 5 r.y, sa := BitVec.ofNat 5 r.a, sb := BitVec.ofNat 5 b
                         fn := BitVec.ofNat 9 o.sub }).toList
    | 1 => (ofVm o.op (zVm (if o.op = 0x30 then r.y else r.d) r.a (zWide o.ty) 0)).toList
    | 6 => (ofVr o.op (zVr r.p r.a b c (zWide o.ty) o.ty o.sub)).toList
    | 7 => (ofVr o.op (zVr r.y 0 0 0 (zWide o.ty) o.ty o.sub)).toList
    | _ => (ofVr o.op (zVr r.y r.a b c (zWide o.ty) o.ty
             (if o.op = 0x20 then o.ty2 + 16 * o.sub else o.sub))).toList

/-- Registers to try an operation's fields with. -/
def zSample : ZFields := { a := 2, b := 4, c := 6, d := 8, y := 10, p := 1, t := 12 }

/-- An operation that zxt accepts (R493, R494): its native operations pass rows 5 and 6 of R76.  DESIGN CHOICE
(log 79): OPR's fields that reach no field of the native operation are ignored. -/
def ZOp.accepted (u : Nat) (o : ZOp) : Bool :=
  let l := o.native u zSample
  !l.isEmpty && l.all Instr.wf &&
    (if o.z then o.ty == 10 && (o.ty2 == 8 || o.ty2 == 9) && decide (o.sub ≤ 1)
     else if u = 1 then decide (o.ty ≤ 12)
     else if o.op = 0x20 then decide (o.sub ≤ 7) else true)

/-! What zxt refuses in a module (R495). -/

/-- The values and result ports that have been written. -/
structure ZSeen where
  vals  : List Nat
  ports : List Nat
  deriving DecidableEq, Repr

/-- ARG values count as written at entry (R495). -/
def zEntrySeen (vals : List ZValue) : ZSeen :=
  { vals := (List.range vals.length).filter fun i => match vals[i]? with
      | some v => v.arg
      | none => false
    ports := [] }

/-- The kind that a source gives; an immediate fits both kinds, and `none` is a source that R495 refuses. -/
def ZSource.kinds (vals : List ZValue) (seen : ZSeen) : ZSource → Option (List ZKind)
  | .value n => if seen.vals.contains n then (vals[n]?).map fun v => [v.kind] else none
  | .port n => if zRole n = some .result && seen.ports.contains n then (zKind n).map fun k => [k] else none
  | .imm x => some (.scalar :: (if -(2 ^ 17) ≤ x ∧ x < 2 ^ 17 then [.vector] else []))

/-- The kind that a destination takes; `none` is a destination that R495 refuses. -/
def ZDest.kind (vals : List ZValue) : ZDest → Option ZKind
  | .value n => (vals[n]?).map (·.kind)
  | .operand n => if zRole n = some .operand then zKind n else none
  | .trigger n o => if zRole n = some .trigger && o.accepted (n / 8) then zKind n else none

/-- A move that R495 accepts. -/
def ZMove.ok (vals : List ZValue) (seen : ZSeen) (m : ZMove) : Bool :=
  match m.src.kinds vals seen, m.dst.kind vals with
  | some l, some k => l.contains k
  | _, _ => false

/-- What a move writes. -/
def ZSeen.after (seen : ZSeen) (m : ZMove) : ZSeen :=
  match m.dst with
  | .value n => { seen with vals := n :: seen.vals }
  | .operand _ => seen
  | .trigger n o => { seen with ports := o.writes (n / 8) ++ seen.ports }

/-- The moves in order, up to the first that fails; `i` numbers them from 1. -/
def readZMoves (vals : List ZValue) : ZSeen → Nat → List (Option ZMove) → Except ZReject (List ZMove)
  | _, _, [] => .ok []
  | seen, i, m :: r =>
    match m with
    | none => .error (.move i)
    | some m =>
      if m.ok vals seen then (readZMoves vals (seen.after m) (i + 1) r).map (m :: ·) else .error (.move i)

/-- The entries in order, up to the first that fails; `i` numbers them from 0. -/
def readZEntries : Nat → List (Option ZValue) → Except ZReject (List ZValue)
  | _, [] => .ok []
  | i, v :: r =>
    match v with
    | none => .error (.entry i)
    | some v => (readZEntries (i + 1) r).map (v :: ·)

/-- The 8-byte words of a byte string, each `none` where bytes are missing. -/
def zWords (bs : List Byte) : Nat → List (Option Nat)
  | 0 => []
  | n + 1 => (if bs.length < 8 then none else some (leNat (bs.take 8))) :: zWords (bs.drop 8) n

/-- zxt reads and checks a module (R490 to R495).  DESIGN CHOICE (log 79): bytes behind the last move are ignored. -/
def readZpf (bs : List Byte) : Except ZReject ZModule :=
  let h := leNat (bs.take 32)
  let nval := bits h 47 32
  let nmove := bits h 63 48
  if bs.length < 32 || bits h 15 0 != 1 || bits h 31 16 != 32 || nval == 0 || decide (256 < nval) || nmove == 0 ||
      h / 2 ^ 64 != 0 then .error .header
  else
    match readZEntries 0 ((zWords (bs.drop 32) nval).map fun w => w.bind readZValue) with
    | .error e => .error e
    | .ok vals =>
      let words := zWords (bs.drop (32 + 8 * nval)) nmove
      (readZMoves vals (zEntrySeen vals) 1 (words.map fun w => w.bind readZMove)).map fun l =>
        { vals := vals, moves := l }

/-! Widths.  DESIGN CHOICE (log 79): a move copies as many registers as its destination value has, into a port as
many as its source gives; an immediate gives a port one. -/

/-- The result of an operation has two registers. -/
def ZOp.wideResult (u : Nat) (o : ZOp) : Bool :=
  !o.z && zWide o.ty && u != 0 && u != 7 && o.op != 0x28 && o.op != 0x29

/-- A move copies two registers; `wide` lists the ports that hold two. -/
def ZMove.wide (vals : List ZValue) (wide : List Nat) (m : ZMove) : Bool :=
  let two (n : Nat) : Bool := match vals[n]? with
    | some v => v.kind == .vector && zWide v.ty
    | none => false
  match m.dst, m.src with
  | .value n, _ => two n
  | _, .value n => two n
  | _, .port p => wide.contains p
  | _, .imm _ => false

/-- The ports that hold two registers after a move. -/
def ZMove.widths (vals : List ZValue) (wide : List Nat) (m : ZMove) : List Nat :=
  let put (l : List Nat) (p : Nat) (w : Bool) : List Nat := if w then p :: l else l.filter (· != p)
  match m.dst with
  | .value _ => wide
  | .operand p => put wide p (m.wide vals wide)
  | .trigger p o => (o.writes (p / 8)).foldl (fun l y => put l y (o.wideResult (p / 8)))
      (put wide p (m.wide vals wide))

/-! What a module does (R495). -/

/-- What a port or a value holds: two vector registers, or a scalar in the low 64 bits. -/
abbrev ZDatum := BitVec 4096

def ZDatum.reg (x : ZDatum) (j : Nat) : VReg := x.extractLsb' (2048 * j) 2048
def zPair (lo hi : VReg) : ZDatum := hi ++ lo

/-- A module on a machine: the machine, and what the values and the ports hold. Every entry state is one: a port that
no move has latched holds what it held at entry. -/
structure ZEnv where
  s     : State
  vals  : Tab ZDatum := []
  ports : Tab ZDatum := []
  wide  : List Nat := []
  deriving DecidableEq

/-- An immediate (R492, R500): a scalar, or an .i32 in every lane. -/
def zImm (k : ZKind) (x : Int) : ZDatum :=
  if k = .scalar then BitVec.ofNat 4096 (word x).toNat
  else BitVec.ofNat 4096 (packElts 32 (List.replicate 128 (lowBits x 32)))

/-- A datum latched over an older one: one register leaves the second as it was. -/
def ZDatum.over (new old : ZDatum) (two : Bool) : ZDatum := if two then new else zPair (new.reg 0) (old.reg 1)

/-- The registers in which a native operation works for unit `u` while a module runs: scalars for the units of
scalar ports. -/
def zScratch (u : Nat) : ZFields :=
  { a := if u = 0 ∨ u = 1 ∨ u = 7 then 1 else 0, b := 2, c := 4, d := 6, y := if u = 0 then 3 else 8
    p := 1, t := 10 }

/-- The register file of a native operation: its operand ports in the registers of `zScratch`. -/
def ZEnv.regs (e : ZEnv) (u : Nat) : Regs :=
  let f := zScratch u
  let port (k : Nat) : ZDatum := Tab.look 0 e.ports (8 * u + k)
  let vec (t : Tab VReg) (r : Nat) (x : ZDatum) : Tab VReg := Tab.store (Tab.store t r (x.reg 0)) (r + 1) (x.reg 1)
  let scalars := Tab.store (Tab.store (Tab.store [] 1 ((port 0).setWidth 64)) 2 ((port 1).setWidth 64)) 3
    ((port 4).setWidth 64)
  let vectors := vec (vec (vec (vec (vec [] 0 (port 0)) f.b (port 1)) f.c (port 2)) f.d (port 3)) 8 (port 4)
  { s := scalars, v := vectors, p := [(1, (port 5).setWidth 256)] }

/-- One native operation of a trigger, alone: its results land before the next one (R495). -/
def zNative (n slot : Nat) (i : Instr) (s : State) : Res State :=
  let s := s.onCore n fun c => { c with eng := { c.eng with ports := [], starved := [] } }
  (State.slotOp none { core := n, slot := slot, now := s.now } i s).map fun s => s.onCore n fun c => c.drain ctlInfo

/-- A trigger (R493 to R495): the native operations act on the operand ports; the core's registers, results in
flight and held ports are left as they were, and the result ports take what the operations wrote. -/
def ZEnv.trigger (n u : Nat) (o : ZOp) (e : ZEnv) : Res ZEnv :=
  let f := zScratch u
  let c := e.s.core n
  let start := e.s.onCore n fun c => { c with regs := e.regs u, seq := { c.seq with flight := [] } }
  let slot := if u = 0 then 0 else 1
  let ran := (o.native u f).foldl (fun (r : Res State) i => r.andThen (zNative n slot i)) (.ok start)
  ran.bind (fun s =>
    let d := s.core n
    let y : ZDatum :=
      if u = 0 then BitVec.ofNat 4096 (d.sreg 3).toNat
      else if u = 6 then BitVec.ofNat 4096 (d.preg 1).toNat
      else zPair (d.vreg 8) (d.vreg 9)
    let s := s.onCore n fun d => { d with
      regs := c.regs
      seq := { d.seq with flight := c.seq.flight }
      eng := { d.eng with ports := c.eng.ports, starved := c.eng.starved } }
    .ok { e with s := s, ports := (o.writes u).foldl (fun t p => Tab.store t p y) e.ports })
    fun _ => e

/-- The datum that a source gives to a destination of kind `k`. -/
def ZEnv.read (e : ZEnv) (k : ZKind) : ZSource → ZDatum
  | .value n => Tab.look 0 e.vals n
  | .port n => Tab.look 0 e.ports n
  | .imm x => zImm k x

/-- One move (R495). -/
def ZEnv.move (n : Nat) (vals : List ZValue) (m : ZMove) (e : ZEnv) : Res ZEnv :=
  let k := (m.dst.kind vals).getD .scalar
  let two := k == .scalar || m.wide vals e.wide
  let x := e.read k m.src
  let latch (t : Tab ZDatum) (i : Nat) : Tab ZDatum := Tab.store t i (x.over (Tab.look 0 t i) two)
  let e' := { e with wide := m.widths vals e.wide }
  match m.dst with
  | .value i => .ok { e' with vals := latch e.vals i }
  | .operand p => .ok { e' with ports := latch e.ports p }
  | .trigger p o => ZEnv.trigger n (p / 8) o { e' with ports := latch e.ports p }

/-- A module runs on core `n`: its moves take effect one at a time, in order (R495). A trap of a native operation ends
the run. -/
def ZModule.run (n : Nat) (m : ZModule) (e : ZEnv) : Res ZEnv :=
  m.moves.foldl (fun (r : Res ZEnv) x => r.andThen (ZEnv.move n m.vals x)) (.ok e)

/-! Binding (R497 to R499). -/

/-- The settings of zxt (R497). -/
structure ZSettings where
  vbase    : Nat
  vcount   : Nat
  sbase    : Nat
  scount   : Nat
  pbase    : Nat
  pcount   : Nat
  spill    : Nat
  spillLen : Nat
  start    : Nat
  deriving DecidableEq, Repr

/-- The limits of R497. -/
def ZSettings.ok (x : ZSettings) : Bool :=
  x.vbase % 2 == 0 && x.vcount % 2 == 0 && decide (x.vbase + x.vcount ≤ 256) &&
    decide (1 ≤ x.sbase) && decide (x.sbase + x.scount ≤ 31) &&
    decide (1 ≤ x.pbase) && decide (x.pbase + x.pcount ≤ 16) &&
    x.spill % 256 == 0 && decide (x.spill < 0x140000) && decide (0x100000 ≤ x.spill) && decide (x.spill + x.spillLen ≤ 0x140000)

/-- A move names a port (R498).  DEDUCED (log 79): a trigger names every port that its operation reads or writes. -/
def ZMove.names (m : ZMove) (p : Nat) : Bool :=
  m.src == .port p || match m.dst with
    | .value _ => false
    | .operand q => q == p
    | .trigger q o => (o.reads (q / 8) ++ o.writes (q / 8)).contains p

/-- The ports of a kind that moves name, in ascending number. -/
def ZModule.ports (m : ZModule) (k : ZKind) : List Nat :=
  (List.range 64).filter fun p => zKind p == some k && m.moves.any fun x => x.names p

/-- The module uses an operation of R494. -/
def ZModule.fuses (m : ZModule) : Bool := m.moves.any fun x => match x.dst with
  | .trigger _ o => o.z
  | _ => false

def ZModule.isVector (m : ZModule) (v : Nat) : Bool := match m.vals[v]? with
  | some x => x.kind == .vector
  | none => false

/-- The scalar arguments, in ascending number. -/
def ZModule.args (m : ZModule) : List Nat := (zEntrySeen m.vals).vals

/-- Where the registers of a module go (R498): ports, slot T, the spill base, and the slots of each kind of values. -/
structure ZBinding where
  port   : Tab Nat
  t      : Nat
  base   : Nat
  args   : Tab Nat
  vslots : List Nat
  sslots : List Nat
  deriving DecidableEq, Repr

/-- The binding of R498; `none` when a class has too few registers. -/
def ZModule.bind (m : ZModule) (x : ZSettings) : Option ZBinding :=
  let slots := (List.range (x.vcount / 2)).map fun k => x.vbase + 2 * k
  let sregs := (List.range x.scount).map (x.sbase + ·)
  let vports := m.ports .vector
  let sports := m.ports .scalar
  let pports := m.ports .predicate
  let nargs := m.args.length
  let nt := if m.fuses then 1 else 0
  if slots.length < vports.length + nt || sregs.length < nargs + 1 + sports.length ||
      x.pcount < pports.length then none
  else
    let ports := (vports.zip slots) ++ (sports.zip (sregs.drop (nargs + 1))) ++
      (pports.zip ((List.range x.pcount).map (x.pbase + ·)))
    some {
      port := ports.foldl (fun t e => Tab.store t e.1 e.2) []
      t := (slots.drop vports.length).headD 0
      base := (sregs.drop nargs).headD 0
      args := m.args.zip sregs
      vslots := slots.drop (vports.length + nt)
      sslots := sregs.take nargs ++ sregs.drop (nargs + 1 + sports.length) }

/-- Where a value is: nowhere yet, in a register, or in its spill slot (R499). -/
inductive ZLoc where
  | unset
  | reg (r : Nat)
  | spilled (k : Nat)
  deriving DecidableEq, Repr

/-- A local access of a native operation: its spill address, or `none` for an access of the module's own. -/
structure ZAccess where
  write : Bool
  addr  : Option Nat
  bytes : Nat
  deriving DecidableEq, Repr

/-- A native operation to place; `chain`: no earlier than the one before it. -/
structure ZItem where
  op    : Instr
  acc   : Option ZAccess := none
  chain : Bool := false
  deriving DecidableEq, Repr

/-- What zxt keeps while it goes through the moves. -/
structure ZTrans where
  loc    : Tab ZLoc
  vspill : Nat := 0
  sspill : Nat := 0
  wide   : List Nat := []
  items  : List ZItem := []
  deriving DecidableEq, Repr

/-- The number of moves before the next read of a value; a value never read again counts as latest. -/
def zNextRead (rest : List ZMove) (v : Nat) : Nat := rest.findIdx fun m => m.src == .value v

/-- ADDI sd, s0, x, with the extension syllable when IMM14 is too narrow (R72, R500). -/
def zAddi (sd : Nat) (x : Int) : Instr :=
  let fits := -(2 ^ 13) ≤ x ∧ x < 2 ^ 13
  .addi { sd := BitVec.ofNat 5 sd, sa := 0, imm := BitVec.ofInt 14 x
          ext := if fits then none else some (BitVec.ofInt 32 (x / 2 ^ 14)) }

/-- The fixed things of a translation: the module, its binding, and the number of vector values spilled in all. -/
structure ZPlan where
  m     : ZModule
  b     : ZBinding
  spill : Nat
  nv    : Nat
  deriving DecidableEq, Repr

/-- The value is of two registers. -/
def ZPlan.two (p : ZPlan) (v : Nat) : Bool := match p.m.vals[v]? with
  | some x => x.kind == .vector && zWide x.ty
  | none => false

/-- The offset of spill slot `k` from SPILL: vector slots of 512 bytes, the 8-byte scalar slots behind them (R499). -/
def ZPlan.offset (p : ZPlan) (vector : Bool) (k : Nat) : Nat := if vector then 512 * k else 512 * p.nv + 8 * k

/-- A store to, or a load from, the spill slot of a value (R500). -/
def ZPlan.spillItem (p : ZPlan) (write : Bool) (v k r : Nat) : ZItem :=
  let vector := p.m.isVector v
  let off := p.offset vector k
  let two := p.two v
  let bytes := if !vector then 8 else if two then 512 else 256
  let acc : ZAccess := { write := write, addr := some (p.spill + off), bytes := bytes }
  let f := zVm r p.b.base two (off / 256 : Nat)
  let g : SRI := { sd := BitVec.ofNat 5 r, sa := BitVec.ofNat 5 p.b.base, imm := BitVec.ofNat 14 off
                   ext := if off < 2 ^ 13 then none else some (BitVec.ofNat 32 (off / 2 ^ 14)) }
  { op := if vector then (if write then .vst f else .vld f) else if write then .std g else .ldd g, acc := some acc }

def ZTrans.where_ (t : ZTrans) (v : Nat) : ZLoc := Tab.look .unset t.loc v
def ZTrans.add (t : ZTrans) (l : List ZItem) : ZTrans := { t with items := t.items ++ l }

/-- The value gets the next spill slot of its kind. -/
def ZTrans.spillValue (p : ZPlan) (t : ZTrans) (v : Nat) : ZTrans × Nat :=
  if p.m.isVector v then ({ t with loc := Tab.store t.loc v (.spilled t.vspill), vspill := t.vspill + 1 }, t.vspill)
  else ({ t with loc := Tab.store t.loc v (.spilled t.sspill), sspill := t.sspill + 1 }, t.sspill)

/-- A value that is written for the first time takes the lowest free slot of its kind, or the value whose next read
comes latest is spilled (R499).  DEDUCED (log 79): a value holds its slot until it is spilled, and arguments hold
theirs from the entry. -/
def ZTrans.allocate (p : ZPlan) (rest : List ZMove) (t : ZTrans) (v : Nat) : ZTrans :=
  let vector := p.m.isVector v
  let slots := if vector then p.b.vslots else p.b.sslots
  let held := t.loc.filterMap fun e => match e.2 with
    | .reg r => if p.m.isVector e.1 == vector then some (e.1, r) else none
    | _ => none
  match slots.find? fun r => !(held.any fun h => h.2 == r) with
  | some r => { t with loc := Tab.store t.loc v (.reg r) }
  | none =>
    let later (x y : Nat) : Bool :=
      let (i, j) := (zNextRead rest x, zNextRead rest y)
      decide (i < j) || (i == j && decide (x < y))
    let victim := (held.map (·.1)).foldl (fun w x => if later w x then x else w) v
    match t.where_ victim with
    | .reg r =>
      let (t, k) := t.spillValue p victim
      { (t.add [p.spillItem true victim k r]) with loc := Tab.store t.loc v (.reg r) }
    | _ => (t.spillValue p v).1

/-- A copy between registers (R500): VOR.n32, or ADD with s0. -/
def zCopy (k : ZKind) (two : Bool) (d s : Nat) : ZItem :=
  { op := if k = .scalar then .add { sd := BitVec.ofNat 5 d, sa := BitVec.ofNat 5 s, sb := 0, fn := 0 }
          else .vor (zVr d s s 0 two 6 0) }

/-- An immediate into a register (R500). -/
def zImmItem (k : ZKind) (two : Bool) (d : Nat) (x : Int) : ZItem :=
  { op := if k = .scalar then zAddi d x
          else .vbcast { vd := BitVec.ofNat 9 d, va := 0, pg := 0, pz := 0, gs := if two then 1 else 0
                         imm := BitVec.ofInt 18 x, ty := 2, rm := 0, fn := 0 } }

/-- The register of a source that stands in one. -/
def ZPlan.regOf (p : ZPlan) (t : ZTrans) : ZSource → Option Nat
  | .value v => match t.where_ v with
    | .reg r => some r
    | _ => none
  | .port q => some (Tab.look 0 p.b.port q)
  | .imm _ => none

/-- A source into the register `d` (R500). -/
def ZPlan.into (p : ZPlan) (t : ZTrans) (k : ZKind) (two : Bool) (d : Nat) (src : ZSource) : ZItem :=
  match src, p.regOf t src with
  | _, some r => zCopy k two d r
  | .imm x, none => zImmItem k two d x
  | .value v, none => match t.where_ v with
    | .spilled n => p.spillItem false v n d
    | _ => zCopy k two d 0
  | .port _, none => zCopy k two d 0

/-- The registers of a unit's ports. -/
def ZPlan.fields (p : ZPlan) (u a : Nat) : ZFields :=
  let r (k : Nat) : Nat := Tab.look 0 p.b.port (8 * u + k)
  { a := a, b := r 1, c := r 2, d := r 3, y := r 4, p := r 5, t := p.b.t }

/-- The access of a native operation of the module. -/
def zModuleAccess : Instr → Option ZAccess
  | .vld f => some { write := false, addr := none, bytes := 256 * gsize f.gs }
  | .vst f => some { write := true, addr := none, bytes := 256 * gsize f.gs }
  | _ => none

/-- The native operations of a move (R500).  DESIGN CHOICE (log 79): a move into a spilled value from a spilled value
or an immediate has no register to pass through, and the settings are refused. -/
def ZTrans.move (p : ZPlan) (m : ZMove) (rest : List ZMove) (t : ZTrans) : Option ZTrans :=
  let k := (m.dst.kind p.m.vals).getD .scalar
  let two := m.wide p.m.vals t.wide
  let next (t : ZTrans) : ZTrans := { t with wide := m.widths p.m.vals t.wide }
  match m.dst with
  | .value v =>
    let t := if t.where_ v = .unset then t.allocate p rest v else t
    match t.where_ v, p.regOf t m.src with
    | .spilled n, some r => some (next (t.add [p.spillItem true v n r]))
    | .spilled _, none => none
    | .reg d, _ => some (next (t.add [p.into t k two d m.src]))
    | .unset, _ => none
  | .operand q => some (next (t.add [p.into t k two (Tab.look 0 p.b.port q) m.src]))
  | .trigger q o =>
    let u := q / 8
    let a := Tab.look 0 p.b.port q
    let (pre, a) := match p.regOf t m.src with
      | some r => ([], r)
      | none => ([p.into t k two a m.src], a)
    let ops := (o.native u (p.fields u a)).map fun i => ({ op := i, acc := zModuleAccess i, chain := o.z } : ZItem)
    let ops := match ops with
      | x :: r => { x with chain := false } :: r
      | [] => []
    some (next (t.add (pre ++ ops)))

/-- The moves in order. -/
def ZTrans.moves (p : ZPlan) : List ZMove → ZTrans → Option ZTrans
  | [], t => some t
  | m :: r, t => match t.move p m r with
    | some t => ZTrans.moves p r t
    | none => none

/-! Schedule (R501). -/

/-- The latencies of R95 of the operations that zxt emits. -/
def zLatency : Instr → Nat
  | .mul _ | .mulh _ => 3
  | .div _ | .rem _ => 20
  | .ldd _ => 4
  | .vmul _ | .vmulh _ | .vmadd _ | .vfadd _ | .vfsub _ | .vfmul _ | .vfma _ | .vfmin _ | .vfmax _ | .vcvt _ => 4
  | .vexp2 _ | .vlog2 _ | .vrcp _ | .vrsq _ => 10
  | .vred _ => 8
  | .vperm _ | .vordk _ | .vcnt _ => 3
  | .vld _ | .accpop _ => 6
  | .vst _ | .vadd _ | .vsub _ | .vmin _ | .vmax _ | .vabs _ | .vneg _ | .vand _ | .vor _ | .vxor _
  | .vshl _ | .vshr _ | .vsha _ | .vcmp _ | .vfcmp _ | .vbcast _ => 2
  | _ => 1

/-- A placed operation. -/
structure ZPlaced where
  cycle : Nat
  slot  : Nat
  item  : ZItem
  deriving DecidableEq, Repr

/-- Two operands share a register. -/
def zShare (x y : Operand) : Bool := x.cls == y.cls && x.cls != .queue && rangesMeet x.num x.cnt y.num y.cnt

/-- The rows behind each port that an access needs; any port, when the address is the module's own. -/
def ZAccess.rows (x : ZAccess) : List (Nat × Nat) :=
  let n := (x.bytes + 255) / 256
  match x.addr with
  | none => (List.range 20).map fun q => (q, n)
  | some a =>
    accessRows {
      write := x.write
      pieces := (List.range n).map fun (i : Nat) => ((a : Int) + 256 * (i : Int), min x.bytes 256) }

/-- The two accesses, at their cycles, use one port twice (R197, R501). -/
def zPortsMeet (x : ZAccess) (i : Nat) (y : ZAccess) (j : Nat) : Bool :=
  x.write == y.write && x.rows.any fun a => y.rows.any fun b => a.1 == b.1 && rangesMeet i a.2 j b.2

/-- A load reads bytes that an earlier store writes.  DEDUCED (log 79): the module's own accesses may meet each
other, and do not meet the spill area. -/
def zReadsFrom (load store : ZAccess) : Bool :=
  !load.write && store.write && match load.addr, store.addr with
    | some a, some b => rangesMeet a load.bytes b store.bytes
    | none, none => true
    | _, _ => false

/-- The first cycle that one placed operation leaves to a later one (R501). -/
def ZPlaced.bound (q : ZPlaced) (x : ZItem) : Nat :=
  let mine := x.op.operands
  let his := q.item.op.operands
  let L := zLatency q.item.op
  let hits (w v : Bool) : Bool := mine.any fun m => m.write == w && his.any fun h => h.write == v && zShare m h
  let read := if hits false true then q.cycle + L else 0
  let anti := if hits true false then q.cycle else 0
  let write := if hits true true then q.cycle + L + 1 - zLatency x.op else 0
  let mem := match x.acc, q.item.acc with
    | some a, some b => if zReadsFrom a b then q.cycle + L else q.cycle
    | _, _ => 0
  max (max read anti) (max write mem)

/-- The slot that an operation finds free in a cycle, V0 before V1 (R501). -/
def zSlot (placed : List ZPlaced) (i : Instr) (t : Nat) : Option Nat :=
  let free (k : Nat) : Bool := !(placed.any fun q => q.cycle == t && q.slot == k)
  (if i.slotClass = some .s then [0] else [1, 2]).find? free

/-- Places one operation at the earliest cycle (R501).  DESIGN CHOICE (log 79): two operations of one cycle do not
write one register, since R104 refuses such a bundle. -/
def zPlace (start : Nat) (placed : List ZPlaced) (x : ZItem) : List ZPlaced :=
  let chain := if x.chain then (placed.getLast?.map (·.cycle)).getD 0 else 0
  let lo := placed.foldl (fun m q => max m (q.bound x)) (max start chain)
  let portsFree (t : Nat) : Bool := match x.acc with
    | none => true
    | some a => !(placed.any fun q => match q.item.acc with
      | some b => zPortsMeet a t b q.cycle
      | none => false)
  let apart (t : Nat) : Bool := !(placed.any fun q => q.cycle == t && x.op.operands.any fun m =>
    m.write && q.item.op.operands.any fun h => h.write && zShare m h)
  let fits (t : Nat) : Bool := (zSlot placed x.op t).isSome && portsFree t && apart t
  match (List.range (3 * placed.length + 1)).find? fun d => fits (lo + d) with
  | some d => placed ++ [{ cycle := lo + d, slot := (zSlot placed x.op (lo + d)).getD 0, item := x }]
  | none => placed

/-- A native bundle of the output: every one has HUSH (R500). -/
structure ZBundle where
  cycle : Nat
  stall : Nat
  ops   : List (Nat × Instr)
  deriving DecidableEq, Repr

/-- Empty bundles for `gap` cycles from `t` on, each of at most 16 cycles. -/
def zGap : Nat → Nat → Nat → List ZBundle
  | 0, _, _ => []
  | n + 1, t, gap =>
    if gap = 0 then []
    else { cycle := t, stall := min 15 (gap - 1), ops := [] } :: zGap n (t + min 16 gap) (gap - min 16 gap)

/-- The bundles of the placed operations; a gap becomes a STALL count, what is beyond 15 empty bundles (R501). -/
def zBundles (placed : List ZPlaced) : List Nat → List ZBundle
  | [] => []
  | t :: r =>
    let ops := (List.range 6).filterMap fun k =>
      (placed.find? fun q => q.cycle == t && q.slot == k).map fun q => (k, q.item.op)
    let gap := match r with
      | u :: _ => u - t - 1
      | [] => 0
    { cycle := t, stall := min 15 gap, ops := ops } ::
      (zGap gap (t + 1 + min 15 gap) (gap - min 15 gap) ++ zBundles placed r)

/-- zxt's translation of a module under settings (R497 to R501). -/
def ZModule.translate (m : ZModule) (x : ZSettings) : Except ZReject (List ZBundle) :=
  match x.ok, m.bind x with
  | true, some b =>
    let entry : ZTrans := { loc := b.args.map fun e => (e.1, ZLoc.reg e.2) }
    let go (nv : Nat) : Option ZTrans := ZTrans.moves { m := m, b := b, spill := x.spill, nv := nv } m.moves entry
    match (go 0).bind fun t => go t.vspill with
    | none => .error .settings
    | some t =>
      if x.spillLen < 512 * t.vspill + 8 * t.sspill then .error .settings
      else
        let items := { op := zAddi b.base x.spill } :: t.items
        let placed := items.foldl (zPlace x.start) []
        let stop := placed.foldl (fun m q => max m (q.cycle + 1)) 0
        let cycles := (List.range stop).filter fun t => placed.any fun q => q.cycle == t
        .ok (zBundles placed cycles)
  | _, _ => .error .settings

/-- zxt on a module's bytes. -/
def zxt (bs : List Byte) (x : ZSettings) : Except ZReject (List ZBundle) :=
  match readZpf bs with
  | .error e => .error e
  | .ok m => m.translate x

/-! Bundles in code lines (R62, R65, R70, R75, R89). -/

/-- The syllables of a bundle of the output. -/
def ZBundle.words (b : ZBundle) : List Word32 :=
  let present := b.ops.foldl (fun a o => a ||| BitVec.ofNat 6 (2 ^ o.1)) 0#6
  headWord {
    present := present, stall := b.stall, rep := 0, rot := false, early := false, safe := false, hush := true } ::
    (b.ops.map fun o => (encode o.2).getD []).flatten

/-- A code line under construction: its bundles with their start positions and TARGET bits, and the first syllable
that is free. -/
structure ZLine where
  bundles : List (Nat × Bool × List Word32) := []
  free    : Nat := 1
  deriving DecidableEq, Repr

/-- The line as 1024 bits: the header with START and TARGET, the bundles, NOP syllables between them (R62). -/
def ZLine.bits (l : ZLine) : BitVec 1024 :=
  let header := l.bundles.foldl (fun a b => a + 2 ^ b.1 + (if b.2.1 then 2 ^ (16 + b.1) else 0)) 0
  BitVec.ofNat 1024 (l.bundles.foldl (fun a b => a + lineOf b.2.2 * 2 ^ (32 * posSyllable b.1)) header)

/-- The lowest start position of the line at which a bundle of `n` syllables is well placed (R89). -/
def ZLine.room (l : ZLine) (n : Nat) : Option Nat :=
  (List.range 16).find? fun i => decide (l.free ≤ posSyllable i) && decide (posSyllable i + n ≤ 32)

def ZLine.put (l : ZLine) (i : Nat) (target : Bool) (ws : List Word32) : ZLine :=
  { bundles := l.bundles ++ [(i, target, ws)], free := posSyllable i + ws.length }

/-- The lines of a segment's bundles, each with its TARGET bit (R89); `l` is the line under way. -/
def packLines (l : ZLine) : List (Bool × List Word32) → List (BitVec 1024)
  | [] => [l.bits]
  | (target, ws) :: r =>
    match l.room ws.length with
    | some i => packLines (l.put i target ws) r
    | none => l.bits :: packLines (({} : ZLine).put 0 target ws) r

end Sys2Proof.Machine
end

