-- ==== Sys2Proof/Machine/Zxas.lean ====
section
/-! DEFINITION. The assembler zxas behind its text (R84 to R89, R156): bundles and directives as data, expressions and
literals, the checks of a source, TARGET bits, the placing in code lines, and the image of R37 to R41 and R153. Names
are numbers here; comments, spelling and mnemonics (R83, R85) are read before. -/

namespace Sys2Proof.Machine

/-! Expressions and literals (R86). -/

inductive AExpr where
  | lit (x : Int)
  | name (n : Nat)
  | neg (a : AExpr)
  | inv (a : AExpr)
  | mul (a b : AExpr)
  | div (a b : AExpr)
  | add (a b : AExpr)
  | sub (a b : AExpr)
  | shl (a b : AExpr)
  | shr (a b : AExpr)
  | and (a b : AExpr)
  | xor (a b : AExpr)
  deriving DecidableEq, Repr

/-- A bit operation on the two's-complement bits of exact integers (R86). -/
def intBits (f : (w : Nat) → BitVec w → BitVec w → BitVec w) (a b : Int) : Int :=
  let w := Nat.log2 (max a.natAbs b.natAbs) + 2
  (f w (BitVec.ofInt w a) (BitVec.ofInt w b)).toInt

/-- The value of an expression on exact integers; `none` is an error (R86).  DESIGN CHOICE (log 80): a division by
zero is an error. -/
def AExpr.eval (env : Nat → Option Int) : AExpr → Option Int
  | .lit x => some x
  | .name n => env n
  | .neg a => (a.eval env).map fun x => -x
  | .inv a => (a.eval env).map fun x => -x - 1
  | .mul a b => (a.eval env).bind fun x => (b.eval env).map fun y => x * y
  | .div a b => (a.eval env).bind fun x => (b.eval env).bind fun y => if y = 0 then none else some (x.tdiv y)
  | .add a b => (a.eval env).bind fun x => (b.eval env).map fun y => x + y
  | .sub a b => (a.eval env).bind fun x => (b.eval env).map fun y => x - y
  | .shl a b => (a.eval env).bind fun x => (b.eval env).bind fun y => if y < 0 then none else some (x * 2 ^ y.toNat)
  | .shr a b => (a.eval env).bind fun x => (b.eval env).bind fun y =>
    if y < 0 then none else some (x / (2 ^ y.toNat : Nat))
  | .and a b => (a.eval env).bind fun x => (b.eval env).map fun y => intBits (fun _ x y => x &&& y) x y
  | .xor a b => (a.eval env).bind fun x => (b.eval env).map fun y => intBits (fun _ x y => x ^^^ y) x y

/-- The names that an expression holds. -/
def AExpr.names : AExpr → List Nat
  | .lit _ => []
  | .name n => [n]
  | .neg a | .inv a => a.names
  | .mul a b | .div a b | .add a b | .sub a b | .shl a b | .shr a b | .and a b | .xor a b => a.names ++ b.names

/-- A floating-point literal: its decimal digits as a number, times a power of ten (R86). -/
structure AFloat where
  neg    : Bool
  digits : Nat
  exp    : Int
  deriving DecidableEq, Repr

/-- The literal's value, with a last bit that says whether digits below 2^−200 are left out; no format here rounds
at that place. -/
def AFloat.val (x : AFloat) : Val :=
  if 0 ≤ x.exp then .num x.neg (x.digits * 10 ^ x.exp.toNat) 0
  else
    let n := x.digits * 2 ^ 200
    let d := 10 ^ x.exp.natAbs
    .num x.neg (2 * (n / d) + (if n % d = 0 then 0 else 1)) (-201)

/-- What stands for a number in the source (R86). -/
inductive AValue where
  | expr (e : AExpr)
  | float (x : AFloat)
  deriving DecidableEq, Repr

/-- The code of a `.data` value of a type (R86). -/
def AValue.code (env : Nat → Option Int) (t : ETy) : AValue → Option Nat
  | .expr e => (e.eval env).bind fun x =>
    let w := t.width
    if t.isInt then (if -(2 ^ (w - 1) : Nat) ≤ x ∧ x < (2 ^ w : Nat) then some (lowBits x w) else none)
    else if 0 ≤ x ∧ x < (2 ^ w : Nat) then some x.toNat else none
  | .float x => if t.isInt then none else some (roundTo t x.val .rne 0).code

/-! Operations (R84 to R86). -/

/-- An operation: the instruction with its fields, and what stands for its immediate, offset or branch target, when
that is written as an expression. -/
structure AOp where
  op    : Instr
  value : Option AValue := none
  /-- The label `back` of a CALL (R146). -/
  back  : Option Nat := none
  deriving DecidableEq, Repr

/-- The instruction of a class from its code and operand record. -/
def instrOf (cls : SlotClass) (op : Nat) : Form → Option Instr
  | .rrr f => ofRrr op f
  | .ri f => ofRi op f
  | .b f => ofB op f
  | .j f => ofJ op f
  | .sq f => ofSq op f
  | .vr f => ofVr op f
  | .vi f => ofVi op f
  | .vm f => ofVm op f
  | .vq f => ofVq op f
  | .m f => if cls = .m then ofM op f else none
  | .c f => if cls = .c then ofC op f else none

/-- A signed field of `n` bits that an extension syllable widens by 32 (R72): its low bits, and the extension. -/
def extended (n : Nat) (wide : Bool) (x : Int) : Option (BitVec n × Option Word32) :=
  if !wide && decide (-(2 ^ (n - 1) : Nat) ≤ x) && decide (x < (2 ^ (n - 1) : Nat)) then
    some (BitVec.ofInt n x, none)
  else if -(2 ^ (n + 31) : Nat) ≤ x ∧ x < (2 ^ (n + 31) : Nat) then
    some (BitVec.ofInt n x, some (BitVec.ofInt 32 (x / (2 ^ n : Nat))))
  else none

/-- A signed field of `n` bits that counts units of `u` bytes (R85). -/
def scaled (n u : Nat) (x : Int) : Option (BitVec n) :=
  let k := x / (u : Int)
  if x % (u : Int) = 0 ∧ -(2 ^ (n - 1) : Nat) ≤ k ∧ k < (2 ^ (n - 1) : Nat) then some (BitVec.ofInt n k) else none

/-- An unsigned field of `n` bits. -/
def unsigned (n : Nat) (x : Int) : Option (BitVec n) :=
  if 0 ≤ x ∧ x < (2 ^ n : Nat) then some (BitVec.ofInt n x) else none

/-- The low bits of IMM14 replaced: those above keep CA, or the form of CAPLD (R157, R158, R161). -/
def lowImm (f : SRI) {n : Nat} (v : BitVec n) : Form :=
  .ri { f with imm := BitVec.ofNat 14 (setBits f.imm.toNat (n - 1) 0 v.toNat) }

/-- IMM16 of an M or C operation: an address in units of 256 bytes (R271, R273, R275, R299, R342) or of 4 (R318), the
rows of MEMROW less one (R351), and else a mask, count or tag. -/
def imm16Of (x : Int) : Instr → Option (BitVec 16)
  | .bload _ | .bsparse _ | .btag _ | .accexp _ | .accexpRemote _ | .cpset _ => scaled 16 256 x
  | .carry _ | .carryRemote _ | .carryw _ => scaled 16 4 x
  | .memrowCopy _ | .memrowZero _ => unsigned 16 (x - 1)
  | _ => unsigned 16 x

/-- VC of a V operation whose immediate it holds (R179, R192, R194, R201, R203, R290). -/
def vcOf (x : Int) : Instr → Option (BitVec 9)
  | .vshl f | .vshr f | .vsha f => if f.fn.getLsbD 0 then unsigned 9 x else none
  | .vshuf f => if f.fn = 5 then unsigned 9 x else none
  | .vextr _ | .vdigit _ | .vnwatch _ => unsigned 9 x
  | .accpop _ => scaled 9 1 x
  | _ => none

/-- The field that an expression's value gives (R85, R86): an immediate, an offset, or the target of a bundle at
`here`, in syllables; `none` when the value does not fit. -/
def formWithValue (here : Int) (wide : Bool) (x : Int) (i : Instr) : Form → Option Form
  | .ri f => match i with
    | .gld _ | .gst _ => (scaled 10 8 x).map (lowImm f)
    | .capldMemory _ | .capst _ => (scaled 9 32 x).map (lowImm f)
    | .capld _ => (unsigned 8 x).map (lowImm f)
    | _ => (extended 14 wide x).map fun v => .ri { f with imm := v.1, ext := v.2 }
  | .b f => if (x - here) % 4 = 0 then
      (extended 14 wide ((x - here) / 4)).map fun v => .b { f with off := v.1, ext := v.2 } else none
  | .j f => if (x - here) % 4 = 0 then
      (extended 24 wide ((x - here) / 4)).map fun v => .j { f with off := v.1, ext := v.2 } else none
  | .vm f => (scaled 12 256 x).map fun v => .vm { f with off := v }
  | .vi f =>
    if tyInt f.ty || f.fn != 0 then (scaled 18 1 x).map fun v => .vi { f with imm := v }
    else (unsigned 18 x).map fun v => .vi { f with imm := v }
  | .vr f => (vcOf x i).map fun v => .vr { f with vc := v }
  | .m f => (imm16Of x i).map fun v => .m { f with imm := v }
  | .c f => (imm16Of x i).map fun v => .c { f with imm := v }
  | _ => none

/-- A floating literal is the immediate of VBCAST with a floating type only, and exact in its 18 bits (R86, R193). -/
def formWithFloat (l : AFloat) : Form → Option Form
  | .vi f =>
    let code := (roundTo .f l.val .rne 0).code
    let exact := match FFmt.f32.decode code with
      | .num _ m e => (match l.val with
        | .num _ n d => decide (m * 2 ^ (e + 201).toNat = n * 2 ^ (d + 201).toNat)
        | _ => false)
      | _ => false
    if f.fn == 0 && !tyInt f.ty && code % 2 ^ 14 == 0 && exact then
      some (.vi { f with imm := BitVec.ofNat 18 (code / 2 ^ 14) })
    else none
  | _ => none

/-- The instruction of an operation in a bundle at `here`. -/
def AOp.instr (env : Nat → Option Int) (here : Int) (wide : Bool) (o : AOp) : Option Instr :=
  match o.value, o.op.form with
  | none, _ => some o.op
  | some v, some (cls, op, f) =>
    (match v with
      | .expr e => (e.eval env).bind fun x => formWithValue here wide x o.op f
      | .float l => formWithFloat l f).bind (instrOf cls op.toNat)
  | some _, none => none

/-- A bundle as written (R84): operations with their slots, and the keywords. -/
structure ABundle where
  ops   : List (Nat × AOp)
  stall : Nat := 0
  rep   : Nat := 0
  rot   : Bool := false
  early : Bool := false
  safe  : Bool := false
  hush  : Bool := false
  deriving DecidableEq, Repr

/-- The slot of an operation without a tag (R84). -/
def defaultSlot (i : Instr) : Nat :=
  match i.slotClass with
  | some .s => 0
  | some .v => 1
  | some .m => 3
  | _ => 4

/-- What R84 refuses in a bundle, apart from the fields of its operations; a REP that R103 forbids fails row 5 of
R76. -/
def ABundle.ok (b : ABundle) : Bool :=
  decide (b.rep ≤ 255) && decide (b.stall ≤ 15) && decide (b.ops.map (·.1)).Nodup &&
    (b.ops.all fun o => decide (o.1 < 6) && o.2.op.slotClass == some (slotClassOf o.1)) &&
    (b.rep == 0 || b.ops.all fun o => !noSticky o.2.op)

/-- The operations in slot order (R75, R84). -/
def ABundle.inOrder (b : ABundle) : List AOp :=
  (List.range 6).filterMap fun k => (b.ops.find? fun o => o.1 == k).map (·.2)

/-- The schedule cycles of a bundle (R71). -/
def ABundle.cycles (b : ABundle) : Nat := (b.rep + 1) * (1 + b.stall)

def ABundle.headOf (b : ABundle) : Head :=
  { present := b.ops.foldl (fun a o => a ||| BitVec.ofNat 6 (2 ^ o.1)) 0#6, stall := b.stall, rep := b.rep
    rot := b.rot, early := b.early, safe := b.safe, hush := b.hush }

/-- The syllables of a bundle at `here`; `none` is an error (R84). -/
def ABundle.words (env : Nat → Option Int) (here : Int) (wide : Bool) (b : ABundle) : Option (List Word32) :=
  let ops := b.inOrder.map fun o => (o.instr env here wide).bind fun i => if i.wf then encode i else none
  if b.ok && ops.all Option.isSome then some (headWord b.headOf :: (ops.map fun o => o.getD []).flatten) else none

/-- The length of a bundle before its expressions have values. -/
def ABundle.length (wide : Bool) (b : ABundle) : Nat :=
  1 + (b.inOrder.map fun o =>
    match o.op.form with
    | some (_, op, f) =>
      let n := (f.words op).length
      if o.value.isSome && o.op.slotClass == some .s then (if wide then 2 else 1) else n
    | none => 0).sum

/-! The source (R88, R156). -/

/-- The fields of a `.cap` (R156). -/
structure ACap where
  base    : AExpr := .lit 0
  length  : AExpr := .lit 0
  perm    : Nat := 0
  type    : Nat := 0
  write   : Option Nat := none
  first   : Nat := 0
  last    : Nat := 0
  holders : List Nat := []
  deriving DecidableEq, Repr

/-- A line of the source: a label, a bundle, or a directive of R88. -/
inductive ALine where
  | label (n : Nat)
  | bundle (b : ABundle)
  | phase (i : Nat) (next : Option Nat) (slack : Nat) (strict : Bool)
  | grade (g : Nat) (length energy : Nat)
  | core (l : Nat)
  | group (k : Nat) (list : List Nat)
  | cap (n : Nat) (c : ACap)
  | dataArea
  | data (t : ETy) (vals : List AValue)
  | align (n : Nat)
  | line
  | proc
  | endproc
  | at_ (n : Nat) (set : Bool)
  | bank (b : Nat) (compute : Bool)
  | equ (n : Nat) (e : AExpr)
  | first (i : Nat)
  | balance (n count : Nat)
  /-- The file of this number. -/
  | include_ (file : Nat)
  deriving DecidableEq, Repr

/-- A bundle in source order: its labels, whether it starts a line, and whether it opens a segment or a `.proc`. -/
structure AItem where
  labels : List Nat
  fresh  : Bool
  opens  : Bool
  b      : ABundle
  deriving DecidableEq, Repr

/-- What stands in the data area. -/
inductive AChunk where
  | label (n : Nat)
  | vals (t : ETy) (l : List AValue)
  | align (n : Nat)
  deriving DecidableEq, Repr

/-- A grade of a phase: LENGTH, ENERGY, and the first bundle of each logical core's segment. -/
structure AGrade where
  length : Nat
  energy : Nat
  segs   : List (Nat × Nat) := []
  deriving DecidableEq, Repr

structure APhase where
  next   : Option Nat
  slack  : Nat
  strict : Bool
  grades : List AGrade := []
  deriving DecidableEq, Repr

/-- What zxas has read so far. -/
structure ASource where
  items   : List AItem := []
  chunks  : List AChunk := []
  phases  : Tab APhase := []
  /-- The index of the phase that is open, and of the first `.phase`. -/
  opened  : Option Nat := none
  start   : Option Nat := none
  groups  : Tab (List Nat) := []
  caps    : Tab ACap := []
  equs    : Tab AExpr := []
  first   : Option Nat := none
  balance : Option (Nat × Nat) := none
  /-- Labels that wait for the next bundle. -/
  labels  : List Nat := []
  inData  : Bool := false
  fresh   : Bool := true
  opens   : Bool := false
  inProc  : Bool := false
  /-- The running schedule count of the segment (`.at`). -/
  count   : Nat := 0
  /-- Banks recorded as compute. -/
  compute : List Nat := []
  deriving DecidableEq, Repr

/-- The first bytes of an access with a constant address: s0 as its base (R88, `.bank`); how far a table, a region or a
run of rows goes on is a run-time value. -/
def constantAccess (env : Nat → Option Int) (o : AOp) : Option (Int × Nat) :=
  (o.instr env 0 false).bind fun i =>
    let at_ (sa : BitVec 5) (off : Int) (n : Nat) : Option (Int × Nat) := if sa = 0 then some (off, n) else none
    let s (n : Nat) (f : SRI) : Option (Int × Nat) := at_ f.sa (sriValue f) n
    match i with
    | .ldb f | .ldbz f | .stb f => s 1 f
    | .ldh f | .ldhz f | .sth f => s 2 f
    | .ldw f | .ldwz f | .stw f => s 4 f
    | .ldd f | .std f => s 8 f
    | .vld f | .vst f => at_ f.sa (signExt f.off.toNat 12 * 256) (256 * gsize f.gs)
    | .vlds f | .vsts f => at_ f.sa (signExt f.off.toNat 12 * 256) ((ety f.ty.toNat).width / 8)
    | .bload f | .bsparse f | .btag f | .accexp f => at_ f.sa (signExt f.imm.toNat 16 * 256) 256
    | .brun f | .bacc f => if f.fn.getLsbD 0 then none else at_ f.sa 0 256
    | .cpset f => at_ f.sa (signExt f.imm.toNat 16 * 256) 128
    | .carry f | .carryw f => at_ f.sa (signExt f.imm.toNat 16 * 4) 4
    | .ewalk f | .cpcoll f => at_ f.sa 0 64
    | .cpexportRead f | .cpexportCarry f | .cpexportReceive f => at_ f.sa 0 256
    | _ => none

/-- The value of a name from `.equ` alone, up to a depth. -/
def equValue (equs : Tab AExpr) (labels : Nat → Option Int) : Nat → Nat → Option Int
  | 0, _ => none
  | k + 1, n =>
    match labels n with
    | some x => some x
    | none => if Tab.has equs n then (Tab.look (.lit 0) equs n).eval (equValue equs labels k) else none

/-- Reads one line of the source; `none` is an error (R88). -/
def ASource.line (s : ASource) : ALine → Option ASource
  | .label n => if s.inData then some { s with chunks := s.chunks ++ [.label n] }
      else some { s with labels := s.labels ++ [n] }
  | .bundle b =>
    let env := equValue s.equs (fun _ => none) 16
    let bad := b.ops.any fun o => match constantAccess env o.2 with
      | some (a, n) => s.compute.any fun k => decide (0 ≤ a) && rangesMeet a.toNat n (65536 * k) 65536
      | none => false
    if s.inData || !b.ok || bad then none
    else some { s with
      items := s.items ++ [{ labels := s.labels, fresh := s.fresh, opens := s.opens, b := b }]
      labels := [], fresh := false, opens := false, count := s.count + b.cycles }
  | .phase i next slack strict =>
    if Tab.has s.phases i then none
    else some { s with
      phases := Tab.store s.phases i { next := next, slack := slack, strict := strict }
      opened := some i, start := some (s.start.getD i) }
  | .grade g length energy => s.opened.bind fun i =>
    let p := Tab.look { next := none, slack := 0, strict := false } s.phases i
    if g != p.grades.length || decide (3 < g) then none
    else some { s with
      phases := Tab.store s.phases i { p with grades := p.grades ++ [{ length := length, energy := energy }] } }
  | .core l => s.opened.bind fun i =>
    let p := Tab.look { next := none, slack := 0, strict := false } s.phases i
    match p.grades.getLast? with
    | none => none
    | some g =>
      if 255 < l || g.segs.any fun e => e.1 == l then none
      else some { s with
        phases := Tab.store s.phases i { p with
          grades := p.grades.dropLast ++ [{ g with segs := g.segs ++ [(l, s.items.length)] }] }
        inData := false, fresh := true, opens := true, count := 0 }
  -- DESIGN CHOICE (log 82): a second `.group`, `.cap` or `.equ` of one name replaces the first.
  | .group k list => if 255 < k || list.any fun l => decide (255 < l) then none
      else some { s with groups := Tab.store s.groups k list }
  | .cap n c => if 254 < n || c.holders.any fun l => decide (255 < l) then none else some { s with caps := Tab.store s.caps n c }
  | .dataArea => some { s with inData := true }
  | .data t l => some { s with chunks := s.chunks ++ [.vals t l] }
  | .align n => if s.inData && [1, 2, 4, 8, 16, 32, 64, 128, 256, 512, 1024, 2048, 4096].contains n then
      some { s with chunks := s.chunks ++ [.align n] } else none
  | .line => some { s with fresh := true }
  | .proc => if s.inProc then none
      else some { s with inProc := true, inData := false, fresh := true, opens := true }
  | .endproc => if s.inProc then some { s with inProc := false } else none
  | .at_ n set => if set then some { s with count := n } else if s.count = n then some s else none
  | .bank b compute => if 15 < b then none
      else some { s with compute := if compute then b :: s.compute else s.compute.filter (· != b) }
  | .equ n e => some { s with equs := Tab.store s.equs n e }
  | .first i => if s.first.isSome then none else some { s with first := some i }
  | .include_ _ => none
  | .balance n count => if s.balance.isSome || count == 0 then none else some { s with balance := some (n, count) }

/-- The lines of a source with every `.include` replaced by the lines of its file, to a depth of at most `depth`; a file
that is not there is an error (R88). -/
def includeAll (files : Tab (List ALine)) : Nat → List ALine → Option (List ALine)
  | 0, lines => if lines.any isInclude then none else some lines
  | depth + 1, lines => (lines.mapM fun (l : ALine) => match l with
      | .include_ k => if Tab.has files k then includeAll files depth (Tab.look [] files k) else none
      | l => some [l]).map List.flatten
where
  isInclude : ALine → Bool
    | .include_ _ => true
    | _ => false

def readLines : List ALine → ASource → Option ASource
  | [], s => some s
  | l :: r, s => (s.line l).bind (readLines r)

/-! Placing (R87, R89). -/

/-- Places bundles of given lengths: the line and the start position of each (R89). -/
def placeItems (wide : List Nat) : List AItem → Nat → Nat → Nat → List (Nat × Nat)
  | [], _, _, _ => []
  | x :: r, i, line, free =>
    let n := x.b.length (wide.contains i)
    match if x.fresh then none else ({ free := free } : ZLine).room n with
    | some p => (line, p) :: placeItems wide r (i + 1) line (posSyllable p + n)
    | none => (line + 1, 0) :: placeItems wide r (i + 1) (line + 1) (posSyllable 0 + n)

/-- The offset of the next datum (R83), with `off` bytes before it. -/
def nextDatum : List AChunk → Nat → Nat
  | .label _ :: r, off => nextDatum r off
  | .align n :: r, off => nextDatum r (off + (n - off % n) % n)
  | _, off => off

/-- The bytes of the data area, with `off` bytes before them, and the offsets of its labels; a value that needs a
label's address reads `env`.  DESIGN CHOICE (log 82): `.align` counts from the start of the data area. -/
def dataBytes (env : Nat → Option Int) : List AChunk → Nat → Option (List Byte × Tab Nat)
  | [], _ => some ([], [])
  | .label n :: r, off => (dataBytes env r off).map fun x => (x.1, Tab.store x.2 n (nextDatum r off))
  | .align n :: r, off =>
    let pad := (n - off % n) % n
    (dataBytes env r (off + pad)).map fun x => (List.replicate pad 0 ++ x.1, x.2)
  | .vals t l :: r, off =>
    let codes := l.map (AValue.code env t)
    if codes.all Option.isSome then
      let bs := (codes.map fun c => leBytes (t.width / 8) (c.getD 0)).flatten
      (dataBytes env r (off + bs.length)).map fun x => (bs ++ x.1, x.2)
    else none

/-- The offsets of the data labels: the values take their room whatever they are. -/
def dataLabels (chunks : List AChunk) : Tab Nat :=
  let blank := chunks.map fun c => match c with
    | .vals t l => AChunk.vals t (l.map fun _ => .expr (.lit 0))
    | c => c
  match dataBytes (fun _ => none) blank 0 with
  | some x => x.2
  | none => []

def alignUp (n x : Nat) : Nat := (x + n - 1) / n * n

/-- The places of a source: bundles, lines, and the value of every label, with the code at `origin`.  DESIGN CHOICE
(log 82): a second label of one name replaces the first. -/
structure APlaces where
  at_    : List (Nat × Nat)
  nlines : Nat
  labels : Tab Int
  deriving DecidableEq, Repr

/-- The address of a placed bundle: the code area is at offset 128 of the image (R89). -/
def placeAddr (origin : Nat) (x : Nat × Nat) : Int := origin + 128 + 128 * (x.1 - 1) + 4 * posSyllable x.2

def ASource.places (s : ASource) (origin : Nat) (wide : List Nat) : APlaces :=
  let ps := placeItems wide s.items 0 0 32
  let nlines := (ps.getLast?.map (·.1)).getD 0
  let code := (s.items.zip ps).flatMap fun x => x.1.labels.map fun l => (l, placeAddr origin x.2)
  let dataoff := 128 + 128 * nlines
  let labels := (dataLabels s.chunks).map fun e => (e.1, ((dataoff + e.2 : Nat) : Int))
  { at_ := ps, nlines := nlines, labels := (code ++ labels).foldl (fun t e => Tab.store t e.1 e.2) [] }

/-- The value of a name under given places. -/
def ASource.env (s : ASource) (p : APlaces) : Nat → Option Int :=
  equValue s.equs (fun n => if Tab.has p.labels n then some (Tab.look 0 p.labels n) else none) 16

/-- The value of a name in a `.cap` base: a label of the data area counts from the image's device address.  DEDUCED
(log 80): the table of R153 leaves the loader nothing to relocate by, so zxas writes the address. -/
def ASource.capEnv (s : ASource) (origin : Nat) (p : APlaces) : Nat → Option Int :=
  let area := dataLabels s.chunks
  equValue s.equs (fun n => if Tab.has p.labels n then
    some (Tab.look 0 p.labels n + (if Tab.has area n then (origin : Int) else 0)) else none) 16

/-- The bundles whose S operation needs the extension syllable, found from narrow ones on (R86); `fuel` bounds the
rounds. -/
def ASource.widen (s : ASource) (origin : Nat) : Nat → List Nat → List Nat
  | 0, wide => wide
  | k + 1, wide =>
    let p := s.places origin wide
    let env := s.env p
    let more := (s.items.zip p.at_).mapIdx fun i x =>
      let longer := (x.1.b.words env (placeAddr origin x.2) false).any fun w => decide (x.1.b.length false < w.length)
      if !wide.contains i && longer then [i] else []
    if more.flatten.isEmpty then wide else s.widen origin k (wide ++ more.flatten)

/-- The names whose bundles receive TARGET: those in operands and expressions of the code, `.equ` among them, and in
`.cap` bases (R87). -/
def ASource.referenced (s : ASource) : List Nat :=
  let ofValue : AValue → List Nat
    | .expr e => e.names
    | .float _ => []
  (s.items.flatMap fun x => x.b.ops.flatMap fun o => (o.2.value.map ofValue).getD [] ++ o.2.back.toList) ++
    (s.equs.flatMap fun e => e.2.names) ++ (s.caps.flatMap fun c => c.2.base.names)

/-- The label `back` of each CALL is one of the next bundle, its successor by R66 (R146). -/
def callsOk : List AItem → Bool
  | [] => true
  | x :: r => (x.b.ops.all fun o => match o.2.op, o.2.back with
      | .call _, some l => (r.head?.map fun y => y.labels.contains l).getD false
      | .call _, none => false
      | _, none => true
      | _, some _ => false) && callsOk r

/-- The code lines of a source: `none` is an error. -/
def ASource.codeLines (s : ASource) (origin : Nat) (wide : List Nat) : Option (List (BitVec 1024)) :=
  let p := s.places origin wide
  let env := s.env p
  let refs := s.referenced
  let words := (s.items.zip p.at_).mapIdx fun i x =>
    (x.1.b.words env (placeAddr origin x.2) (wide.contains i)).map fun w =>
      (x.2.1, x.2.2, x.1.opens || x.1.labels.any refs.contains, w)
  if words.all Option.isSome then
    let placed := words.filterMap id
    some ((List.range p.nlines).map fun n =>
      ZLine.bits { bundles := (placed.filter fun b => b.1 == n + 1).map fun b => b.2 })
  else none

/-! The image (R37 to R41, R89, R153). -/

def capCode (baseEnv env : Nat → Option Int) (c : ACap) : Option Nat :=
  (c.base.eval baseEnv).bind fun base => (c.length.eval env).bind fun length =>
    if 0 ≤ base ∧ base < 2 ^ 64 ∧ 0 ≤ length ∧ length < 2 ^ 48 ∧ c.perm < 2 ^ 10 ∧ c.type < 2 ^ 6 ∧
        c.first < 2 ^ 16 ∧ c.last < 2 ^ 16 ∧ c.write.getD 0 < 256 then
      some (base.toNat + length.toNat * 2 ^ 64 + c.perm * 2 ^ 112 + c.type * 2 ^ 122 + c.write.getD 0 * 2 ^ 128 +
        (if c.write.isSome then 2 ^ 136 else 0) + c.first * 2 ^ 144 + c.last * 2 ^ 160 +
        (c.holders.eraseDups.map fun l => 2 ^ (256 + l)).sum)
    else none

/-- The cores of a phase: those that its grade A names. -/
def APhase.cores (p : APhase) : List Nat :=
  match p.grades with
  | g :: _ => (List.range 256).filter fun l => g.segs.any fun e => e.1 == l
  | [] => []

/-- What R88 asks of a phase once it is whole; SLACK, LENGTH and ENERGY fit their fields (R86). -/
def APhase.ok (p : APhase) : Bool :=
  decide (p.slack < 2 ^ 32) && (p.grades.all fun g => decide (g.length < 2 ^ 32) && decide (g.energy < 2 ^ 32)) &&
  !p.grades.isEmpty && !p.cores.isEmpty && p.grades.all fun g =>
    decide (g.segs.length = p.cores.length) && p.cores.all fun l => g.segs.any fun e => e.1 == l

/-- A phase record (R39), the segment tables of its grades at `offs`. -/
def APhase.record (p : APhase) (offs : List Nat) : Nat :=
  let grades := (p.grades.zip offs).mapIdx fun g x =>
    (x.2 + x.1.length % 2 ^ 32 * 2 ^ 64 + x.1.energy % 2 ^ 32 * 2 ^ 96) * 2 ^ (512 + 128 * g)
  (p.cores.map fun l => 2 ^ l).sum + p.next.getD 0xFFFF * 2 ^ 256 + (p.grades.length - 1) * 2 ^ 272 +
    (if p.strict then 2 ^ 274 else 0) + p.slack % 2 ^ 32 * 2 ^ 288 + grades.sum

/-- The errors of R88 and R89 that need the whole source. -/
def ASource.ok (s : ASource) : Bool :=
  s.phases.map (·.1) == List.range s.phases.length && !s.phases.isEmpty && s.labels.isEmpty && !s.inProc && callsOk s.items &&
    s.phases.all (fun e => e.2.ok && decide (e.2.next.getD 0 < 2 ^ 16)) &&
    (s.phases.all fun e => e.2.grades.all fun g => g.segs.all fun x => decide (x.2 < s.items.length)) &&
    ((List.range 256).all fun l => decide ((s.groups.countP fun g => g.2.contains l) ≤ 4)) &&
    match s.balance with
    | none => true
    | some (n, count) => decide (count < 2 ^ 32) && Tab.has s.caps n && (Tab.look {} s.caps n).type == 2

/-- Places parts one after another at multiples of 128, from `off` on (R89). -/
def partOffsets : List (List Byte) → Nat → List Nat
  | [], _ => []
  | x :: r, off => off :: partOffsets r (alignUp 128 (off + x.length))

/-- The bytes of parts at multiples of 128, the last without padding. -/
def joinParts : List (List Byte) → List Byte
  | [] => []
  | [x] => x
  | x :: r => x ++ List.replicate (alignUp 128 x.length - x.length) 0 ++ joinParts r

/-- The image of a source with its first byte at the device address `origin`; `none` is an error (R89). -/
def assemble (origin : Nat) (lines : List ALine) (files : Tab (List ALine) := []) : Option (List Byte) :=
  (includeAll files 16 lines).bind fun lines => (readLines lines {}).bind fun s =>
  if !s.ok then none
  else
    let wide := s.widen origin (s.items.length + 1) []
    let p := s.places origin wide
    let env := s.env p
    (s.codeLines origin wide).bind fun code =>
    (dataBytes env s.chunks 0).bind fun area =>
    let caps := s.caps.map fun c => (c.1, capCode (s.capEnv origin p) env c.2)
    if caps.any fun c => c.2.isNone then none
    else
      let count := ((s.caps.getLast?.map fun c => c.1 + 1).getD 1)
      let seg (g : AGrade) (cores : List Nat) : List Byte := (cores.map fun l =>
        leBytes 8 (128 * ((g.segs.find? fun e => e.1 == l).bind fun e => (p.at_[e.2]?).map (·.1)).getD 0)).flatten
      let segs := s.phases.flatMap fun e => e.2.grades.map fun g => seg g e.2.cores
      let codeBytes := code.flatMap fun l => leBytes 128 l.toNat
      let groups := (List.range 256).flatMap fun k =>
        leBytes 32 ((Tab.look [] s.groups k).eraseDups.map fun l => 2 ^ l).sum
      let table := leBytes 64 (1 + 64 * 2 ^ 16 + count * 2 ^ 32) ++
        (List.range count).flatMap fun i => leBytes 64 ((Tab.look none caps i).getD 0)
      let blank := List.replicate (128 * s.phases.length) (0 : Byte)
      let offs := partOffsets ([List.replicate 128 0, codeBytes, area.1, blank] ++ segs ++ [groups, table]) 0
      let off (k : Nat) : Nat := offs.getD k 0
      let nseg := segs.length
      let used := s.phases.foldl (fun (a : Nat × List Nat) e =>
        (a.1 + e.2.grades.length, a.2 ++ [e.2.record ((offs.drop (4 + a.1)).take e.2.grades.length)])) (0, [])
      let phases := used.2.flatMap fun r => leBytes 128 r
      let two := s.phases.any fun e => e.2.cores.any fun l => decide (128 ≤ l)
      let bal := s.balance.getD (0xFF, 0)
      let header := 1 + 64 * 2 ^ 16 + s.phases.length * 2 ^ 32 + (s.first.getD (s.start.getD 0)) * 2 ^ 48 +
        off 3 * 2 ^ 64 + off (4 + nseg) * 2 ^ 128 + off (5 + nseg) * 2 ^ 192 + bal.1 * 2 ^ 256 +
        (if two then 2 ^ 264 else 0) + bal.2 * 2 ^ 288 + off 1 * 2 ^ 320 + codeBytes.length * 2 ^ 384 +
        off 2 * 2 ^ 416 + area.1.length * 2 ^ 480
      some (joinParts ([leBytes 128 header, codeBytes, area.1, phases] ++ segs ++ [groups, table]))

end Sys2Proof.Machine
end

