-- ==== Sys2Proof/Laws/Portable.lean ====
section
/-! SUPPORT. Lemmas of the portable form and the assembler: what a latched datum holds, and that no move, no operation
and no bundle is lost on the way. -/

namespace Sys2Proof.Machine

@[simp] theorem zPair_reg_zero (lo hi : VReg) : ZDatum.reg (zPair lo hi) 0 = lo := by
  apply BitVec.eq_of_getLsbD_eq
  intro i h
  have e : (zPair lo hi).getLsbD i = (hi ++ lo : BitVec (2048 + 2048)).getLsbD i := rfl
  simp only [ZDatum.reg, BitVec.getLsbD_extractLsb', Nat.mul_zero, Nat.zero_add, e, BitVec.getLsbD_append]
  simp [h]

@[simp] theorem ZDatum.over_two (new old : ZDatum) : new.over old true = new := rfl

@[simp] theorem ZDatum.over_one (new old : ZDatum) : new.over old false = zPair (new.reg 0) (old.reg 1) := rfl

/-- Every bundle of a source is placed (R89). -/
theorem placeItems_length (wide : List Nat) (l : List AItem) (i line free : Nat) :
    (placeItems wide l i line free).length = l.length := by
  induction l generalizing i line free with
  | nil => rfl
  | cons x r ih =>
    simp only [placeItems]
    split <;> simp [ih]

/-- A module that zxt reads has a move for every move word (R495). -/
theorem readZMoves_length (vals : List ZValue) (l : List (Option ZMove)) (seen : ZSeen) (i : Nat) (m : List ZMove)
    (h : readZMoves vals seen i l = .ok m) : m.length = l.length := by
  induction l generalizing seen i m with
  | nil => cases h; rfl
  | cons x r ih =>
    cases x with
    | none => simp [readZMoves] at h
    | some x =>
      simp only [readZMoves] at h
      split at h
      · cases hr : readZMoves vals (seen.after x) (i + 1) r with
        | error e => simp [hr, Except.map] at h
        | ok t =>
          simp [hr, Except.map] at h
          simp [← h, ih _ _ _ hr]
      · cases h

/-- An operation that finds a slot is placed once. -/
theorem zPlace_length (start : Nat) (placed : List ZPlaced) (x : ZItem) :
    (zPlace start placed x).length ≤ placed.length + 1 := by
  simp only [zPlace]
  split <;> simp

end Sys2Proof.Machine
end

