-- ==== Sys2Proof/Laws/Tab.lean ====
section
/-! SUPPORT. Laws of the containers: reading a table after a store, and the canonical form and bytes of a
memory after a write or a clear. -/

namespace Sys2Proof.Machine

/-! Tables. -/

@[simp] theorem Tab.look_nil {α : Type} (d : α) (k : Nat) : Tab.look d [] k = d := rfl

theorem Tab.look_cons {α : Type} (d v : α) (j k : Nat) (r : Tab α) :
    Tab.look d ((j, v) :: r) k = if j = k then v else Tab.look d r k := rfl

/-- What holds of the default and of every entry holds of what is found. -/
theorem Tab.look_all {α : Type} {P : α → Prop} {d : α} (hd : P d) :
    ∀ {t : Tab α}, (∀ x ∈ t, P x.2) → ∀ k, P (Tab.look d t k)
  | [], _, _ => hd
  | (j, v) :: r, h, k => by
    rw [Tab.look_cons]
    split
    · exact h (j, v) (by simp)
    · exact Tab.look_all hd (fun x hx => h x (by simp [hx])) k

/-- A number holds what was stored under it. -/
@[simp] theorem Tab.look_store_same {α : Type} (d v : α) (t : Tab α) (k : Nat) :
    Tab.look d (Tab.store t k v) k = v := by
  induction t with
  | nil => simp [Tab.store, Tab.look]
  | cons e r ih =>
    obtain ⟨j, w⟩ := e
    simp only [Tab.store]
    split
    · simp [Tab.look]
    · split
      · simp [Tab.look]
      · simp [Tab.look, *]

/-- A store leaves every other number alone. -/
theorem Tab.look_store_other {α : Type} (d v : α) (t : Tab α) {j k : Nat} (h : j ≠ k) :
    Tab.look d (Tab.store t k v) j = Tab.look d t j := by
  induction t with
  | nil => simp [Tab.store, Tab.look, Ne.symm h]
  | cons e r ih =>
    obtain ⟨i, w⟩ := e
    simp only [Tab.store]
    split
    · rename_i hi; subst hi; simp [Tab.look, Ne.symm h]
    · split
      · simp [Tab.look, Ne.symm h]
      · simp [Tab.look, ih]

theorem Tab.look_store {α : Type} (d v : α) (t : Tab α) (j k : Nat) :
    Tab.look d (Tab.store t k v) j = if j = k then v else Tab.look d t j := by
  split
  · rename_i h; subst h; simp
  · rename_i h; exact Tab.look_store_other d v t h

/-- The last of two stores under one number stands. -/
@[simp] theorem Tab.store_store {α : Type} (t : Tab α) (k : Nat) (v w : α) :
    Tab.store (Tab.store t k v) k w = Tab.store t k w := by
  induction t with
  | nil => simp [Tab.store]
  | cons e r ih =>
    obtain ⟨j, u⟩ := e
    simp only [Tab.store]
    split
    · simp [Tab.store]
    · split
      · simp [Tab.store]
      · rename_i h1 h2
        simp [Tab.store, h1, h2, ih]

/-- A filter that keeps every entry of a number does not change what it holds. -/
theorem Tab.look_filter {α : Type} (d : α) (p : Nat × α → Bool) (k : Nat) (t : Tab α)
    (h : ∀ v, p (k, v) = true) : Tab.look d (t.filter p) k = Tab.look d t k := by
  induction t with
  | nil => rfl
  | cons e r ih =>
    obtain ⟨j, w⟩ := e
    by_cases hj : j = k
    · subst hj; simp [h, Tab.look]
    · by_cases hp : p (j, w) = true
      · simp [hp, Tab.look, hj, ih]
      · simp [hp, Tab.look, hj, ih]

theorem Tab.look_filter_none {α : Type} (d : α) (p : Nat × α → Bool) (k : Nat) (t : Tab α)
    (h : ∀ v, p (k, v) = false) : Tab.look d (t.filter p) k = d := by
  induction t with
  | nil => rfl
  | cons e r ih =>
    obtain ⟨j, w⟩ := e
    by_cases hp : p (j, w) = true
    · have hj : j ≠ k := by rintro rfl; simp [h w] at hp
      simp [hp, Tab.look, hj, ih]
    · simp [hp, ih]

@[simp] theorem Tab.look_drop_same {α : Type} (d : α) (t : Tab α) (k : Nat) : Tab.look d (Tab.drop t k) k = d :=
  Tab.look_filter_none d _ k t (by simp)

theorem Tab.look_drop_other {α : Type} (d : α) (t : Tab α) {j k : Nat} (h : j ≠ k) :
    Tab.look d (Tab.drop t k) j = Tab.look d t j :=
  Tab.look_filter d _ j t (by simp [h])

/-! Memories. -/

theorem Memory.look_append_left {d : Byte} {m r : Memory} {k : Nat} (h : ∀ c ∈ m, c.1 ≠ k) :
    Tab.look d (m ++ r) k = Tab.look d r k := by
  induction m with
  | nil => rfl
  | cons e m ih =>
    obtain ⟨j, w⟩ := e
    have hj : j ≠ k := h (j, w) (by simp)
    simp [Tab.look, hj, ih (fun c hc => h c (by simp [hc]))]

theorem Memory.look_append_right {d : Byte} {m r : Memory} {k : Nat} (h : ∀ c ∈ r, c.1 ≠ k) :
    Tab.look d (m ++ r) k = Tab.look d m k := by
  induction m with
  | nil =>
    induction r with
    | nil => rfl
    | cons e r ih =>
      obtain ⟨j, w⟩ := e
      have hj : j ≠ k := h (j, w) (by simp)
      have := ih (fun c hc => h c (by simp [hc]))
      simp [Tab.look, hj] at this ⊢
      exact this
  | cons e m ih =>
    obtain ⟨j, w⟩ := e
    simp [Tab.look, ih]

theorem mem_cellsFrom {a : Nat} {bs : List Byte} {c : Host.Cell} (h : c ∈ cellsFrom a bs) :
    a ≤ c.1 ∧ c.1 < a + bs.length ∧ c.2 ≠ 0#8 := by
  induction bs generalizing a with
  | nil => simp [cellsFrom] at h
  | cons b r ih =>
    simp only [cellsFrom] at h
    split at h
    · have := ih h; exact ⟨by omega, by simp only [List.length_cons]; omega, this.2.2⟩
    · rename_i hb
      rcases List.mem_cons.1 h with h | h
      · subst h; simp [hb]
      · have := ih h; exact ⟨by omega, by simp only [List.length_cons]; omega, this.2.2⟩

theorem cellsFrom_sorted (a : Nat) (bs : List Byte) : (cellsFrom a bs).Pairwise fun x y => x.1 < y.1 := by
  induction bs generalizing a with
  | nil => simp [cellsFrom]
  | cons b r ih =>
    simp only [cellsFrom]
    split
    · exact ih _
    · refine List.pairwise_cons.2 ⟨fun c hc => ?_, ih _⟩
      have := mem_cellsFrom hc
      omega

theorem look_cellsFrom (a : Nat) (bs : List Byte) (k : Nat) :
    Tab.look 0#8 (cellsFrom a bs) k = if a ≤ k then bs.getD (k - a) 0#8 else 0#8 := by
  induction bs generalizing a with
  | nil => simp [cellsFrom]
  | cons b r ih =>
    simp only [cellsFrom]
    by_cases hk : a = k
    · subst hk
      split
      · rename_i hb
        rw [ih, if_neg (by omega), if_pos (Nat.le_refl _), Nat.sub_self, hb]
        rfl
      · simp [Tab.look]
    · have hrest : Tab.look 0#8 (cellsFrom (a + 1) r) k = if a ≤ k then (b :: r).getD (k - a) 0#8 else 0#8 := by
        rw [ih]
        by_cases h : a + 1 ≤ k
        · have h' : a ≤ k := by omega
          obtain ⟨n, hn⟩ : ∃ n, k - a = n + 1 := ⟨k - a - 1, by omega⟩
          have hn' : k - (a + 1) = n := by omega
          simp [h, h', hn, hn']
        · have h' : ¬ a ≤ k := by omega
          simp [h, h']
      split
      · exact hrest
      · simp only [Tab.look, hk, if_false]; exact hrest

/-- A byte after a write: the byte written, or the byte of before (any memory, canonical or not). -/
theorem Memory.byte_write (m : Memory) (a : Nat) (bs : List Byte) (k : Nat) :
    Memory.byte (Memory.write m a bs) k =
      if a ≤ k ∧ k < a + bs.length then bs.getD (k - a) 0#8 else Memory.byte m k := by
  unfold Memory.byte Memory.write
  by_cases h1 : k < a
  · have hn : ¬ (a ≤ k ∧ k < a + bs.length) := by omega
    rw [if_neg hn, List.append_assoc, Memory.look_append_right]
    · exact Tab.look_filter 0#8 _ k m (by simp [h1])
    · intro c hc
      rcases List.mem_append.1 hc with hc | hc
      · have := mem_cellsFrom hc; omega
      · have := (List.mem_filter.1 hc).2; simp at this; omega
  · rw [List.append_assoc, Memory.look_append_left]
    · by_cases h2 : k < a + bs.length
      · rw [Memory.look_append_right, look_cellsFrom]
        · simp [show a ≤ k by omega, h2]
        · intro c hc
          have := (List.mem_filter.1 hc).2; simp at this; omega
      · rw [Memory.look_append_left, if_neg (by omega)]
        · exact Tab.look_filter 0#8 _ k m (by simp; omega)
        · intro c hc
          have := mem_cellsFrom hc; omega
    · intro c hc
      have := (List.mem_filter.1 hc).2; simp at this; omega

/-- A write leaves every byte outside its range. -/
theorem Memory.byte_write_outside {m : Memory} {a : Nat} {bs : List Byte} {k : Nat}
    (h : k < a ∨ a + bs.length ≤ k) : Memory.byte (Memory.write m a bs) k = Memory.byte m k := by
  rw [Memory.byte_write, if_neg (by omega)]

/-- A byte of the range after a write. -/
theorem Memory.byte_write_inside {m : Memory} {a : Nat} {bs : List Byte} {i : Nat} (h : i < bs.length) :
    Memory.byte (Memory.write m a bs) (a + i) = bs.getD i 0#8 := by
  rw [Memory.byte_write, if_pos (by omega), Nat.add_sub_cancel_left]

theorem Memory.bytes_length (m : Memory) (a n : Nat) : (Memory.bytes m a n).length = n := by
  simp [Memory.bytes]

theorem leBytes_length (n x : Nat) : (leBytes n x).length = n := by
  induction n generalizing x with
  | zero => rfl
  | succ n ih => simp [leBytes, ih]

/-- The bytes of a range read back after a write of it. -/
theorem Memory.bytes_write (m : Memory) (a : Nat) (bs : List Byte) :
    Memory.bytes (Memory.write m a bs) a bs.length = bs := by
  apply List.ext_getElem
  · simp [Memory.bytes]
  · intro i h1 h2
    simp [Memory.bytes] at h1
    simp only [Memory.bytes, List.getElem_map, List.getElem_range]
    rw [Memory.byte_write_inside h1]
    simp [h1]

theorem leNat_lt (l : List Byte) : leNat l < 2 ^ (8 * l.length) := by
  induction l with
  | nil => simp [leNat]
  | cons b r ih =>
    have hb := b.isLt
    simp only [leNat, List.length_cons]
    have : 2 ^ (8 * (r.length + 1)) = 256 * 2 ^ (8 * r.length) := by
      rw [Nat.mul_succ, Nat.pow_add]; omega
    omega

/-- The number of its own bytes. -/
theorem leNat_leBytes (n x : Nat) : leNat (leBytes n x) = x % 2 ^ (8 * n) := by
  induction n generalizing x with
  | zero => simp [leBytes, leNat, Nat.mod_one]
  | succ n ih =>
    simp only [leBytes, leNat, ih, BitVec.toNat_ofNat]
    rw [show 2 ^ (8 * (n + 1)) = 256 * 2 ^ (8 * n) by rw [Nat.mul_succ, Nat.pow_add]; omega]
    rw [Nat.mod_mul]

/-- What was stored little-endian reads back as its number. -/
theorem Memory.num_write_leBytes (m : Memory) (a n x : Nat) :
    Memory.num (Memory.write m a (leBytes n x)) a n = x % 2 ^ (8 * n) := by
  have h := Memory.bytes_write m a (leBytes n x)
  rw [leBytes_length] at h
  rw [Memory.num, h, leNat_leBytes]

theorem Memory.num_lt (m : Memory) (a n : Nat) : Memory.num m a n < 2 ^ (8 * n) := by
  have := leNat_lt (Memory.bytes m a n)
  rwa [Memory.bytes_length] at this

theorem Memory.wf_nil : Memory.wf [] := by simp [Memory.wf]

theorem Memory.wf_filter {m : Memory} (h : Memory.wf m) (p : Host.Cell → Bool) : Memory.wf (m.filter p) :=
  ⟨h.1.filter _, fun c hc => h.2 c (List.mem_filter.1 hc).1⟩

/-- A write keeps the canonical form. -/
theorem Memory.wf_write {m : Memory} (h : Memory.wf m) (a : Nat) (bs : List Byte) :
    Memory.wf (Memory.write m a bs) := by
  have below : ∀ c ∈ m.filter (fun c => decide (c.1 < a)), c.1 < a := fun c hc => by
    simpa using (List.mem_filter.1 hc).2
  have above : ∀ c ∈ m.filter (fun c => decide (a + bs.length ≤ c.1)), a + bs.length ≤ c.1 := fun c hc => by
    simpa using (List.mem_filter.1 hc).2
  refine ⟨?_, ?_⟩
  · unfold Memory.write
    refine List.pairwise_append.2 ⟨List.pairwise_append.2 ⟨h.1.filter _, cellsFrom_sorted a bs, ?_⟩, h.1.filter _, ?_⟩
    · intro x hx y hy
      have := below x hx; have := mem_cellsFrom hy; omega
    · intro x hx y hy
      have hy' := above y hy
      rcases List.mem_append.1 hx with hx | hx
      · have := below x hx; omega
      · have := mem_cellsFrom hx; omega
  · intro c hc
    unfold Memory.write at hc
    rcases List.mem_append.1 hc with hc | hc
    · rcases List.mem_append.1 hc with hc | hc
      · exact h.2 c (List.mem_filter.1 hc).1
      · exact (mem_cellsFrom hc).2.2
    · exact h.2 c (List.mem_filter.1 hc).1

/-- A clear keeps the canonical form. -/
theorem Memory.wf_clear {m : Memory} (h : Memory.wf m) (a n : Nat) : Memory.wf (Memory.clear m a n) :=
  Memory.wf_filter h _

/-- A byte after a clear: zero in the range, else the byte of before. -/
theorem Memory.byte_clear (m : Memory) (a n k : Nat) :
    Memory.byte (Memory.clear m a n) k = if a ≤ k ∧ k < a + n then 0#8 else Memory.byte m k := by
  unfold Memory.byte Memory.clear
  split
  · exact Tab.look_filter_none _ _ _ _ (by simp; omega)
  · exact Tab.look_filter _ _ _ _ (by simp; omega)

end Sys2Proof.Machine
end

