-- ==== Sys2Proof/Laws/State.lean ====
section
/-! SUPPORT. One law per field per update of the state and of a core, true by rfl; and what reading a part
gives after an update of it. -/

namespace Sys2Proof.Machine

/-! Updates of a part of the module leave every other field. -/

@[simp] theorem State.setCore_now (s : State) (n : Nat) (c : Core) : (s.setCore n c).now = s.now := rfl
@[simp] theorem State.setCore_agenda (s : State) (n : Nat) (c : Core) : (s.setCore n c).agenda = s.agenda := rfl
@[simp] theorem State.setCore_stage (s : State) (n : Nat) (c : Core) : (s.setCore n c).stage = s.stage := rfl
@[simp] theorem State.setCore_focus (s : State) (n : Nat) (c : Core) : (s.setCore n c).focus = s.focus := rfl
@[simp] theorem State.setCore_parts (s : State) (n : Nat) (c : Core) : (s.setCore n c).parts = s.parts := rfl
@[simp] theorem State.setCore_units (s : State) (n : Nat) (c : Core) : (s.setCore n c).units = s.units := rfl
@[simp] theorem State.setCore_memStacks (s : State) (n : Nat) (c : Core) : (s.setCore n c).memStacks = s.memStacks := rfl
@[simp] theorem State.setCore_msgs (s : State) (n : Nat) (c : Core) : (s.setCore n c).msgs = s.msgs := rfl
@[simp] theorem State.setCore_nextMsg (s : State) (n : Nat) (c : Core) : (s.setCore n c).nextMsg = s.nextMsg := rfl
@[simp] theorem State.setCore_dev (s : State) (n : Nat) (c : Core) : (s.setCore n c).dev = s.dev := rfl
@[simp] theorem State.setCore_slots (s : State) (n : Nat) (c : Core) : (s.setCore n c).slots = s.slots := rfl
@[simp] theorem State.setCore_bad (s : State) (n : Nat) (c : Core) : (s.setCore n c).bad = s.bad := rfl
@[simp] theorem State.setCore_weak (s : State) (n : Nat) (c : Core) : (s.setCore n c).weak = s.weak := rfl
@[simp] theorem State.setCore_lineErr (s : State) (n : Nat) (c : Core) : (s.setCore n c).lineErr = s.lineErr := rfl
@[simp] theorem State.setCore_poison (s : State) (n : Nat) (c : Core) : (s.setCore n c).poison = s.poison := rfl
@[simp] theorem State.setCore_host0 (s : State) (n : Nat) (c : Core) : (s.setCore n c).host0 = s.host0 := rfl
@[simp] theorem State.setCore_host1 (s : State) (n : Nat) (c : Core) : (s.setCore n c).host1 = s.host1 := rfl
@[simp] theorem State.setCore_seals (s : State) (n : Nat) (c : Core) : (s.setCore n c).seals = s.seals := rfl
@[simp] theorem State.setCore_pool (s : State) (n : Nat) (c : Core) : (s.setCore n c).pool = s.pool := rfl
@[simp] theorem State.setCore_poolRho (s : State) (n : Nat) (c : Core) : (s.setCore n c).poolRho = s.poolRho := rfl
@[simp] theorem State.setCore_ticks (s : State) (n : Nat) (c : Core) : (s.setCore n c).ticks = s.ticks := rfl
@[simp] theorem State.setCore_tf (s : State) (n : Nat) (c : Core) : (s.setCore n c).tf = s.tf := rfl
@[simp] theorem State.setCore_lent (s : State) (n : Nat) (c : Core) : (s.setCore n c).lent = s.lent := rfl
@[simp] theorem State.setCore_launches (s : State) (n : Nat) (c : Core) : (s.setCore n c).launches = s.launches := rfl
@[simp] theorem State.setCore_ctxs (s : State) (n : Nat) (c : Core) : (s.setCore n c).ctxs = s.ctxs := rfl
@[simp] theorem State.setCore_intake (s : State) (n : Nat) (c : Core) : (s.setCore n c).intake = s.intake := rfl
@[simp] theorem State.setCore_adrop (s : State) (n : Nat) (c : Core) : (s.setCore n c).adrop = s.adrop := rfl
@[simp] theorem State.setCore_events (s : State) (n : Nat) (c : Core) : (s.setCore n c).events = s.events := rfl
@[simp] theorem State.setCore_ready (s : State) (n : Nat) (c : Core) : (s.setCore n c).ready = s.ready := rfl
@[simp] theorem State.setCore_off (s : State) (n : Nat) (c : Core) : (s.setCore n c).off = s.off := rfl
@[simp] theorem State.setCore_offCause (s : State) (n : Nat) (c : Core) : (s.setCore n c).offCause = s.offCause := rfl
@[simp] theorem State.setCore_owner (s : State) (n : Nat) (c : Core) : (s.setCore n c).owner = s.owner := rfl
@[simp] theorem State.setCore_link0 (s : State) (n : Nat) (c : Core) : (s.setCore n c).link0 = s.link0 := rfl
@[simp] theorem State.setCore_link1 (s : State) (n : Nat) (c : Core) : (s.setCore n c).link1 = s.link1 := rfl
@[simp] theorem State.setCore_epoch (s : State) (n : Nat) (c : Core) : (s.setCore n c).epoch = s.epoch := rfl
@[simp] theorem State.setCore_stale (s : State) (n : Nat) (c : Core) : (s.setCore n c).stale = s.stale := rfl
@[simp] theorem State.setCore_lremain (s : State) (n : Nat) (c : Core) : (s.setCore n c).lremain = s.lremain := rfl
@[simp] theorem State.setCore_llen (s : State) (n : Nat) (c : Core) : (s.setCore n c).llen = s.llen := rfl
@[simp] theorem State.setCore_yield (s : State) (n : Nat) (c : Core) : (s.setCore n c).yield = s.yield := rfl
@[simp] theorem State.setCore_pctlErr (s : State) (n : Nat) (c : Core) : (s.setCore n c).pctlErr = s.pctlErr := rfl
@[simp] theorem State.setCore_pmask (s : State) (n : Nat) (c : Core) : (s.setCore n c).pmask = s.pmask := rfl
@[simp] theorem State.setCore_vfmap (s : State) (n : Nat) (c : Core) : (s.setCore n c).vfmap = s.vfmap := rfl
@[simp] theorem State.setCore_rsaddr (s : State) (n : Nat) (c : Core) : (s.setCore n c).rsaddr = s.rsaddr := rfl
@[simp] theorem State.setCore_resync (s : State) (n : Nat) (c : Core) : (s.setCore n c).resync = s.resync := rfl
@[simp] theorem State.setCore_mpwr (s : State) (n : Nat) (c : Core) : (s.setCore n c).mpwr = s.mpwr := rfl
@[simp] theorem State.setCore_boxSide (s : State) (n : Nat) (c : Core) : (s.setCore n c).boxSide = s.boxSide := rfl
@[simp] theorem State.setCore_boxUp (s : State) (n : Nat) (c : Core) : (s.setCore n c).boxUp = s.boxUp := rfl
@[simp] theorem State.setCore_farArr (s : State) (n : Nat) (c : Core) : (s.setCore n c).farArr = s.farArr := rfl
@[simp] theorem State.setCore_farColl (s : State) (n : Nat) (c : Core) : (s.setCore n c).farColl = s.farColl := rfl
@[simp] theorem State.setCore_tdisp (s : State) (n : Nat) (c : Core) : (s.setCore n c).tdisp = s.tdisp := rfl
@[simp] theorem State.setCore_spdm (s : State) (n : Nat) (c : Core) : (s.setCore n c).spdm = s.spdm := rfl
@[simp] theorem State.setCore_ide (s : State) (n : Nat) (c : Core) : (s.setCore n c).ide = s.ide := rfl
@[simp] theorem State.setCore_urLog (s : State) (n : Nat) (c : Core) : (s.setCore n c).urLog = s.urLog := rfl
@[simp] theorem State.setCore_firmware (s : State) (n : Nat) (c : Core) : (s.setCore n c).firmware = s.firmware := rfl
@[simp] theorem State.setCore_fused (s : State) (n : Nat) (c : Core) : (s.setCore n c).fused = s.fused := rfl
@[simp] theorem State.setCore_resets (s : State) (n : Nat) (c : Core) : (s.setCore n c).resets = s.resets := rfl
@[simp] theorem State.setCore_dmCore (s : State) (n : Nat) (c : Core) : (s.setCore n c).dmCore = s.dmCore := rfl
@[simp] theorem State.setCore_dmActive (s : State) (n : Nat) (c : Core) : (s.setCore n c).dmActive = s.dmActive := rfl
@[simp] theorem State.setCore_dmErr (s : State) (n : Nat) (c : Core) : (s.setCore n c).dmErr = s.dmErr := rfl
@[simp] theorem State.setCore_dmBusy (s : State) (n : Nat) (c : Core) : (s.setCore n c).dmBusy = s.dmBusy := rfl
@[simp] theorem State.setCore_adata (s : State) (n : Nat) (c : Core) : (s.setCore n c).adata = s.adata := rfl
@[simp] theorem State.setCore_out (s : State) (n : Nat) (c : Core) : (s.setCore n c).out = s.out := rfl
@[simp] theorem State.setCore_params (s : State) (n : Nat) (c : Core) : (s.setCore n c).params = s.params := rfl
@[simp] theorem State.setCore_nFree (s : State) (n : Nat) (c : Core) : (s.setCore n c).nFree = s.nFree := rfl

@[simp] theorem State.onCore_now (s : State) (n : Nat) (f : Core → Core) : (s.onCore n f).now = s.now := rfl
@[simp] theorem State.onCore_agenda (s : State) (n : Nat) (f : Core → Core) : (s.onCore n f).agenda = s.agenda := rfl
@[simp] theorem State.onCore_stage (s : State) (n : Nat) (f : Core → Core) : (s.onCore n f).stage = s.stage := rfl
@[simp] theorem State.onCore_focus (s : State) (n : Nat) (f : Core → Core) : (s.onCore n f).focus = s.focus := rfl
@[simp] theorem State.onCore_parts (s : State) (n : Nat) (f : Core → Core) : (s.onCore n f).parts = s.parts := rfl
@[simp] theorem State.onCore_units (s : State) (n : Nat) (f : Core → Core) : (s.onCore n f).units = s.units := rfl
@[simp] theorem State.onCore_memStacks (s : State) (n : Nat) (f : Core → Core) : (s.onCore n f).memStacks = s.memStacks := rfl
@[simp] theorem State.onCore_msgs (s : State) (n : Nat) (f : Core → Core) : (s.onCore n f).msgs = s.msgs := rfl
@[simp] theorem State.onCore_nextMsg (s : State) (n : Nat) (f : Core → Core) : (s.onCore n f).nextMsg = s.nextMsg := rfl
@[simp] theorem State.onCore_dev (s : State) (n : Nat) (f : Core → Core) : (s.onCore n f).dev = s.dev := rfl
@[simp] theorem State.onCore_slots (s : State) (n : Nat) (f : Core → Core) : (s.onCore n f).slots = s.slots := rfl
@[simp] theorem State.onCore_bad (s : State) (n : Nat) (f : Core → Core) : (s.onCore n f).bad = s.bad := rfl
@[simp] theorem State.onCore_weak (s : State) (n : Nat) (f : Core → Core) : (s.onCore n f).weak = s.weak := rfl
@[simp] theorem State.onCore_lineErr (s : State) (n : Nat) (f : Core → Core) : (s.onCore n f).lineErr = s.lineErr := rfl
@[simp] theorem State.onCore_poison (s : State) (n : Nat) (f : Core → Core) : (s.onCore n f).poison = s.poison := rfl
@[simp] theorem State.onCore_host0 (s : State) (n : Nat) (f : Core → Core) : (s.onCore n f).host0 = s.host0 := rfl
@[simp] theorem State.onCore_host1 (s : State) (n : Nat) (f : Core → Core) : (s.onCore n f).host1 = s.host1 := rfl
@[simp] theorem State.onCore_seals (s : State) (n : Nat) (f : Core → Core) : (s.onCore n f).seals = s.seals := rfl
@[simp] theorem State.onCore_pool (s : State) (n : Nat) (f : Core → Core) : (s.onCore n f).pool = s.pool := rfl
@[simp] theorem State.onCore_poolRho (s : State) (n : Nat) (f : Core → Core) : (s.onCore n f).poolRho = s.poolRho := rfl
@[simp] theorem State.onCore_ticks (s : State) (n : Nat) (f : Core → Core) : (s.onCore n f).ticks = s.ticks := rfl
@[simp] theorem State.onCore_tf (s : State) (n : Nat) (f : Core → Core) : (s.onCore n f).tf = s.tf := rfl
@[simp] theorem State.onCore_lent (s : State) (n : Nat) (f : Core → Core) : (s.onCore n f).lent = s.lent := rfl
@[simp] theorem State.onCore_launches (s : State) (n : Nat) (f : Core → Core) : (s.onCore n f).launches = s.launches := rfl
@[simp] theorem State.onCore_ctxs (s : State) (n : Nat) (f : Core → Core) : (s.onCore n f).ctxs = s.ctxs := rfl
@[simp] theorem State.onCore_intake (s : State) (n : Nat) (f : Core → Core) : (s.onCore n f).intake = s.intake := rfl
@[simp] theorem State.onCore_adrop (s : State) (n : Nat) (f : Core → Core) : (s.onCore n f).adrop = s.adrop := rfl
@[simp] theorem State.onCore_events (s : State) (n : Nat) (f : Core → Core) : (s.onCore n f).events = s.events := rfl
@[simp] theorem State.onCore_ready (s : State) (n : Nat) (f : Core → Core) : (s.onCore n f).ready = s.ready := rfl
@[simp] theorem State.onCore_off (s : State) (n : Nat) (f : Core → Core) : (s.onCore n f).off = s.off := rfl
@[simp] theorem State.onCore_offCause (s : State) (n : Nat) (f : Core → Core) : (s.onCore n f).offCause = s.offCause := rfl
@[simp] theorem State.onCore_owner (s : State) (n : Nat) (f : Core → Core) : (s.onCore n f).owner = s.owner := rfl
@[simp] theorem State.onCore_link0 (s : State) (n : Nat) (f : Core → Core) : (s.onCore n f).link0 = s.link0 := rfl
@[simp] theorem State.onCore_link1 (s : State) (n : Nat) (f : Core → Core) : (s.onCore n f).link1 = s.link1 := rfl
@[simp] theorem State.onCore_epoch (s : State) (n : Nat) (f : Core → Core) : (s.onCore n f).epoch = s.epoch := rfl
@[simp] theorem State.onCore_stale (s : State) (n : Nat) (f : Core → Core) : (s.onCore n f).stale = s.stale := rfl
@[simp] theorem State.onCore_lremain (s : State) (n : Nat) (f : Core → Core) : (s.onCore n f).lremain = s.lremain := rfl
@[simp] theorem State.onCore_llen (s : State) (n : Nat) (f : Core → Core) : (s.onCore n f).llen = s.llen := rfl
@[simp] theorem State.onCore_yield (s : State) (n : Nat) (f : Core → Core) : (s.onCore n f).yield = s.yield := rfl
@[simp] theorem State.onCore_pctlErr (s : State) (n : Nat) (f : Core → Core) : (s.onCore n f).pctlErr = s.pctlErr := rfl
@[simp] theorem State.onCore_pmask (s : State) (n : Nat) (f : Core → Core) : (s.onCore n f).pmask = s.pmask := rfl
@[simp] theorem State.onCore_vfmap (s : State) (n : Nat) (f : Core → Core) : (s.onCore n f).vfmap = s.vfmap := rfl
@[simp] theorem State.onCore_rsaddr (s : State) (n : Nat) (f : Core → Core) : (s.onCore n f).rsaddr = s.rsaddr := rfl
@[simp] theorem State.onCore_resync (s : State) (n : Nat) (f : Core → Core) : (s.onCore n f).resync = s.resync := rfl
@[simp] theorem State.onCore_mpwr (s : State) (n : Nat) (f : Core → Core) : (s.onCore n f).mpwr = s.mpwr := rfl
@[simp] theorem State.onCore_boxSide (s : State) (n : Nat) (f : Core → Core) : (s.onCore n f).boxSide = s.boxSide := rfl
@[simp] theorem State.onCore_boxUp (s : State) (n : Nat) (f : Core → Core) : (s.onCore n f).boxUp = s.boxUp := rfl
@[simp] theorem State.onCore_farArr (s : State) (n : Nat) (f : Core → Core) : (s.onCore n f).farArr = s.farArr := rfl
@[simp] theorem State.onCore_farColl (s : State) (n : Nat) (f : Core → Core) : (s.onCore n f).farColl = s.farColl := rfl
@[simp] theorem State.onCore_tdisp (s : State) (n : Nat) (f : Core → Core) : (s.onCore n f).tdisp = s.tdisp := rfl
@[simp] theorem State.onCore_spdm (s : State) (n : Nat) (f : Core → Core) : (s.onCore n f).spdm = s.spdm := rfl
@[simp] theorem State.onCore_ide (s : State) (n : Nat) (f : Core → Core) : (s.onCore n f).ide = s.ide := rfl
@[simp] theorem State.onCore_urLog (s : State) (n : Nat) (f : Core → Core) : (s.onCore n f).urLog = s.urLog := rfl
@[simp] theorem State.onCore_firmware (s : State) (n : Nat) (f : Core → Core) : (s.onCore n f).firmware = s.firmware := rfl
@[simp] theorem State.onCore_fused (s : State) (n : Nat) (f : Core → Core) : (s.onCore n f).fused = s.fused := rfl
@[simp] theorem State.onCore_resets (s : State) (n : Nat) (f : Core → Core) : (s.onCore n f).resets = s.resets := rfl
@[simp] theorem State.onCore_dmCore (s : State) (n : Nat) (f : Core → Core) : (s.onCore n f).dmCore = s.dmCore := rfl
@[simp] theorem State.onCore_dmActive (s : State) (n : Nat) (f : Core → Core) : (s.onCore n f).dmActive = s.dmActive := rfl
@[simp] theorem State.onCore_dmErr (s : State) (n : Nat) (f : Core → Core) : (s.onCore n f).dmErr = s.dmErr := rfl
@[simp] theorem State.onCore_dmBusy (s : State) (n : Nat) (f : Core → Core) : (s.onCore n f).dmBusy = s.dmBusy := rfl
@[simp] theorem State.onCore_adata (s : State) (n : Nat) (f : Core → Core) : (s.onCore n f).adata = s.adata := rfl
@[simp] theorem State.onCore_out (s : State) (n : Nat) (f : Core → Core) : (s.onCore n f).out = s.out := rfl
@[simp] theorem State.onCore_params (s : State) (n : Nat) (f : Core → Core) : (s.onCore n f).params = s.params := rfl
@[simp] theorem State.onCore_nFree (s : State) (n : Nat) (f : Core → Core) : (s.onCore n f).nFree = s.nFree := rfl

@[simp] theorem State.setPart_now (s : State) (p : Nat) (x : Partition) : (s.setPart p x).now = s.now := rfl
@[simp] theorem State.setPart_agenda (s : State) (p : Nat) (x : Partition) : (s.setPart p x).agenda = s.agenda := rfl
@[simp] theorem State.setPart_stage (s : State) (p : Nat) (x : Partition) : (s.setPart p x).stage = s.stage := rfl
@[simp] theorem State.setPart_focus (s : State) (p : Nat) (x : Partition) : (s.setPart p x).focus = s.focus := rfl
@[simp] theorem State.setPart_cores (s : State) (p : Nat) (x : Partition) : (s.setPart p x).cores = s.cores := rfl
@[simp] theorem State.setPart_units (s : State) (p : Nat) (x : Partition) : (s.setPart p x).units = s.units := rfl
@[simp] theorem State.setPart_memStacks (s : State) (p : Nat) (x : Partition) : (s.setPart p x).memStacks = s.memStacks := rfl
@[simp] theorem State.setPart_msgs (s : State) (p : Nat) (x : Partition) : (s.setPart p x).msgs = s.msgs := rfl
@[simp] theorem State.setPart_nextMsg (s : State) (p : Nat) (x : Partition) : (s.setPart p x).nextMsg = s.nextMsg := rfl
@[simp] theorem State.setPart_dev (s : State) (p : Nat) (x : Partition) : (s.setPart p x).dev = s.dev := rfl
@[simp] theorem State.setPart_slots (s : State) (p : Nat) (x : Partition) : (s.setPart p x).slots = s.slots := rfl
@[simp] theorem State.setPart_bad (s : State) (p : Nat) (x : Partition) : (s.setPart p x).bad = s.bad := rfl
@[simp] theorem State.setPart_weak (s : State) (p : Nat) (x : Partition) : (s.setPart p x).weak = s.weak := rfl
@[simp] theorem State.setPart_lineErr (s : State) (p : Nat) (x : Partition) : (s.setPart p x).lineErr = s.lineErr := rfl
@[simp] theorem State.setPart_poison (s : State) (p : Nat) (x : Partition) : (s.setPart p x).poison = s.poison := rfl
@[simp] theorem State.setPart_host0 (s : State) (p : Nat) (x : Partition) : (s.setPart p x).host0 = s.host0 := rfl
@[simp] theorem State.setPart_host1 (s : State) (p : Nat) (x : Partition) : (s.setPart p x).host1 = s.host1 := rfl
@[simp] theorem State.setPart_seals (s : State) (p : Nat) (x : Partition) : (s.setPart p x).seals = s.seals := rfl
@[simp] theorem State.setPart_pool (s : State) (p : Nat) (x : Partition) : (s.setPart p x).pool = s.pool := rfl
@[simp] theorem State.setPart_poolRho (s : State) (p : Nat) (x : Partition) : (s.setPart p x).poolRho = s.poolRho := rfl
@[simp] theorem State.setPart_ticks (s : State) (p : Nat) (x : Partition) : (s.setPart p x).ticks = s.ticks := rfl
@[simp] theorem State.setPart_tf (s : State) (p : Nat) (x : Partition) : (s.setPart p x).tf = s.tf := rfl
@[simp] theorem State.setPart_lent (s : State) (p : Nat) (x : Partition) : (s.setPart p x).lent = s.lent := rfl
@[simp] theorem State.setPart_launches (s : State) (p : Nat) (x : Partition) : (s.setPart p x).launches = s.launches := rfl
@[simp] theorem State.setPart_ctxs (s : State) (p : Nat) (x : Partition) : (s.setPart p x).ctxs = s.ctxs := rfl
@[simp] theorem State.setPart_intake (s : State) (p : Nat) (x : Partition) : (s.setPart p x).intake = s.intake := rfl
@[simp] theorem State.setPart_adrop (s : State) (p : Nat) (x : Partition) : (s.setPart p x).adrop = s.adrop := rfl
@[simp] theorem State.setPart_events (s : State) (p : Nat) (x : Partition) : (s.setPart p x).events = s.events := rfl
@[simp] theorem State.setPart_ready (s : State) (p : Nat) (x : Partition) : (s.setPart p x).ready = s.ready := rfl
@[simp] theorem State.setPart_off (s : State) (p : Nat) (x : Partition) : (s.setPart p x).off = s.off := rfl
@[simp] theorem State.setPart_offCause (s : State) (p : Nat) (x : Partition) : (s.setPart p x).offCause = s.offCause := rfl
@[simp] theorem State.setPart_owner (s : State) (p : Nat) (x : Partition) : (s.setPart p x).owner = s.owner := rfl
@[simp] theorem State.setPart_link0 (s : State) (p : Nat) (x : Partition) : (s.setPart p x).link0 = s.link0 := rfl
@[simp] theorem State.setPart_link1 (s : State) (p : Nat) (x : Partition) : (s.setPart p x).link1 = s.link1 := rfl
@[simp] theorem State.setPart_epoch (s : State) (p : Nat) (x : Partition) : (s.setPart p x).epoch = s.epoch := rfl
@[simp] theorem State.setPart_stale (s : State) (p : Nat) (x : Partition) : (s.setPart p x).stale = s.stale := rfl
@[simp] theorem State.setPart_lremain (s : State) (p : Nat) (x : Partition) : (s.setPart p x).lremain = s.lremain := rfl
@[simp] theorem State.setPart_llen (s : State) (p : Nat) (x : Partition) : (s.setPart p x).llen = s.llen := rfl
@[simp] theorem State.setPart_yield (s : State) (p : Nat) (x : Partition) : (s.setPart p x).yield = s.yield := rfl
@[simp] theorem State.setPart_pctlErr (s : State) (p : Nat) (x : Partition) : (s.setPart p x).pctlErr = s.pctlErr := rfl
@[simp] theorem State.setPart_pmask (s : State) (p : Nat) (x : Partition) : (s.setPart p x).pmask = s.pmask := rfl
@[simp] theorem State.setPart_vfmap (s : State) (p : Nat) (x : Partition) : (s.setPart p x).vfmap = s.vfmap := rfl
@[simp] theorem State.setPart_rsaddr (s : State) (p : Nat) (x : Partition) : (s.setPart p x).rsaddr = s.rsaddr := rfl
@[simp] theorem State.setPart_resync (s : State) (p : Nat) (x : Partition) : (s.setPart p x).resync = s.resync := rfl
@[simp] theorem State.setPart_mpwr (s : State) (p : Nat) (x : Partition) : (s.setPart p x).mpwr = s.mpwr := rfl
@[simp] theorem State.setPart_boxSide (s : State) (p : Nat) (x : Partition) : (s.setPart p x).boxSide = s.boxSide := rfl
@[simp] theorem State.setPart_boxUp (s : State) (p : Nat) (x : Partition) : (s.setPart p x).boxUp = s.boxUp := rfl
@[simp] theorem State.setPart_farArr (s : State) (p : Nat) (x : Partition) : (s.setPart p x).farArr = s.farArr := rfl
@[simp] theorem State.setPart_farColl (s : State) (p : Nat) (x : Partition) : (s.setPart p x).farColl = s.farColl := rfl
@[simp] theorem State.setPart_tdisp (s : State) (p : Nat) (x : Partition) : (s.setPart p x).tdisp = s.tdisp := rfl
@[simp] theorem State.setPart_spdm (s : State) (p : Nat) (x : Partition) : (s.setPart p x).spdm = s.spdm := rfl
@[simp] theorem State.setPart_ide (s : State) (p : Nat) (x : Partition) : (s.setPart p x).ide = s.ide := rfl
@[simp] theorem State.setPart_urLog (s : State) (p : Nat) (x : Partition) : (s.setPart p x).urLog = s.urLog := rfl
@[simp] theorem State.setPart_firmware (s : State) (p : Nat) (x : Partition) : (s.setPart p x).firmware = s.firmware := rfl
@[simp] theorem State.setPart_fused (s : State) (p : Nat) (x : Partition) : (s.setPart p x).fused = s.fused := rfl
@[simp] theorem State.setPart_resets (s : State) (p : Nat) (x : Partition) : (s.setPart p x).resets = s.resets := rfl
@[simp] theorem State.setPart_dmCore (s : State) (p : Nat) (x : Partition) : (s.setPart p x).dmCore = s.dmCore := rfl
@[simp] theorem State.setPart_dmActive (s : State) (p : Nat) (x : Partition) : (s.setPart p x).dmActive = s.dmActive := rfl
@[simp] theorem State.setPart_dmErr (s : State) (p : Nat) (x : Partition) : (s.setPart p x).dmErr = s.dmErr := rfl
@[simp] theorem State.setPart_dmBusy (s : State) (p : Nat) (x : Partition) : (s.setPart p x).dmBusy = s.dmBusy := rfl
@[simp] theorem State.setPart_adata (s : State) (p : Nat) (x : Partition) : (s.setPart p x).adata = s.adata := rfl
@[simp] theorem State.setPart_out (s : State) (p : Nat) (x : Partition) : (s.setPart p x).out = s.out := rfl
@[simp] theorem State.setPart_params (s : State) (p : Nat) (x : Partition) : (s.setPart p x).params = s.params := rfl
@[simp] theorem State.setPart_nFree (s : State) (p : Nat) (x : Partition) : (s.setPart p x).nFree = s.nFree := rfl

@[simp] theorem State.onPart_now (s : State) (p : Nat) (f : Partition → Partition) : (s.onPart p f).now = s.now := rfl
@[simp] theorem State.onPart_agenda (s : State) (p : Nat) (f : Partition → Partition) : (s.onPart p f).agenda = s.agenda := rfl
@[simp] theorem State.onPart_stage (s : State) (p : Nat) (f : Partition → Partition) : (s.onPart p f).stage = s.stage := rfl
@[simp] theorem State.onPart_focus (s : State) (p : Nat) (f : Partition → Partition) : (s.onPart p f).focus = s.focus := rfl
@[simp] theorem State.onPart_cores (s : State) (p : Nat) (f : Partition → Partition) : (s.onPart p f).cores = s.cores := rfl
@[simp] theorem State.onPart_units (s : State) (p : Nat) (f : Partition → Partition) : (s.onPart p f).units = s.units := rfl
@[simp] theorem State.onPart_memStacks (s : State) (p : Nat) (f : Partition → Partition) : (s.onPart p f).memStacks = s.memStacks := rfl
@[simp] theorem State.onPart_msgs (s : State) (p : Nat) (f : Partition → Partition) : (s.onPart p f).msgs = s.msgs := rfl
@[simp] theorem State.onPart_nextMsg (s : State) (p : Nat) (f : Partition → Partition) : (s.onPart p f).nextMsg = s.nextMsg := rfl
@[simp] theorem State.onPart_dev (s : State) (p : Nat) (f : Partition → Partition) : (s.onPart p f).dev = s.dev := rfl
@[simp] theorem State.onPart_slots (s : State) (p : Nat) (f : Partition → Partition) : (s.onPart p f).slots = s.slots := rfl
@[simp] theorem State.onPart_bad (s : State) (p : Nat) (f : Partition → Partition) : (s.onPart p f).bad = s.bad := rfl
@[simp] theorem State.onPart_weak (s : State) (p : Nat) (f : Partition → Partition) : (s.onPart p f).weak = s.weak := rfl
@[simp] theorem State.onPart_lineErr (s : State) (p : Nat) (f : Partition → Partition) : (s.onPart p f).lineErr = s.lineErr := rfl
@[simp] theorem State.onPart_poison (s : State) (p : Nat) (f : Partition → Partition) : (s.onPart p f).poison = s.poison := rfl
@[simp] theorem State.onPart_host0 (s : State) (p : Nat) (f : Partition → Partition) : (s.onPart p f).host0 = s.host0 := rfl
@[simp] theorem State.onPart_host1 (s : State) (p : Nat) (f : Partition → Partition) : (s.onPart p f).host1 = s.host1 := rfl
@[simp] theorem State.onPart_seals (s : State) (p : Nat) (f : Partition → Partition) : (s.onPart p f).seals = s.seals := rfl
@[simp] theorem State.onPart_pool (s : State) (p : Nat) (f : Partition → Partition) : (s.onPart p f).pool = s.pool := rfl
@[simp] theorem State.onPart_poolRho (s : State) (p : Nat) (f : Partition → Partition) : (s.onPart p f).poolRho = s.poolRho := rfl
@[simp] theorem State.onPart_ticks (s : State) (p : Nat) (f : Partition → Partition) : (s.onPart p f).ticks = s.ticks := rfl
@[simp] theorem State.onPart_tf (s : State) (p : Nat) (f : Partition → Partition) : (s.onPart p f).tf = s.tf := rfl
@[simp] theorem State.onPart_lent (s : State) (p : Nat) (f : Partition → Partition) : (s.onPart p f).lent = s.lent := rfl
@[simp] theorem State.onPart_launches (s : State) (p : Nat) (f : Partition → Partition) : (s.onPart p f).launches = s.launches := rfl
@[simp] theorem State.onPart_ctxs (s : State) (p : Nat) (f : Partition → Partition) : (s.onPart p f).ctxs = s.ctxs := rfl
@[simp] theorem State.onPart_intake (s : State) (p : Nat) (f : Partition → Partition) : (s.onPart p f).intake = s.intake := rfl
@[simp] theorem State.onPart_adrop (s : State) (p : Nat) (f : Partition → Partition) : (s.onPart p f).adrop = s.adrop := rfl
@[simp] theorem State.onPart_events (s : State) (p : Nat) (f : Partition → Partition) : (s.onPart p f).events = s.events := rfl
@[simp] theorem State.onPart_ready (s : State) (p : Nat) (f : Partition → Partition) : (s.onPart p f).ready = s.ready := rfl
@[simp] theorem State.onPart_off (s : State) (p : Nat) (f : Partition → Partition) : (s.onPart p f).off = s.off := rfl
@[simp] theorem State.onPart_offCause (s : State) (p : Nat) (f : Partition → Partition) : (s.onPart p f).offCause = s.offCause := rfl
@[simp] theorem State.onPart_owner (s : State) (p : Nat) (f : Partition → Partition) : (s.onPart p f).owner = s.owner := rfl
@[simp] theorem State.onPart_link0 (s : State) (p : Nat) (f : Partition → Partition) : (s.onPart p f).link0 = s.link0 := rfl
@[simp] theorem State.onPart_link1 (s : State) (p : Nat) (f : Partition → Partition) : (s.onPart p f).link1 = s.link1 := rfl
@[simp] theorem State.onPart_epoch (s : State) (p : Nat) (f : Partition → Partition) : (s.onPart p f).epoch = s.epoch := rfl
@[simp] theorem State.onPart_stale (s : State) (p : Nat) (f : Partition → Partition) : (s.onPart p f).stale = s.stale := rfl
@[simp] theorem State.onPart_lremain (s : State) (p : Nat) (f : Partition → Partition) : (s.onPart p f).lremain = s.lremain := rfl
@[simp] theorem State.onPart_llen (s : State) (p : Nat) (f : Partition → Partition) : (s.onPart p f).llen = s.llen := rfl
@[simp] theorem State.onPart_yield (s : State) (p : Nat) (f : Partition → Partition) : (s.onPart p f).yield = s.yield := rfl
@[simp] theorem State.onPart_pctlErr (s : State) (p : Nat) (f : Partition → Partition) : (s.onPart p f).pctlErr = s.pctlErr := rfl
@[simp] theorem State.onPart_pmask (s : State) (p : Nat) (f : Partition → Partition) : (s.onPart p f).pmask = s.pmask := rfl
@[simp] theorem State.onPart_vfmap (s : State) (p : Nat) (f : Partition → Partition) : (s.onPart p f).vfmap = s.vfmap := rfl
@[simp] theorem State.onPart_rsaddr (s : State) (p : Nat) (f : Partition → Partition) : (s.onPart p f).rsaddr = s.rsaddr := rfl
@[simp] theorem State.onPart_resync (s : State) (p : Nat) (f : Partition → Partition) : (s.onPart p f).resync = s.resync := rfl
@[simp] theorem State.onPart_mpwr (s : State) (p : Nat) (f : Partition → Partition) : (s.onPart p f).mpwr = s.mpwr := rfl
@[simp] theorem State.onPart_boxSide (s : State) (p : Nat) (f : Partition → Partition) : (s.onPart p f).boxSide = s.boxSide := rfl
@[simp] theorem State.onPart_boxUp (s : State) (p : Nat) (f : Partition → Partition) : (s.onPart p f).boxUp = s.boxUp := rfl
@[simp] theorem State.onPart_farArr (s : State) (p : Nat) (f : Partition → Partition) : (s.onPart p f).farArr = s.farArr := rfl
@[simp] theorem State.onPart_farColl (s : State) (p : Nat) (f : Partition → Partition) : (s.onPart p f).farColl = s.farColl := rfl
@[simp] theorem State.onPart_tdisp (s : State) (p : Nat) (f : Partition → Partition) : (s.onPart p f).tdisp = s.tdisp := rfl
@[simp] theorem State.onPart_spdm (s : State) (p : Nat) (f : Partition → Partition) : (s.onPart p f).spdm = s.spdm := rfl
@[simp] theorem State.onPart_ide (s : State) (p : Nat) (f : Partition → Partition) : (s.onPart p f).ide = s.ide := rfl
@[simp] theorem State.onPart_urLog (s : State) (p : Nat) (f : Partition → Partition) : (s.onPart p f).urLog = s.urLog := rfl
@[simp] theorem State.onPart_firmware (s : State) (p : Nat) (f : Partition → Partition) : (s.onPart p f).firmware = s.firmware := rfl
@[simp] theorem State.onPart_fused (s : State) (p : Nat) (f : Partition → Partition) : (s.onPart p f).fused = s.fused := rfl
@[simp] theorem State.onPart_resets (s : State) (p : Nat) (f : Partition → Partition) : (s.onPart p f).resets = s.resets := rfl
@[simp] theorem State.onPart_dmCore (s : State) (p : Nat) (f : Partition → Partition) : (s.onPart p f).dmCore = s.dmCore := rfl
@[simp] theorem State.onPart_dmActive (s : State) (p : Nat) (f : Partition → Partition) : (s.onPart p f).dmActive = s.dmActive := rfl
@[simp] theorem State.onPart_dmErr (s : State) (p : Nat) (f : Partition → Partition) : (s.onPart p f).dmErr = s.dmErr := rfl
@[simp] theorem State.onPart_dmBusy (s : State) (p : Nat) (f : Partition → Partition) : (s.onPart p f).dmBusy = s.dmBusy := rfl
@[simp] theorem State.onPart_adata (s : State) (p : Nat) (f : Partition → Partition) : (s.onPart p f).adata = s.adata := rfl
@[simp] theorem State.onPart_out (s : State) (p : Nat) (f : Partition → Partition) : (s.onPart p f).out = s.out := rfl
@[simp] theorem State.onPart_params (s : State) (p : Nat) (f : Partition → Partition) : (s.onPart p f).params = s.params := rfl
@[simp] theorem State.onPart_nFree (s : State) (p : Nat) (f : Partition → Partition) : (s.onPart p f).nFree = s.nFree := rfl

@[simp] theorem State.onStack_now (s : State) (k : Nat) (f : Stack → Stack) : (s.onStack k f).now = s.now := rfl
@[simp] theorem State.onStack_agenda (s : State) (k : Nat) (f : Stack → Stack) : (s.onStack k f).agenda = s.agenda := rfl
@[simp] theorem State.onStack_stage (s : State) (k : Nat) (f : Stack → Stack) : (s.onStack k f).stage = s.stage := rfl
@[simp] theorem State.onStack_focus (s : State) (k : Nat) (f : Stack → Stack) : (s.onStack k f).focus = s.focus := rfl
@[simp] theorem State.onStack_cores (s : State) (k : Nat) (f : Stack → Stack) : (s.onStack k f).cores = s.cores := rfl
@[simp] theorem State.onStack_parts (s : State) (k : Nat) (f : Stack → Stack) : (s.onStack k f).parts = s.parts := rfl
@[simp] theorem State.onStack_units (s : State) (k : Nat) (f : Stack → Stack) : (s.onStack k f).units = s.units := rfl
@[simp] theorem State.onStack_msgs (s : State) (k : Nat) (f : Stack → Stack) : (s.onStack k f).msgs = s.msgs := rfl
@[simp] theorem State.onStack_nextMsg (s : State) (k : Nat) (f : Stack → Stack) : (s.onStack k f).nextMsg = s.nextMsg := rfl
@[simp] theorem State.onStack_dev (s : State) (k : Nat) (f : Stack → Stack) : (s.onStack k f).dev = s.dev := rfl
@[simp] theorem State.onStack_slots (s : State) (k : Nat) (f : Stack → Stack) : (s.onStack k f).slots = s.slots := rfl
@[simp] theorem State.onStack_bad (s : State) (k : Nat) (f : Stack → Stack) : (s.onStack k f).bad = s.bad := rfl
@[simp] theorem State.onStack_weak (s : State) (k : Nat) (f : Stack → Stack) : (s.onStack k f).weak = s.weak := rfl
@[simp] theorem State.onStack_lineErr (s : State) (k : Nat) (f : Stack → Stack) : (s.onStack k f).lineErr = s.lineErr := rfl
@[simp] theorem State.onStack_poison (s : State) (k : Nat) (f : Stack → Stack) : (s.onStack k f).poison = s.poison := rfl
@[simp] theorem State.onStack_host0 (s : State) (k : Nat) (f : Stack → Stack) : (s.onStack k f).host0 = s.host0 := rfl
@[simp] theorem State.onStack_host1 (s : State) (k : Nat) (f : Stack → Stack) : (s.onStack k f).host1 = s.host1 := rfl
@[simp] theorem State.onStack_seals (s : State) (k : Nat) (f : Stack → Stack) : (s.onStack k f).seals = s.seals := rfl
@[simp] theorem State.onStack_pool (s : State) (k : Nat) (f : Stack → Stack) : (s.onStack k f).pool = s.pool := rfl
@[simp] theorem State.onStack_poolRho (s : State) (k : Nat) (f : Stack → Stack) : (s.onStack k f).poolRho = s.poolRho := rfl
@[simp] theorem State.onStack_ticks (s : State) (k : Nat) (f : Stack → Stack) : (s.onStack k f).ticks = s.ticks := rfl
@[simp] theorem State.onStack_tf (s : State) (k : Nat) (f : Stack → Stack) : (s.onStack k f).tf = s.tf := rfl
@[simp] theorem State.onStack_lent (s : State) (k : Nat) (f : Stack → Stack) : (s.onStack k f).lent = s.lent := rfl
@[simp] theorem State.onStack_launches (s : State) (k : Nat) (f : Stack → Stack) : (s.onStack k f).launches = s.launches := rfl
@[simp] theorem State.onStack_ctxs (s : State) (k : Nat) (f : Stack → Stack) : (s.onStack k f).ctxs = s.ctxs := rfl
@[simp] theorem State.onStack_intake (s : State) (k : Nat) (f : Stack → Stack) : (s.onStack k f).intake = s.intake := rfl
@[simp] theorem State.onStack_adrop (s : State) (k : Nat) (f : Stack → Stack) : (s.onStack k f).adrop = s.adrop := rfl
@[simp] theorem State.onStack_events (s : State) (k : Nat) (f : Stack → Stack) : (s.onStack k f).events = s.events := rfl
@[simp] theorem State.onStack_ready (s : State) (k : Nat) (f : Stack → Stack) : (s.onStack k f).ready = s.ready := rfl
@[simp] theorem State.onStack_off (s : State) (k : Nat) (f : Stack → Stack) : (s.onStack k f).off = s.off := rfl
@[simp] theorem State.onStack_offCause (s : State) (k : Nat) (f : Stack → Stack) : (s.onStack k f).offCause = s.offCause := rfl
@[simp] theorem State.onStack_owner (s : State) (k : Nat) (f : Stack → Stack) : (s.onStack k f).owner = s.owner := rfl
@[simp] theorem State.onStack_link0 (s : State) (k : Nat) (f : Stack → Stack) : (s.onStack k f).link0 = s.link0 := rfl
@[simp] theorem State.onStack_link1 (s : State) (k : Nat) (f : Stack → Stack) : (s.onStack k f).link1 = s.link1 := rfl
@[simp] theorem State.onStack_epoch (s : State) (k : Nat) (f : Stack → Stack) : (s.onStack k f).epoch = s.epoch := rfl
@[simp] theorem State.onStack_stale (s : State) (k : Nat) (f : Stack → Stack) : (s.onStack k f).stale = s.stale := rfl
@[simp] theorem State.onStack_lremain (s : State) (k : Nat) (f : Stack → Stack) : (s.onStack k f).lremain = s.lremain := rfl
@[simp] theorem State.onStack_llen (s : State) (k : Nat) (f : Stack → Stack) : (s.onStack k f).llen = s.llen := rfl
@[simp] theorem State.onStack_yield (s : State) (k : Nat) (f : Stack → Stack) : (s.onStack k f).yield = s.yield := rfl
@[simp] theorem State.onStack_pctlErr (s : State) (k : Nat) (f : Stack → Stack) : (s.onStack k f).pctlErr = s.pctlErr := rfl
@[simp] theorem State.onStack_pmask (s : State) (k : Nat) (f : Stack → Stack) : (s.onStack k f).pmask = s.pmask := rfl
@[simp] theorem State.onStack_vfmap (s : State) (k : Nat) (f : Stack → Stack) : (s.onStack k f).vfmap = s.vfmap := rfl
@[simp] theorem State.onStack_rsaddr (s : State) (k : Nat) (f : Stack → Stack) : (s.onStack k f).rsaddr = s.rsaddr := rfl
@[simp] theorem State.onStack_resync (s : State) (k : Nat) (f : Stack → Stack) : (s.onStack k f).resync = s.resync := rfl
@[simp] theorem State.onStack_mpwr (s : State) (k : Nat) (f : Stack → Stack) : (s.onStack k f).mpwr = s.mpwr := rfl
@[simp] theorem State.onStack_boxSide (s : State) (k : Nat) (f : Stack → Stack) : (s.onStack k f).boxSide = s.boxSide := rfl
@[simp] theorem State.onStack_boxUp (s : State) (k : Nat) (f : Stack → Stack) : (s.onStack k f).boxUp = s.boxUp := rfl
@[simp] theorem State.onStack_farArr (s : State) (k : Nat) (f : Stack → Stack) : (s.onStack k f).farArr = s.farArr := rfl
@[simp] theorem State.onStack_farColl (s : State) (k : Nat) (f : Stack → Stack) : (s.onStack k f).farColl = s.farColl := rfl
@[simp] theorem State.onStack_tdisp (s : State) (k : Nat) (f : Stack → Stack) : (s.onStack k f).tdisp = s.tdisp := rfl
@[simp] theorem State.onStack_spdm (s : State) (k : Nat) (f : Stack → Stack) : (s.onStack k f).spdm = s.spdm := rfl
@[simp] theorem State.onStack_ide (s : State) (k : Nat) (f : Stack → Stack) : (s.onStack k f).ide = s.ide := rfl
@[simp] theorem State.onStack_urLog (s : State) (k : Nat) (f : Stack → Stack) : (s.onStack k f).urLog = s.urLog := rfl
@[simp] theorem State.onStack_firmware (s : State) (k : Nat) (f : Stack → Stack) : (s.onStack k f).firmware = s.firmware := rfl
@[simp] theorem State.onStack_fused (s : State) (k : Nat) (f : Stack → Stack) : (s.onStack k f).fused = s.fused := rfl
@[simp] theorem State.onStack_resets (s : State) (k : Nat) (f : Stack → Stack) : (s.onStack k f).resets = s.resets := rfl
@[simp] theorem State.onStack_dmCore (s : State) (k : Nat) (f : Stack → Stack) : (s.onStack k f).dmCore = s.dmCore := rfl
@[simp] theorem State.onStack_dmActive (s : State) (k : Nat) (f : Stack → Stack) : (s.onStack k f).dmActive = s.dmActive := rfl
@[simp] theorem State.onStack_dmErr (s : State) (k : Nat) (f : Stack → Stack) : (s.onStack k f).dmErr = s.dmErr := rfl
@[simp] theorem State.onStack_dmBusy (s : State) (k : Nat) (f : Stack → Stack) : (s.onStack k f).dmBusy = s.dmBusy := rfl
@[simp] theorem State.onStack_adata (s : State) (k : Nat) (f : Stack → Stack) : (s.onStack k f).adata = s.adata := rfl
@[simp] theorem State.onStack_out (s : State) (k : Nat) (f : Stack → Stack) : (s.onStack k f).out = s.out := rfl
@[simp] theorem State.onStack_params (s : State) (k : Nat) (f : Stack → Stack) : (s.onStack k f).params = s.params := rfl
@[simp] theorem State.onStack_nFree (s : State) (k : Nat) (f : Stack → Stack) : (s.onStack k f).nFree = s.nFree := rfl

@[simp] theorem State.onUnit_now (s : State) (p : Nat) (f : TransUnit → TransUnit) : (s.onUnit p f).now = s.now := rfl
@[simp] theorem State.onUnit_agenda (s : State) (p : Nat) (f : TransUnit → TransUnit) : (s.onUnit p f).agenda = s.agenda := rfl
@[simp] theorem State.onUnit_stage (s : State) (p : Nat) (f : TransUnit → TransUnit) : (s.onUnit p f).stage = s.stage := rfl
@[simp] theorem State.onUnit_focus (s : State) (p : Nat) (f : TransUnit → TransUnit) : (s.onUnit p f).focus = s.focus := rfl
@[simp] theorem State.onUnit_cores (s : State) (p : Nat) (f : TransUnit → TransUnit) : (s.onUnit p f).cores = s.cores := rfl
@[simp] theorem State.onUnit_parts (s : State) (p : Nat) (f : TransUnit → TransUnit) : (s.onUnit p f).parts = s.parts := rfl
@[simp] theorem State.onUnit_memStacks (s : State) (p : Nat) (f : TransUnit → TransUnit) : (s.onUnit p f).memStacks = s.memStacks := rfl
@[simp] theorem State.onUnit_msgs (s : State) (p : Nat) (f : TransUnit → TransUnit) : (s.onUnit p f).msgs = s.msgs := rfl
@[simp] theorem State.onUnit_nextMsg (s : State) (p : Nat) (f : TransUnit → TransUnit) : (s.onUnit p f).nextMsg = s.nextMsg := rfl
@[simp] theorem State.onUnit_dev (s : State) (p : Nat) (f : TransUnit → TransUnit) : (s.onUnit p f).dev = s.dev := rfl
@[simp] theorem State.onUnit_slots (s : State) (p : Nat) (f : TransUnit → TransUnit) : (s.onUnit p f).slots = s.slots := rfl
@[simp] theorem State.onUnit_bad (s : State) (p : Nat) (f : TransUnit → TransUnit) : (s.onUnit p f).bad = s.bad := rfl
@[simp] theorem State.onUnit_weak (s : State) (p : Nat) (f : TransUnit → TransUnit) : (s.onUnit p f).weak = s.weak := rfl
@[simp] theorem State.onUnit_lineErr (s : State) (p : Nat) (f : TransUnit → TransUnit) : (s.onUnit p f).lineErr = s.lineErr := rfl
@[simp] theorem State.onUnit_poison (s : State) (p : Nat) (f : TransUnit → TransUnit) : (s.onUnit p f).poison = s.poison := rfl
@[simp] theorem State.onUnit_host0 (s : State) (p : Nat) (f : TransUnit → TransUnit) : (s.onUnit p f).host0 = s.host0 := rfl
@[simp] theorem State.onUnit_host1 (s : State) (p : Nat) (f : TransUnit → TransUnit) : (s.onUnit p f).host1 = s.host1 := rfl
@[simp] theorem State.onUnit_seals (s : State) (p : Nat) (f : TransUnit → TransUnit) : (s.onUnit p f).seals = s.seals := rfl
@[simp] theorem State.onUnit_pool (s : State) (p : Nat) (f : TransUnit → TransUnit) : (s.onUnit p f).pool = s.pool := rfl
@[simp] theorem State.onUnit_poolRho (s : State) (p : Nat) (f : TransUnit → TransUnit) : (s.onUnit p f).poolRho = s.poolRho := rfl
@[simp] theorem State.onUnit_ticks (s : State) (p : Nat) (f : TransUnit → TransUnit) : (s.onUnit p f).ticks = s.ticks := rfl
@[simp] theorem State.onUnit_tf (s : State) (p : Nat) (f : TransUnit → TransUnit) : (s.onUnit p f).tf = s.tf := rfl
@[simp] theorem State.onUnit_lent (s : State) (p : Nat) (f : TransUnit → TransUnit) : (s.onUnit p f).lent = s.lent := rfl
@[simp] theorem State.onUnit_launches (s : State) (p : Nat) (f : TransUnit → TransUnit) : (s.onUnit p f).launches = s.launches := rfl
@[simp] theorem State.onUnit_ctxs (s : State) (p : Nat) (f : TransUnit → TransUnit) : (s.onUnit p f).ctxs = s.ctxs := rfl
@[simp] theorem State.onUnit_intake (s : State) (p : Nat) (f : TransUnit → TransUnit) : (s.onUnit p f).intake = s.intake := rfl
@[simp] theorem State.onUnit_adrop (s : State) (p : Nat) (f : TransUnit → TransUnit) : (s.onUnit p f).adrop = s.adrop := rfl
@[simp] theorem State.onUnit_events (s : State) (p : Nat) (f : TransUnit → TransUnit) : (s.onUnit p f).events = s.events := rfl
@[simp] theorem State.onUnit_ready (s : State) (p : Nat) (f : TransUnit → TransUnit) : (s.onUnit p f).ready = s.ready := rfl
@[simp] theorem State.onUnit_off (s : State) (p : Nat) (f : TransUnit → TransUnit) : (s.onUnit p f).off = s.off := rfl
@[simp] theorem State.onUnit_offCause (s : State) (p : Nat) (f : TransUnit → TransUnit) : (s.onUnit p f).offCause = s.offCause := rfl
@[simp] theorem State.onUnit_owner (s : State) (p : Nat) (f : TransUnit → TransUnit) : (s.onUnit p f).owner = s.owner := rfl
@[simp] theorem State.onUnit_link0 (s : State) (p : Nat) (f : TransUnit → TransUnit) : (s.onUnit p f).link0 = s.link0 := rfl
@[simp] theorem State.onUnit_link1 (s : State) (p : Nat) (f : TransUnit → TransUnit) : (s.onUnit p f).link1 = s.link1 := rfl
@[simp] theorem State.onUnit_epoch (s : State) (p : Nat) (f : TransUnit → TransUnit) : (s.onUnit p f).epoch = s.epoch := rfl
@[simp] theorem State.onUnit_stale (s : State) (p : Nat) (f : TransUnit → TransUnit) : (s.onUnit p f).stale = s.stale := rfl
@[simp] theorem State.onUnit_lremain (s : State) (p : Nat) (f : TransUnit → TransUnit) : (s.onUnit p f).lremain = s.lremain := rfl
@[simp] theorem State.onUnit_llen (s : State) (p : Nat) (f : TransUnit → TransUnit) : (s.onUnit p f).llen = s.llen := rfl
@[simp] theorem State.onUnit_yield (s : State) (p : Nat) (f : TransUnit → TransUnit) : (s.onUnit p f).yield = s.yield := rfl
@[simp] theorem State.onUnit_pctlErr (s : State) (p : Nat) (f : TransUnit → TransUnit) : (s.onUnit p f).pctlErr = s.pctlErr := rfl
@[simp] theorem State.onUnit_pmask (s : State) (p : Nat) (f : TransUnit → TransUnit) : (s.onUnit p f).pmask = s.pmask := rfl
@[simp] theorem State.onUnit_vfmap (s : State) (p : Nat) (f : TransUnit → TransUnit) : (s.onUnit p f).vfmap = s.vfmap := rfl
@[simp] theorem State.onUnit_rsaddr (s : State) (p : Nat) (f : TransUnit → TransUnit) : (s.onUnit p f).rsaddr = s.rsaddr := rfl
@[simp] theorem State.onUnit_resync (s : State) (p : Nat) (f : TransUnit → TransUnit) : (s.onUnit p f).resync = s.resync := rfl
@[simp] theorem State.onUnit_mpwr (s : State) (p : Nat) (f : TransUnit → TransUnit) : (s.onUnit p f).mpwr = s.mpwr := rfl
@[simp] theorem State.onUnit_boxSide (s : State) (p : Nat) (f : TransUnit → TransUnit) : (s.onUnit p f).boxSide = s.boxSide := rfl
@[simp] theorem State.onUnit_boxUp (s : State) (p : Nat) (f : TransUnit → TransUnit) : (s.onUnit p f).boxUp = s.boxUp := rfl
@[simp] theorem State.onUnit_farArr (s : State) (p : Nat) (f : TransUnit → TransUnit) : (s.onUnit p f).farArr = s.farArr := rfl
@[simp] theorem State.onUnit_farColl (s : State) (p : Nat) (f : TransUnit → TransUnit) : (s.onUnit p f).farColl = s.farColl := rfl
@[simp] theorem State.onUnit_tdisp (s : State) (p : Nat) (f : TransUnit → TransUnit) : (s.onUnit p f).tdisp = s.tdisp := rfl
@[simp] theorem State.onUnit_spdm (s : State) (p : Nat) (f : TransUnit → TransUnit) : (s.onUnit p f).spdm = s.spdm := rfl
@[simp] theorem State.onUnit_ide (s : State) (p : Nat) (f : TransUnit → TransUnit) : (s.onUnit p f).ide = s.ide := rfl
@[simp] theorem State.onUnit_urLog (s : State) (p : Nat) (f : TransUnit → TransUnit) : (s.onUnit p f).urLog = s.urLog := rfl
@[simp] theorem State.onUnit_firmware (s : State) (p : Nat) (f : TransUnit → TransUnit) : (s.onUnit p f).firmware = s.firmware := rfl
@[simp] theorem State.onUnit_fused (s : State) (p : Nat) (f : TransUnit → TransUnit) : (s.onUnit p f).fused = s.fused := rfl
@[simp] theorem State.onUnit_resets (s : State) (p : Nat) (f : TransUnit → TransUnit) : (s.onUnit p f).resets = s.resets := rfl
@[simp] theorem State.onUnit_dmCore (s : State) (p : Nat) (f : TransUnit → TransUnit) : (s.onUnit p f).dmCore = s.dmCore := rfl
@[simp] theorem State.onUnit_dmActive (s : State) (p : Nat) (f : TransUnit → TransUnit) : (s.onUnit p f).dmActive = s.dmActive := rfl
@[simp] theorem State.onUnit_dmErr (s : State) (p : Nat) (f : TransUnit → TransUnit) : (s.onUnit p f).dmErr = s.dmErr := rfl
@[simp] theorem State.onUnit_dmBusy (s : State) (p : Nat) (f : TransUnit → TransUnit) : (s.onUnit p f).dmBusy = s.dmBusy := rfl
@[simp] theorem State.onUnit_adata (s : State) (p : Nat) (f : TransUnit → TransUnit) : (s.onUnit p f).adata = s.adata := rfl
@[simp] theorem State.onUnit_out (s : State) (p : Nat) (f : TransUnit → TransUnit) : (s.onUnit p f).out = s.out := rfl
@[simp] theorem State.onUnit_params (s : State) (p : Nat) (f : TransUnit → TransUnit) : (s.onUnit p f).params = s.params := rfl
@[simp] theorem State.onUnit_nFree (s : State) (p : Nat) (f : TransUnit → TransUnit) : (s.onUnit p f).nFree = s.nFree := rfl

@[simp] theorem State.onCtx_now (s : State) (k : Nat) (f : Context → Context) : (s.onCtx k f).now = s.now := rfl
@[simp] theorem State.onCtx_agenda (s : State) (k : Nat) (f : Context → Context) : (s.onCtx k f).agenda = s.agenda := rfl
@[simp] theorem State.onCtx_stage (s : State) (k : Nat) (f : Context → Context) : (s.onCtx k f).stage = s.stage := rfl
@[simp] theorem State.onCtx_focus (s : State) (k : Nat) (f : Context → Context) : (s.onCtx k f).focus = s.focus := rfl
@[simp] theorem State.onCtx_cores (s : State) (k : Nat) (f : Context → Context) : (s.onCtx k f).cores = s.cores := rfl
@[simp] theorem State.onCtx_parts (s : State) (k : Nat) (f : Context → Context) : (s.onCtx k f).parts = s.parts := rfl
@[simp] theorem State.onCtx_units (s : State) (k : Nat) (f : Context → Context) : (s.onCtx k f).units = s.units := rfl
@[simp] theorem State.onCtx_memStacks (s : State) (k : Nat) (f : Context → Context) : (s.onCtx k f).memStacks = s.memStacks := rfl
@[simp] theorem State.onCtx_msgs (s : State) (k : Nat) (f : Context → Context) : (s.onCtx k f).msgs = s.msgs := rfl
@[simp] theorem State.onCtx_nextMsg (s : State) (k : Nat) (f : Context → Context) : (s.onCtx k f).nextMsg = s.nextMsg := rfl
@[simp] theorem State.onCtx_dev (s : State) (k : Nat) (f : Context → Context) : (s.onCtx k f).dev = s.dev := rfl
@[simp] theorem State.onCtx_slots (s : State) (k : Nat) (f : Context → Context) : (s.onCtx k f).slots = s.slots := rfl
@[simp] theorem State.onCtx_bad (s : State) (k : Nat) (f : Context → Context) : (s.onCtx k f).bad = s.bad := rfl
@[simp] theorem State.onCtx_weak (s : State) (k : Nat) (f : Context → Context) : (s.onCtx k f).weak = s.weak := rfl
@[simp] theorem State.onCtx_lineErr (s : State) (k : Nat) (f : Context → Context) : (s.onCtx k f).lineErr = s.lineErr := rfl
@[simp] theorem State.onCtx_poison (s : State) (k : Nat) (f : Context → Context) : (s.onCtx k f).poison = s.poison := rfl
@[simp] theorem State.onCtx_host0 (s : State) (k : Nat) (f : Context → Context) : (s.onCtx k f).host0 = s.host0 := rfl
@[simp] theorem State.onCtx_host1 (s : State) (k : Nat) (f : Context → Context) : (s.onCtx k f).host1 = s.host1 := rfl
@[simp] theorem State.onCtx_seals (s : State) (k : Nat) (f : Context → Context) : (s.onCtx k f).seals = s.seals := rfl
@[simp] theorem State.onCtx_pool (s : State) (k : Nat) (f : Context → Context) : (s.onCtx k f).pool = s.pool := rfl
@[simp] theorem State.onCtx_poolRho (s : State) (k : Nat) (f : Context → Context) : (s.onCtx k f).poolRho = s.poolRho := rfl
@[simp] theorem State.onCtx_ticks (s : State) (k : Nat) (f : Context → Context) : (s.onCtx k f).ticks = s.ticks := rfl
@[simp] theorem State.onCtx_tf (s : State) (k : Nat) (f : Context → Context) : (s.onCtx k f).tf = s.tf := rfl
@[simp] theorem State.onCtx_lent (s : State) (k : Nat) (f : Context → Context) : (s.onCtx k f).lent = s.lent := rfl
@[simp] theorem State.onCtx_launches (s : State) (k : Nat) (f : Context → Context) : (s.onCtx k f).launches = s.launches := rfl
@[simp] theorem State.onCtx_intake (s : State) (k : Nat) (f : Context → Context) : (s.onCtx k f).intake = s.intake := rfl
@[simp] theorem State.onCtx_adrop (s : State) (k : Nat) (f : Context → Context) : (s.onCtx k f).adrop = s.adrop := rfl
@[simp] theorem State.onCtx_events (s : State) (k : Nat) (f : Context → Context) : (s.onCtx k f).events = s.events := rfl
@[simp] theorem State.onCtx_ready (s : State) (k : Nat) (f : Context → Context) : (s.onCtx k f).ready = s.ready := rfl
@[simp] theorem State.onCtx_off (s : State) (k : Nat) (f : Context → Context) : (s.onCtx k f).off = s.off := rfl
@[simp] theorem State.onCtx_offCause (s : State) (k : Nat) (f : Context → Context) : (s.onCtx k f).offCause = s.offCause := rfl
@[simp] theorem State.onCtx_owner (s : State) (k : Nat) (f : Context → Context) : (s.onCtx k f).owner = s.owner := rfl
@[simp] theorem State.onCtx_link0 (s : State) (k : Nat) (f : Context → Context) : (s.onCtx k f).link0 = s.link0 := rfl
@[simp] theorem State.onCtx_link1 (s : State) (k : Nat) (f : Context → Context) : (s.onCtx k f).link1 = s.link1 := rfl
@[simp] theorem State.onCtx_epoch (s : State) (k : Nat) (f : Context → Context) : (s.onCtx k f).epoch = s.epoch := rfl
@[simp] theorem State.onCtx_stale (s : State) (k : Nat) (f : Context → Context) : (s.onCtx k f).stale = s.stale := rfl
@[simp] theorem State.onCtx_lremain (s : State) (k : Nat) (f : Context → Context) : (s.onCtx k f).lremain = s.lremain := rfl
@[simp] theorem State.onCtx_llen (s : State) (k : Nat) (f : Context → Context) : (s.onCtx k f).llen = s.llen := rfl
@[simp] theorem State.onCtx_yield (s : State) (k : Nat) (f : Context → Context) : (s.onCtx k f).yield = s.yield := rfl
@[simp] theorem State.onCtx_pctlErr (s : State) (k : Nat) (f : Context → Context) : (s.onCtx k f).pctlErr = s.pctlErr := rfl
@[simp] theorem State.onCtx_pmask (s : State) (k : Nat) (f : Context → Context) : (s.onCtx k f).pmask = s.pmask := rfl
@[simp] theorem State.onCtx_vfmap (s : State) (k : Nat) (f : Context → Context) : (s.onCtx k f).vfmap = s.vfmap := rfl
@[simp] theorem State.onCtx_rsaddr (s : State) (k : Nat) (f : Context → Context) : (s.onCtx k f).rsaddr = s.rsaddr := rfl
@[simp] theorem State.onCtx_resync (s : State) (k : Nat) (f : Context → Context) : (s.onCtx k f).resync = s.resync := rfl
@[simp] theorem State.onCtx_mpwr (s : State) (k : Nat) (f : Context → Context) : (s.onCtx k f).mpwr = s.mpwr := rfl
@[simp] theorem State.onCtx_boxSide (s : State) (k : Nat) (f : Context → Context) : (s.onCtx k f).boxSide = s.boxSide := rfl
@[simp] theorem State.onCtx_boxUp (s : State) (k : Nat) (f : Context → Context) : (s.onCtx k f).boxUp = s.boxUp := rfl
@[simp] theorem State.onCtx_farArr (s : State) (k : Nat) (f : Context → Context) : (s.onCtx k f).farArr = s.farArr := rfl
@[simp] theorem State.onCtx_farColl (s : State) (k : Nat) (f : Context → Context) : (s.onCtx k f).farColl = s.farColl := rfl
@[simp] theorem State.onCtx_tdisp (s : State) (k : Nat) (f : Context → Context) : (s.onCtx k f).tdisp = s.tdisp := rfl
@[simp] theorem State.onCtx_spdm (s : State) (k : Nat) (f : Context → Context) : (s.onCtx k f).spdm = s.spdm := rfl
@[simp] theorem State.onCtx_ide (s : State) (k : Nat) (f : Context → Context) : (s.onCtx k f).ide = s.ide := rfl
@[simp] theorem State.onCtx_urLog (s : State) (k : Nat) (f : Context → Context) : (s.onCtx k f).urLog = s.urLog := rfl
@[simp] theorem State.onCtx_firmware (s : State) (k : Nat) (f : Context → Context) : (s.onCtx k f).firmware = s.firmware := rfl
@[simp] theorem State.onCtx_fused (s : State) (k : Nat) (f : Context → Context) : (s.onCtx k f).fused = s.fused := rfl
@[simp] theorem State.onCtx_resets (s : State) (k : Nat) (f : Context → Context) : (s.onCtx k f).resets = s.resets := rfl
@[simp] theorem State.onCtx_dmCore (s : State) (k : Nat) (f : Context → Context) : (s.onCtx k f).dmCore = s.dmCore := rfl
@[simp] theorem State.onCtx_dmActive (s : State) (k : Nat) (f : Context → Context) : (s.onCtx k f).dmActive = s.dmActive := rfl
@[simp] theorem State.onCtx_dmErr (s : State) (k : Nat) (f : Context → Context) : (s.onCtx k f).dmErr = s.dmErr := rfl
@[simp] theorem State.onCtx_dmBusy (s : State) (k : Nat) (f : Context → Context) : (s.onCtx k f).dmBusy = s.dmBusy := rfl
@[simp] theorem State.onCtx_adata (s : State) (k : Nat) (f : Context → Context) : (s.onCtx k f).adata = s.adata := rfl
@[simp] theorem State.onCtx_out (s : State) (k : Nat) (f : Context → Context) : (s.onCtx k f).out = s.out := rfl
@[simp] theorem State.onCtx_params (s : State) (k : Nat) (f : Context → Context) : (s.onCtx k f).params = s.params := rfl
@[simp] theorem State.onCtx_nFree (s : State) (k : Nat) (f : Context → Context) : (s.onCtx k f).nFree = s.nFree := rfl

@[simp] theorem State.emitOut_now (s : State) (o : Out) : (s.emitOut o).now = s.now := rfl
@[simp] theorem State.emitOut_agenda (s : State) (o : Out) : (s.emitOut o).agenda = s.agenda := rfl
@[simp] theorem State.emitOut_stage (s : State) (o : Out) : (s.emitOut o).stage = s.stage := rfl
@[simp] theorem State.emitOut_focus (s : State) (o : Out) : (s.emitOut o).focus = s.focus := rfl
@[simp] theorem State.emitOut_cores (s : State) (o : Out) : (s.emitOut o).cores = s.cores := rfl
@[simp] theorem State.emitOut_parts (s : State) (o : Out) : (s.emitOut o).parts = s.parts := rfl
@[simp] theorem State.emitOut_units (s : State) (o : Out) : (s.emitOut o).units = s.units := rfl
@[simp] theorem State.emitOut_memStacks (s : State) (o : Out) : (s.emitOut o).memStacks = s.memStacks := rfl
@[simp] theorem State.emitOut_msgs (s : State) (o : Out) : (s.emitOut o).msgs = s.msgs := rfl
@[simp] theorem State.emitOut_nextMsg (s : State) (o : Out) : (s.emitOut o).nextMsg = s.nextMsg := rfl
@[simp] theorem State.emitOut_dev (s : State) (o : Out) : (s.emitOut o).dev = s.dev := rfl
@[simp] theorem State.emitOut_slots (s : State) (o : Out) : (s.emitOut o).slots = s.slots := rfl
@[simp] theorem State.emitOut_bad (s : State) (o : Out) : (s.emitOut o).bad = s.bad := rfl
@[simp] theorem State.emitOut_weak (s : State) (o : Out) : (s.emitOut o).weak = s.weak := rfl
@[simp] theorem State.emitOut_lineErr (s : State) (o : Out) : (s.emitOut o).lineErr = s.lineErr := rfl
@[simp] theorem State.emitOut_poison (s : State) (o : Out) : (s.emitOut o).poison = s.poison := rfl
@[simp] theorem State.emitOut_host0 (s : State) (o : Out) : (s.emitOut o).host0 = s.host0 := rfl
@[simp] theorem State.emitOut_host1 (s : State) (o : Out) : (s.emitOut o).host1 = s.host1 := rfl
@[simp] theorem State.emitOut_seals (s : State) (o : Out) : (s.emitOut o).seals = s.seals := rfl
@[simp] theorem State.emitOut_pool (s : State) (o : Out) : (s.emitOut o).pool = s.pool := rfl
@[simp] theorem State.emitOut_poolRho (s : State) (o : Out) : (s.emitOut o).poolRho = s.poolRho := rfl
@[simp] theorem State.emitOut_ticks (s : State) (o : Out) : (s.emitOut o).ticks = s.ticks := rfl
@[simp] theorem State.emitOut_tf (s : State) (o : Out) : (s.emitOut o).tf = s.tf := rfl
@[simp] theorem State.emitOut_lent (s : State) (o : Out) : (s.emitOut o).lent = s.lent := rfl
@[simp] theorem State.emitOut_launches (s : State) (o : Out) : (s.emitOut o).launches = s.launches := rfl
@[simp] theorem State.emitOut_ctxs (s : State) (o : Out) : (s.emitOut o).ctxs = s.ctxs := rfl
@[simp] theorem State.emitOut_intake (s : State) (o : Out) : (s.emitOut o).intake = s.intake := rfl
@[simp] theorem State.emitOut_adrop (s : State) (o : Out) : (s.emitOut o).adrop = s.adrop := rfl
@[simp] theorem State.emitOut_events (s : State) (o : Out) : (s.emitOut o).events = s.events := rfl
@[simp] theorem State.emitOut_ready (s : State) (o : Out) : (s.emitOut o).ready = s.ready := rfl
@[simp] theorem State.emitOut_off (s : State) (o : Out) : (s.emitOut o).off = s.off := rfl
@[simp] theorem State.emitOut_offCause (s : State) (o : Out) : (s.emitOut o).offCause = s.offCause := rfl
@[simp] theorem State.emitOut_owner (s : State) (o : Out) : (s.emitOut o).owner = s.owner := rfl
@[simp] theorem State.emitOut_link0 (s : State) (o : Out) : (s.emitOut o).link0 = s.link0 := rfl
@[simp] theorem State.emitOut_link1 (s : State) (o : Out) : (s.emitOut o).link1 = s.link1 := rfl
@[simp] theorem State.emitOut_epoch (s : State) (o : Out) : (s.emitOut o).epoch = s.epoch := rfl
@[simp] theorem State.emitOut_stale (s : State) (o : Out) : (s.emitOut o).stale = s.stale := rfl
@[simp] theorem State.emitOut_lremain (s : State) (o : Out) : (s.emitOut o).lremain = s.lremain := rfl
@[simp] theorem State.emitOut_llen (s : State) (o : Out) : (s.emitOut o).llen = s.llen := rfl
@[simp] theorem State.emitOut_yield (s : State) (o : Out) : (s.emitOut o).yield = s.yield := rfl
@[simp] theorem State.emitOut_pctlErr (s : State) (o : Out) : (s.emitOut o).pctlErr = s.pctlErr := rfl
@[simp] theorem State.emitOut_pmask (s : State) (o : Out) : (s.emitOut o).pmask = s.pmask := rfl
@[simp] theorem State.emitOut_vfmap (s : State) (o : Out) : (s.emitOut o).vfmap = s.vfmap := rfl
@[simp] theorem State.emitOut_rsaddr (s : State) (o : Out) : (s.emitOut o).rsaddr = s.rsaddr := rfl
@[simp] theorem State.emitOut_resync (s : State) (o : Out) : (s.emitOut o).resync = s.resync := rfl
@[simp] theorem State.emitOut_mpwr (s : State) (o : Out) : (s.emitOut o).mpwr = s.mpwr := rfl
@[simp] theorem State.emitOut_boxSide (s : State) (o : Out) : (s.emitOut o).boxSide = s.boxSide := rfl
@[simp] theorem State.emitOut_boxUp (s : State) (o : Out) : (s.emitOut o).boxUp = s.boxUp := rfl
@[simp] theorem State.emitOut_farArr (s : State) (o : Out) : (s.emitOut o).farArr = s.farArr := rfl
@[simp] theorem State.emitOut_farColl (s : State) (o : Out) : (s.emitOut o).farColl = s.farColl := rfl
@[simp] theorem State.emitOut_tdisp (s : State) (o : Out) : (s.emitOut o).tdisp = s.tdisp := rfl
@[simp] theorem State.emitOut_spdm (s : State) (o : Out) : (s.emitOut o).spdm = s.spdm := rfl
@[simp] theorem State.emitOut_ide (s : State) (o : Out) : (s.emitOut o).ide = s.ide := rfl
@[simp] theorem State.emitOut_urLog (s : State) (o : Out) : (s.emitOut o).urLog = s.urLog := rfl
@[simp] theorem State.emitOut_firmware (s : State) (o : Out) : (s.emitOut o).firmware = s.firmware := rfl
@[simp] theorem State.emitOut_fused (s : State) (o : Out) : (s.emitOut o).fused = s.fused := rfl
@[simp] theorem State.emitOut_resets (s : State) (o : Out) : (s.emitOut o).resets = s.resets := rfl
@[simp] theorem State.emitOut_dmCore (s : State) (o : Out) : (s.emitOut o).dmCore = s.dmCore := rfl
@[simp] theorem State.emitOut_dmActive (s : State) (o : Out) : (s.emitOut o).dmActive = s.dmActive := rfl
@[simp] theorem State.emitOut_dmErr (s : State) (o : Out) : (s.emitOut o).dmErr = s.dmErr := rfl
@[simp] theorem State.emitOut_dmBusy (s : State) (o : Out) : (s.emitOut o).dmBusy = s.dmBusy := rfl
@[simp] theorem State.emitOut_adata (s : State) (o : Out) : (s.emitOut o).adata = s.adata := rfl
@[simp] theorem State.emitOut_params (s : State) (o : Out) : (s.emitOut o).params = s.params := rfl
@[simp] theorem State.emitOut_nFree (s : State) (o : Out) : (s.emitOut o).nFree = s.nFree := rfl

@[simp] theorem State.event_now (s : State) (cls part payload : Nat) : (s.event cls part payload).now = s.now := rfl
@[simp] theorem State.event_agenda (s : State) (cls part payload : Nat) : (s.event cls part payload).agenda = s.agenda := rfl
@[simp] theorem State.event_stage (s : State) (cls part payload : Nat) : (s.event cls part payload).stage = s.stage := rfl
@[simp] theorem State.event_focus (s : State) (cls part payload : Nat) : (s.event cls part payload).focus = s.focus := rfl
@[simp] theorem State.event_cores (s : State) (cls part payload : Nat) : (s.event cls part payload).cores = s.cores := rfl
@[simp] theorem State.event_parts (s : State) (cls part payload : Nat) : (s.event cls part payload).parts = s.parts := rfl
@[simp] theorem State.event_units (s : State) (cls part payload : Nat) : (s.event cls part payload).units = s.units := rfl
@[simp] theorem State.event_memStacks (s : State) (cls part payload : Nat) : (s.event cls part payload).memStacks = s.memStacks := rfl
@[simp] theorem State.event_msgs (s : State) (cls part payload : Nat) : (s.event cls part payload).msgs = s.msgs := rfl
@[simp] theorem State.event_nextMsg (s : State) (cls part payload : Nat) : (s.event cls part payload).nextMsg = s.nextMsg := rfl
@[simp] theorem State.event_dev (s : State) (cls part payload : Nat) : (s.event cls part payload).dev = s.dev := rfl
@[simp] theorem State.event_slots (s : State) (cls part payload : Nat) : (s.event cls part payload).slots = s.slots := rfl
@[simp] theorem State.event_bad (s : State) (cls part payload : Nat) : (s.event cls part payload).bad = s.bad := rfl
@[simp] theorem State.event_weak (s : State) (cls part payload : Nat) : (s.event cls part payload).weak = s.weak := rfl
@[simp] theorem State.event_lineErr (s : State) (cls part payload : Nat) : (s.event cls part payload).lineErr = s.lineErr := rfl
@[simp] theorem State.event_poison (s : State) (cls part payload : Nat) : (s.event cls part payload).poison = s.poison := rfl
@[simp] theorem State.event_host0 (s : State) (cls part payload : Nat) : (s.event cls part payload).host0 = s.host0 := rfl
@[simp] theorem State.event_host1 (s : State) (cls part payload : Nat) : (s.event cls part payload).host1 = s.host1 := rfl
@[simp] theorem State.event_seals (s : State) (cls part payload : Nat) : (s.event cls part payload).seals = s.seals := rfl
@[simp] theorem State.event_pool (s : State) (cls part payload : Nat) : (s.event cls part payload).pool = s.pool := rfl
@[simp] theorem State.event_poolRho (s : State) (cls part payload : Nat) : (s.event cls part payload).poolRho = s.poolRho := rfl
@[simp] theorem State.event_ticks (s : State) (cls part payload : Nat) : (s.event cls part payload).ticks = s.ticks := rfl
@[simp] theorem State.event_tf (s : State) (cls part payload : Nat) : (s.event cls part payload).tf = s.tf := rfl
@[simp] theorem State.event_lent (s : State) (cls part payload : Nat) : (s.event cls part payload).lent = s.lent := rfl
@[simp] theorem State.event_launches (s : State) (cls part payload : Nat) : (s.event cls part payload).launches = s.launches := rfl
@[simp] theorem State.event_ctxs (s : State) (cls part payload : Nat) : (s.event cls part payload).ctxs = s.ctxs := rfl
@[simp] theorem State.event_intake (s : State) (cls part payload : Nat) : (s.event cls part payload).intake = s.intake := rfl
@[simp] theorem State.event_adrop (s : State) (cls part payload : Nat) : (s.event cls part payload).adrop = s.adrop := rfl
@[simp] theorem State.event_ready (s : State) (cls part payload : Nat) : (s.event cls part payload).ready = s.ready := rfl
@[simp] theorem State.event_off (s : State) (cls part payload : Nat) : (s.event cls part payload).off = s.off := rfl
@[simp] theorem State.event_offCause (s : State) (cls part payload : Nat) : (s.event cls part payload).offCause = s.offCause := rfl
@[simp] theorem State.event_owner (s : State) (cls part payload : Nat) : (s.event cls part payload).owner = s.owner := rfl
@[simp] theorem State.event_link0 (s : State) (cls part payload : Nat) : (s.event cls part payload).link0 = s.link0 := rfl
@[simp] theorem State.event_link1 (s : State) (cls part payload : Nat) : (s.event cls part payload).link1 = s.link1 := rfl
@[simp] theorem State.event_epoch (s : State) (cls part payload : Nat) : (s.event cls part payload).epoch = s.epoch := rfl
@[simp] theorem State.event_stale (s : State) (cls part payload : Nat) : (s.event cls part payload).stale = s.stale := rfl
@[simp] theorem State.event_lremain (s : State) (cls part payload : Nat) : (s.event cls part payload).lremain = s.lremain := rfl
@[simp] theorem State.event_llen (s : State) (cls part payload : Nat) : (s.event cls part payload).llen = s.llen := rfl
@[simp] theorem State.event_yield (s : State) (cls part payload : Nat) : (s.event cls part payload).yield = s.yield := rfl
@[simp] theorem State.event_pctlErr (s : State) (cls part payload : Nat) : (s.event cls part payload).pctlErr = s.pctlErr := rfl
@[simp] theorem State.event_pmask (s : State) (cls part payload : Nat) : (s.event cls part payload).pmask = s.pmask := rfl
@[simp] theorem State.event_vfmap (s : State) (cls part payload : Nat) : (s.event cls part payload).vfmap = s.vfmap := rfl
@[simp] theorem State.event_rsaddr (s : State) (cls part payload : Nat) : (s.event cls part payload).rsaddr = s.rsaddr := rfl
@[simp] theorem State.event_resync (s : State) (cls part payload : Nat) : (s.event cls part payload).resync = s.resync := rfl
@[simp] theorem State.event_mpwr (s : State) (cls part payload : Nat) : (s.event cls part payload).mpwr = s.mpwr := rfl
@[simp] theorem State.event_boxSide (s : State) (cls part payload : Nat) : (s.event cls part payload).boxSide = s.boxSide := rfl
@[simp] theorem State.event_boxUp (s : State) (cls part payload : Nat) : (s.event cls part payload).boxUp = s.boxUp := rfl
@[simp] theorem State.event_farArr (s : State) (cls part payload : Nat) : (s.event cls part payload).farArr = s.farArr := rfl
@[simp] theorem State.event_farColl (s : State) (cls part payload : Nat) : (s.event cls part payload).farColl = s.farColl := rfl
@[simp] theorem State.event_tdisp (s : State) (cls part payload : Nat) : (s.event cls part payload).tdisp = s.tdisp := rfl
@[simp] theorem State.event_spdm (s : State) (cls part payload : Nat) : (s.event cls part payload).spdm = s.spdm := rfl
@[simp] theorem State.event_ide (s : State) (cls part payload : Nat) : (s.event cls part payload).ide = s.ide := rfl
@[simp] theorem State.event_urLog (s : State) (cls part payload : Nat) : (s.event cls part payload).urLog = s.urLog := rfl
@[simp] theorem State.event_firmware (s : State) (cls part payload : Nat) : (s.event cls part payload).firmware = s.firmware := rfl
@[simp] theorem State.event_fused (s : State) (cls part payload : Nat) : (s.event cls part payload).fused = s.fused := rfl
@[simp] theorem State.event_resets (s : State) (cls part payload : Nat) : (s.event cls part payload).resets = s.resets := rfl
@[simp] theorem State.event_dmCore (s : State) (cls part payload : Nat) : (s.event cls part payload).dmCore = s.dmCore := rfl
@[simp] theorem State.event_dmActive (s : State) (cls part payload : Nat) : (s.event cls part payload).dmActive = s.dmActive := rfl
@[simp] theorem State.event_dmErr (s : State) (cls part payload : Nat) : (s.event cls part payload).dmErr = s.dmErr := rfl
@[simp] theorem State.event_dmBusy (s : State) (cls part payload : Nat) : (s.event cls part payload).dmBusy = s.dmBusy := rfl
@[simp] theorem State.event_adata (s : State) (cls part payload : Nat) : (s.event cls part payload).adata = s.adata := rfl
@[simp] theorem State.event_out (s : State) (cls part payload : Nat) : (s.event cls part payload).out = s.out := rfl
@[simp] theorem State.event_params (s : State) (cls part payload : Nat) : (s.event cls part payload).params = s.params := rfl
@[simp] theorem State.event_nFree (s : State) (cls part payload : Nat) : (s.event cls part payload).nFree = s.nFree := rfl

/-! Updates of one core leave every other field of it. -/

@[simp] theorem Core.emit_num (c : Core) (L : Nat) (w : WriteBack) : (c.emit L w).num = c.num := rfl
@[simp] theorem Core.emit_part (c : Core) (L : Nat) (w : WriteBack) : (c.emit L w).part = c.part := rfl
@[simp] theorem Core.emit_regs (c : Core) (L : Nat) (w : WriteBack) : (c.emit L w).regs = c.regs := rfl
@[simp] theorem Core.emit_ctl (c : Core) (L : Nat) (w : WriteBack) : (c.emit L w).ctl = c.ctl := rfl
@[simp] theorem Core.emit_zNew (c : Core) (L : Nat) (w : WriteBack) : (c.emit L w).zNew = c.zNew := rfl
@[simp] theorem Core.emit_seeding (c : Core) (L : Nat) (w : WriteBack) : (c.emit L w).seeding = c.seeding := rfl
@[simp] theorem Core.emit_q (c : Core) (L : Nat) (w : WriteBack) : (c.emit L w).q = c.q := rfl
@[simp] theorem Core.emit_mem (c : Core) (L : Nat) (w : WriteBack) : (c.emit L w).mem = c.mem := rfl
@[simp] theorem Core.emit_tags (c : Core) (L : Nat) (w : WriteBack) : (c.emit L w).tags = c.tags := rfl
@[simp] theorem Core.emit_eng (c : Core) (L : Nat) (w : WriteBack) : (c.emit L w).eng = c.eng := rfl
@[simp] theorem Core.emit_icache (c : Core) (L : Nat) (w : WriteBack) : (c.emit L w).icache = c.icache := rfl
@[simp] theorem Core.emit_fetches (c : Core) (L : Nat) (w : WriteBack) : (c.emit L w).fetches = c.fetches := rfl
@[simp] theorem Core.emit_badLines (c : Core) (L : Nat) (w : WriteBack) : (c.emit L w).badLines = c.badLines := rfl
@[simp] theorem Core.emit_devLog (c : Core) (L : Nat) (w : WriteBack) : (c.emit L w).devLog = c.devLog := rfl
@[simp] theorem Core.emit_bal (c : Core) (L : Nat) (w : WriteBack) : (c.emit L w).bal = c.bal := rfl
@[simp] theorem Core.emit_events (c : Core) (L : Nat) (w : WriteBack) : (c.emit L w).events = c.events := rfl
@[simp] theorem Core.emit_colls (c : Core) (L : Nat) (w : WriteBack) : (c.emit L w).colls = c.colls := rfl
@[simp] theorem Core.emit_own (c : Core) (L : Nat) (w : WriteBack) : (c.emit L w).own = c.own := rfl
@[simp] theorem Core.emit_free (c : Core) (L : Nat) (w : WriteBack) : (c.emit L w).free = c.free := rfl

@[simp] theorem Core.putS_num (c : Core) (L r : Nat) (v : Word) : (c.putS L r v).num = c.num := rfl
@[simp] theorem Core.putS_part (c : Core) (L r : Nat) (v : Word) : (c.putS L r v).part = c.part := rfl
@[simp] theorem Core.putS_regs (c : Core) (L r : Nat) (v : Word) : (c.putS L r v).regs = c.regs := rfl
@[simp] theorem Core.putS_ctl (c : Core) (L r : Nat) (v : Word) : (c.putS L r v).ctl = c.ctl := rfl
@[simp] theorem Core.putS_zNew (c : Core) (L r : Nat) (v : Word) : (c.putS L r v).zNew = c.zNew := rfl
@[simp] theorem Core.putS_seeding (c : Core) (L r : Nat) (v : Word) : (c.putS L r v).seeding = c.seeding := rfl
@[simp] theorem Core.putS_q (c : Core) (L r : Nat) (v : Word) : (c.putS L r v).q = c.q := rfl
@[simp] theorem Core.putS_mem (c : Core) (L r : Nat) (v : Word) : (c.putS L r v).mem = c.mem := rfl
@[simp] theorem Core.putS_tags (c : Core) (L r : Nat) (v : Word) : (c.putS L r v).tags = c.tags := rfl
@[simp] theorem Core.putS_eng (c : Core) (L r : Nat) (v : Word) : (c.putS L r v).eng = c.eng := rfl
@[simp] theorem Core.putS_icache (c : Core) (L r : Nat) (v : Word) : (c.putS L r v).icache = c.icache := rfl
@[simp] theorem Core.putS_fetches (c : Core) (L r : Nat) (v : Word) : (c.putS L r v).fetches = c.fetches := rfl
@[simp] theorem Core.putS_badLines (c : Core) (L r : Nat) (v : Word) : (c.putS L r v).badLines = c.badLines := rfl
@[simp] theorem Core.putS_devLog (c : Core) (L r : Nat) (v : Word) : (c.putS L r v).devLog = c.devLog := rfl
@[simp] theorem Core.putS_bal (c : Core) (L r : Nat) (v : Word) : (c.putS L r v).bal = c.bal := rfl
@[simp] theorem Core.putS_events (c : Core) (L r : Nat) (v : Word) : (c.putS L r v).events = c.events := rfl
@[simp] theorem Core.putS_colls (c : Core) (L r : Nat) (v : Word) : (c.putS L r v).colls = c.colls := rfl
@[simp] theorem Core.putS_own (c : Core) (L r : Nat) (v : Word) : (c.putS L r v).own = c.own := rfl
@[simp] theorem Core.putS_free (c : Core) (L r : Nat) (v : Word) : (c.putS L r v).free = c.free := rfl

@[simp] theorem Core.setCtl_num (c : Core) (n : Nat) (v : Word) : (c.setCtl n v).num = c.num := rfl
@[simp] theorem Core.setCtl_part (c : Core) (n : Nat) (v : Word) : (c.setCtl n v).part = c.part := rfl
@[simp] theorem Core.setCtl_seq (c : Core) (n : Nat) (v : Word) : (c.setCtl n v).seq = c.seq := rfl
@[simp] theorem Core.setCtl_regs (c : Core) (n : Nat) (v : Word) : (c.setCtl n v).regs = c.regs := rfl
@[simp] theorem Core.setCtl_zNew (c : Core) (n : Nat) (v : Word) : (c.setCtl n v).zNew = c.zNew := rfl
@[simp] theorem Core.setCtl_seeding (c : Core) (n : Nat) (v : Word) : (c.setCtl n v).seeding = c.seeding := rfl
@[simp] theorem Core.setCtl_q (c : Core) (n : Nat) (v : Word) : (c.setCtl n v).q = c.q := rfl
@[simp] theorem Core.setCtl_mem (c : Core) (n : Nat) (v : Word) : (c.setCtl n v).mem = c.mem := rfl
@[simp] theorem Core.setCtl_tags (c : Core) (n : Nat) (v : Word) : (c.setCtl n v).tags = c.tags := rfl
@[simp] theorem Core.setCtl_eng (c : Core) (n : Nat) (v : Word) : (c.setCtl n v).eng = c.eng := rfl
@[simp] theorem Core.setCtl_icache (c : Core) (n : Nat) (v : Word) : (c.setCtl n v).icache = c.icache := rfl
@[simp] theorem Core.setCtl_fetches (c : Core) (n : Nat) (v : Word) : (c.setCtl n v).fetches = c.fetches := rfl
@[simp] theorem Core.setCtl_badLines (c : Core) (n : Nat) (v : Word) : (c.setCtl n v).badLines = c.badLines := rfl
@[simp] theorem Core.setCtl_devLog (c : Core) (n : Nat) (v : Word) : (c.setCtl n v).devLog = c.devLog := rfl
@[simp] theorem Core.setCtl_bal (c : Core) (n : Nat) (v : Word) : (c.setCtl n v).bal = c.bal := rfl
@[simp] theorem Core.setCtl_events (c : Core) (n : Nat) (v : Word) : (c.setCtl n v).events = c.events := rfl
@[simp] theorem Core.setCtl_colls (c : Core) (n : Nat) (v : Word) : (c.setCtl n v).colls = c.colls := rfl
@[simp] theorem Core.setCtl_own (c : Core) (n : Nat) (v : Word) : (c.setCtl n v).own = c.own := rfl
@[simp] theorem Core.setCtl_free (c : Core) (n : Nat) (v : Word) : (c.setCtl n v).free = c.free := rfl

@[simp] theorem Core.setCtlBits_num (c : Core) (n hi lo v : Nat) : (c.setCtlBits n hi lo v).num = c.num := rfl
@[simp] theorem Core.setCtlBits_part (c : Core) (n hi lo v : Nat) : (c.setCtlBits n hi lo v).part = c.part := rfl
@[simp] theorem Core.setCtlBits_seq (c : Core) (n hi lo v : Nat) : (c.setCtlBits n hi lo v).seq = c.seq := rfl
@[simp] theorem Core.setCtlBits_regs (c : Core) (n hi lo v : Nat) : (c.setCtlBits n hi lo v).regs = c.regs := rfl
@[simp] theorem Core.setCtlBits_zNew (c : Core) (n hi lo v : Nat) : (c.setCtlBits n hi lo v).zNew = c.zNew := rfl
@[simp] theorem Core.setCtlBits_seeding (c : Core) (n hi lo v : Nat) : (c.setCtlBits n hi lo v).seeding = c.seeding := rfl
@[simp] theorem Core.setCtlBits_q (c : Core) (n hi lo v : Nat) : (c.setCtlBits n hi lo v).q = c.q := rfl
@[simp] theorem Core.setCtlBits_mem (c : Core) (n hi lo v : Nat) : (c.setCtlBits n hi lo v).mem = c.mem := rfl
@[simp] theorem Core.setCtlBits_tags (c : Core) (n hi lo v : Nat) : (c.setCtlBits n hi lo v).tags = c.tags := rfl
@[simp] theorem Core.setCtlBits_eng (c : Core) (n hi lo v : Nat) : (c.setCtlBits n hi lo v).eng = c.eng := rfl
@[simp] theorem Core.setCtlBits_icache (c : Core) (n hi lo v : Nat) : (c.setCtlBits n hi lo v).icache = c.icache := rfl
@[simp] theorem Core.setCtlBits_fetches (c : Core) (n hi lo v : Nat) : (c.setCtlBits n hi lo v).fetches = c.fetches := rfl
@[simp] theorem Core.setCtlBits_badLines (c : Core) (n hi lo v : Nat) : (c.setCtlBits n hi lo v).badLines = c.badLines := rfl
@[simp] theorem Core.setCtlBits_devLog (c : Core) (n hi lo v : Nat) : (c.setCtlBits n hi lo v).devLog = c.devLog := rfl
@[simp] theorem Core.setCtlBits_bal (c : Core) (n hi lo v : Nat) : (c.setCtlBits n hi lo v).bal = c.bal := rfl
@[simp] theorem Core.setCtlBits_events (c : Core) (n hi lo v : Nat) : (c.setCtlBits n hi lo v).events = c.events := rfl
@[simp] theorem Core.setCtlBits_colls (c : Core) (n hi lo v : Nat) : (c.setCtlBits n hi lo v).colls = c.colls := rfl
@[simp] theorem Core.setCtlBits_own (c : Core) (n hi lo v : Nat) : (c.setCtlBits n hi lo v).own = c.own := rfl
@[simp] theorem Core.setCtlBits_free (c : Core) (n hi lo v : Nat) : (c.setCtlBits n hi lo v).free = c.free := rfl

@[simp] theorem Core.setQueue_num (c : Core) (q : Nat) (l : List Word) : (c.setQueue q l).num = c.num := rfl
@[simp] theorem Core.setQueue_part (c : Core) (q : Nat) (l : List Word) : (c.setQueue q l).part = c.part := rfl
@[simp] theorem Core.setQueue_seq (c : Core) (q : Nat) (l : List Word) : (c.setQueue q l).seq = c.seq := rfl
@[simp] theorem Core.setQueue_regs (c : Core) (q : Nat) (l : List Word) : (c.setQueue q l).regs = c.regs := rfl
@[simp] theorem Core.setQueue_ctl (c : Core) (q : Nat) (l : List Word) : (c.setQueue q l).ctl = c.ctl := rfl
@[simp] theorem Core.setQueue_zNew (c : Core) (q : Nat) (l : List Word) : (c.setQueue q l).zNew = c.zNew := rfl
@[simp] theorem Core.setQueue_seeding (c : Core) (q : Nat) (l : List Word) : (c.setQueue q l).seeding = c.seeding := rfl
@[simp] theorem Core.setQueue_mem (c : Core) (q : Nat) (l : List Word) : (c.setQueue q l).mem = c.mem := rfl
@[simp] theorem Core.setQueue_tags (c : Core) (q : Nat) (l : List Word) : (c.setQueue q l).tags = c.tags := rfl
@[simp] theorem Core.setQueue_eng (c : Core) (q : Nat) (l : List Word) : (c.setQueue q l).eng = c.eng := rfl
@[simp] theorem Core.setQueue_icache (c : Core) (q : Nat) (l : List Word) : (c.setQueue q l).icache = c.icache := rfl
@[simp] theorem Core.setQueue_fetches (c : Core) (q : Nat) (l : List Word) : (c.setQueue q l).fetches = c.fetches := rfl
@[simp] theorem Core.setQueue_badLines (c : Core) (q : Nat) (l : List Word) : (c.setQueue q l).badLines = c.badLines := rfl
@[simp] theorem Core.setQueue_devLog (c : Core) (q : Nat) (l : List Word) : (c.setQueue q l).devLog = c.devLog := rfl
@[simp] theorem Core.setQueue_bal (c : Core) (q : Nat) (l : List Word) : (c.setQueue q l).bal = c.bal := rfl
@[simp] theorem Core.setQueue_events (c : Core) (q : Nat) (l : List Word) : (c.setQueue q l).events = c.events := rfl
@[simp] theorem Core.setQueue_colls (c : Core) (q : Nat) (l : List Word) : (c.setQueue q l).colls = c.colls := rfl
@[simp] theorem Core.setQueue_own (c : Core) (q : Nat) (l : List Word) : (c.setQueue q l).own = c.own := rfl
@[simp] theorem Core.setQueue_free (c : Core) (q : Nat) (l : List Word) : (c.setQueue q l).free = c.free := rfl

@[simp] theorem Core.setScaleQ_num (c : Core) (q : Nat) (l : List (Byte × BitVec 2)) : (c.setScaleQ q l).num = c.num := rfl
@[simp] theorem Core.setScaleQ_part (c : Core) (q : Nat) (l : List (Byte × BitVec 2)) : (c.setScaleQ q l).part = c.part := rfl
@[simp] theorem Core.setScaleQ_seq (c : Core) (q : Nat) (l : List (Byte × BitVec 2)) : (c.setScaleQ q l).seq = c.seq := rfl
@[simp] theorem Core.setScaleQ_regs (c : Core) (q : Nat) (l : List (Byte × BitVec 2)) : (c.setScaleQ q l).regs = c.regs := rfl
@[simp] theorem Core.setScaleQ_ctl (c : Core) (q : Nat) (l : List (Byte × BitVec 2)) : (c.setScaleQ q l).ctl = c.ctl := rfl
@[simp] theorem Core.setScaleQ_zNew (c : Core) (q : Nat) (l : List (Byte × BitVec 2)) : (c.setScaleQ q l).zNew = c.zNew := rfl
@[simp] theorem Core.setScaleQ_seeding (c : Core) (q : Nat) (l : List (Byte × BitVec 2)) : (c.setScaleQ q l).seeding = c.seeding := rfl
@[simp] theorem Core.setScaleQ_mem (c : Core) (q : Nat) (l : List (Byte × BitVec 2)) : (c.setScaleQ q l).mem = c.mem := rfl
@[simp] theorem Core.setScaleQ_tags (c : Core) (q : Nat) (l : List (Byte × BitVec 2)) : (c.setScaleQ q l).tags = c.tags := rfl
@[simp] theorem Core.setScaleQ_eng (c : Core) (q : Nat) (l : List (Byte × BitVec 2)) : (c.setScaleQ q l).eng = c.eng := rfl
@[simp] theorem Core.setScaleQ_icache (c : Core) (q : Nat) (l : List (Byte × BitVec 2)) : (c.setScaleQ q l).icache = c.icache := rfl
@[simp] theorem Core.setScaleQ_fetches (c : Core) (q : Nat) (l : List (Byte × BitVec 2)) : (c.setScaleQ q l).fetches = c.fetches := rfl
@[simp] theorem Core.setScaleQ_badLines (c : Core) (q : Nat) (l : List (Byte × BitVec 2)) : (c.setScaleQ q l).badLines = c.badLines := rfl
@[simp] theorem Core.setScaleQ_devLog (c : Core) (q : Nat) (l : List (Byte × BitVec 2)) : (c.setScaleQ q l).devLog = c.devLog := rfl
@[simp] theorem Core.setScaleQ_bal (c : Core) (q : Nat) (l : List (Byte × BitVec 2)) : (c.setScaleQ q l).bal = c.bal := rfl
@[simp] theorem Core.setScaleQ_events (c : Core) (q : Nat) (l : List (Byte × BitVec 2)) : (c.setScaleQ q l).events = c.events := rfl
@[simp] theorem Core.setScaleQ_colls (c : Core) (q : Nat) (l : List (Byte × BitVec 2)) : (c.setScaleQ q l).colls = c.colls := rfl
@[simp] theorem Core.setScaleQ_own (c : Core) (q : Nat) (l : List (Byte × BitVec 2)) : (c.setScaleQ q l).own = c.own := rfl
@[simp] theorem Core.setScaleQ_free (c : Core) (q : Nat) (l : List (Byte × BitVec 2)) : (c.setScaleQ q l).free = c.free := rfl

@[simp] theorem Core.setStreamQ_num (c : Core) (q : Nat) (l : List VReg) : (c.setStreamQ q l).num = c.num := rfl
@[simp] theorem Core.setStreamQ_part (c : Core) (q : Nat) (l : List VReg) : (c.setStreamQ q l).part = c.part := rfl
@[simp] theorem Core.setStreamQ_seq (c : Core) (q : Nat) (l : List VReg) : (c.setStreamQ q l).seq = c.seq := rfl
@[simp] theorem Core.setStreamQ_regs (c : Core) (q : Nat) (l : List VReg) : (c.setStreamQ q l).regs = c.regs := rfl
@[simp] theorem Core.setStreamQ_ctl (c : Core) (q : Nat) (l : List VReg) : (c.setStreamQ q l).ctl = c.ctl := rfl
@[simp] theorem Core.setStreamQ_zNew (c : Core) (q : Nat) (l : List VReg) : (c.setStreamQ q l).zNew = c.zNew := rfl
@[simp] theorem Core.setStreamQ_seeding (c : Core) (q : Nat) (l : List VReg) : (c.setStreamQ q l).seeding = c.seeding := rfl
@[simp] theorem Core.setStreamQ_mem (c : Core) (q : Nat) (l : List VReg) : (c.setStreamQ q l).mem = c.mem := rfl
@[simp] theorem Core.setStreamQ_tags (c : Core) (q : Nat) (l : List VReg) : (c.setStreamQ q l).tags = c.tags := rfl
@[simp] theorem Core.setStreamQ_eng (c : Core) (q : Nat) (l : List VReg) : (c.setStreamQ q l).eng = c.eng := rfl
@[simp] theorem Core.setStreamQ_icache (c : Core) (q : Nat) (l : List VReg) : (c.setStreamQ q l).icache = c.icache := rfl
@[simp] theorem Core.setStreamQ_fetches (c : Core) (q : Nat) (l : List VReg) : (c.setStreamQ q l).fetches = c.fetches := rfl
@[simp] theorem Core.setStreamQ_badLines (c : Core) (q : Nat) (l : List VReg) : (c.setStreamQ q l).badLines = c.badLines := rfl
@[simp] theorem Core.setStreamQ_devLog (c : Core) (q : Nat) (l : List VReg) : (c.setStreamQ q l).devLog = c.devLog := rfl
@[simp] theorem Core.setStreamQ_bal (c : Core) (q : Nat) (l : List VReg) : (c.setStreamQ q l).bal = c.bal := rfl
@[simp] theorem Core.setStreamQ_events (c : Core) (q : Nat) (l : List VReg) : (c.setStreamQ q l).events = c.events := rfl
@[simp] theorem Core.setStreamQ_colls (c : Core) (q : Nat) (l : List VReg) : (c.setStreamQ q l).colls = c.colls := rfl
@[simp] theorem Core.setStreamQ_own (c : Core) (q : Nat) (l : List VReg) : (c.setStreamQ q l).own = c.own := rfl
@[simp] theorem Core.setStreamQ_free (c : Core) (q : Nat) (l : List VReg) : (c.setStreamQ q l).free = c.free := rfl

@[simp] theorem Core.dropDraws_num (c : Core) (n : Nat) : (c.dropDraws n).num = c.num := rfl
@[simp] theorem Core.dropDraws_part (c : Core) (n : Nat) : (c.dropDraws n).part = c.part := rfl
@[simp] theorem Core.dropDraws_seq (c : Core) (n : Nat) : (c.dropDraws n).seq = c.seq := rfl
@[simp] theorem Core.dropDraws_regs (c : Core) (n : Nat) : (c.dropDraws n).regs = c.regs := rfl
@[simp] theorem Core.dropDraws_ctl (c : Core) (n : Nat) : (c.dropDraws n).ctl = c.ctl := rfl
@[simp] theorem Core.dropDraws_zNew (c : Core) (n : Nat) : (c.dropDraws n).zNew = c.zNew := rfl
@[simp] theorem Core.dropDraws_seeding (c : Core) (n : Nat) : (c.dropDraws n).seeding = c.seeding := rfl
@[simp] theorem Core.dropDraws_mem (c : Core) (n : Nat) : (c.dropDraws n).mem = c.mem := rfl
@[simp] theorem Core.dropDraws_tags (c : Core) (n : Nat) : (c.dropDraws n).tags = c.tags := rfl
@[simp] theorem Core.dropDraws_eng (c : Core) (n : Nat) : (c.dropDraws n).eng = c.eng := rfl
@[simp] theorem Core.dropDraws_icache (c : Core) (n : Nat) : (c.dropDraws n).icache = c.icache := rfl
@[simp] theorem Core.dropDraws_fetches (c : Core) (n : Nat) : (c.dropDraws n).fetches = c.fetches := rfl
@[simp] theorem Core.dropDraws_badLines (c : Core) (n : Nat) : (c.dropDraws n).badLines = c.badLines := rfl
@[simp] theorem Core.dropDraws_devLog (c : Core) (n : Nat) : (c.dropDraws n).devLog = c.devLog := rfl
@[simp] theorem Core.dropDraws_bal (c : Core) (n : Nat) : (c.dropDraws n).bal = c.bal := rfl
@[simp] theorem Core.dropDraws_events (c : Core) (n : Nat) : (c.dropDraws n).events = c.events := rfl
@[simp] theorem Core.dropDraws_colls (c : Core) (n : Nat) : (c.dropDraws n).colls = c.colls := rfl
@[simp] theorem Core.dropDraws_own (c : Core) (n : Nat) : (c.dropDraws n).own = c.own := rfl
@[simp] theorem Core.dropDraws_free (c : Core) (n : Nat) : (c.dropDraws n).free = c.free := rfl

@[simp] theorem Core.event_num (c : Core) (now cls payload : Nat) : (c.event now cls payload).num = c.num := rfl
@[simp] theorem Core.event_part (c : Core) (now cls payload : Nat) : (c.event now cls payload).part = c.part := rfl
@[simp] theorem Core.event_seq (c : Core) (now cls payload : Nat) : (c.event now cls payload).seq = c.seq := rfl
@[simp] theorem Core.event_regs (c : Core) (now cls payload : Nat) : (c.event now cls payload).regs = c.regs := rfl
@[simp] theorem Core.event_ctl (c : Core) (now cls payload : Nat) : (c.event now cls payload).ctl = c.ctl := rfl
@[simp] theorem Core.event_zNew (c : Core) (now cls payload : Nat) : (c.event now cls payload).zNew = c.zNew := rfl
@[simp] theorem Core.event_seeding (c : Core) (now cls payload : Nat) : (c.event now cls payload).seeding = c.seeding := rfl
@[simp] theorem Core.event_q (c : Core) (now cls payload : Nat) : (c.event now cls payload).q = c.q := rfl
@[simp] theorem Core.event_mem (c : Core) (now cls payload : Nat) : (c.event now cls payload).mem = c.mem := rfl
@[simp] theorem Core.event_tags (c : Core) (now cls payload : Nat) : (c.event now cls payload).tags = c.tags := rfl
@[simp] theorem Core.event_eng (c : Core) (now cls payload : Nat) : (c.event now cls payload).eng = c.eng := rfl
@[simp] theorem Core.event_icache (c : Core) (now cls payload : Nat) : (c.event now cls payload).icache = c.icache := rfl
@[simp] theorem Core.event_fetches (c : Core) (now cls payload : Nat) : (c.event now cls payload).fetches = c.fetches := rfl
@[simp] theorem Core.event_badLines (c : Core) (now cls payload : Nat) : (c.event now cls payload).badLines = c.badLines := rfl
@[simp] theorem Core.event_devLog (c : Core) (now cls payload : Nat) : (c.event now cls payload).devLog = c.devLog := rfl
@[simp] theorem Core.event_bal (c : Core) (now cls payload : Nat) : (c.event now cls payload).bal = c.bal := rfl
@[simp] theorem Core.event_colls (c : Core) (now cls payload : Nat) : (c.event now cls payload).colls = c.colls := rfl
@[simp] theorem Core.event_own (c : Core) (now cls payload : Nat) : (c.event now cls payload).own = c.own := rfl
@[simp] theorem Core.event_free (c : Core) (now cls payload : Nat) : (c.event now cls payload).free = c.free := rfl

@[simp] theorem Core.setBank_num (c : Core) (b : Nat) (x : Bank) : (c.setBank b x).num = c.num := rfl
@[simp] theorem Core.setBank_part (c : Core) (b : Nat) (x : Bank) : (c.setBank b x).part = c.part := rfl
@[simp] theorem Core.setBank_seq (c : Core) (b : Nat) (x : Bank) : (c.setBank b x).seq = c.seq := rfl
@[simp] theorem Core.setBank_regs (c : Core) (b : Nat) (x : Bank) : (c.setBank b x).regs = c.regs := rfl
@[simp] theorem Core.setBank_ctl (c : Core) (b : Nat) (x : Bank) : (c.setBank b x).ctl = c.ctl := rfl
@[simp] theorem Core.setBank_zNew (c : Core) (b : Nat) (x : Bank) : (c.setBank b x).zNew = c.zNew := rfl
@[simp] theorem Core.setBank_seeding (c : Core) (b : Nat) (x : Bank) : (c.setBank b x).seeding = c.seeding := rfl
@[simp] theorem Core.setBank_q (c : Core) (b : Nat) (x : Bank) : (c.setBank b x).q = c.q := rfl
@[simp] theorem Core.setBank_mem (c : Core) (b : Nat) (x : Bank) : (c.setBank b x).mem = c.mem := rfl
@[simp] theorem Core.setBank_tags (c : Core) (b : Nat) (x : Bank) : (c.setBank b x).tags = c.tags := rfl
@[simp] theorem Core.setBank_icache (c : Core) (b : Nat) (x : Bank) : (c.setBank b x).icache = c.icache := rfl
@[simp] theorem Core.setBank_fetches (c : Core) (b : Nat) (x : Bank) : (c.setBank b x).fetches = c.fetches := rfl
@[simp] theorem Core.setBank_badLines (c : Core) (b : Nat) (x : Bank) : (c.setBank b x).badLines = c.badLines := rfl
@[simp] theorem Core.setBank_devLog (c : Core) (b : Nat) (x : Bank) : (c.setBank b x).devLog = c.devLog := rfl
@[simp] theorem Core.setBank_bal (c : Core) (b : Nat) (x : Bank) : (c.setBank b x).bal = c.bal := rfl
@[simp] theorem Core.setBank_events (c : Core) (b : Nat) (x : Bank) : (c.setBank b x).events = c.events := rfl
@[simp] theorem Core.setBank_colls (c : Core) (b : Nat) (x : Bank) : (c.setBank b x).colls = c.colls := rfl
@[simp] theorem Core.setBank_own (c : Core) (b : Nat) (x : Bank) : (c.setBank b x).own = c.own := rfl
@[simp] theorem Core.setBank_free (c : Core) (b : Nat) (x : Bank) : (c.setBank b x).free = c.free := rfl

@[simp] theorem Core.setChan_num (c : Core) (ch : Nat) (x : Channel) : (c.setChan ch x).num = c.num := rfl
@[simp] theorem Core.setChan_part (c : Core) (ch : Nat) (x : Channel) : (c.setChan ch x).part = c.part := rfl
@[simp] theorem Core.setChan_seq (c : Core) (ch : Nat) (x : Channel) : (c.setChan ch x).seq = c.seq := rfl
@[simp] theorem Core.setChan_regs (c : Core) (ch : Nat) (x : Channel) : (c.setChan ch x).regs = c.regs := rfl
@[simp] theorem Core.setChan_ctl (c : Core) (ch : Nat) (x : Channel) : (c.setChan ch x).ctl = c.ctl := rfl
@[simp] theorem Core.setChan_zNew (c : Core) (ch : Nat) (x : Channel) : (c.setChan ch x).zNew = c.zNew := rfl
@[simp] theorem Core.setChan_seeding (c : Core) (ch : Nat) (x : Channel) : (c.setChan ch x).seeding = c.seeding := rfl
@[simp] theorem Core.setChan_q (c : Core) (ch : Nat) (x : Channel) : (c.setChan ch x).q = c.q := rfl
@[simp] theorem Core.setChan_mem (c : Core) (ch : Nat) (x : Channel) : (c.setChan ch x).mem = c.mem := rfl
@[simp] theorem Core.setChan_tags (c : Core) (ch : Nat) (x : Channel) : (c.setChan ch x).tags = c.tags := rfl
@[simp] theorem Core.setChan_icache (c : Core) (ch : Nat) (x : Channel) : (c.setChan ch x).icache = c.icache := rfl
@[simp] theorem Core.setChan_fetches (c : Core) (ch : Nat) (x : Channel) : (c.setChan ch x).fetches = c.fetches := rfl
@[simp] theorem Core.setChan_badLines (c : Core) (ch : Nat) (x : Channel) : (c.setChan ch x).badLines = c.badLines := rfl
@[simp] theorem Core.setChan_devLog (c : Core) (ch : Nat) (x : Channel) : (c.setChan ch x).devLog = c.devLog := rfl
@[simp] theorem Core.setChan_bal (c : Core) (ch : Nat) (x : Channel) : (c.setChan ch x).bal = c.bal := rfl
@[simp] theorem Core.setChan_events (c : Core) (ch : Nat) (x : Channel) : (c.setChan ch x).events = c.events := rfl
@[simp] theorem Core.setChan_colls (c : Core) (ch : Nat) (x : Channel) : (c.setChan ch x).colls = c.colls := rfl
@[simp] theorem Core.setChan_own (c : Core) (ch : Nat) (x : Channel) : (c.setChan ch x).own = c.own := rfl
@[simp] theorem Core.setChan_free (c : Core) (ch : Nat) (x : Channel) : (c.setChan ch x).free = c.free := rfl

@[simp] theorem Core.setAccRow_num (c : Core) (b r : Nat) (x : AccRow) : (c.setAccRow b r x).num = c.num := rfl
@[simp] theorem Core.setAccRow_part (c : Core) (b r : Nat) (x : AccRow) : (c.setAccRow b r x).part = c.part := rfl
@[simp] theorem Core.setAccRow_seq (c : Core) (b r : Nat) (x : AccRow) : (c.setAccRow b r x).seq = c.seq := rfl
@[simp] theorem Core.setAccRow_regs (c : Core) (b r : Nat) (x : AccRow) : (c.setAccRow b r x).regs = c.regs := rfl
@[simp] theorem Core.setAccRow_ctl (c : Core) (b r : Nat) (x : AccRow) : (c.setAccRow b r x).ctl = c.ctl := rfl
@[simp] theorem Core.setAccRow_zNew (c : Core) (b r : Nat) (x : AccRow) : (c.setAccRow b r x).zNew = c.zNew := rfl
@[simp] theorem Core.setAccRow_seeding (c : Core) (b r : Nat) (x : AccRow) : (c.setAccRow b r x).seeding = c.seeding := rfl
@[simp] theorem Core.setAccRow_q (c : Core) (b r : Nat) (x : AccRow) : (c.setAccRow b r x).q = c.q := rfl
@[simp] theorem Core.setAccRow_mem (c : Core) (b r : Nat) (x : AccRow) : (c.setAccRow b r x).mem = c.mem := rfl
@[simp] theorem Core.setAccRow_tags (c : Core) (b r : Nat) (x : AccRow) : (c.setAccRow b r x).tags = c.tags := rfl
@[simp] theorem Core.setAccRow_icache (c : Core) (b r : Nat) (x : AccRow) : (c.setAccRow b r x).icache = c.icache := rfl
@[simp] theorem Core.setAccRow_fetches (c : Core) (b r : Nat) (x : AccRow) : (c.setAccRow b r x).fetches = c.fetches := rfl
@[simp] theorem Core.setAccRow_badLines (c : Core) (b r : Nat) (x : AccRow) : (c.setAccRow b r x).badLines = c.badLines := rfl
@[simp] theorem Core.setAccRow_devLog (c : Core) (b r : Nat) (x : AccRow) : (c.setAccRow b r x).devLog = c.devLog := rfl
@[simp] theorem Core.setAccRow_bal (c : Core) (b r : Nat) (x : AccRow) : (c.setAccRow b r x).bal = c.bal := rfl
@[simp] theorem Core.setAccRow_events (c : Core) (b r : Nat) (x : AccRow) : (c.setAccRow b r x).events = c.events := rfl
@[simp] theorem Core.setAccRow_colls (c : Core) (b r : Nat) (x : AccRow) : (c.setAccRow b r x).colls = c.colls := rfl
@[simp] theorem Core.setAccRow_own (c : Core) (b r : Nat) (x : AccRow) : (c.setAccRow b r x).own = c.own := rfl
@[simp] theorem Core.setAccRow_free (c : Core) (b r : Nat) (x : AccRow) : (c.setAccRow b r x).free = c.free := rfl

@[simp] theorem Core.holdPorts_num (c : Core) (now slot : Nat) (x : SlotAccess) : (c.holdPorts now slot x).num = c.num := rfl
@[simp] theorem Core.holdPorts_part (c : Core) (now slot : Nat) (x : SlotAccess) : (c.holdPorts now slot x).part = c.part := rfl
@[simp] theorem Core.holdPorts_seq (c : Core) (now slot : Nat) (x : SlotAccess) : (c.holdPorts now slot x).seq = c.seq := rfl
@[simp] theorem Core.holdPorts_regs (c : Core) (now slot : Nat) (x : SlotAccess) : (c.holdPorts now slot x).regs = c.regs := rfl
@[simp] theorem Core.holdPorts_ctl (c : Core) (now slot : Nat) (x : SlotAccess) : (c.holdPorts now slot x).ctl = c.ctl := rfl
@[simp] theorem Core.holdPorts_zNew (c : Core) (now slot : Nat) (x : SlotAccess) : (c.holdPorts now slot x).zNew = c.zNew := rfl
@[simp] theorem Core.holdPorts_seeding (c : Core) (now slot : Nat) (x : SlotAccess) : (c.holdPorts now slot x).seeding = c.seeding := rfl
@[simp] theorem Core.holdPorts_q (c : Core) (now slot : Nat) (x : SlotAccess) : (c.holdPorts now slot x).q = c.q := rfl
@[simp] theorem Core.holdPorts_mem (c : Core) (now slot : Nat) (x : SlotAccess) : (c.holdPorts now slot x).mem = c.mem := rfl
@[simp] theorem Core.holdPorts_tags (c : Core) (now slot : Nat) (x : SlotAccess) : (c.holdPorts now slot x).tags = c.tags := rfl
@[simp] theorem Core.holdPorts_icache (c : Core) (now slot : Nat) (x : SlotAccess) : (c.holdPorts now slot x).icache = c.icache := rfl
@[simp] theorem Core.holdPorts_fetches (c : Core) (now slot : Nat) (x : SlotAccess) : (c.holdPorts now slot x).fetches = c.fetches := rfl
@[simp] theorem Core.holdPorts_badLines (c : Core) (now slot : Nat) (x : SlotAccess) : (c.holdPorts now slot x).badLines = c.badLines := rfl
@[simp] theorem Core.holdPorts_devLog (c : Core) (now slot : Nat) (x : SlotAccess) : (c.holdPorts now slot x).devLog = c.devLog := rfl
@[simp] theorem Core.holdPorts_bal (c : Core) (now slot : Nat) (x : SlotAccess) : (c.holdPorts now slot x).bal = c.bal := rfl
@[simp] theorem Core.holdPorts_events (c : Core) (now slot : Nat) (x : SlotAccess) : (c.holdPorts now slot x).events = c.events := rfl
@[simp] theorem Core.holdPorts_colls (c : Core) (now slot : Nat) (x : SlotAccess) : (c.holdPorts now slot x).colls = c.colls := rfl
@[simp] theorem Core.holdPorts_own (c : Core) (now slot : Nat) (x : SlotAccess) : (c.holdPorts now slot x).own = c.own := rfl
@[simp] theorem Core.holdPorts_free (c : Core) (now slot : Nat) (x : SlotAccess) : (c.holdPorts now slot x).free = c.free := rfl

@[simp] theorem Core.branchTo_num (c : Core) (t : Word) : (c.branchTo t).num = c.num := rfl
@[simp] theorem Core.branchTo_part (c : Core) (t : Word) : (c.branchTo t).part = c.part := rfl
@[simp] theorem Core.branchTo_regs (c : Core) (t : Word) : (c.branchTo t).regs = c.regs := rfl
@[simp] theorem Core.branchTo_ctl (c : Core) (t : Word) : (c.branchTo t).ctl = c.ctl := rfl
@[simp] theorem Core.branchTo_zNew (c : Core) (t : Word) : (c.branchTo t).zNew = c.zNew := rfl
@[simp] theorem Core.branchTo_seeding (c : Core) (t : Word) : (c.branchTo t).seeding = c.seeding := rfl
@[simp] theorem Core.branchTo_q (c : Core) (t : Word) : (c.branchTo t).q = c.q := rfl
@[simp] theorem Core.branchTo_mem (c : Core) (t : Word) : (c.branchTo t).mem = c.mem := rfl
@[simp] theorem Core.branchTo_tags (c : Core) (t : Word) : (c.branchTo t).tags = c.tags := rfl
@[simp] theorem Core.branchTo_eng (c : Core) (t : Word) : (c.branchTo t).eng = c.eng := rfl
@[simp] theorem Core.branchTo_icache (c : Core) (t : Word) : (c.branchTo t).icache = c.icache := rfl
@[simp] theorem Core.branchTo_fetches (c : Core) (t : Word) : (c.branchTo t).fetches = c.fetches := rfl
@[simp] theorem Core.branchTo_badLines (c : Core) (t : Word) : (c.branchTo t).badLines = c.badLines := rfl
@[simp] theorem Core.branchTo_devLog (c : Core) (t : Word) : (c.branchTo t).devLog = c.devLog := rfl
@[simp] theorem Core.branchTo_bal (c : Core) (t : Word) : (c.branchTo t).bal = c.bal := rfl
@[simp] theorem Core.branchTo_events (c : Core) (t : Word) : (c.branchTo t).events = c.events := rfl
@[simp] theorem Core.branchTo_colls (c : Core) (t : Word) : (c.branchTo t).colls = c.colls := rfl
@[simp] theorem Core.branchTo_own (c : Core) (t : Word) : (c.branchTo t).own = c.own := rfl
@[simp] theorem Core.branchTo_free (c : Core) (t : Word) : (c.branchTo t).free = c.free := rfl

@[simp] theorem Core.jumpTo_num (c : Core) (t : Word) : (c.jumpTo t).num = c.num := rfl
@[simp] theorem Core.jumpTo_part (c : Core) (t : Word) : (c.jumpTo t).part = c.part := rfl
@[simp] theorem Core.jumpTo_regs (c : Core) (t : Word) : (c.jumpTo t).regs = c.regs := rfl
@[simp] theorem Core.jumpTo_ctl (c : Core) (t : Word) : (c.jumpTo t).ctl = c.ctl := rfl
@[simp] theorem Core.jumpTo_zNew (c : Core) (t : Word) : (c.jumpTo t).zNew = c.zNew := rfl
@[simp] theorem Core.jumpTo_seeding (c : Core) (t : Word) : (c.jumpTo t).seeding = c.seeding := rfl
@[simp] theorem Core.jumpTo_q (c : Core) (t : Word) : (c.jumpTo t).q = c.q := rfl
@[simp] theorem Core.jumpTo_mem (c : Core) (t : Word) : (c.jumpTo t).mem = c.mem := rfl
@[simp] theorem Core.jumpTo_tags (c : Core) (t : Word) : (c.jumpTo t).tags = c.tags := rfl
@[simp] theorem Core.jumpTo_eng (c : Core) (t : Word) : (c.jumpTo t).eng = c.eng := rfl
@[simp] theorem Core.jumpTo_icache (c : Core) (t : Word) : (c.jumpTo t).icache = c.icache := rfl
@[simp] theorem Core.jumpTo_fetches (c : Core) (t : Word) : (c.jumpTo t).fetches = c.fetches := rfl
@[simp] theorem Core.jumpTo_badLines (c : Core) (t : Word) : (c.jumpTo t).badLines = c.badLines := rfl
@[simp] theorem Core.jumpTo_devLog (c : Core) (t : Word) : (c.jumpTo t).devLog = c.devLog := rfl
@[simp] theorem Core.jumpTo_bal (c : Core) (t : Word) : (c.jumpTo t).bal = c.bal := rfl
@[simp] theorem Core.jumpTo_events (c : Core) (t : Word) : (c.jumpTo t).events = c.events := rfl
@[simp] theorem Core.jumpTo_colls (c : Core) (t : Word) : (c.jumpTo t).colls = c.colls := rfl
@[simp] theorem Core.jumpTo_own (c : Core) (t : Word) : (c.jumpTo t).own = c.own := rfl
@[simp] theorem Core.jumpTo_free (c : Core) (t : Word) : (c.jumpTo t).free = c.free := rfl

@[simp] theorem Core.emit_seq_run (c : Core) (L : Nat) (w : WriteBack) : (c.emit L w).seq.run = c.seq.run := rfl
@[simp] theorem Core.emit_seq_pc (c : Core) (L : Nat) (w : WriteBack) : (c.emit L w).seq.pc = c.seq.pc := rfl
@[simp] theorem Core.emit_seq_arrive (c : Core) (L : Nat) (w : WriteBack) : (c.emit L w).seq.arrive = c.seq.arrive := rfl
@[simp] theorem Core.emit_seq_begun (c : Core) (L : Nat) (w : WriteBack) : (c.emit L w).seq.begun = c.seq.begun := rfl
@[simp] theorem Core.emit_seq_idx (c : Core) (L : Nat) (w : WriteBack) : (c.emit L w).seq.idx = c.seq.idx := rfl
@[simp] theorem Core.emit_seq_rem (c : Core) (L : Nat) (w : WriteBack) : (c.emit L w).seq.rem = c.seq.rem := rfl
@[simp] theorem Core.emit_seq_stall (c : Core) (L : Nat) (w : WriteBack) : (c.emit L w).seq.stall = c.seq.stall := rfl
@[simp] theorem Core.emit_seq_succ (c : Core) (L : Nat) (w : WriteBack) : (c.emit L w).seq.succ = c.seq.succ := rfl
@[simp] theorem Core.emit_seq_succNew (c : Core) (L : Nat) (w : WriteBack) : (c.emit L w).seq.succNew = c.seq.succNew := rfl
@[simp] theorem Core.emit_seq_redirect (c : Core) (L : Nat) (w : WriteBack) : (c.emit L w).seq.redirect = c.seq.redirect := rfl
@[simp] theorem Core.emit_seq_ended (c : Core) (L : Nat) (w : WriteBack) : (c.emit L w).seq.ended = c.seq.ended := rfl
@[simp] theorem Core.emit_seq_parked (c : Core) (L : Nat) (w : WriteBack) : (c.emit L w).seq.parked = c.seq.parked := rfl
@[simp] theorem Core.emit_seq_after (c : Core) (L : Nat) (w : WriteBack) : (c.emit L w).seq.after = c.seq.after := rfl
@[simp] theorem Core.emit_seq_tret (c : Core) (L : Nat) (w : WriteBack) : (c.emit L w).seq.tret = c.seq.tret := rfl
@[simp] theorem Core.emit_seq_haltOp (c : Core) (L : Nat) (w : WriteBack) : (c.emit L w).seq.haltOp = c.seq.haltOp := rfl
@[simp] theorem Core.emit_seq_passed (c : Core) (L : Nat) (w : WriteBack) : (c.emit L w).seq.passed = c.seq.passed := rfl
@[simp] theorem Core.emit_seq_tick (c : Core) (L : Nat) (w : WriteBack) : (c.emit L w).seq.tick = c.seq.tick := rfl
@[simp] theorem Core.emit_seq_sticky (c : Core) (L : Nat) (w : WriteBack) : (c.emit L w).seq.sticky = c.seq.sticky := rfl
@[simp] theorem Core.emit_seq_svcSticky (c : Core) (L : Nat) (w : WriteBack) : (c.emit L w).seq.svcSticky = c.seq.svcSticky := rfl
@[simp] theorem Core.emit_seq_wait (c : Core) (L : Nat) (w : WriteBack) : (c.emit L w).seq.wait = c.seq.wait := rfl
@[simp] theorem Core.emit_seq_access (c : Core) (L : Nat) (w : WriteBack) : (c.emit L w).seq.access = c.seq.access := rfl
@[simp] theorem Core.emit_seq_acted (c : Core) (L : Nat) (w : WriteBack) : (c.emit L w).seq.acted = c.seq.acted := rfl
@[simp] theorem Core.emit_seq_last (c : Core) (L : Nat) (w : WriteBack) : (c.emit L w).seq.last = c.seq.last := rfl
@[simp] theorem Core.emit_seq_arrivals (c : Core) (L : Nat) (w : WriteBack) : (c.emit L w).seq.arrivals = c.seq.arrivals := rfl
@[simp] theorem Core.emit_seq_barred (c : Core) (L : Nat) (w : WriteBack) : (c.emit L w).seq.barred = c.seq.barred := rfl
@[simp] theorem Core.emit_seq_fenced (c : Core) (L : Nat) (w : WriteBack) : (c.emit L w).seq.fenced = c.seq.fenced := rfl
@[simp] theorem Core.emit_seq_arrivedFaults (c : Core) (L : Nat) (w : WriteBack) : (c.emit L w).seq.arrivedFaults = c.seq.arrivedFaults := rfl
@[simp] theorem Core.emit_seq_pending (c : Core) (L : Nat) (w : WriteBack) : (c.emit L w).seq.pending = c.seq.pending := rfl
@[simp] theorem Core.emit_seq_halted (c : Core) (L : Nat) (w : WriteBack) : (c.emit L w).seq.halted = c.seq.halted := rfl
@[simp] theorem Core.emit_seq_brkHalt (c : Core) (L : Nat) (w : WriteBack) : (c.emit L w).seq.brkHalt = c.seq.brkHalt := rfl
@[simp] theorem Core.emit_seq_haltReq (c : Core) (L : Nat) (w : WriteBack) : (c.emit L w).seq.haltReq = c.seq.haltReq := rfl
@[simp] theorem Core.emit_seq_preempt (c : Core) (L : Nat) (w : WriteBack) : (c.emit L w).seq.preempt = c.seq.preempt := rfl
@[simp] theorem Core.emit_seq_safePt (c : Core) (L : Nat) (w : WriteBack) : (c.emit L w).seq.safePt = c.seq.safePt := rfl
@[simp] theorem Core.emit_seq_replay (c : Core) (L : Nat) (w : WriteBack) : (c.emit L w).seq.replay = c.seq.replay := rfl
@[simp] theorem Core.emit_seq_made (c : Core) (L : Nat) (w : WriteBack) : (c.emit L w).seq.made = c.seq.made := rfl
@[simp] theorem Core.emit_flight (c : Core) (L : Nat) (w : WriteBack) :
    (c.emit L w).seq.flight = c.seq.flight ++ [{ due := c.seq.tick + L, wb := w }] := rfl

/-! Reading a part after an update of it. -/

@[simp] theorem State.core_setCore (s : State) (n : Nat) (c : Core) : (s.setCore n c).core n = c :=
  Tab.look_store_same _ _ _ _
@[simp] theorem State.setCore_setCore (s : State) (n : Nat) (c d : Core) :
    (s.setCore n c).setCore n d = s.setCore n d := by
  simp [State.setCore]
@[simp] theorem State.onCore_onCore (s : State) (n : Nat) (f g : Core → Core) :
    (s.onCore n f).onCore n g = s.onCore n fun c => g (f c) := by
  simp [State.onCore]
theorem State.core_setCore_other (s : State) (n : Nat) (c : Core) {m : Nat} (h : m ≠ n) :
    (s.setCore n c).core m = s.core m := Tab.look_store_other _ _ _ h
@[simp] theorem State.core_onCore (s : State) (n : Nat) (f : Core → Core) : (s.onCore n f).core n = f (s.core n) :=
  Tab.look_store_same _ _ _ _
theorem State.core_onCore_other (s : State) (n : Nat) (f : Core → Core) {m : Nat} (h : m ≠ n) :
    (s.onCore n f).core m = s.core m := Tab.look_store_other _ _ _ h
@[simp] theorem State.part_setPart (s : State) (p : Nat) (x : Partition) : (s.setPart p x).part p = x :=
  Tab.look_store_same _ _ _ _
theorem State.part_setPart_other (s : State) (p : Nat) (x : Partition) {q : Nat} (h : q ≠ p) :
    (s.setPart p x).part q = s.part q := Tab.look_store_other _ _ _ h
@[simp] theorem State.part_onPart (s : State) (p : Nat) (f : Partition → Partition) :
    (s.onPart p f).part p = f (s.part p) := Tab.look_store_same _ _ _ _
theorem State.part_onPart_other (s : State) (p : Nat) (f : Partition → Partition) {q : Nat} (h : q ≠ p) :
    (s.onPart p f).part q = s.part q := Tab.look_store_other _ _ _ h
@[simp] theorem State.stack_onStack (s : State) (k : Nat) (f : Stack → Stack) :
    (s.onStack k f).stack k = f (s.stack k) := Tab.look_store_same _ _ _ _
theorem State.stack_onStack_other (s : State) (k : Nat) (f : Stack → Stack) {j : Nat} (h : j ≠ k) :
    (s.onStack k f).stack j = s.stack j := Tab.look_store_other _ _ _ h
@[simp] theorem State.unit_onUnit (s : State) (k : Nat) (f : TransUnit → TransUnit) :
    (s.onUnit k f).unit k = f (s.unit k) := Tab.look_store_same _ _ _ _
theorem State.unit_onUnit_other (s : State) (k : Nat) (f : TransUnit → TransUnit) {j : Nat} (h : j ≠ k) :
    (s.onUnit k f).unit j = s.unit j := Tab.look_store_other _ _ _ h
@[simp] theorem State.ctx_onCtx (s : State) (k : Nat) (f : Context → Context) :
    (s.onCtx k f).ctx k = f (s.ctx k) := Tab.look_store_same _ _ _ _
theorem State.ctx_onCtx_other (s : State) (k : Nat) (f : Context → Context) {j : Nat} (h : j ≠ k) :
    (s.onCtx k f).ctx j = s.ctx j := Tab.look_store_other _ _ _ h

@[simp] theorem State.part_onCore (s : State) (n : Nat) (f : Core → Core) (p : Nat) :
    (s.onCore n f).part p = s.part p := rfl
@[simp] theorem State.part_setCore (s : State) (n : Nat) (c : Core) (p : Nat) : (s.setCore n c).part p = s.part p := rfl
@[simp] theorem State.core_onPart (s : State) (p : Nat) (f : Partition → Partition) (n : Nat) :
    (s.onPart p f).core n = s.core n := rfl
@[simp] theorem State.core_setPart (s : State) (p : Nat) (x : Partition) (n : Nat) :
    (s.setPart p x).core n = s.core n := rfl
@[simp] theorem State.core_emitOut (s : State) (o : Out) (n : Nat) : (s.emitOut o).core n = s.core n := rfl
@[simp] theorem State.part_emitOut (s : State) (o : Out) (p : Nat) : (s.emitOut o).part p = s.part p := rfl
@[simp] theorem State.core_event (s : State) (a b d n : Nat) : (s.event a b d).core n = s.core n := rfl
@[simp] theorem State.part_event (s : State) (a b d p : Nat) : (s.event a b d).part p = s.part p := rfl

/-! Registers of a core. -/

@[simp] theorem Core.ctlOf_setCtl (c : Core) (n : Nat) (v : Word) : (c.setCtl n v).ctlOf n = v :=
  Tab.look_store_same _ _ _ _
theorem Core.ctlOf_setCtl_other (c : Core) (n : Nat) (v : Word) {m : Nat} (h : m ≠ n) :
    (c.setCtl n v).ctlOf m = c.ctlOf m := Tab.look_store_other _ _ _ h
theorem Core.ctlOf_setCtlBits_other (c : Core) (n hi lo v : Nat) {m : Nat} (h : m ≠ n) :
    (c.setCtlBits n hi lo v).ctlOf m = c.ctlOf m := Core.ctlOf_setCtl_other c n _ h
@[simp] theorem Core.queue_setQueue (c : Core) (q : Nat) (l : List Word) : (c.setQueue q l).queue q = l :=
  Tab.look_store_same _ _ _ _
@[simp] theorem Core.bank_setBank (c : Core) (b : Nat) (x : Bank) : (c.setBank b x).bank b = x :=
  Tab.look_store_same _ _ _ _
@[simp] theorem Core.chan_setChan (c : Core) (ch : Nat) (x : Channel) : (c.setChan ch x).chan ch = x :=
  Tab.look_store_same _ _ _ _

@[simp] theorem Core.sreg_zero (c : Core) : c.sreg 0 = 0 := rfl
@[simp] theorem Core.sreg_emit (c : Core) (L : Nat) (w : WriteBack) (r : Nat) : (c.emit L w).sreg r = c.sreg r := rfl
@[simp] theorem Core.cap_emit (c : Core) (L : Nat) (w : WriteBack) (r : Nat) : (c.emit L w).cap r = c.cap r := rfl
@[simp] theorem Core.preg_emit (c : Core) (L : Nat) (w : WriteBack) (r : Nat) : (c.emit L w).preg r = c.preg r := rfl
@[simp] theorem Core.physV_emit (c : Core) (L : Nat) (w : WriteBack) (r : Nat) : (c.emit L w).physV r = c.physV r := rfl
@[simp] theorem Core.vreg_emit (c : Core) (L : Nat) (w : WriteBack) (r : Nat) : (c.emit L w).vreg r = c.vreg r := rfl

end Sys2Proof.Machine
end

