-- ==== Sys2Proof/Laws/Slot.lean ====
section
/-! SUPPORT. What one slot operation answers, by what its attempt answered: it goes through, traps, or waits. -/

namespace Sys2Proof.Machine

/-- An operation that goes through answers its own state. -/
theorem State.runSlot_ok {s t : State} {op : Focus → State → Res State} (hn : s.onACore)
    (h : op s.here s = .ok t) : s.runSlot op = .next t := by
  have hn : s.focus.core < 128 := hn
  simp [State.runSlot, hn, h, State.settleSlot]

/-- A trapped operation is replaced by its trap. -/
theorem State.runSlot_trap {s : State} {op : Focus → State → Res State} {t : Trap} (hn : s.onACore)
    (h : op s.here s = .trap t) : s.runSlot op = .next (s.trapHere s.focus.core t) := by
  have hn : s.focus.core < 128 := hn
  simp [State.runSlot, hn, h, State.settleSlot]

/-- An operation that waits takes a cycle of its wait. -/
theorem State.runSlot_wait {s t : State} {op : Focus → State → Res State} {w : List WaitCause} (hn : s.onACore)
    (h : op s.here s = .wait w t) :
    s.runSlot op = .next ((s.keepAttempt t s.focus.core).waitCycle s.focus.core w) := by
  have hn : s.focus.core < 128 := hn
  simp [State.runSlot, hn, h, State.settleSlot]

/-- No slot operation acts on a unit that the module does not have. -/
theorem State.runSlot_noUnit {s : State} (op : Focus → State → Res State) (hn : ¬ s.onACore) :
    s.runSlot op = .fault .noSuchUnit := by
  have hn : ¬ s.focus.core < 128 := hn
  simp [State.runSlot, hn]

@[simp] theorem State.here_core (s : State) : s.here.core = s.focus.core := rfl
@[simp] theorem State.here_slot (s : State) : s.here.slot = s.focus.slot := rfl
@[simp] theorem State.here_now (s : State) : s.here.now = s.now := rfl
@[simp] theorem State.here_dv (s : State) : s.here.dv = s.focus.dv := rfl

/-- An operation of one core that goes through changes that core alone. -/
theorem State.runSlot_core {s : State} {op : Focus → Core → Res Core} {c : Core} (hn : s.onACore)
    (h : op s.here s.hereCore = .ok c) :
    s.runSlot (fun fo s => s.liftCore fo (op fo)) = .next (s.setCore s.focus.core c) :=
  State.runSlot_ok hn (by
    simp only [State.liftCore, State.here_core]
    rw [show s.core s.focus.core = s.hereCore from rfl, h]
    rfl)

/-- An operation of one core that traps. -/
theorem State.runSlot_core_trap {s : State} {op : Focus → Core → Res Core} {t : Trap} (hn : s.onACore)
    (h : op s.here s.hereCore = .trap t) :
    s.runSlot (fun fo s => s.liftCore fo (op fo)) = .next (s.trapHere s.focus.core t) :=
  State.runSlot_trap hn (by
    simp only [State.liftCore, State.here_core]
    rw [show s.core s.focus.core = s.hereCore from rfl, h]
    rfl)

/-- A single result is a result sent. -/
theorem Core.emit_eq_takesIn (c : Core) (L : Nat) (w : WriteBack) : c.emit L w = c.takesIn [(L, w)] := rfl

theorem Core.takesIn_nil (c : Core) : c.takesIn [] = c := by
  simp [Core.takesIn]

/-- Results sent one after the other. -/
theorem Core.takesIn_takesIn (c : Core) (l m : List (Nat × WriteBack)) :
    (c.takesIn l).takesIn m = c.takesIn (l ++ m) := by
  simp [Core.takesIn, List.append_assoc]

theorem Core.emit_takesIn (c : Core) (l : List (Nat × WriteBack)) (L : Nat) (w : WriteBack) :
    (c.takesIn l).emit L w = c.takesIn (l ++ [(L, w)]) := by
  rw [Core.emit_eq_takesIn, Core.takesIn_takesIn]

/-- An operation of one core that only sends results. -/
theorem State.runSlot_sends {s : State} {op : Focus → Core → Res Core} {l : List (Nat × WriteBack)}
    (hn : s.onACore) (h : op s.here s.hereCore = .ok (s.hereCore.takesIn l)) :
    s.runSlot (fun fo s => s.liftCore fo (op fo)) = .next (s.sends l) := State.runSlot_core hn h

/-! What sending results leaves. -/

theorem State.sends_core (s : State) (l : List (Nat × WriteBack)) :
    (s.sends l).core s.focus.core = s.hereCore.takesIn l := by
  simp [State.sends, State.changesHere]

theorem State.sends_core_other (s : State) (l : List (Nat × WriteBack)) {m : Nat} (h : m ≠ s.focus.core) :
    (s.sends l).core m = s.core m := State.core_setCore_other s _ _ h

@[simp] theorem State.sends_dev (s : State) (l : List (Nat × WriteBack)) : (s.sends l).dev = s.dev := rfl
@[simp] theorem State.sends_parts (s : State) (l : List (Nat × WriteBack)) : (s.sends l).parts = s.parts := rfl
@[simp] theorem Core.takesIn_regs (c : Core) (l : List (Nat × WriteBack)) : (c.takesIn l).regs = c.regs := rfl
@[simp] theorem Core.takesIn_ctl (c : Core) (l : List (Nat × WriteBack)) : (c.takesIn l).ctl = c.ctl := rfl
@[simp] theorem Core.takesIn_mem (c : Core) (l : List (Nat × WriteBack)) : (c.takesIn l).mem = c.mem := rfl
@[simp] theorem Core.takesIn_q (c : Core) (l : List (Nat × WriteBack)) : (c.takesIn l).q = c.q := rfl
@[simp] theorem Core.takesIn_eng (c : Core) (l : List (Nat × WriteBack)) : (c.takesIn l).eng = c.eng := rfl

end Sys2Proof.Machine
end

