-- ==== Sys2Proof/Tests/Slice0.lean ====
section
/-! SUPPORT. Tests: single steps with results from the spec, words of every constructor put together from the spec's
encoding tables, ill-formed terms that WellFormed refuses, and for every obligation states and operands that meet its
hypotheses. A witness names its obligation; where the clauses of one have hypotheses of their own, it meets each. -/

open Sys2Proof Sys2Proof.Machine

namespace Sys2Proof.Tests

set_option Elab.async false
set_option synthInstance.maxSize 1000
set_option synthInstance.maxHeartbeats 200000
set_option maxRecDepth 100000

/-! Small states: a module with one partition of one pair, whose core 0 runs phase 0 with a service procedure. -/

def tCap : Cap := { base := 0x2000000000, length := 0x10000, perm := 0x3FF, type := 0, tag := true, entry := 0 }

/-- The timetable of the tests: one phase, one group of cores 0 and 1, one capability with the write grant. -/
def tTable : Timetable := {
  base := 0x2000000000, code := 0x2000000000, codelen := 4096, binding := [(0, 0), (1, 1)], groups := [(0, 3), (1, 1)]
  launch := 1
  phases := [{ cores := 3, slack := 100, grades := [{ segoff := 0, length := 1000, energy := 10 }], entries := [[(0, 0), (1, 128)]] }]
  caps := [{ cap := tCap, used := true, holders := 3, wg := true, wcore := 0 }] }

def tPart : Partition := {
  pairs := 1, state := 2, tt := some tTable, run := some { idx := 0, grade := 0, started := 0, energy := 5 }, watts := 100
  bal := 500, tvec := 0x404 }

/-- Core 0: s1 to s8 hold addresses and small numbers, c1 the capability, TRAPVEC a service procedure. -/
def tCore : Core := {
  num := 0, part := 0
  regs := {
    s := [(1, 0x100000), (2, 5), (3, 0xFFFFFFFFFFFFFFFD), (4, 0x101000), (5, 0x2000000404), (6, 0), (7, 1), (8, 16)]
    c := [(1, tCap)] }
  ctl := [(0x013, 0x100), (0x014, 100), (0x087, 0x2000000404)]
  seq := { run := .running, pc := 0x2000000004, tick := 5 } }

def tState : State := {
  now := 50, ready := true, focus := { now := 50 }, cores := [(0, tCore), (1, { num := 1, part := 0 })]
  parts := [(0, tPart)] }

/-- A test state with core 0 changed, with partition 0 changed, and with the focus changed. -/
def withCore (f : Core → Core) : State := tState.setCore 0 (f tCore)
def withPart (f : Partition → Partition) : State := tState.setPart 0 (f tPart)
def focusAs (s : State) (f : Focus → Focus) : State := { s with focus := f s.focus }

/-- In service code. -/
def tService : State := withCore fun c => { c with ctl := Tab.store c.ctl 0x088 1 }
def tReturn : State := withCore fun c => { c with ctl := [(0x013, 0x100), (0x014, 100), (0x081, 0x2000000004), (0x082, 7), (0x083, 0x201), (0x087, 0x2000000404), (0x088, 0x81)] }
def tParked : State := withCore fun c => { c with ctl := Tab.store c.ctl 0x088 1, seq := { c.seq with parked := true } }

/-- An open access of the waiting bundle that has its bytes. -/
def tAccess (write : Bool) : DevAccess := {
  slot := 0, op := .nop ⟨0, 0, 0, 0⟩, due := 40, ready := true, write := write, data := [1, 2, 3], fault := none, pages := [] }
def tOpen (cap : Cap) : State := withCore fun c => { c with
  regs := { c.regs with c := [(1, cap)] }, seq := { c.seq with access := some (tAccess false) } }
def rowOf (k : Nat) : VReg := BitVec.ofNat 2048 ((List.range 64).foldl (fun a i => a * 2 ^ 32 + (i * 37 + k) % 251) 0)
/-- Vector registers v8 to v13 and v20, predicate p1, direction registers d1 and d2 with their norms. -/
def tVector : State := withCore fun c => { c with regs := { c.regs with
  v := [(8, rowOf 1), (9, rowOf 2), (10, rowOf 3), (11, rowOf 4), (12, rowOf 5), (13, rowOf 6), (20, 0)]
  p := [(1, 0xF0F0)], d := [(1, rowOf 1), (2, rowOf 2)], n := [(1, 0x1000), (2, 0x2000), (3, 0x80000000), (4, 0x7FFFFFFF)] } }
def vr (va vb vc ty fn : Nat) (gs : Nat := 0) (pg : Nat := 0) (rm : Nat := 0) (vd : Nat := 40) : VR :=
  ⟨BitVec.ofNat 9 vd, BitVec.ofNat 9 va, BitVec.ofNat 4 pg, 0, BitVec.ofNat 2 gs, BitVec.ofNat 9 vb, BitVec.ofNat 9 vc, BitVec.ofNat 4 ty, BitVec.ofNat 3 rm, BitVec.ofNat 7 fn⟩
/-- Six hundred draws in q7. -/
def tDrawn : State := (withCore fun c => { c with regs := tVector.hereCore.regs, q := { c.q with draws := (List.range 600).map (BitVec.ofNat 16) } })
/-- s7 the zero code, v14 and d5, d6 a component of almost one, v15 a NaN; d5 and d6 have norms. -/
def tUnit : State := tVector.setCore 0 (let c := tVector.hereCore
  { c with regs := { c.regs with
    s := Tab.store c.regs.s 7 0x80000000, v := Tab.store (Tab.store c.regs.v 14 32767) 15 0x7FC00000
    d := c.regs.d ++ [(5, 32767), (6, 32767)], n := c.regs.n ++ [(5, 0x1000), (6, 0x2000)] } })
/-- Banks 0 to 3 in compute mode with row set 0 active, FULL in banks 0 and 1, row sets 1 to 3 EMPTY; banks 0 to 3 of
the accumulator allocated, band 0 of bank 1 owned by group 1. -/
def tBanks : State := withCore fun c => { c with
  regs := { c.regs with s := [(1, 0x100000), (2, 5), (3, 2), (4, 0x101000), (5, 0x30005), (6, 0), (7, 1), (8, 16), (9, 0x101)] }
  eng := { c.eng with
    banks := (List.range 4).map fun i => (i, { mode := true, act := 0, gen := 1, sets := if i < 2 then [(0, { state := 2 })] else [] })
    alloc := 0x000F, owners := [(4, 1)]
    acc := [(0, { h := 200, elems := [(0, 5)] }), (32, { h := 200 })] } }
def mf (bk rs ab ar sa sb grp imm fn : Nat) : MF :=
  ⟨BitVec.ofNat 4 bk, BitVec.ofNat 2 rs, BitVec.ofNat 4 ab, BitVec.ofNat 5 ar, BitVec.ofNat 5 sa, BitVec.ofNat 5 sb, BitVec.ofNat 8 grp, BitVec.ofNat 16 imm, BitVec.ofNat 8 fn⟩
/-- A page of 2 MiB of device memory, held by the translation unit of pod 0. -/
def tPage : Page := { va := 0x2000000000, size := 0x200000, pa := 0x100000000, level := 1, mx := false, cache := false, host := false, wr := true, loc := 0 }
def tNest (sk dk : Nat) : Nest := { skind := sk, dkind := dk, inner := 64, levels := [{}, {}, {}, {}, {}, {}] }
/-- Translation is on, with that page cached; channel 1 has a descriptor. -/
def tCopy (n : Nest) : State :=
  let s := withCore fun c => { c with
    regs := { c.regs with s := [(1, 0x100000), (2, 64), (3, 2), (4, 0x101000), (5, 0), (6, 0x1000), (7, 1), (8, 0x2000)]
                          c := [(1, tCap), (2, { tCap with base := 0x2000010000 })] }
    eng := { c.eng with chans := [(1, { desc := some n })]
                        banks := [(2, { mode := true, act := 0, gen := 1 })] } }
  { s with units := [(0, { cache := [(0, tPage)] })], parts := [(0, { tPart with tcen := true })] }
def cf (ch sa sb ca cb grp imm fn : Nat) : CF :=
  ⟨BitVec.ofNat 3 ch, BitVec.ofNat 5 sa, BitVec.ofNat 5 sb, BitVec.ofNat 4 ca, BitVec.ofNat 4 cb, 0, 0, 0, BitVec.ofNat 8 grp, BitVec.ofNat 16 imm, BitVec.ofNat 8 fn⟩
/-- The state with its partition's far-reaching code moved away, so that device writes meet no code (R69). -/
def cleared (s : State) : State := s.onPart 0 fun p => { p with tt := p.tt.map fun t => { t with code := 0x3000000000 } }

/-- Witnesses of hypotheses that quantify over all numbers. -/
theorem bit_zero {P : Nat → Prop} (h : P 0) : ∀ b, Nat.testBit 1 b = true → P b
  | 0, _ => h
  | b + 1, hb => by simp [Nat.testBit_succ] at hb

def plainKind : CopyKind → Bool
  | .mark _ | .accOne _ => false
  | _ => true

theorem not_mark {x : CopyKind} (h : plainKind x = true) : ∀ k, x ≠ .mark k := by
  rintro k rfl; cases h

theorem not_accOne {x : CopyKind} (h : plainKind x = true) : ∀ k, x ≠ .accOne k := by
  rintro k rfl; cases h

/-- The state after a step that answers one. -/
def afterStep (s : State) : State := match step s with
  | .next t => t
  | _ => s

/-! Steps with results from the spec's worked examples and tables, or worked out by hand from its rules. In the test
state s2 is 5, s3 is -3, s6 is 0, s7 is 1, s8 is 16 and s1 is 0x100000. -/

/-- The results that an instruction sends down the pipeline of core 0 of the test state, and when. -/
def sent (i : Instr) : List InFlight := match exec i tState with
  | .next t => t.hereCore.seq.flight
  | _ => []

/-- A result of a scalar register, `l` pipeline cycles after the cycle 5 of the test state. -/
def toS (l r : Nat) (v : Word) : List InFlight := [{ due := 5 + l, wb := .scalar r v }]

/-- R140, R95: 5 + (-3), 5 - (-3), and the high half of -3 * 5. -/
theorem test_add_sub_mulh :
    sent (.add ⟨4, 2, 3, 0⟩) = toS 1 4 2 ∧ sent (.sub ⟨4, 2, 3, 0⟩) = toS 1 4 8 ∧
    sent (.mulh ⟨4, 3, 2, 0⟩) = toS 3 4 (-1) := by decide +kernel

/-- R140 with N = 1: (2^64 - 3) * 5 = 4 * 2^64 + (2^64 - 15). -/
theorem test_mulh_unsigned : sent (.mulh ⟨4, 3, 2, 1⟩) = toS 3 4 4 := by decide +kernel

/-- R140, R141: -3 by 5 gives 0 with remainder -3; by 0 the quotient is -1 and the remainder the dividend. -/
theorem test_div_rem :
    (sent (.div ⟨4, 3, 2, 0⟩)).map (·.wb) = [.scalar 4 0] ∧ (sent (.rem ⟨4, 3, 2, 0⟩)).map (·.wb) = [.scalar 4 (-3)] ∧
    (sent (.div ⟨4, 2, 6, 0⟩)).map (·.wb) = [.scalar 4 (-1)] ∧ (sent (.rem ⟨4, 2, 6, 0⟩)).map (·.wb) = [.scalar 4 5] := by
  decide +kernel

/-- R140: 5 shifted left by 16, and -3 shifted right by 1 with its sign. -/
theorem test_shifts :
    sent (.shl ⟨4, 2, 8, 0⟩) = toS 1 4 (5 * 65536) ∧ sent (.sha ⟨4, 3, 7, 0⟩) = toS 1 4 (-2) := by decide +kernel

/-- R142: 5 + (-1), with the 14-bit immediate of all ones. -/
theorem test_addi : sent (.addi ⟨4, 2, 0x3FFF, none⟩) = toS 1 4 4 := by decide +kernel

/-- R138: s0 reads as zero. -/
theorem test_s0_reads_zero : sent (.add ⟨4, 0, 2, 0⟩) = toS 1 4 5 := by decide +kernel

/-- R447, R451, R454: TRAP 5 in a bundle of its own takes the software trap, cause 0x19 with its code as the detail,
and the core goes on at TRAPVEC. -/
theorem test_trap_enters_service :
    (match exec (.trap ⟨0, 0, 5, none⟩) tState with
      | .next t => [t.hereCore.seq.pc, t.hereCore.ctlOf Ctl.trapcause, t.hereCore.ctlOf Ctl.trapdet]
      | _ => []) = [0x2000000404, 0x19, 5] := by decide +kernel

/-- The table under R21. -/
theorem test_hop_distances : hops 0 15 = 6 ∧ hops 37 118 = 3 ∧ hops 0 19 = 5 ∧ hops 102 38 = 4 := by decide +kernel

/-- The example of R120: 22.5 and -22.5 to integers in mode SR with the draws 40000 and 20000. -/
theorem test_stochastic_rounding :
    (roundInt 32 (-2147483648) 2147483647 (.num false 45 (-1)) .sr 40000).code = 23 ∧
    (roundInt 32 (-2147483648) 2147483647 (.num false 45 (-1)) .sr 20000).code = 22 ∧
    (roundInt 32 (-2147483648) 2147483647 (.num true 45 (-1)) .sr 40000).code = 4294967273 ∧
    (roundInt 32 (-2147483648) 2147483647 (.num true 45 (-1)) .sr 20000).code = 4294967274 := by decide +kernel

/-- After reset (R473, R477): EPOCH, LREMAIN, READY, MPWR, and the energy registers of a new partition (R424). -/
theorem test_reset_values :
    State.reset.epoch = 1 ∧ State.reset.lremain = 100000 ∧ State.reset.ready = false ∧ State.reset.mpwr = 850 ∧
    ({} : Partition).cap = 1000000 ∧ ({} : Partition).prio = 2 := by decide +kernel

/-- LDI f2, 0x1FF placed where the next step fetches: f2 of context 0 holds 0x1FF, and the run goes on. -/
theorem test_step_runs_a_filter_word :
    Tab.look 0 ((afterStep (State.reset.withFetchWord 32 0x190001FF)).ctx 0).regs 2 = 0x1FF := by decide +kernel

/-- R64, R66: a bundle of one ADD placed where the next step fetches: its result is on its way to s3, and the next
bundle is due at the start of the next line. -/
theorem test_step_issues_a_bundle :
    let c := (afterStep (State.reset.withFetchWord 64 0x0218440000000001)).core 0
    c.seq.flight = [{ due := 1, wb := .scalar 3 0 }] ∧ c.seq.pc = 0x84 := by decide +kernel

/-- The words of an LDI and of an ADD with its descriptor, as the opcode table numbers their bits. -/
theorem test_table_word :
    decodeTableWord 32 0x190001FF = some (.filterLdi { fd := 2, fa := 0, sub := 0, imm := 0x1FF }) ∧
    decodeTableWord 64 0x0218440000000001 = some (.add { sd := 3, sa := 1, sb := 2, fn := 0 }) := by decide +kernel

/-! The portable form and the assembler: the dot product of 20_portable_form and the line of 03_encoding. -/

/-- The module's bytes: the header, the entries 0x21, 0x10, 0x10 and the twelve move words of the table. -/
def tModule : List Byte := leBytes 32 (1 + 32 * 2 ^ 16 + 3 * 2 ^ 32 + 12 * 2 ^ 48) ++ (([0x21, 0x10, 0x10,
  0x83008008, 0x10C1, 0x0001000000001006, 0x100008, 0x83008049, 0x20C1, 0x21024, 0x8A8120018, 0xA2828249, 0xB2C5,
  0x100049, 0xA3108049] : List Nat).map (leBytes 8)).flatten

def tSettings : ZSettings := {
  vbase := 240, vcount := 16, sbase := 20, scount := 8, pbase := 1, pcount := 0, spill := 0x13F000, spillLen := 1024
  start := 1 }

/-- The bundles of the listing: cycle, and the syllables that the tables of 20_portable_form print. -/
theorem test_zxt_listing : ((zxt tModule tSettings).toOption.map fun l => l.map fun b => (b.cycle, b.stall)) =
    some [(1, 0), (2, 0), (3, 3), (7, 5), (13, 1), (15, 0), (16, 5), (22, 3), (26, 3), (30, 7), (38, 1), (40, 0)] := by
  decide +kernel

theorem test_zxt_words : ((zxt tModule tSettings).toOption.map fun l => (l.getD 3 ⟨0, 0, []⟩).words.take 2 ++
    ((l.getD 4 ⟨0, 0, []⟩).words.drop 1) ++ ((l.getD 8 ⟨0, 0, []⟩).words.drop 1) ++ ((l.getD 10 ⟨0, 0, []⟩).words.drop 1)) =
    some [0x00200147, 0x02C62E00, 0x62F20000, 0xA8000800, 0x34F87C00, 0x7F002800, 0x16F07E00, 0x7E001800] := by
  decide +kernel

/-- The variants: VCOUNT 14 and SPILLLEN 512 are refused; so are an operand port as a source in move 7 and a read of
fpu.y before it is written in move 8. -/
theorem test_zxt_refusals :
    (match zxt tModule { tSettings with vcount := 14 } with | .error .settings => true | _ => false) = true ∧
    (match zxt tModule { tSettings with spillLen := 512 } with | .error .settings => true | _ => false) = true ∧
    (match readZpf (tModule.take 104 ++ leBytes 8 0x2211 ++ tModule.drop 112) with
      | .error (.move 7) => true | _ => false) = true ∧
    (match readZpf (tModule.take 112 ++ leBytes 8 0xA2828249 ++ tModule.drop 120) with
      | .error (.move 8) => true | _ => false) = true := by
  decide +kernel

/-- Moves 3 and 4 of the module add 0x100 to the argument. -/
theorem test_zpf_add :
    (match ZModule.run 0 { vals := [⟨.scalar, 0, true⟩], moves := [⟨.imm 0x100, .operand 1⟩, ⟨.value 0, .trigger 0 ⟨1, false, 0, 0, 0⟩⟩] }
        { s := tState, vals := [(0, 0x100000)] } with
      | .ok e => Tab.look 0 e.ports 4 == 0x100100
      | _ => false) = true := by
  decide +kernel

/-- The segment of 03_encoding. -/
def tSource : List ALine := [
  .phase 0 none 0 false, .grade 0 64 20, .core 0,
  .bundle { ops := [(0, { op := .addi ⟨4, 4, 1, none⟩ }), (1, { op := .vfadd ⟨12, 13, 0, 0, 0, 14, 0, 10, 0, 0⟩ })], rep := 3, stall := 1 },
  .at_ 8 false, .label 1,
  .bundle { ops := [(0, { op := .addi ⟨4, 4, 1, none⟩ })], rep := 7 },
  .at_ 16 false,
  .bundle { ops := [(0, { op := .bne ⟨4, 5, 0, none⟩, value := some (.expr (.name 1)) })], hush := true },
  .bundle { ops := [(0, { op := .phase ⟨0, 0, 0, none⟩ })] }]

theorem test_zxas_line : ((readLines tSource {}).bind fun s => s.codeLines 0 []) =
    some [BitVec.ofNat 1024 (lineOf [0x00090039, 0x00000C43, 0x22210001, 0x300C0680, 0x07002800, 0, 0x00001C01, 0x22210001,
      0x00200001, 0x62217FFE, 0x00000001, 0xA0000000])] := by
  decide +kernel

/-- R86: `1 + 2 << 3 & 7` is 0, and the division truncates towards zero. -/
theorem test_zxas_expressions :
    AExpr.eval (fun _ => none) (.and (.shl (.add (.lit 1) (.lit 2)) (.lit 3)) (.lit 7)) = some 0 ∧
    AExpr.eval (fun _ => none) (.div (.lit (-7)) (.lit 2)) = some (-3) ∧
    AValue.code (fun _ => none) .i8 (.expr (.lit 255)) = some 0xFF ∧
    AValue.code (fun _ => none) .h (.expr (.lit 3)) = some 3 ∧
    AValue.code (fun _ => none) .f (.float ⟨false, 15, -1⟩) = some 0x3FC00000 := by
  decide +kernel

/-! One word for each constructor, put together from the class maps R79 to R82, the formats R72, R73 and R439 and the
codes of R440: the decoder reads the instruction with every field in its place. -/

theorem test_decode_scalar_register : ∀ x ∈ ([
    ([0x00000000], .nop ⟨0, 0, 0, 0⟩),
    ([0x02EB5E00], .add ⟨29, 13, 15, 0⟩),
    ([0x04EB5E00], .sub ⟨29, 13, 15, 0⟩),
    ([0x06EB5E00], .and ⟨29, 13, 15, 0⟩),
    ([0x08EB5E00], .or ⟨29, 13, 15, 0⟩),
    ([0x0AEB5E00], .xor ⟨29, 13, 15, 0⟩),
    ([0x0CEB5E00], .shl ⟨29, 13, 15, 0⟩),
    ([0x0EEB5E00], .shr ⟨29, 13, 15, 0⟩),
    ([0x10EB5E00], .sha ⟨29, 13, 15, 0⟩),
    ([0x12EB5E00], .mul ⟨29, 13, 15, 0⟩),
    ([0x14EB5E00], .mulh ⟨29, 13, 15, 0⟩),
    ([0x16EB5E00], .div ⟨29, 13, 15, 0⟩),
    ([0x18EB5E00], .rem ⟨29, 13, 15, 0⟩),
    ([0x1AEB5E00], .min ⟨29, 13, 15, 0⟩),
    ([0x1CEB5E00], .max ⟨29, 13, 15, 0⟩),
    ([0x1EEB5E00], .slt ⟨29, 13, 15, 0⟩),
    ([0x20EB5E00], .sltn ⟨29, 13, 15, 0⟩),
    ([0x7003C000], .jr ⟨0, 15, 0, 0⟩),
    ([0x72000000], .ret ⟨0, 0, 0, 0⟩),
    ([0x8C79F000], .cnarrow ⟨15, 7, 24, 0⟩),
    ([0x8E73C003], .cquery ⟨14, 15, 0, 3⟩)] : List (List Word32 × Instr)),
    decodeAs (some .s) x.1 = some x.2 := by decide +kernel

theorem test_decode_scalar_immediate_1 : ∀ x ∈ ([
    ([0x231167D4, 0x7BFFFF0D], .addi ⟨2, 5, 10196, some 2080374541⟩),
    ([0x251167D4, 0x7BFFFF0D], .andi ⟨2, 5, 10196, some 2080374541⟩),
    ([0x271167D4, 0x7BFFFF0D], .ori ⟨2, 5, 10196, some 2080374541⟩),
    ([0x291167D4, 0x7BFFFF0D], .xori ⟨2, 5, 10196, some 2080374541⟩),
    ([0x2AEB400F], .shli ⟨29, 13, 15, none⟩),
    ([0x2CEB400F], .shri ⟨29, 13, 15, none⟩),
    ([0x2EEB400F], .shai ⟨29, 13, 15, none⟩),
    ([0x31981609, 0xDBE8BF7F], .lui ⟨19, 0, 5641, some 3689463679⟩),
    ([0x411167D4, 0x7BFFFF0D], .ldb ⟨2, 5, 10196, some 2080374541⟩),
    ([0x431167D4, 0x7BFFFF0D], .ldbz ⟨2, 5, 10196, some 2080374541⟩),
    ([0x451167D4, 0x7BFFFF0D], .ldh ⟨2, 5, 10196, some 2080374541⟩),
    ([0x471167D4, 0x7BFFFF0D], .ldhz ⟨2, 5, 10196, some 2080374541⟩),
    ([0x491167D4, 0x7BFFFF0D], .ldw ⟨2, 5, 10196, some 2080374541⟩),
    ([0x4B1167D4, 0x7BFFFF0D], .ldwz ⟨2, 5, 10196, some 2080374541⟩),
    ([0x4D1167D4, 0x7BFFFF0D], .ldd ⟨2, 5, 10196, some 2080374541⟩),
    ([0x511167D4, 0x7BFFFF0D], .stb ⟨2, 5, 10196, some 2080374541⟩),
    ([0x531167D4, 0x7BFFFF0D], .sth ⟨2, 5, 10196, some 2080374541⟩),
    ([0x551167D4, 0x7BFFFF0D], .stw ⟨2, 5, 10196, some 2080374541⟩),
    ([0x571167D4, 0x7BFFFF0D], .std ⟨2, 5, 10196, some 2080374541⟩),
    ([0x80B00EFD], .ctlrd ⟨22, 0, 3837, none⟩),
    ([0x82063FFE], .ctlwr ⟨0, 24, 16382, none⟩),
    ([0x881E205C], .capld ⟨3, 24, 8284, none⟩),
    ([0x887B4FF0], .capldMemory ⟨15, 13, 4080, none⟩),
    ([0x8A7B4FF0], .capst ⟨15, 13, 4080, none⟩)] : List (List Word32 × Instr)),
    decodeAs (some .s) x.1 = some x.2 := by decide +kernel

theorem test_decode_scalar_immediate_2 : ∀ x ∈ ([
    ([0x90FAFDD0], .gld ⟨31, 11, 15824, none⟩),
    ([0x92FAFDD0], .gst ⟨31, 11, 15824, none⟩),
    ([0xA0000000], .phase ⟨0, 0, 0, none⟩),
    ([0xA20000F8], .gbar ⟨0, 0, 248, none⟩),
    ([0xA4000000], .fenceE ⟨0, 0, 0, none⟩),
    ([0xA600000F], .idle ⟨0, 0, 15, none⟩),
    ([0xB00000F8], .trap ⟨0, 0, 248, none⟩),
    ([0xB2000000], .tret ⟨0, 0, 0, none⟩),
    ([0xB4000000], .halt ⟨0, 0, 0, none⟩),
    ([0xB60000F8], .dbgbrk ⟨0, 0, 248, none⟩)] : List (List Word32 × Instr)),
    decodeAs (some .s) x.1 = some x.2 := by decide +kernel

theorem test_decode_branch : ∀ x ∈ ([
    ([0x611167D4, 0x7BFFFF0D], .beq ⟨2, 5, 10196, some 2080374541⟩),
    ([0x631167D4, 0x7BFFFF0D], .bne ⟨2, 5, 10196, some 2080374541⟩),
    ([0x651167D4, 0x7BFFFF0D], .blt ⟨2, 5, 10196, some 2080374541⟩),
    ([0x671167D4, 0x7BFFFF0D], .bge ⟨2, 5, 10196, some 2080374541⟩),
    ([0x691167D4, 0x7BFFFF0D], .bltn ⟨2, 5, 10196, some 2080374541⟩),
    ([0x6B1167D4, 0x7BFFFF0D], .bgen ⟨2, 5, 10196, some 2080374541⟩),
    ([0x75981609, 0xDBE8BF7F], .loopr ⟨19, 0, 5641, some 3689463679⟩)] : List (List Word32 × Instr)),
    decodeAs (some .s) x.1 = some x.2 := by decide +kernel

theorem test_decode_scalar_queue : ∀ x ∈ ([
    ([0xC0FBC000], .qpopS ⟨31, 7, 1⟩),
    ([0xC2FBC000], .qpeekS ⟨31, 7, 1⟩),
    ([0xC47CC000], .qpushS ⟨15, 9, 1⟩),
    ([0xC6FB8000], .qstatS ⟨31, 7, 0⟩),
    ([0xC8038000], .qflushS ⟨0, 7, 0⟩)] : List (List Word32 × Instr)),
    decodeAs (some .s) x.1 = some x.2 := by decide +kernel

theorem test_decode_vector_queue : ∀ x ∈ ([
    ([0xC170701B, 0x00000000], .qpopV ⟨368, 7, 0, 3, 0, 3⟩),
    ([0xC370701B, 0x00000000], .qpeekV ⟨368, 7, 0, 3, 0, 3⟩),
    ([0xC4EAD800, 0x00000000], .qpushV ⟨234, 13, 1, 0, 0, 0⟩),
    ([0xC67DB000, 0x00000000], .qstatV ⟨125, 11, 0, 0, 0, 0⟩),
    ([0xC8007000, 0x00000000], .qflushV ⟨0, 7, 0, 0, 0, 0⟩)] : List (List Word32 × Instr)),
    decodeAs (some .v) x.1 = some x.2 := by decide +kernel

theorem test_decode_vector_1 : ∀ x ∈ ([
    ([0x0204BBBC, 0x07801800], .vadd ⟨4, 375, 7, 1, 0, 15, 0, 6, 0, 0⟩),
    ([0x0404BBBC, 0x07801800], .vsub ⟨4, 375, 7, 1, 0, 15, 0, 6, 0, 0⟩),
    ([0x0604BBBC, 0x07801800], .vmul ⟨4, 375, 7, 1, 0, 15, 0, 6, 0, 0⟩),
    ([0x0804BBBC, 0x07801800], .vmulh ⟨4, 375, 7, 1, 0, 15, 0, 6, 0, 0⟩),
    ([0x0A027440, 0xAF9ECC01], .vmadd ⟨2, 232, 8, 0, 0, 351, 123, 3, 0, 1⟩),
    ([0x0C04BBBC, 0x07801800], .vmin ⟨4, 375, 7, 1, 0, 15, 0, 6, 0, 0⟩),
    ([0x0E04BBBC, 0x07801800], .vmax ⟨4, 375, 7, 1, 0, 15, 0, 6, 0, 0⟩),
    ([0x109A5C0C, 0x00001800], .vabs ⟨154, 184, 1, 1, 0, 0, 0, 6, 0, 0⟩),
    ([0x129A5C0C, 0x00001800], .vneg ⟨154, 184, 1, 1, 0, 0, 0, 6, 0, 0⟩),
    ([0x1404BBBC, 0x07801800], .vand ⟨4, 375, 7, 1, 0, 15, 0, 6, 0, 0⟩),
    ([0x1604BBBC, 0x07801800], .vor ⟨4, 375, 7, 1, 0, 15, 0, 6, 0, 0⟩),
    ([0x1804BBBC, 0x07801800], .vxor ⟨4, 375, 7, 1, 0, 15, 0, 6, 0, 0⟩),
    ([0x1A04BBBC, 0x07801800], .vshl ⟨4, 375, 7, 1, 0, 15, 0, 6, 0, 0⟩),
    ([0x1C04BBBC, 0x07801800], .vshr ⟨4, 375, 7, 1, 0, 15, 0, 6, 0, 0⟩),
    ([0x1E04BBBC, 0x07801800], .vsha ⟨4, 375, 7, 1, 0, 15, 0, 6, 0, 0⟩),
    ([0x2004BBBC, 0x07801800], .vcmp ⟨4, 375, 7, 1, 0, 15, 0, 6, 0, 0⟩),
    ([0x237B1844, 0xA882CC00], .vsel ⟨379, 48, 8, 1, 0, 337, 11, 3, 0, 0⟩),
    ([0x316006F4, 0x01002480], .vfadd ⟨352, 13, 14, 1, 0, 2, 0, 9, 1, 0⟩),
    ([0x336006F4, 0x01002480], .vfsub ⟨352, 13, 14, 1, 0, 2, 0, 9, 1, 0⟩),
    ([0x356006F4, 0x01002480], .vfmul ⟨352, 13, 14, 1, 0, 2, 0, 9, 1, 0⟩),
    ([0x3731BC2C, 0x0521E100], .vfma ⟨305, 376, 5, 1, 0, 10, 135, 8, 2, 0⟩),
    ([0x3803BC18, 0x01002000], .vfmin ⟨3, 376, 3, 0, 0, 2, 0, 8, 0, 0⟩),
    ([0x3A03BC18, 0x01002000], .vfmax ⟨3, 376, 3, 0, 0, 2, 0, 8, 0, 0⟩),
    ([0x3C03BC18, 0x01002000], .vfcmp ⟨3, 376, 3, 0, 0, 2, 0, 8, 0, 0⟩)] : List (List Word32 × Instr)),
    decodeAs (some .v) x.1 = some x.2 := by decide +kernel

theorem test_decode_vector_2 : ∀ x ∈ ([
    ([0x40EDA540, 0x00003067], .vcvt ⟨237, 330, 8, 0, 0, 0, 0, 12, 0, 103⟩),
    ([0x42649001, 0x38002085], .vquant ⟨100, 288, 0, 0, 1, 112, 0, 8, 1, 5⟩),
    ([0x4578266B, 0x05002903], .vdeq ⟨376, 76, 13, 0, 3, 10, 0, 10, 2, 3⟩),
    ([0x480101FC, 0x00002000], .vexp2 ⟨1, 3, 15, 1, 0, 0, 0, 8, 0, 0⟩),
    ([0x4A0101FC, 0x00002000], .vlog2 ⟨1, 3, 15, 1, 0, 0, 0, 8, 0, 0⟩),
    ([0x4C0101FC, 0x00002000], .vrcp ⟨1, 3, 15, 1, 0, 0, 0, 8, 0, 0⟩),
    ([0x4E0101FC, 0x00002000], .vrsq ⟨1, 3, 15, 1, 0, 0, 0, 8, 0, 0⟩),
    ([0x50D95847, 0x00000000], .vred ⟨217, 176, 8, 1, 3, 0, 0, 0, 0, 0⟩),
    ([0x5204BBBC, 0x07801800], .vperm ⟨4, 375, 7, 1, 0, 15, 0, 6, 0, 0⟩),
    ([0x540F0000, 0x07801402], .vshuf ⟨15, 0, 0, 0, 0, 15, 0, 5, 0, 2⟩),
    ([0x580E0780, 0x2C12C000], .vextr ⟨14, 15, 0, 0, 0, 88, 75, 0, 0, 0⟩),
    ([0x70000000, 0x00000000], .pand ⟨0, 0, 0, 0, 0, 0, 0, 0, 0, 0⟩),
    ([0x72000000, 0x00000000], .por ⟨0, 0, 0, 0, 0, 0, 0, 0, 0, 0⟩),
    ([0x74000000, 0x00000000], .pxor ⟨0, 0, 0, 0, 0, 0, 0, 0, 0, 0⟩),
    ([0x76000000, 0x00000000], .pnot ⟨0, 0, 0, 0, 0, 0, 0, 0, 0, 0⟩),
    ([0x78000000, 0x00000000], .ppop ⟨0, 0, 0, 0, 0, 0, 0, 0, 0, 0⟩),
    ([0x7A000000, 0x00000000], .pfirst ⟨0, 0, 0, 0, 0, 0, 0, 0, 0, 0⟩),
    ([0x80830000, 0x00002800], .accpop ⟨131, 0, 0, 0, 0, 0, 0, 10, 0, 0⟩),
    ([0x829A5C0C, 0x00001800], .vordk ⟨154, 184, 1, 1, 0, 0, 0, 6, 0, 0⟩),
    ([0x8404BBBC, 0x07801800], .vdigit ⟨4, 375, 7, 1, 0, 15, 0, 6, 0, 0⟩),
    ([0x869A5C0C, 0x00001800], .vcnt ⟨154, 184, 1, 1, 0, 0, 0, 6, 0, 0⟩),
    ([0x88006401, 0x00006000], .vnwatch ⟨0, 200, 0, 0, 1, 0, 1, 8, 0, 0⟩),
    ([0x9000005B, 0x00002000], .dnorm ⟨0, 0, 11, 0, 3, 0, 0, 8, 0, 0⟩),
    ([0x920101FC, 0x00002000], .dexp ⟨1, 3, 15, 1, 0, 0, 0, 8, 0, 0⟩)] : List (List Word32 × Instr)),
    decodeAs (some .v) x.1 = some x.2 := by decide +kernel

theorem test_decode_vector_3 : ∀ x ∈ ([
    ([0x92400001, 0x00000401], .dexpRaw ⟨64, 0, 0, 0, 1, 0, 0, 1, 0, 1⟩),
    ([0x94060401, 0x04002800], .ddot ⟨6, 8, 0, 0, 1, 8, 0, 10, 0, 0⟩),
    ([0x960B0400, 0x0001E800], .ddotm ⟨11, 8, 0, 0, 0, 0, 7, 10, 0, 0⟩),
    ([0x980E0780, 0x2C12C000], .dscale ⟨14, 15, 0, 0, 0, 88, 75, 0, 0, 0⟩),
    ([0x98020080, 0x00000001], .dscaleAdd ⟨2, 1, 0, 0, 0, 0, 0, 0, 0, 1⟩),
    ([0x98000000, 0x06000002], .dscaleSub ⟨0, 0, 0, 0, 0, 12, 0, 0, 0, 2⟩),
    ([0x9A0AA501, 0x00800000], .dset ⟨10, 330, 0, 0, 1, 1, 0, 0, 0, 0⟩),
    ([0x9C020080, 0x00000001], .dadd ⟨2, 1, 0, 0, 0, 0, 0, 0, 0, 1⟩),
    ([0x9E000000, 0x00000000], .dneg ⟨0, 0, 0, 0, 0, 0, 0, 0, 0, 0⟩),
    ([0xA0000000, 0x00000000], .dmov ⟨0, 0, 0, 0, 0, 0, 0, 0, 0, 0⟩),
    ([0xA2000000, 0x00000000], .dzero ⟨0, 0, 0, 0, 0, 0, 0, 0, 0, 0⟩),
    ([0xA4000000, 0x00000000], .dnormq ⟨0, 0, 0, 0, 0, 0, 0, 0, 0, 0⟩),
    ([0xA4020080, 0x00000001], .dnormqDev ⟨2, 1, 0, 0, 0, 0, 0, 0, 0, 1⟩)] : List (List Word32 × Instr)),
    decodeAs (some .v) x.1 = some x.2 := by decide +kernel

theorem test_decode_broadcast : ∀ x ∈ ([
    ([0x56F0006B, 0xAC939000], .vbcast ⟨240, 0, 13, 0, 3, 176718, 4, 0, 0⟩),
    ([0x560F7998, 0x00002401], .vbcastLane ⟨15, 243, 3, 0, 0, 0, 9, 0, 1⟩)] : List (List Word32 × Instr)),
    decodeAs (some .v) x.1 = some x.2 := by decide +kernel

theorem test_decode_vector_memory : ∀ x ∈ ([
    ([0x60020000, 0x502FE000], .vld ⟨2, 0, 0, 0, 0, 10, 0, 3064, 0, 0⟩),
    ([0x62020000, 0x502FE000], .vst ⟨2, 0, 0, 0, 0, 10, 0, 3064, 0, 0⟩),
    ([0x6528001D, 0x87FEA2C0], .vlds ⟨296, 0, 3, 1, 1, 16, 31, 4008, 11, 0⟩),
    ([0x6728001D, 0x87FEA2C0], .vsts ⟨296, 0, 3, 1, 1, 16, 31, 4008, 11, 0⟩),
    ([0x684E0358, 0xC813DB00], .vgath ⟨78, 6, 11, 0, 0, 25, 0, 1270, 12, 0⟩),
    ([0x6A4E0358, 0xC813DB00], .vscat ⟨78, 6, 11, 0, 0, 25, 0, 1270, 12, 0⟩)] : List (List Word32 × Instr)),
    decodeAs (some .v) x.1 = some x.2 := by decide +kernel

theorem test_decode_engine_1 : ∀ x ∈ ([
    ([0x02000000, 0x00000801], .bmodeCompute ⟨0, 0, 0, 0, 0, 0, 0, 8, 1⟩),
    ([0x02000000, 0x00800100], .bmodeScratch ⟨0, 0, 0, 0, 0, 0, 0, 32769, 0⟩),
    ([0x05180000, 0x00000002], .bplane ⟨8, 3, 0, 0, 0, 0, 0, 0, 2⟩),
    ([0x06780100, 0x00575D00], .bload ⟨3, 3, 0, 0, 8, 0, 0, 22365, 0⟩),
    ([0x09180000, 0x00000002], .bprec ⟨8, 3, 0, 0, 0, 0, 0, 0, 2⟩),
    ([0x0A180000, 0x0086D002], .bsparse ⟨0, 3, 0, 0, 0, 0, 0, 34512, 2⟩),
    ([0x0A080000, 0x00000000], .bsparseDense ⟨0, 1, 0, 0, 0, 0, 0, 0, 0⟩),
    ([0x0C60012F, 0x00000000], .boutl ⟨3, 0, 0, 0, 9, 15, 0, 0, 0⟩),
    ([0x0E00001D, 0x007D6805], .btag ⟨0, 0, 0, 0, 0, 29, 0, 32104, 5⟩),
    ([0x1005EC58, 0x027BBD91], .brun ⟨0, 0, 11, 27, 2, 24, 2, 31677, 145⟩),
    ([0x1205EC58, 0x027BBD91], .bacc ⟨0, 0, 11, 27, 2, 24, 2, 31677, 145⟩),
    ([0x15200000, 0x00000000], .bstat ⟨9, 0, 0, 0, 0, 0, 0, 0, 0⟩),
    ([0x16080000, 0x00000000], .bclr ⟨0, 1, 0, 0, 0, 0, 0, 0, 0⟩),
    ([0x16B80000, 0x00000001], .bclrAll ⟨5, 3, 0, 0, 0, 0, 0, 0, 1⟩),
    ([0x19100000, 0x0000020D], .bdir ⟨8, 2, 0, 0, 0, 0, 0, 2, 13⟩),
    ([0x1A080000, 0x00000000], .bzero ⟨0, 1, 0, 0, 0, 0, 0, 0, 0⟩),
    ([0x40000120, 0x00AE3000], .accalloc ⟨0, 0, 0, 0, 9, 0, 0, 44592, 0⟩),
    ([0x42000000, 0x00000400], .accfree ⟨0, 0, 0, 0, 0, 0, 0, 4, 0⟩),
    ([0x4405E000, 0x62000000], .accband ⟨0, 0, 11, 24, 0, 0, 98, 0, 0⟩),
    ([0x44033C00, 0x00000001], .accbandLocal ⟨0, 0, 6, 15, 0, 0, 0, 0, 1⟩),
    ([0x46023800, 0x00000300], .accnorm ⟨0, 0, 4, 14, 0, 0, 0, 3, 0⟩),
    ([0x48026440, 0x00000700], .accclr ⟨0, 0, 4, 25, 2, 0, 0, 7, 0⟩),
    ([0x4A000800, 0x00000000], .accrd ⟨0, 0, 0, 2, 0, 0, 0, 0, 0⟩),
    ([0x4A033C00, 0x00000001], .accrdRemote ⟨0, 0, 6, 15, 0, 0, 0, 0, 1⟩)] : List (List Word32 × Instr)),
    decodeAs (some .m) x.1 = some x.2 := by decide +kernel

theorem test_decode_engine_2 : ∀ x ∈ ([
    ([0x4C000D40, 0x00F0F901], .accexp ⟨0, 0, 0, 3, 10, 0, 0, 61689, 1⟩),
    ([0x4C044338, 0x02F7F805], .accexpRemote ⟨0, 0, 8, 16, 25, 24, 2, 63480, 5⟩),
    ([0x4E000800, 0x00000000], .acchead ⟨0, 0, 0, 2, 0, 0, 0, 0, 0⟩),
    ([0x5005E000, 0x62000000], .accexport ⟨0, 0, 11, 24, 0, 0, 98, 0, 0⟩)] : List (List Word32 × Instr)),
    decodeAs (some .m) x.1 = some x.2 := by decide +kernel

theorem test_decode_copy : ∀ x ∈ ([
    ([0x020A0000, 0x002B9B00], .cpset ⟨0, 5, 0, 0, 0, 0, 0, 0, 0, 11163, 0⟩),
    ([0x05F8B3AC, 0x00000000], .cpgo ⟨7, 28, 11, 3, 10, 1, 1, 0, 0, 0, 0⟩),
    ([0x06000000, 0x00000D00], .cpwait ⟨0, 0, 0, 0, 0, 0, 0, 0, 0, 13, 0⟩),
    ([0x08000000, 0x00000D00], .cpmark ⟨0, 0, 0, 0, 0, 0, 0, 0, 0, 13, 0⟩),
    ([0x0B800000, 0x00000000], .cpfollow ⟨6, 0, 0, 0, 0, 0, 0, 0, 0, 0, 0⟩),
    ([0x0CDADD0F, 0xD0000000], .cpmcast ⟨3, 13, 13, 13, 0, 1, 1, 3, 208, 0, 0⟩),
    ([0x0CF60008, 0x04000001], .cpmcastMsg ⟨3, 27, 0, 0, 0, 1, 0, 0, 4, 0, 1⟩),
    ([0x0E30F007, 0x00000000], .cpfill ⟨0, 24, 15, 0, 0, 0, 1, 3, 0, 0, 0⟩),
    ([0x118E0304, 0x00000000], .cpshell ⟨6, 7, 0, 3, 0, 0, 1, 0, 0, 0, 0⟩),
    ([0x13C6201B, 0x00000002], .cpacc ⟨7, 3, 2, 0, 1, 1, 0, 3, 0, 0, 2⟩),
    ([0x13D000A4, 0x0000000A], .cpaccOne ⟨7, 8, 0, 0, 10, 0, 1, 0, 0, 0, 10⟩),
    ([0x2086E07F, 0x0047FD00], .memrowCopy ⟨2, 3, 14, 0, 7, 1, 1, 3, 0, 18429, 0⟩),
    ([0x2181604C, 0x00FFC801], .memrowZero ⟨6, 0, 22, 0, 4, 1, 1, 0, 0, 65480, 1⟩),
    ([0x22ECB718, 0x2F000000], .ewalk ⟨3, 22, 11, 7, 1, 1, 0, 0, 47, 0, 0⟩),
    ([0x25C00000, 0x00000000], .cpinv ⟨7, 0, 0, 0, 0, 0, 0, 0, 0, 0, 0⟩),
    ([0x26000000, 0x00000D00], .cpfence ⟨0, 0, 0, 0, 0, 0, 0, 0, 0, 13, 0⟩),
    ([0x28143000, 0x5A000000], .cpexportRead ⟨0, 10, 3, 0, 0, 0, 0, 0, 90, 0, 0⟩),
    ([0x2812A000, 0x03000001], .cpexportCarry ⟨0, 9, 10, 0, 0, 0, 0, 0, 3, 0, 1⟩),
    ([0x2812A000, 0x03000002], .cpexportReceive ⟨0, 9, 10, 0, 0, 0, 0, 0, 3, 0, 2⟩),
    ([0x2A540B3B, 0xF7000000], .cpcoll ⟨1, 10, 0, 11, 3, 1, 0, 3, 247, 0, 0⟩),
    ([0x400A0000, 0x002B9B00], .carry ⟨0, 5, 0, 0, 0, 0, 0, 0, 0, 11163, 0⟩),
    ([0x40214000, 0xD03EBF0E], .carryRemote ⟨0, 16, 20, 0, 0, 0, 0, 0, 208, 16063, 14⟩),
    ([0x420A0000, 0x002B9B00], .carryw ⟨0, 5, 0, 0, 0, 0, 0, 0, 0, 11163, 0⟩),
    ([0x44000000, 0x00000000], .carryst ⟨0, 0, 0, 0, 0, 0, 0, 0, 0, 0, 0⟩)] : List (List Word32 × Instr)),
    decodeAs (some .c) x.1 = some x.2 := by decide +kernel

theorem test_decode_filter : ∀ x ∈ ([
    ([0x00000000], .filterExit ⟨0, 0, 0, 0⟩),
    ([0x0AFF8007], .filterBr ⟨5, 15, 15, 7⟩),
    ([0x17800007], .filterLde ⟨15, 0, 0, 7⟩),
    ([0x36EF8000], .filterAdd ⟨13, 13, 15, 0⟩),
    ([0x3EEF8000], .filterSub ⟨13, 13, 15, 0⟩),
    ([0x46EF8000], .filterAnd ⟨13, 13, 15, 0⟩),
    ([0x4EEF8000], .filterOr ⟨13, 13, 15, 0⟩),
    ([0x56EF8000], .filterXor ⟨13, 13, 15, 0⟩),
    ([0x5EEF8000], .filterMin ⟨13, 13, 15, 0⟩),
    ([0x66EF8000], .filterMax ⟨13, 13, 15, 0⟩),
    ([0x6EEF8000], .filterAbsd ⟨13, 13, 15, 0⟩),
    ([0x8F780000], .filterLog2 ⟨14, 15, 0, 0⟩)] : List (List Word32 × Instr)),
    decodeAs (none) x.1 = some x.2 := by decide +kernel

theorem test_decode_filter_immediate : ∀ x ∈ ([
    ([0x1980F7FA], .filterLdi ⟨3, 0, 0, 63482⟩),
    ([0x25F8FEE0], .filterLih ⟨11, 15, 0, 65248⟩),
    ([0x2DF8FEE0], .filterAddi ⟨11, 15, 0, 65248⟩),
    ([0x77A8000F], .filterShl ⟨15, 5, 0, 15⟩),
    ([0x7FA8000F], .filterShr ⟨15, 5, 0, 15⟩),
    ([0x87A8000F], .filterSha ⟨15, 5, 0, 15⟩),
    ([0x95FB0007], .filterHash ⟨11, 15, 3, 7⟩),
    ([0x9FA8000F], .filterEwma ⟨15, 5, 0, 15⟩),
    ([0xA5F8FEE0], .filterTld ⟨11, 15, 0, 65248⟩),
    ([0xADF8FEE0], .filterTst ⟨11, 15, 0, 65248⟩),
    ([0xB5F8FEE0], .filterTadd ⟨11, 15, 0, 65248⟩),
    ([0xB878000D], .filterTrig ⟨0, 15, 0, 13⟩)] : List (List Word32 × Instr)),
    decodeAs (none) x.1 = some x.2 := by decide +kernel

/-! Ill-formed terms: each breaks a check of row 5 or 6 of R76, a limit of R440, or the range of an event. -/

theorem test_illformed_scalar_register : ∀ i ∈ ([
    .nop ⟨1, 0, 0, 0⟩,
    .nop ⟨0, 1, 0, 0⟩,
    .nop ⟨0, 0, 1, 0⟩,
    .nop ⟨0, 0, 0, 1⟩,
    .add ⟨29, 13, 15, 1⟩,
    .mulh ⟨29, 13, 15, 2⟩,
    .jr ⟨1, 15, 0, 0⟩,
    .jr ⟨0, 15, 1, 0⟩,
    .jr ⟨0, 15, 0, 1⟩,
    .ret ⟨1, 0, 0, 0⟩,
    .ret ⟨0, 1, 0, 0⟩,
    .ret ⟨0, 0, 1, 0⟩,
    .cnarrow ⟨16, 7, 24, 0⟩,
    .cnarrow ⟨15, 16, 24, 0⟩,
    .cnarrow ⟨15, 7, 1, 0⟩,
    .cquery ⟨14, 16, 0, 3⟩] : List Instr), i.wf = false := by decide +kernel

theorem test_illformed_scalar_immediate : ∀ i ∈ ([
    .shli ⟨29, 13, 8191, none⟩,
    .shli ⟨29, 13, 15, some 1⟩,
    .lui ⟨19, 1, 5641, some 3689463679⟩,
    .ctlrd ⟨22, 1, 3837, none⟩,
    .ctlrd ⟨22, 0, 3837, some 1⟩,
    .ctlwr ⟨1, 24, 16382, none⟩,
    .ctlwr ⟨0, 24, 16382, some 1⟩,
    .capld ⟨16, 24, 8284, none⟩,
    .capld ⟨3, 24, 1, none⟩,
    .capld ⟨3, 24, 8284, some 1⟩,
    .capldMemory ⟨16, 13, 4080, none⟩,
    .capldMemory ⟨15, 13, 8192, none⟩,
    .capst ⟨16, 13, 4080, none⟩,
    .capst ⟨15, 13, 8192, none⟩,
    .gld ⟨31, 11, 15824, some 1⟩,
    .phase ⟨1, 0, 0, none⟩,
    .phase ⟨0, 1, 0, none⟩,
    .gbar ⟨1, 0, 248, none⟩,
    .gbar ⟨0, 1, 248, none⟩,
    .idle ⟨1, 0, 15, none⟩] : List Instr), i.wf = false := by decide +kernel

theorem test_illformed_branch : ∀ i ∈ ([
    .loopr ⟨0, 0, 5641, some 3689463679⟩,
    .loopr ⟨19, 1, 5641, some 3689463679⟩] : List Instr), i.wf = false := by decide +kernel

theorem test_illformed_scalar_queue : ∀ i ∈ ([
    .qstatS ⟨31, 14, 0⟩,
    .qstatS ⟨31, 7, 1⟩,
    .qflushS ⟨1, 7, 0⟩,
    .qflushS ⟨0, 14, 0⟩,
    .qflushS ⟨0, 7, 1⟩,
    .qpopS ⟨31, 8, 1⟩,
    .qpeekS ⟨31, 8, 1⟩,
    .qpushS ⟨15, 1, 1⟩] : List Instr), i.wf = false := by decide +kernel

theorem test_illformed_vector_queue : ∀ i ∈ ([
    .qpopV ⟨1, 7, 0, 3, 0, 3⟩,
    .qpopV ⟨368, 1, 0, 3, 0, 3⟩,
    .qpushV ⟨510, 13, 1, 0, 0, 0⟩,
    .qpushV ⟨234, 1, 1, 0, 0, 0⟩,
    .qpushV ⟨234, 13, 1, 1, 0, 0⟩,
    .qpushV ⟨234, 13, 1, 0, 1, 0⟩,
    .qpushV ⟨234, 13, 1, 0, 0, 2⟩,
    .qstatV ⟨510, 11, 0, 0, 0, 0⟩,
    .qstatV ⟨125, 14, 0, 0, 0, 0⟩,
    .qstatV ⟨125, 11, 1, 0, 0, 0⟩,
    .qstatV ⟨125, 11, 0, 1, 0, 0⟩,
    .qstatV ⟨125, 11, 0, 0, 1, 0⟩,
    .qstatV ⟨125, 11, 0, 0, 0, 1⟩,
    .qflushV ⟨1, 7, 0, 0, 0, 0⟩,
    .qflushV ⟨0, 14, 0, 0, 0, 0⟩,
    .qflushV ⟨0, 7, 1, 0, 0, 0⟩,
    .qflushV ⟨0, 7, 0, 1, 0, 0⟩,
    .qflushV ⟨0, 7, 0, 0, 1, 0⟩,
    .qflushV ⟨0, 7, 0, 0, 0, 1⟩] : List Instr), i.wf = false := by decide +kernel

theorem test_illformed_vector_1 : ∀ i ∈ ([
    .vadd ⟨510, 375, 7, 1, 0, 15, 0, 6, 0, 0⟩,
    .vadd ⟨4, 510, 7, 1, 0, 15, 0, 6, 0, 0⟩,
    .vadd ⟨4, 375, 0, 1, 0, 15, 0, 6, 0, 0⟩,
    .vadd ⟨4, 375, 7, 1, 1, 15, 0, 6, 0, 0⟩,
    .vadd ⟨4, 375, 7, 1, 0, 510, 0, 6, 0, 0⟩,
    .vadd ⟨4, 375, 7, 1, 0, 15, 1, 6, 0, 0⟩,
    .vadd ⟨4, 375, 7, 1, 0, 15, 0, 8, 0, 0⟩,
    .vadd ⟨4, 375, 7, 1, 0, 15, 0, 6, 1, 0⟩,
    .vadd ⟨4, 375, 7, 1, 0, 15, 0, 6, 0, 2⟩,
    .vmulh ⟨510, 375, 7, 1, 0, 15, 0, 6, 0, 0⟩,
    .vmulh ⟨4, 510, 7, 1, 0, 15, 0, 6, 0, 0⟩,
    .vmulh ⟨4, 375, 0, 1, 0, 15, 0, 6, 0, 0⟩,
    .vmulh ⟨4, 375, 7, 1, 1, 15, 0, 6, 0, 0⟩,
    .vmulh ⟨4, 375, 7, 1, 0, 510, 0, 6, 0, 0⟩,
    .vmulh ⟨4, 375, 7, 1, 0, 15, 1, 6, 0, 0⟩,
    .vmulh ⟨4, 375, 7, 1, 0, 15, 0, 8, 0, 0⟩,
    .vmulh ⟨4, 375, 7, 1, 0, 15, 0, 6, 1, 0⟩,
    .vmulh ⟨4, 375, 7, 1, 0, 15, 0, 6, 0, 1⟩,
    .vmadd ⟨510, 232, 8, 0, 0, 351, 123, 3, 0, 1⟩,
    .vmadd ⟨2, 510, 8, 0, 0, 351, 123, 3, 0, 1⟩,
    .vmadd ⟨2, 232, 8, 0, 1, 351, 123, 3, 0, 1⟩,
    .vmadd ⟨2, 232, 8, 0, 0, 510, 123, 3, 0, 1⟩,
    .vmadd ⟨2, 232, 8, 0, 0, 351, 510, 3, 0, 1⟩,
    .vmadd ⟨2, 232, 8, 0, 0, 351, 123, 8, 0, 1⟩,
    .vmadd ⟨2, 232, 8, 0, 0, 351, 123, 3, 1, 1⟩,
    .vmadd ⟨2, 232, 8, 0, 0, 351, 123, 3, 0, 2⟩,
    .vabs ⟨510, 184, 1, 1, 0, 0, 0, 6, 0, 0⟩,
    .vabs ⟨154, 510, 1, 1, 0, 0, 0, 6, 0, 0⟩,
    .vabs ⟨154, 184, 0, 1, 0, 0, 0, 6, 0, 0⟩,
    .vabs ⟨154, 184, 1, 1, 2, 0, 0, 6, 0, 0⟩,
    .vabs ⟨154, 184, 1, 1, 0, 1, 0, 6, 0, 0⟩,
    .vabs ⟨154, 184, 1, 1, 0, 0, 1, 6, 0, 0⟩,
    .vabs ⟨154, 184, 1, 1, 0, 0, 0, 14, 0, 0⟩,
    .vabs ⟨154, 184, 1, 1, 0, 0, 0, 6, 1, 0⟩,
    .vabs ⟨154, 184, 1, 1, 0, 0, 0, 6, 0, 2⟩,
    .vshl ⟨510, 375, 7, 1, 0, 15, 0, 6, 0, 0⟩,
    .vshl ⟨4, 510, 7, 1, 0, 15, 0, 6, 0, 0⟩,
    .vshl ⟨4, 375, 0, 1, 0, 15, 0, 6, 0, 0⟩,
    .vshl ⟨4, 375, 7, 1, 1, 15, 0, 6, 0, 0⟩,
    .vshl ⟨4, 375, 7, 1, 0, 510, 0, 6, 0, 0⟩] : List Instr), i.wf = false := by decide +kernel

theorem test_illformed_vector_2 : ∀ i ∈ ([
    .vshl ⟨4, 375, 7, 1, 0, 15, 1, 6, 0, 0⟩,
    .vshl ⟨4, 375, 7, 1, 0, 15, 0, 8, 0, 0⟩,
    .vshl ⟨4, 375, 7, 1, 0, 15, 0, 6, 1, 0⟩,
    .vshl ⟨4, 375, 7, 1, 0, 15, 0, 6, 0, 1⟩,
    .vcmp ⟨255, 375, 7, 1, 0, 15, 0, 6, 0, 0⟩,
    .vcmp ⟨4, 510, 7, 1, 0, 15, 0, 6, 0, 0⟩,
    .vcmp ⟨4, 375, 0, 1, 0, 15, 0, 6, 0, 0⟩,
    .vcmp ⟨4, 375, 7, 1, 1, 15, 0, 6, 0, 0⟩,
    .vcmp ⟨4, 375, 7, 1, 0, 510, 0, 6, 0, 0⟩,
    .vcmp ⟨4, 375, 7, 1, 0, 15, 1, 6, 0, 0⟩,
    .vcmp ⟨4, 375, 7, 1, 0, 15, 0, 8, 0, 0⟩,
    .vcmp ⟨4, 375, 7, 1, 0, 15, 0, 6, 1, 0⟩,
    .vcmp ⟨4, 375, 7, 1, 0, 15, 0, 6, 0, 7⟩,
    .vfcmp ⟨255, 376, 3, 0, 0, 2, 0, 8, 0, 0⟩,
    .vsel ⟨510, 48, 8, 1, 0, 337, 11, 3, 0, 0⟩,
    .vsel ⟨379, 48, 0, 1, 0, 337, 11, 3, 0, 0⟩,
    .vfadd ⟨510, 13, 14, 1, 0, 2, 0, 9, 1, 0⟩,
    .vfma ⟨510, 376, 5, 1, 0, 10, 135, 8, 2, 0⟩,
    .vfmin ⟨510, 376, 3, 0, 0, 2, 0, 8, 0, 0⟩,
    .vcvt ⟨510, 330, 8, 0, 0, 0, 0, 12, 0, 103⟩,
    .vquant ⟨510, 288, 0, 0, 1, 112, 0, 8, 1, 5⟩,
    .vquant ⟨100, 288, 0, 1, 1, 112, 0, 8, 1, 5⟩,
    .vdeq ⟨1, 76, 13, 0, 3, 10, 0, 10, 2, 3⟩,
    .vexp2 ⟨510, 3, 15, 1, 0, 0, 0, 8, 0, 0⟩,
    .vred ⟨510, 176, 8, 1, 3, 0, 0, 0, 0, 0⟩,
    .vperm ⟨510, 375, 7, 1, 0, 15, 0, 6, 0, 0⟩,
    .vshuf ⟨510, 0, 0, 0, 0, 15, 0, 5, 0, 2⟩,
    .vshuf ⟨15, 0, 0, 1, 0, 15, 0, 5, 0, 2⟩,
    .vextr ⟨510, 15, 0, 0, 0, 88, 75, 0, 0, 0⟩,
    .vextr ⟨14, 15, 0, 1, 0, 88, 75, 0, 0, 0⟩,
    .pand ⟨255, 0, 0, 0, 0, 0, 0, 0, 0, 0⟩,
    .pand ⟨0, 0, 0, 1, 0, 0, 0, 0, 0, 0⟩,
    .pnot ⟨255, 0, 0, 0, 0, 0, 0, 0, 0, 0⟩,
    .pnot ⟨0, 0, 0, 1, 0, 0, 0, 0, 0, 0⟩,
    .ppop ⟨255, 0, 0, 0, 0, 0, 0, 0, 0, 0⟩,
    .ppop ⟨0, 0, 0, 1, 0, 0, 0, 0, 0, 0⟩,
    .accpop ⟨510, 0, 0, 0, 0, 0, 0, 10, 0, 0⟩,
    .vordk ⟨510, 184, 1, 1, 0, 0, 0, 6, 0, 0⟩,
    .vdigit ⟨510, 375, 7, 1, 0, 15, 0, 6, 0, 0⟩,
    .vcnt ⟨510, 184, 1, 1, 0, 0, 0, 6, 0, 0⟩] : List Instr), i.wf = false := by decide +kernel

theorem test_illformed_vector_3 : ∀ i ∈ ([
    .vnwatch ⟨1, 200, 0, 0, 1, 0, 1, 8, 0, 0⟩,
    .dnorm ⟨1, 0, 11, 0, 3, 0, 0, 8, 0, 0⟩,
    .dexp ⟨510, 3, 15, 1, 0, 0, 0, 8, 0, 0⟩,
    .dexpRaw ⟨1, 0, 0, 0, 1, 0, 0, 1, 0, 1⟩,
    .ddot ⟨255, 8, 0, 0, 1, 8, 0, 10, 0, 0⟩,
    .ddotm ⟨510, 8, 0, 0, 0, 0, 7, 10, 0, 0⟩,
    .dscale ⟨255, 15, 0, 0, 0, 88, 75, 0, 0, 0⟩,
    .dscaleAdd ⟨255, 1, 0, 0, 0, 0, 0, 0, 0, 1⟩,
    .dscaleSub ⟨255, 0, 0, 0, 0, 12, 0, 0, 0, 2⟩,
    .dset ⟨1, 330, 0, 0, 1, 1, 0, 0, 0, 0⟩,
    .dadd ⟨255, 1, 0, 0, 0, 0, 0, 0, 0, 1⟩,
    .dneg ⟨255, 0, 0, 0, 0, 0, 0, 0, 0, 0⟩,
    .dzero ⟨255, 0, 0, 0, 0, 0, 0, 0, 0, 0⟩,
    .dnormq ⟨255, 0, 0, 0, 0, 0, 0, 0, 0, 0⟩,
    .dnormqDev ⟨255, 1, 0, 0, 0, 0, 0, 0, 0, 1⟩] : List Instr), i.wf = false := by decide +kernel

theorem test_illformed_broadcast : ∀ i ∈ ([
    .vbcast ⟨1, 0, 13, 0, 3, 176718, 4, 0, 0⟩,
    .vbcast ⟨240, 1, 13, 0, 3, 176718, 4, 0, 0⟩,
    .vbcast ⟨240, 0, 13, 0, 3, 176718, 14, 0, 0⟩,
    .vbcast ⟨240, 0, 13, 0, 3, 176718, 4, 1, 0⟩,
    .vbcast ⟨240, 0, 13, 0, 3, 176718, 4, 0, 1⟩,
    .vbcastLane ⟨510, 243, 3, 0, 0, 0, 9, 0, 1⟩,
    .vbcastLane ⟨15, 510, 3, 0, 0, 0, 9, 0, 1⟩,
    .vbcastLane ⟨15, 243, 3, 0, 1, 0, 9, 0, 1⟩,
    .vbcastLane ⟨15, 243, 3, 0, 0, 131071, 9, 0, 1⟩,
    .vbcastLane ⟨15, 243, 3, 0, 0, 0, 14, 0, 1⟩,
    .vbcastLane ⟨15, 243, 3, 0, 0, 0, 9, 1, 1⟩,
    .vbcastLane ⟨15, 243, 3, 0, 0, 0, 9, 0, 2⟩] : List Instr), i.wf = false := by decide +kernel

theorem test_illformed_vector_memory : ∀ i ∈ ([
    .vld ⟨510, 0, 0, 0, 0, 10, 0, 3064, 0, 0⟩,
    .vld ⟨2, 1, 0, 0, 0, 10, 0, 3064, 0, 0⟩,
    .vld ⟨2, 0, 1, 0, 0, 10, 0, 3064, 0, 0⟩,
    .vld ⟨2, 0, 0, 1, 0, 10, 0, 3064, 0, 0⟩,
    .vld ⟨2, 0, 0, 0, 2, 10, 0, 3064, 0, 0⟩,
    .vld ⟨2, 0, 0, 0, 0, 10, 1, 3064, 0, 0⟩,
    .vld ⟨2, 0, 0, 0, 0, 10, 0, 3064, 1, 0⟩,
    .vld ⟨2, 0, 0, 0, 0, 10, 0, 3064, 0, 1⟩,
    .vlds ⟨1, 0, 3, 1, 1, 16, 31, 4008, 11, 0⟩,
    .vlds ⟨296, 1, 3, 1, 1, 16, 31, 4008, 11, 0⟩,
    .vlds ⟨296, 0, 0, 1, 1, 16, 31, 4008, 11, 0⟩,
    .vlds ⟨296, 0, 3, 1, 1, 16, 31, 4008, 14, 0⟩,
    .vlds ⟨296, 0, 3, 1, 1, 16, 31, 4008, 11, 1⟩,
    .vgath ⟨510, 6, 11, 0, 0, 25, 0, 1270, 12, 0⟩,
    .vgath ⟨78, 510, 11, 0, 0, 25, 0, 1270, 12, 0⟩,
    .vgath ⟨78, 6, 11, 0, 2, 25, 0, 1270, 12, 0⟩,
    .vgath ⟨78, 6, 11, 0, 0, 25, 1, 1270, 12, 0⟩,
    .vgath ⟨78, 6, 11, 0, 0, 25, 0, 1270, 14, 0⟩,
    .vgath ⟨78, 6, 11, 0, 0, 25, 0, 1270, 12, 1⟩] : List Instr), i.wf = false := by decide +kernel

theorem test_illformed_engine_1 : ∀ i ∈ ([
    .bmodeCompute ⟨1, 0, 0, 0, 0, 0, 0, 8, 1⟩,
    .bmodeCompute ⟨0, 1, 0, 0, 0, 0, 0, 8, 1⟩,
    .bmodeCompute ⟨0, 0, 1, 0, 0, 0, 0, 8, 1⟩,
    .bmodeCompute ⟨0, 0, 0, 1, 0, 0, 0, 8, 1⟩,
    .bmodeCompute ⟨0, 0, 0, 0, 1, 0, 0, 8, 1⟩,
    .bmodeCompute ⟨0, 0, 0, 0, 0, 1, 0, 8, 1⟩,
    .bmodeCompute ⟨0, 0, 0, 0, 0, 0, 1, 8, 1⟩,
    .bmodeCompute ⟨0, 0, 0, 0, 0, 0, 0, 8, 2⟩,
    .bmodeScratch ⟨1, 0, 0, 0, 0, 0, 0, 32769, 0⟩,
    .bmodeScratch ⟨0, 1, 0, 0, 0, 0, 0, 32769, 0⟩,
    .bmodeScratch ⟨0, 0, 1, 0, 0, 0, 0, 32769, 0⟩,
    .bmodeScratch ⟨0, 0, 0, 1, 0, 0, 0, 32769, 0⟩,
    .bmodeScratch ⟨0, 0, 0, 0, 1, 0, 0, 32769, 0⟩,
    .bmodeScratch ⟨0, 0, 0, 0, 0, 1, 0, 32769, 0⟩,
    .bmodeScratch ⟨0, 0, 0, 0, 0, 0, 1, 32769, 0⟩,
    .bmodeScratch ⟨0, 0, 0, 0, 0, 0, 0, 32769, 1⟩,
    .bplane ⟨8, 3, 1, 0, 0, 0, 0, 0, 2⟩,
    .bplane ⟨8, 3, 0, 1, 0, 0, 0, 0, 2⟩,
    .bplane ⟨8, 3, 0, 0, 1, 0, 0, 0, 2⟩,
    .bplane ⟨8, 3, 0, 0, 0, 1, 0, 0, 2⟩,
    .bplane ⟨8, 3, 0, 0, 0, 0, 1, 0, 2⟩,
    .bplane ⟨8, 3, 0, 0, 0, 0, 0, 1, 2⟩,
    .bplane ⟨8, 3, 0, 0, 0, 0, 0, 0, 127⟩,
    .bload ⟨3, 3, 1, 0, 8, 0, 0, 22365, 0⟩,
    .bload ⟨3, 3, 0, 1, 8, 0, 0, 22365, 0⟩,
    .bload ⟨3, 3, 0, 0, 8, 1, 0, 22365, 0⟩,
    .bload ⟨3, 3, 0, 0, 8, 0, 1, 22365, 0⟩,
    .bload ⟨3, 3, 0, 0, 8, 0, 0, 22365, 127⟩,
    .bprec ⟨8, 3, 1, 0, 0, 0, 0, 0, 2⟩,
    .bprec ⟨8, 3, 0, 0, 1, 0, 0, 0, 2⟩,
    .bprec ⟨8, 3, 0, 0, 0, 0, 0, 1, 2⟩,
    .bsparse ⟨0, 3, 1, 0, 0, 0, 0, 34512, 2⟩,
    .bsparseDense ⟨0, 1, 1, 0, 0, 0, 0, 0, 0⟩,
    .bsparseDense ⟨0, 1, 0, 0, 0, 0, 0, 1, 0⟩,
    .boutl ⟨3, 0, 1, 0, 9, 15, 0, 0, 0⟩,
    .boutl ⟨3, 0, 0, 0, 9, 15, 0, 1, 0⟩,
    .btag ⟨1, 0, 0, 0, 0, 29, 0, 32104, 5⟩,
    .btag ⟨0, 1, 0, 0, 0, 29, 0, 32104, 5⟩,
    .brun ⟨1, 0, 11, 27, 2, 24, 2, 31677, 145⟩,
    .brun ⟨0, 1, 11, 27, 2, 24, 2, 31677, 145⟩] : List Instr), i.wf = false := by decide +kernel

theorem test_illformed_engine_2 : ∀ i ∈ ([
    .bstat ⟨9, 1, 0, 0, 0, 0, 0, 0, 0⟩,
    .bclr ⟨0, 1, 1, 0, 0, 0, 0, 0, 0⟩,
    .bclrAll ⟨5, 3, 1, 0, 0, 0, 0, 0, 1⟩,
    .bdir ⟨8, 2, 1, 0, 0, 0, 0, 2, 13⟩,
    .bzero ⟨0, 1, 1, 0, 0, 0, 0, 0, 0⟩,
    .accalloc ⟨1, 0, 0, 0, 9, 0, 0, 44592, 0⟩,
    .accfree ⟨1, 0, 0, 0, 0, 0, 0, 4, 0⟩,
    .accband ⟨1, 0, 11, 24, 0, 0, 98, 0, 0⟩,
    .accbandLocal ⟨1, 0, 6, 15, 0, 0, 0, 0, 1⟩,
    .accnorm ⟨1, 0, 4, 14, 0, 0, 0, 3, 0⟩,
    .accclr ⟨1, 0, 4, 25, 2, 0, 0, 7, 0⟩,
    .accrd ⟨1, 0, 0, 2, 0, 0, 0, 0, 0⟩,
    .accrdRemote ⟨1, 0, 6, 15, 0, 0, 0, 0, 1⟩,
    .accexp ⟨1, 0, 0, 3, 10, 0, 0, 61689, 1⟩,
    .accexpRemote ⟨1, 0, 8, 16, 25, 24, 2, 63480, 5⟩,
    .acchead ⟨1, 0, 0, 2, 0, 0, 0, 0, 0⟩,
    .accexport ⟨1, 0, 11, 24, 0, 0, 98, 0, 0⟩] : List Instr), i.wf = false := by decide +kernel

theorem test_illformed_copy_1 : ∀ i ∈ ([
    .cpset ⟨0, 5, 1, 0, 0, 0, 0, 0, 0, 11163, 0⟩,
    .cpset ⟨0, 5, 0, 1, 0, 0, 0, 0, 0, 11163, 0⟩,
    .cpset ⟨0, 5, 0, 0, 1, 0, 0, 0, 0, 11163, 0⟩,
    .cpset ⟨0, 5, 0, 0, 0, 1, 0, 0, 0, 11163, 0⟩,
    .cpset ⟨0, 5, 0, 0, 0, 0, 1, 0, 0, 11163, 0⟩,
    .cpset ⟨0, 5, 0, 0, 0, 0, 0, 1, 0, 11163, 0⟩,
    .cpset ⟨0, 5, 0, 0, 0, 0, 0, 0, 1, 11163, 0⟩,
    .cpset ⟨0, 5, 0, 0, 0, 0, 0, 0, 0, 11163, 1⟩,
    .cpgo ⟨7, 28, 11, 3, 10, 1, 1, 0, 1, 0, 0⟩,
    .cpgo ⟨7, 28, 11, 3, 10, 1, 1, 0, 0, 1, 0⟩,
    .cpgo ⟨7, 28, 11, 3, 10, 1, 1, 0, 0, 0, 1⟩,
    .cpwait ⟨1, 0, 0, 0, 0, 0, 0, 0, 0, 13, 0⟩,
    .cpwait ⟨0, 1, 0, 0, 0, 0, 0, 0, 0, 13, 0⟩,
    .cpwait ⟨0, 0, 1, 0, 0, 0, 0, 0, 0, 13, 0⟩,
    .cpwait ⟨0, 0, 0, 1, 0, 0, 0, 0, 0, 13, 0⟩,
    .cpwait ⟨0, 0, 0, 0, 1, 0, 0, 0, 0, 13, 0⟩,
    .cpwait ⟨0, 0, 0, 0, 0, 1, 0, 0, 0, 13, 0⟩,
    .cpwait ⟨0, 0, 0, 0, 0, 0, 1, 0, 0, 13, 0⟩,
    .cpwait ⟨0, 0, 0, 0, 0, 0, 0, 1, 0, 13, 0⟩,
    .cpwait ⟨0, 0, 0, 0, 0, 0, 0, 0, 1, 13, 0⟩,
    .cpwait ⟨0, 0, 0, 0, 0, 0, 0, 0, 0, 32767, 0⟩,
    .cpwait ⟨0, 0, 0, 0, 0, 0, 0, 0, 0, 13, 1⟩,
    .cpmark ⟨0, 1, 0, 0, 0, 0, 0, 0, 0, 13, 0⟩,
    .cpmark ⟨0, 0, 1, 0, 0, 0, 0, 0, 0, 13, 0⟩,
    .cpmark ⟨0, 0, 0, 1, 0, 0, 0, 0, 0, 13, 0⟩,
    .cpmark ⟨0, 0, 0, 0, 1, 0, 0, 0, 0, 13, 0⟩,
    .cpmark ⟨0, 0, 0, 0, 0, 1, 0, 0, 0, 13, 0⟩,
    .cpmark ⟨0, 0, 0, 0, 0, 0, 1, 0, 0, 13, 0⟩,
    .cpmark ⟨0, 0, 0, 0, 0, 0, 0, 1, 0, 13, 0⟩,
    .cpmark ⟨0, 0, 0, 0, 0, 0, 0, 0, 1, 13, 0⟩,
    .cpmark ⟨0, 0, 0, 0, 0, 0, 0, 0, 0, 13, 1⟩,
    .cpfollow ⟨6, 1, 0, 0, 0, 0, 0, 0, 0, 0, 0⟩,
    .cpfollow ⟨6, 0, 1, 0, 0, 0, 0, 0, 0, 0, 0⟩,
    .cpfollow ⟨6, 0, 0, 1, 0, 0, 0, 0, 0, 0, 0⟩,
    .cpfollow ⟨6, 0, 0, 0, 1, 0, 0, 0, 0, 0, 0⟩,
    .cpfollow ⟨6, 0, 0, 0, 0, 1, 0, 0, 0, 0, 0⟩,
    .cpfollow ⟨6, 0, 0, 0, 0, 0, 1, 0, 0, 0, 0⟩,
    .cpfollow ⟨6, 0, 0, 0, 0, 0, 0, 1, 0, 0, 0⟩,
    .cpfollow ⟨6, 0, 0, 0, 0, 0, 0, 0, 0, 1, 0⟩,
    .cpmcast ⟨3, 13, 13, 13, 1, 1, 1, 3, 208, 0, 0⟩] : List Instr), i.wf = false := by decide +kernel

theorem test_illformed_copy_2 : ∀ i ∈ ([
    .cpmcast ⟨3, 13, 13, 13, 0, 1, 1, 3, 208, 1, 0⟩,
    .cpmcastMsg ⟨3, 27, 1, 0, 0, 1, 0, 0, 4, 0, 1⟩,
    .cpfill ⟨0, 24, 15, 1, 0, 0, 1, 3, 0, 0, 0⟩,
    .cpshell ⟨6, 7, 1, 3, 0, 0, 1, 0, 0, 0, 0⟩,
    .cpacc ⟨7, 3, 2, 1, 1, 1, 0, 3, 0, 0, 2⟩,
    .cpaccOne ⟨7, 8, 0, 1, 10, 0, 1, 0, 0, 0, 10⟩,
    .memrowCopy ⟨2, 3, 14, 0, 7, 1, 1, 3, 1, 18429, 0⟩,
    .memrowZero ⟨6, 1, 22, 0, 4, 1, 1, 0, 0, 65480, 1⟩,
    .ewalk ⟨3, 22, 11, 7, 1, 1, 0, 0, 47, 1, 0⟩,
    .cpexportRead ⟨1, 10, 3, 0, 0, 0, 0, 0, 90, 0, 0⟩,
    .cpexportCarry ⟨1, 9, 10, 0, 0, 0, 0, 0, 3, 0, 1⟩,
    .cpexportReceive ⟨1, 9, 10, 0, 0, 0, 0, 0, 3, 0, 2⟩,
    .cpcoll ⟨1, 10, 1, 11, 3, 1, 0, 3, 247, 0, 0⟩,
    .carry ⟨1, 5, 0, 0, 0, 0, 0, 0, 0, 11163, 0⟩,
    .carryRemote ⟨1, 16, 20, 0, 0, 0, 0, 0, 208, 16063, 14⟩,
    .carryw ⟨1, 5, 0, 0, 0, 0, 0, 0, 0, 11163, 0⟩,
    .carryst ⟨1, 0, 0, 0, 0, 0, 0, 0, 0, 0, 0⟩] : List Instr), i.wf = false := by decide +kernel

theorem test_illformed_filter : ∀ i ∈ ([
    .filterExit ⟨1, 0, 0, 0⟩,
    .filterExit ⟨0, 1, 0, 0⟩,
    .filterExit ⟨0, 0, 1, 0⟩,
    .filterExit ⟨0, 0, 0, 1⟩,
    .filterBr ⟨7, 15, 15, 7⟩,
    .filterBr ⟨5, 15, 15, 16383⟩,
    .filterLde ⟨15, 1, 0, 7⟩,
    .filterLde ⟨15, 0, 1, 7⟩,
    .filterLde ⟨15, 0, 0, 16383⟩,
    .filterAdd ⟨13, 13, 15, 1⟩,
    .filterLog2 ⟨14, 15, 1, 0⟩] : List Instr), i.wf = false := by decide +kernel

theorem test_illformed_filter_immediate : ∀ i ∈ ([
    .filterLdi ⟨3, 1, 0, 63482⟩,
    .filterLdi ⟨3, 0, 1, 63482⟩,
    .filterLih ⟨11, 15, 1, 65248⟩,
    .filterShl ⟨15, 5, 1, 15⟩,
    .filterShl ⟨15, 5, 0, 32767⟩,
    .filterHash ⟨11, 15, 5, 7⟩,
    .filterHash ⟨11, 15, 3, 32767⟩,
    .filterEwma ⟨15, 5, 1, 15⟩,
    .filterEwma ⟨15, 5, 0, 32767⟩,
    .filterTrig ⟨1, 15, 0, 13⟩,
    .filterTrig ⟨0, 15, 0, 32767⟩] : List Instr), i.wf = false := by decide +kernel

theorem test_illformed_events : ∀ i ∈ ([.vfmapWrite 512 0, .hostAtomic 0 .swap 2 0 0, .hostAtomic 0 .swap 12 0 0] : List Instr),
    i.wf = false := by decide +kernel

/-! The hypotheses of the obligations, met. -/

/-- A well-formed instruction for the round trip of the encoder. -/
theorem witness_DecodeInvertsEncode :
    Instr.WellFormed (.add { sd := 3, sa := 1, sb := 2, fn := 0 }) ∧
    encode (.add { sd := 3, sa := 1, sb := 2, fn := 0 }) = some [0x02184400] ∧
    (Instr.add { sd := 3, sa := 1, sb := 2, fn := 0 }).slotClass.isSome = true ∧
    Instr.WellFormed (.filterLdi { fd := 2, fa := 0, sub := 0, imm := 0x1FF }) ∧
    Instr.filterLdi { fd := 2, fa := 0, sub := 0, imm := 0x1FF } ∈
      [Instr.filterAdd { fd := 2, fa := 0, fb := 0, sub := 0 }, .filterLdi { fd := 2, fa := 0, sub := 0, imm := 0x1FF }] := by
  decide +kernel

namespace Scalars

def tBank0 : State := withCore fun c => c.setBank 0 { mode := true }
def tBreak : State := withCore fun c => { c with seq := { c.seq with brkHalt := true } }
def fC (n : Nat) (sa : Nat) : SRI := ⟨9, BitVec.ofNat 5 sa, BitVec.ofNat 14 n, none⟩
def aA0 : Word := 0x0000000000000005#64
def aA12 : Word := 0x0000000000100000#64
def xA41 : SlotAccess := { write := false, align := true, pieces := [(1052680, 1)] }
def xA43 : SlotAccess := { write := false, align := true, pieces := [(1052680, 2)] }
def xA45 : SlotAccess := { write := false, align := true, pieces := [(1052680, 4)] }
def xA47 : SlotAccess := { write := false, align := true, pieces := [(1052680, 8)] }
def vA49 : Word := 0x0000000000000000#64
def xA50 : SlotAccess := { write := true, align := true, pieces := [(1052680, 1)] }
def xA51 : SlotAccess := { write := true, align := true, pieces := [(1052680, 2)] }
def xA52 : SlotAccess := { write := true, align := true, pieces := [(1052680, 4)] }
def xA53 : SlotAccess := { write := true, align := true, pieces := [(1052680, 8)] }
def dA69 : Core := tState.hereCore.drainAll tState.now
def dA71 : Core := tBreak.hereCore.drainAll tBreak.now
def iA81 : CtlInfo := (ctlInfo 0).get (by decide +kernel)
def iA84 : CtlInfo := (ctlInfo 96).get (by decide +kernel)
def iA87 : CtlInfo := (ctlInfo 22).get (by decide +kernel)
def iA90 : CtlInfo := (ctlInfo 124).get (by decide +kernel)
def iA93 : CtlInfo := (ctlInfo 100).get (by decide +kernel)
def iA99 : CtlInfo := (ctlInfo 48).get (by decide +kernel)
def iA129 : CtlInfo := (ctlInfo 129).get (by decide +kernel)
def iA99b : CtlInfo := (ctlInfo 99).get (by decide +kernel)
def iA135 : CtlInfo := { rw := 18446744073709551615, w1c := 0, rc := 0, all := 18446744073709551615, svc := false }

/-- A trace of n records in a mapped buffer, and the state that the trace record of a trap leaves. -/
def tTraced (n : Nat) (base : Nat) : State := { tState with
  parts := [(0, { tPart with tcen := true, trbase := base, trlen := n })], units := [(0, { cache := [(0, tPage)] })] }
def recA (s : State) (cause : Nat) (det : Word) : Option MemErr × State :=
  let c := s.hereCore
  let d := s.drained
  let x := s.part d.part
  let w := s.changesHere fun _ => (d.trapRegs { cause := cause, det := det, slot := s.focus.slot } none c.seq.pc
    c.seq.rem c.seq.idx c.scycle).trapEvent s.now
  w.writeVirtual (podOf s.focus.core) d.part (x.trbase + 32 * x.trnext) (leBytes 32 ((if cause = 0x1A then 2 else 1) +
    d.num * 2 ^ 4 + d.lcore * 2 ^ 16 + d.pidx * 2 ^ 48 + c.seq.pc.toNat * 2 ^ 64 + d.scycle * 2 ^ 128 + det.toNat * 2 ^ 192)) .pass
def tOut : State := tTraced 4 0x2000001000
def tBadTrace : State := tTraced 4 0x7FFFFFF000

theorem witness_ScalarResults :
    tState.onACore ∧ 0 ≤ (5 : Int) ∧ (5 : Int) < 64 := by
  and_intros <;> decide +kernel

theorem witness_DivisionRoundsTowardsZero :
    tState.onACore := by decide +kernel

theorem witness_ControlFlowGoesToItsTarget :
    tState.onACore ∧ tState.hereCore.plainEnd := by
  and_intros <;> decide +kernel

theorem witness_LocalLoadsAndStores :
    (tState.onACore ∧ tState.hereCore.accessOpen tState.here xA41) ∧
    (tState.onACore ∧ tState.hereCore.accessOpen tState.here xA43) ∧
    (tState.onACore ∧ tState.hereCore.accessOpen tState.here xA45) ∧
    (tState.onACore ∧ tState.hereCore.accessOpen tState.here xA47) ∧
    (tState.onACore ∧ tState.hereCore.accessOpen tState.here xA50) ∧
    (tState.onACore ∧ tState.hereCore.accessOpen tState.here xA51) ∧
    (tState.onACore ∧ tState.hereCore.accessOpen tState.here xA52) ∧
    (tState.onACore ∧ tState.hereCore.accessOpen tState.here xA53) ∧
    0 < [1#8, 2#8].length ∧
    (0 < 1048576 ∨ 1048576 + [1#8, 2#8].length ≤ 0) ∧
    (1048576 ≤ 1048577 ∧ 1048577 < 1048576 + [1#8, 2#8].length) ∧
    (0 / 256 * 256 + 256 ≤ 1048576 ∨ 1048576 + [1#8, 2#8].length ≤ 0 / 256 * 256) := by
  and_intros <;> decide +kernel

theorem witness_LocalAccessTraps :
    (tState.onACore ∧ 0 ≤ (1052675 : Int) ∧ (1052675 : Int) + ↑2 - 1 ≤ 1310719 ∧ (1052675 : Int) % ↑2 ≠ 0) ∧
    (tState.onACore ∧ 0 ≤ (1052675 : Int) ∧ (1052675 : Int) + ↑4 - 1 ≤ 1310719 ∧ (1052675 : Int) % ↑4 ≠ 0) ∧
    (tState.onACore ∧ 0 ≤ (1052675 : Int) ∧ (1052675 : Int) + ↑8 - 1 ≤ 1310719 ∧ (1052675 : Int) % ↑8 ≠ 0) ∧
    (tState.onACore ∧ ((18446744073709551613 : Int) < 0 ∨ 1310719 < (18446744073709551613 : Int) + ↑1 - 1)) ∧
    (tState.onACore ∧ ((18446744073709551613 : Int) < 0 ∨ 1310719 < (18446744073709551613 : Int) + ↑2 - 1)) ∧
    (tState.onACore ∧ ((18446744073709551613 : Int) < 0 ∨ 1310719 < (18446744073709551613 : Int) + ↑4 - 1)) ∧
    (tState.onACore ∧ ((18446744073709551613 : Int) < 0 ∨ 1310719 < (18446744073709551613 : Int) + ↑8 - 1)) ∧
    (tBank0.onACore ∧ 0 ≤ (8 : Int) ∧ (8 : Int) < 1048576 ∧ (8 : Int) % ↑1 = 0 ∧
     (tBank0.hereCore.bank ((8 : Int).toNat / 65536)).mode = true) ∧
    (tBank0.onACore ∧ 0 ≤ (8 : Int) ∧ (8 : Int) < 1048576 ∧ (8 : Int) % ↑2 = 0 ∧
     (tBank0.hereCore.bank ((8 : Int).toNat / 65536)).mode = true) ∧
    (tBank0.onACore ∧ 0 ≤ (8 : Int) ∧ (8 : Int) < 1048576 ∧ (8 : Int) % ↑4 = 0 ∧
     (tBank0.hereCore.bank ((8 : Int).toNat / 65536)).mode = true) ∧
    (tBank0.onACore ∧ 0 ≤ (8 : Int) ∧ (8 : Int) < 1048576 ∧ (8 : Int) % ↑8 = 0 ∧
     (tBank0.hereCore.bank ((8 : Int).toNat / 65536)).mode = true) := by
  and_intros <;> decide +kernel

theorem witness_TakingATrapEntersServiceCode :
    (tState.onACore ∧ 2 ≠ 7 ∧ 2 ≠ 81 ∧ 2 < 256 ∧ tState.focus.slot < 8 ∧ tState.drained.ctlOf 135 ≠ 0#64 ∧
     tState.drained.svc = false ∧ (0 < 128 ∨ 136 < 0)) ∧
    (tState.onACore ∧ 2 ≠ 7 ∧ 2 ≠ 81 ∧ 2 < 256 ∧ tState.focus.slot < 8 ∧ tState.drained.ctlOf 135 ≠ 0#64 ∧
     tState.drained.svc = false ∧ 1 ≠ tState.focus.core ∧ (tState.part tState.drained.part).trlen = 0) ∧
    (tOut.onACore ∧ 2 ≠ 7 ∧ 2 ≠ 81 ∧ 2 < 256 ∧ tOut.focus.slot < 8 ∧ tOut.drained.ctlOf 135 ≠ 0#64 ∧
     tOut.drained.svc = false ∧ (tOut.part tOut.drained.part).trlen ≠ 0 ∧ recA tOut 2 5 = (none, (recA tOut 2 5).2)) ∧
    (tBadTrace.onACore ∧ 26 ≠ 7 ∧ 26 ≠ 81 ∧ 26 < 256 ∧ tBadTrace.focus.slot < 8 ∧ tBadTrace.drained.ctlOf 135 ≠ 0#64 ∧
     tBadTrace.drained.svc = false ∧ (tBadTrace.part tBadTrace.drained.part).trlen ≠ 0 ∧
     recA tBadTrace 26 5 = (some ((recA tBadTrace 26 5).1.get (by decide +kernel)), (recA tBadTrace 26 5).2)) := by
  and_intros <;> decide +kernel

theorem witness_AbortsAndPhaseEnds :
    (tState.onACore ∧ (7 = 7 ∨ 7 = 81 ∨ tState.drained.ctlOf 135 = 0#64 ∨ tState.drained.svc = true) ∧ 7 < 256 ∧
     0 ∈ tState.participants tState.drained.part) ∧
    (tState.onACore ∧ tState.hereCore.plainEnd ∧ tState.hereCore.svc = false) ∧
    (tService.onACore ∧ tService.hereCore.plainEnd ∧ tService.hereCore.svc = true) := by
  and_intros <;> decide +kernel

theorem witness_TrapInstructionsAndTret :
    (tState.onACore ∧ tState.hereCore.plainEnd ∧ dA69.ctlOf 135 ≠ 0#64 ∧ dA69.svc = false ∧
     tState.hereCore.seq.brkHalt = false) ∧
    (tBreak.onACore ∧ tBreak.hereCore.plainEnd ∧ dA71.ctlOf 135 ≠ 0#64 ∧ dA71.svc = false ∧
     tBreak.hereCore.seq.brkHalt = true ∧ tBreak.hereCore.seq.halted = false) ∧
    (tState.onACore ∧ tState.hereCore.svc = false) ∧
    (tReturn.onACore ∧ tReturn.hereCore.svc = true ∧ tReturn.hereCore.plainEnd ∧ tReturn.hereCore.seq.pending = []) := by
  and_intros <;> decide +kernel

theorem witness_ControlRegisterAccesses :
    (tState.onACore ∧ ctlInfo 0 = some iA81 ∧
     (iA81.rw = 0 ∧ iA81.w1c = 0 ∨ iA81.svc = true ∧ tState.hereCore.svc = false ∨ BitVec.toNat aA12 &&& iA81.all ≠ BitVec.toNat aA12)) ∧
    (tState.onACore ∧ ctlInfo 96 = some iA84 ∧ ¬(iA84.rw = 0 ∧ iA84.w1c = 0) ∧
     (iA84.svc = true → tState.hereCore.svc = true) ∧ BitVec.toNat aA0 &&& iA84.all = BitVec.toNat aA0) ∧
    (tState.onACore ∧ ctlInfo 48 = some iA99 ∧ ¬(iA99.rw = 0 ∧ iA99.w1c = 0) ∧
     (iA99.svc = true → tState.hereCore.svc = true) ∧ BitVec.toNat vA49 &&& iA99.all = BitVec.toNat vA49 ∧
     (48 < 96 ∨ 99 < 48) ∧ 48 ≠ 129) ∧
    (tService.onACore ∧ ctlInfo 129 = some iA129 ∧ ¬(iA129.rw = 0 ∧ iA129.w1c = 0) ∧
     (iA129.svc = true → tService.hereCore.svc = true) ∧ BitVec.toNat vA49 &&& iA129.all = BitVec.toNat vA49 ∧ 129 = 0x081) ∧
    (tState.onACore ∧ ctlInfo 99 = some iA99b ∧ ¬(iA99b.rw = 0 ∧ iA99b.w1c = 0) ∧
     (iA99b.svc = true → tState.hereCore.svc = true) ∧ BitVec.toNat aA0 &&& iA99b.all = BitVec.toNat aA0 ∧
     0x060 ≤ 99 ∧ 99 ≤ 0x063) ∧
    (tState.onACore ∧ ctlInfo 1792 = none) ∧
    (tState.onACore ∧ ctlInfo 0 = some iA81 ∧ iA81.rc = 0 ∧ 0 ≠ 100) ∧
    (tState.onACore ∧ ctlInfo 0 = some iA81 ∧ 0 ≠ 22) ∧
    (tState.onACore ∧ ctlInfo 22 = some iA87 ∧ iA87.rc ≠ 0 ∧ 22 ≠ 124) ∧
    (tState.onACore ∧ ctlInfo 124 = some iA90 ∧ 124 = 124) ∧
    (tState.onACore ∧ ctlInfo 100 = some iA93 ∧ 100 = 100) := by
  and_intros <;> decide +kernel

theorem witness_ControlAccessesComplete :
    (tState.onACore ∧ (ctlInfo (fC 0 1).imm.toNat).isSome = true) ∧
    (tState.onACore ∧ (ctlInfo (fC 96 2).imm.toNat).isSome = true ∧ (iA135.rw ≠ 0 ∨ iA135.w1c ≠ 0) ∧
     (iA135.svc = true → tState.hereCore.svc = true) ∧ BitVec.toNat aA0 &&& iA135.all = BitVec.toNat aA0) := by
  and_intros <;> decide +kernel

end Scalars

namespace Accesses

def gR (sa sb fn : Nat) : SRRR := ⟨9, BitVec.ofNat 5 sa, BitVec.ofNat 5 sb, BitVec.ofNat 9 fn⟩
def wN (o m : Word) (tag : Bool) : State := withCore fun c => { c with regs := { c.regs with s := [(10, o), (11, m)], c := [(1, { tCap with tag := tag })] } }
def tGrant : State := withPart fun p => { p with tt := some { tTable with caps := tTable.caps ++ [{ cap := { tCap with base := 0x2000008000, length := 16 }, used := true, holders := 2, wg := true, wcore := 1 }] } }
def fG : SRI := ⟨9, 6, 0x408, none⟩
def fGc : SRI := ⟨1, 6, 0x200, none⟩
def tQ (l : List Word) (q : Nat) : State := withCore fun c => { c with q := { c.q with recs := Tab.store [] q l } }
def tDraws (n : Nat) : State := withCore fun c => { c with q := { c.q with draws := (List.range n).map (BitVec.ofNat 16), aside := [7] } }
def fQ (q nf : Nat) : SQ := ⟨9, BitVec.ofNat 4 q, BitVec.ofNat 1 nf⟩
def gQ (q nf : Nat) : VQ := ⟨40, BitVec.ofNat 4 q, BitVec.ofNat 1 nf, 0, 0, 0⟩
def tFull : State := withCore fun c => { c with q := { c.q with scales := [(8, List.replicate 2048 (1, 0)), (9, List.replicate 2048 (1, 0))], streams := [(12, List.replicate 64 0)] } }
def tUse : State := withCore fun c => { c with eng := { c.eng with mq := [{ id := 0, bundle := 0, scyc := 0, at_ := 0, work := .pass { onto := false, banks := [], ab := 0, ar := 0, count := 1, addr := 0, remote := none, grp := 0, planar := false, half := 0, tag := 0, afmt := 0, planes := 8, storage := 0 }, uses := [] }] } }
def xB4 : Cap := tState.hereCore.cap (gR 1 10 0).sa.toNat
def xB40 : Cap := (wN (16#64) (32#64) false).hereCore.cap (gR 1 10 0).sa.toNat
def xB58 : Cap := (wN (16#64) (2#64 ^ 48 - 1#64) true).hereCore.cap (gR 1 10 0).sa.toNat
def eB93 : CapEntry := (tState.ttOf tState.hereCore).caps.getD 0 {}
def eB95 : CapEntry := (tState.ttOf tState.hereCore).caps.getD 1 {}
def xB112 : Cap := { tCap with tag := false }
def xB113 : Cap := { tCap with type := 1 }
def eB114 : CapEntry := (tGrant.ttOf tCore).caps.getD tCap.entry.toNat {}
def eB174 : CapEntry := (tGrant.ttOf tCore).caps.getD xB113.entry.toNat {}
def sB204 : State := tOpen { tCap with type := 0 }
def sB205 : State := tOpen { tCap with type := 1 }
def xB206 : DevAccess := sB204.hereCore.seq.access.get (by decide +kernel)
def xB227 : DevAccess := sB205.hereCore.seq.access.get (by decide +kernel)
def yB254 : Cap := sB204.hereCore.cap fG.sd.toNat
def yB294 : Cap := sB205.hereCore.cap fGc.sd.toNat
def tAlone : State := tState
def uB315 : State := tState.arrive tState.focus.core 1
def lB330 : List (BitVec 16) := (tDraws 130).hereCore.drawsSeen.take 128
def rB331 : List (BitVec 16) := (tDraws 130).hereCore.drawsSeen.drop 128
def vB334 : Word := 0x0000000000000005#64
def rB335 : List Word := [0x0000000000000006#64]
def aB470 : BitVec 16 := 0x0000#16
def aB480 : BitVec 16 := 0x0007#16
def dB482 : BitVec 16 := 0x0001#16
def eB483 : BitVec 16 := 0x0002#16
def rB484 : List (BitVec 16) := (tDraws 130).hereCore.drawsSeen.tail.tail.tail.tail

theorem witness_CapabilityRegisterResults :
    (tState.onACore ∧ 0 / 2 ^ 58 = 0 ∧ xB4.tag = true ∧ 0 + 0 % 2 ^ 48 ≤ xB4.length.toNat) ∧
    (tState.onACore ∧ (gR 1 10 0).fn.toNat = 0) ∧
    (tState.onACore ∧ (gR 1 10 1).fn.toNat = 1) ∧
    (tState.onACore ∧ (gR 1 10 2).fn.toNat = 2) ∧
    (tState.onACore ∧ (gR 1 10 3).fn.toNat = 3) ∧
    (tState.onACore ∧ (gR 1 10 4).fn.toNat = 4) ∧
    (tState.onACore ∧ (gR 1 10 5).fn.toNat = 5) ∧
    ((wN (16#64) (2#64 ^ 58) true).onACore ∧ 288230376151711744 / 2 ^ 58 ≠ 0) ∧
    ((wN (16#64) (32#64) false).onACore ∧ 32 / 2 ^ 58 = 0 ∧ xB40.tag = false) ∧
    ((wN (16#64) (2#64 ^ 48 - 1#64) true).onACore ∧ 281474976710655 / 2 ^ 58 = 0 ∧ xB58.tag = true ∧
     xB58.length.toNat < 16 + 281474976710655 % 2 ^ 48) ∧
    (tState.onACore ∧ 0 < (tState.ttOf tState.hereCore).caps.length ∧ eB93.used = true ∧
     eB93.holders.testBit tState.hereCore.lcore = true) ∧
    (tState.onACore ∧
     ((tState.ttOf tState.hereCore).caps.length ≤ 1 ∨ eB95.used = false ∨ eB95.holders.testBit tState.hereCore.lcore = false)) := by
  and_intros <;> decide +kernel

theorem witness_CapabilityCheckFollowsItsProcedure :
    (tCap.tag = true ∧ 0 ≤ 0 ∧ 0 + ↑8 ≤ ↑tCap.length.toNat ∧
     (∀ (b : Nat), Nat.testBit 1 b = true → tCap.perm.toNat.testBit b = true ∧ (b = 1 → eB114.wg = true ∧ eB114.wcore = tCore.lcore ∧ eB114.wfirst ≤ tCore.pidx ∧ tCore.pidx ≤ eB114.wlast)) ∧
     tCap.type.toNat ∈ [0] ∧ ¬∃ (f : CapEntry), f ∈ (tGrant.ttOf tCore).caps ∧ f.wg = true ∧ f.wcore ≠ tCore.lcore ∧
     f.wfirst ≤ tCore.pidx ∧ tCore.pidx ≤ f.wlast ∧
     rangesMeet 137438953472 8 (BitVec.toNat f.cap.base) f.cap.length.toNat = true) ∧
    (tCap.tag = true ∧ 0 ≤ 32768 ∧ 32768 + ↑8 ≤ ↑tCap.length.toNat ∧
     (∀ (b : Nat), Nat.testBit 1 b = true → tCap.perm.toNat.testBit b = true ∧ (b = 1 → eB114.wg = true ∧ eB114.wcore = tCore.lcore ∧ eB114.wfirst ≤ tCore.pidx ∧ tCore.pidx ≤ eB114.wlast)) ∧
     tCap.type.toNat ∈ [0] ∧
     (∃ (f : CapEntry), f ∈ (tGrant.ttOf tCore).caps ∧ f.wg = true ∧ f.wcore ≠ tCore.lcore ∧ f.wfirst ≤ tCore.pidx ∧ tCore.pidx ≤ f.wlast ∧ rangesMeet 137438986240 8 (BitVec.toNat f.cap.base) f.cap.length.toNat = true)) ∧
    (tCap.tag = true ∧ ¬(0 ≤ 65536 ∧ 65536 + ↑8 ≤ ↑tCap.length.toNat)) ∧
    xB112.tag = false ∧
    (xB113.tag = true ∧ 0 ≤ 0 ∧ 0 + ↑8 ≤ ↑xB113.length.toNat ∧
     ¬((∀ (b : Nat), Nat.testBit 1 b = true → xB113.perm.toNat.testBit b = true ∧ (b = 1 → eB174.wg = true ∧ eB174.wcore = tCore.lcore ∧ eB174.wfirst ≤ tCore.pidx ∧ tCore.pidx ≤ eB174.wlast)) ∧ xB113.type.toNat ∈ [0])) := by
  and_intros <;> 
    first | decide +kernel | exact bit_zero (by decide +kernel) | exact fun h => absurd h.2 (by decide +kernel)

theorem witness_DeviceAccesses :
    (sB204.onACore ∧ sB204.hereCore.seq.access = some xB206 ∧ xB206.ready = true ∧
     sB204.capCheck sB204.hereCore 1 (sB204.hereCore.cap 1) Perm.rd [0, 2] (64 : Int) 8 = Sum.inl 137438953536 ∧
     (64 : Int) % 8 = 0) ∧
    (sB205.onACore ∧ sB205.hereCore.seq.access = some xB227 ∧ xB227.ready = true ∧
     sB205.capCheck sB205.hereCore 1 (sB205.hereCore.cap 1) (Perm.rd + Perm.cl) [1] (0 : Int) 32 = Sum.inl 137438953472 ∧
     (0 : Int) % 32 = 0) ∧
    (sB204.onACore ∧ sB204.hereCore.seq.access = some xB206 ∧ xB206.ready = true ∧
     sB204.capCheck sB204.hereCore 1 (sB204.hereCore.cap 1) Perm.wr [0] (64 : Int) 8 = Sum.inl 137438953536 ∧
     sB204.hitsCode sB204.hereCore.part 137438953536 8 = false ∧ (64 : Int) % 8 = 0) ∧
    (sB204.onACore ∧ sB204.hereCore.seq.access = some xB206 ∧ xB206.ready = true ∧ yB254.tag = false) ∧
    (sB205.onACore ∧ sB205.hereCore.seq.access = some xB227 ∧ xB227.ready = true ∧ yB294.tag = true ∧
     sB205.capCheck sB205.hereCore 1 (sB205.hereCore.cap 1) (Perm.wr + Perm.cs) [1] (0 : Int) 32 = Sum.inl 137438953472 ∧
     sB205.hitsCode sB205.hereCore.part 137438953472 32 = false ∧ (0 : Int) % 32 = 0) := by
  and_intros <;> decide +kernel

theorem witness_BarrierFenceAndIdle :
    (tState.onACore ∧ tState.hereCore.svc = false ∧
     (tState.groupOk tState.hereCore 1 && tState.isMember tState.hereCore 1 tState.hereCore.lcore) = true ∧
     (∀ (l : Nat), l ∈ membersOf (tState.group tState.hereCore 1) → Tab.look 0 tState.hereCore.seq.barred 1 < uB315.arrivedAt tState.hereCore 1 l)) ∧
    (tState.onACore ∧ tState.hereCore.svc = false ∧
     (tState.groupOk tState.hereCore 9 && tState.isMember tState.hereCore 9 tState.hereCore.lcore) = false) ∧
    (tAlone.onACore ∧ tAlone.hereCore.svc = false ∧
     (tAlone.groupOk tAlone.hereCore 0 && tAlone.isMember tAlone.hereCore 0 tAlone.hereCore.lcore) = true ∧
     ¬(∀ (l : Nat), l ∈ membersOf (tAlone.group tAlone.hereCore 0) → Tab.look 0 tAlone.hereCore.seq.barred 0 < (tAlone.arrive tAlone.focus.core 0).arrivedAt tAlone.hereCore 0 l) ∧
     tAlone.stage ≠ 1 ∧ tAlone.hereCore.seq.preempt = false ∧ tAlone.hereCore.strict = false ∧
     tAlone.hereCore.ctlBits 0x014 31 0 ≠ 0) ∧
    (tService.onACore ∧ tService.hereCore.svc = true) := by
  and_intros <;> decide +kernel

theorem witness_PopsAndDrawsTakeFronts :
    ((tQ [5#64, 6#64] 3).onACore ∧ 3 ≠ 7 ∧ (tQ [5#64, 6#64] 3).hereCore.queue 3 = vB334 :: rB335) ∧
    ((tQ [] 3).onACore ∧ 3 ≠ 7 ∧ (tQ [] 3).hereCore.queue 3 = [] ∧ (fQ 3 1).nf = 1#1) ∧
    ((tQ [] 3).onACore ∧ 3 ≠ 7 ∧ (tQ [] 3).hereCore.queue 3 = [] ∧ (gQ 3 0).nf = 0#1 ∧ 3 = 3 ∧
     (tQ [] 3).hereCore.pendingUnits 3 = 0) ∧
    ((tQ [] 3).onACore ∧ 3 ≠ 7 ∧ (tQ [] 3).hereCore.queue 3 = [] ∧ (gQ 3 1).nf = 1#1) ∧
    ((tQ [] 3).onACore ∧ 3 ≠ 7 ∧ (tQ [] 3).hereCore.queue 3 = [] ∧ (fQ 3 0).nf = 0#1 ∧ 3 = 3 ∧
     (tQ [] 3).hereCore.pendingUnits 3 = 0) ∧
    ((tDraws 130).onACore ∧ (fQ 7 0).qn.toNat = 7 ∧ (gQ 7 0).qn.toNat = 7 ∧
     (tDraws 130).hereCore.drawsSeen = aB480 :: aB470 :: dB482 :: eB483 :: rB484) ∧
    ((tDraws 130).onACore ∧ (fQ 7 0).qn.toNat = 7 ∧ (gQ 7 0).qn.toNat = 7 ∧
     (tDraws 130).hereCore.drawsSeen = lB330 ++ rB331 ∧ lB330.length = 128 * gsize (gQ 7 0).gs) ∧
    ((tDraws 2).onACore ∧ (fQ 7 1).qn.toNat = 7 ∧ (gQ 7 1).qn.toNat = 7 ∧ (tDraws 2).hereCore.drawsSeen.length < 4 ∧
     (tDraws 2).hereCore.drawsSeen.length < 128 * gsize (gQ 7 1).gs ∧ (fQ 7 1).nf = 1 ∧ (gQ 7 1).nf = 1) ∧
    ((tDraws 2).onACore ∧ (fQ 7 0).qn.toNat = 7 ∧ (gQ 7 0).qn.toNat = 7 ∧ (tDraws 2).hereCore.drawsSeen.length < 4 ∧
     (tDraws 2).hereCore.drawsSeen.length < 128 * gsize (gQ 7 0).gs ∧ (fQ 7 0).nf = 0 ∧ (gQ 7 0).nf = 0 ∧
     (tDraws 2).hereCore.q.need = 0 ∧ (tDraws 2).hereCore.q.owed = 0) ∧
    ((tDraws 126).onACore ∧ (fQ 7 0).qn.toNat = 7 ∧ (gQ 7 0).qn.toNat = 7 ∧
     (tDraws 126).hereCore.drawsSeen.length < 128 * gsize (gQ 7 0).gs ∧ (gQ 7 0).nf = 0 ∧
     (tDraws 126).hereCore.q.need = 0 ∧ (tDraws 126).hereCore.q.owed = 0) := by
  and_intros <;> decide +kernel

theorem witness_PushesFlushesAndStatus :
    (tState.onACore ∧
     tState.hereCore.visibleUnits (fQ 8 0).qn.toNat + tState.hereCore.pendingUnits (fQ 8 0).qn.toNat + 8 ≤ queueDepth (fQ 8 0).qn.toNat) ∧
    (tState.onACore ∧ (9 = 8 ∨ 9 = 9) ∧
     tState.hereCore.visibleUnits 9 + tState.hereCore.pendingUnits 9 + 32 ≤ queueDepth 9) ∧
    (tState.onACore ∧ ¬(12 = 8 ∨ 12 = 9) ∧
     tState.hereCore.visibleUnits 12 + tState.hereCore.pendingUnits 12 + gsize (gQ 12 0).gs ≤ queueDepth 12) ∧
    (tFull.onACore ∧
     ¬tFull.hereCore.visibleUnits (fQ 8 0).qn.toNat + tFull.hereCore.pendingUnits (fQ 8 0).qn.toNat + 8 ≤ queueDepth (fQ 8 0).qn.toNat ∧
     (fQ 8 0).nf = 0#1) ∧
    (tFull.onACore ∧ (9 = 8 ∨ 9 = 9) ∧
     ¬tFull.hereCore.visibleUnits 9 + tFull.hereCore.pendingUnits 9 + 32 ≤ queueDepth 9 ∧ (gQ 9 0).nf = 0#1) ∧
    (tFull.onACore ∧ (9 = 8 ∨ 9 = 9) ∧
     ¬tFull.hereCore.visibleUnits 9 + tFull.hereCore.pendingUnits 9 + 32 ≤ queueDepth 9 ∧ (gQ 9 1).nf = 1#1) ∧
    (tFull.onACore ∧ ¬(12 = 8 ∨ 12 = 9) ∧
     ¬tFull.hereCore.visibleUnits 12 + tFull.hereCore.pendingUnits 12 + gsize (gQ 12 0).gs ≤ queueDepth 12 ∧
     (gQ 12 0).nf = 0#1) ∧
    (tFull.onACore ∧ ¬(12 = 8 ∨ 12 = 9) ∧
     ¬tFull.hereCore.visibleUnits 12 + tFull.hereCore.pendingUnits 12 + gsize (gQ 12 1).gs ≤ queueDepth 12 ∧
     (gQ 12 1).nf = 1#1) ∧
    (tFull.onACore ∧
     ¬tFull.hereCore.visibleUnits (fQ 8 1).qn.toNat + tFull.hereCore.pendingUnits (fQ 8 1).qn.toNat + 8 ≤ queueDepth (fQ 8 1).qn.toNat ∧
     (fQ 8 1).nf = 1#1) ∧
    (tState.onACore ∧ tState.hereCore.queueInUse (fQ 8 0).qn.toNat = false) ∧
    (tState.onACore ∧ tState.hereCore.queueInUse (gQ 9 0).qn.toNat = false) ∧
    (tUse.onACore ∧ tUse.hereCore.queueInUse (fQ 8 0).qn.toNat = true) ∧
    (tUse.onACore ∧ tUse.hereCore.queueInUse (gQ 8 0).qn.toNat = true) := by
  and_intros <;> decide +kernel

end Accesses

namespace Vectors

def eC0 : InFlight := (⟨7, .vec 40 0 0⟩ : InFlight)
def fC16 : FFmt := Sys2Proof.Machine.FFmt.f32
def fC21 : FFmt := ETy.f.fmt?.get (by decide +kernel)

theorem witness_MaskedElementsKeepOrClear :
    (tVector.hereCore.seq.flight = [] ∧ 40 + 1 ≤ 384 ∧ (40 < 256 → 40 + 1 ≤ 256) ∧ 1 ≤ 8 ∧
     (List.replicate 64 7).length = 1 * lanes ETy.f.width ∧ 0 < 1 * lanes ETy.f.width) ∧
    (tVector.hereCore.seq.flight = [] ∧ 40 + 1 ≤ 384 ∧ (40 < 256 → 40 + 1 ≤ 256) ∧ 1 ≤ 8 ∧
     (List.replicate 64 7).length = 1 * lanes ETy.f.width ∧
     (∀ (j : Nat), j < 1 → 41 ≠ tVector.hereCore.physV (40 + j))) ∧
    (tVector.hereCore.seq.flight = [] ∧ 40 + 1 ≤ 384 ∧ (40 < 256 → 40 + 1 ≤ 256) ∧ 1 ≤ 8 ∧
     (List.replicate 64 7).length = 1 * lanes ETy.f.width ∧
     eC0 ∈ (putElts tVector.hereCore 2 40 1 (2#4) (0#1) ETy.f.width (List.replicate 64 7)).seq.flight) := by
  and_intros <;> decide +kernel

theorem witness_VectorIntegerResults :
    tVector.onACore ∧ (tyOf (vr 8 9 10 0 0)).fmt? = none := by
  and_intros <;> decide +kernel

theorem witness_VectorBitResults :
    (tVector.onACore ∧ (vr 8 9 1 0 0).fn.toNat = 0) ∧
    (tVector.onACore ∧ (vr 8 9 1 0 1).fn.toNat = 1) ∧
    (tVector.onACore ∧ (vr 8 9 1 0 2).fn.toNat = 2) ∧
    (tVector.onACore ∧ (tyOf (vr 8 9 1 10 0)).fmt? = some fC16) ∧
    (3 < 2 ^ ETy.i8.width ∧ 4 < 2 ^ ETy.i8.width ∧ ETy.i8 ≠ ETy.e4 ∧ ETy.i8 ≠ ETy.e5 ∧
     (ETy.i8.val 3).lt (ETy.i8.val 4) = true) ∧
    (2143289345 < 2 ^ ETy.f.width ∧ 4 < 2 ^ ETy.f.width ∧ ETy.f ≠ ETy.e4 ∧ ETy.f ≠ ETy.e5 ∧ ETy.f.fmt? = some fC21 ∧
     (fC21.decode 2143289345).isNan = true) := by
  and_intros <;> decide +kernel

theorem witness_PredicatesAndComparisons :
    (tVector.onACore ∧ (vr 8 9 1 10 0).fn.toNat = 0) ∧
    (tVector.onACore ∧ (vr 8 9 1 10 1).fn.toNat = 1) ∧
    (tVector.onACore ∧ (vr 8 9 1 10 2).fn.toNat = 2) ∧
    (tVector.onACore ∧ (vr 8 9 1 10 3).fn.toNat = 3) ∧
    (tVector.onACore ∧ (vr 8 9 1 10 4).fn.toNat = 4) ∧
    (tVector.onACore ∧ (vr 8 9 1 10 5).fn.toNat = 5) ∧
    (tVector.onACore ∧ (vr 8 9 1 10 6).fn.toNat = 6) ∧
    (tVector.onACore ∧ (vr 8 9 1 10 7).fn.toNat = 7) := by
  and_intros <;> decide +kernel

end Vectors

namespace Arithmetic

def drw (s : State) (f : VR) (n : Nat) : List Nat × Core := if rmOf f = .sr then ((s.hereCore.drawsSeen.take n).map (·.toNat), s.hereCore.dropDraws n) else ([], s.hereCore)
def f1 : VR := vr 8 9 10 10 0
def gB : VI := ⟨40, 8, 0, 0, 0, 5, 0, 0, 0⟩
def gF : VI := ⟨40, 8, 0, 0, 0, 5, 10, 0, 0⟩
def mV (sa : Nat) : VM := ⟨8, 9, 0, 0, 0, BitVec.ofNat 5 sa, 6, 0, 10, 0⟩
def fD0 : FFmt := (tyOf f1).fmt?.get (by decide +kernel)
def fD17 : FFmt := Sys2Proof.Machine.FFmt.f32
def rmD68 : RMode := Sys2Proof.Machine.RMode.rne
def onD141 : List Nat := List.filter (fun (i : Nat) => active tVector.hereCore (mV 1).pg (vmWidth (mV 1)) i) (List.range 64)
def nD144 : BitVec 32 := 0x00000000#32
def nD150 : BitVec 32 := 0x80000000#32
def zeroD154 : BitVec 32 := 2147483648#32
def nonfinD155 : BitVec 32 := 2147483647#32
def aD156 : Word32 := 0x00001000#32
def bD157 : Word32 := 0x00002000#32
def aD164 : Word32 := 0x80000000#32
def aD184 : Word32 := 0x7fffffff#32
def xsD196 : List Val := List.map (fun (i : Nat) => if active tUnit.hereCore (vr 5 6 0 10 0).pg (tyOf (vr 5 6 0 10 0)).width i = true then (tyOf (vr 5 6 0 10 0)).val (elt (tyOf (vr 5 6 0 10 0)).width (tUnit.hereCore.group (vr 5 6 0 10 0).va.toNat (dirRun (tyOf (vr 5 6 0 10 0)).width (gsize (vr 5 6 0 10 0).gs))) i) else Val.num false 0 0) (List.range (128 * gsize (vr 5 6 0 10 0).gs))
def caD199 : List Int := List.map (comp (tUnit.hereCore.dgroup (vr 5 6 0 10 0).va.toNat (gsize (vr 5 6 0 10 0).gs))) (List.range (128 * gsize (vr 5 6 0 10 0).gs))
def cbD200 : List Int := List.map (comp (tUnit.hereCore.dgroup (vr 5 6 0 10 0).vb.toNat (gsize (vr 5 6 0 10 0).gs))) (List.range (128 * gsize (vr 5 6 0 10 0).gs))
def csD203 : List Int := (renormalise (commonExp xsD196).fst (commonExp xsD196).snd).fst
def csD206 : List Int := ([32767] ++ List.replicate 127 0)
def caD215 : List Int := List.map (comp (tUnit.hereCore.dgroup (vr 5 5 0 10 1).va.toNat (gsize (vr 5 5 0 10 1).gs))) (List.range (128 * gsize (vr 5 5 0 10 1).gs))
def cbD216 : List Int := List.map (comp (tUnit.hereCore.dgroup (vr 5 5 0 10 1).vb.toNat (gsize (vr 5 5 0 10 1).gs))) (List.range (128 * gsize (vr 5 5 0 10 1).gs))
def csD222 : List Int := (List.replicate 128 0)
def xsD227 : List Val := List.map (fun (i : Nat) => if active tUnit.hereCore (vr 14 9 0 10 0).pg (tyOf (vr 14 9 0 10 0)).width i = true then (tyOf (vr 14 9 0 10 0)).val (elt (tyOf (vr 14 9 0 10 0)).width (tUnit.hereCore.group (vr 14 9 0 10 0).va.toNat (dirRun (tyOf (vr 14 9 0 10 0)).width (gsize (vr 14 9 0 10 0).gs))) i) else Val.num false 0 0) (List.range (128 * gsize (vr 14 9 0 10 0).gs))
def xsD309 : List Val := List.map (fun (i : Nat) => if active tUnit.hereCore (vr 8 9 0 10 0).pg (tyOf (vr 8 9 0 10 0)).width i = true then (tyOf (vr 8 9 0 10 0)).val (elt (tyOf (vr 8 9 0 10 0)).width (tUnit.hereCore.group (vr 8 9 0 10 0).va.toNat (dirRun (tyOf (vr 8 9 0 10 0)).width (gsize (vr 8 9 0 10 0).gs))) i) else Val.num false 0 0) (List.range (128 * gsize (vr 8 9 0 10 0).gs))
def csD316 : List Int := (renormalise (commonExp xsD309).fst (commonExp xsD309).snd).fst

theorem witness_FloatAndSpecialResults :
    (tDrawn.onACore ∧
     tDrawn.hereCore.drawn (rmOf f1) (gsize f1.gs * lanes (tyOf f1).width) (drw tDrawn f1 64).fst (drw tDrawn f1 64).snd) ∧
    (tDrawn.onACore ∧ (tyOf f1).fmt? = some fD0) ∧
    (FFmt.f32 = FFmt.f32 ∨ FFmt.f32 = FFmt.f16 ∨ FFmt.f32 = FFmt.bf16) := by
  and_intros <;> 
    first | decide +kernel | (simp only [Core.drawn]; decide +kernel)

theorem witness_RoundingPicksANeighbour :
    (7 < 2 ^ 16 ∧ 5 % 8 ≠ 0) ∧
    (7 < 2 ^ 16 ∧ 8 % 8 = 0) ∧
    (7 < 2 ^ 16 ∧
     (2 * roundMag false 4 0 (0 + ↑3) RMode.rne 7 * 8 = 2 * 4 + 8 ∨ 2 * 4 = 2 * roundMag false 4 0 (0 + ↑3) RMode.rne 7 * 8 + 8)) ∧
    (15360 < 2 ^ FFmt.f16.width ∧ 7 < 2 ^ 16 ∧ (FFmt.f16.decode 15360).isNan = false) := by
  and_intros <;> decide +kernel

theorem witness_ConversionsAndQuantisation :
    (tDrawn.onACore ∧
     0 < max (ety ((vr 8 9 1 8 10).fn.toNat % 16)).width (tyOf (vr 8 9 1 8 10)).width / min (ety ((vr 8 9 1 8 10).fn.toNat % 16)).width (tyOf (vr 8 9 1 8 10)).width ∧
     tDrawn.hereCore.drawn (rmOf (vr 8 9 1 8 10)) (gsize (vr 8 9 1 8 10).gs * 64) [] tDrawn.hereCore) ∧
    (tDrawn.onACore ∧ tDrawn.hereCore.drawn (rmOf (vr 8 9 1 8 10)) (quantN (vr 8 9 1 8 10)) [] tDrawn.hereCore) := by
  and_intros <;> 
    first | decide +kernel | (simp only [Core.drawn]; decide +kernel)

theorem witness_ReductionsAndPermutations :
    (tDrawn.onACore ∧ 256 ≤ 256 ∧ 256 / 256 ≤ lanes (tyOf (vr 8 9 1 0 0)).width ∧ (tyOf (vr 8 9 1 0 0)).fmt? = none ∧
     0 = 0) ∧
    (tDrawn.onACore ∧ 256 ≤ 256 ∧ 256 / 256 ≤ lanes (tyOf (vr 8 9 1 0 1)).width ∧ (tyOf (vr 8 9 1 0 1)).fmt? = none ∧
     1 = 1) ∧
    (tDrawn.onACore ∧ 256 ≤ 256 ∧ 256 / 256 ≤ lanes (tyOf (vr 8 9 1 0 2)).width ∧ (tyOf (vr 8 9 1 0 2)).fmt? = none ∧
     2 = 2) ∧
    (tDrawn.onACore ∧ 256 ≤ 256 ∧ 256 / 256 ≤ lanes (tyOf (vr 8 9 1 0 3)).width ∧ (tyOf (vr 8 9 1 0 3)).fmt? = none ∧
     3 = 3) ∧
    (tDrawn.onACore ∧ 256 ≤ 256 ∧ 256 / 256 ≤ lanes (tyOf (vr 8 9 1 0 4)).width ∧ (tyOf (vr 8 9 1 0 4)).fmt? = none ∧
     4 = 4) ∧
    (tDrawn.onACore ∧ 256 ≤ 256 ∧ 256 / 256 ≤ lanes (tyOf (vr 8 9 1 0 5)).width ∧ (tyOf (vr 8 9 1 0 5)).fmt? = none ∧
     5 = 5) ∧
    (tDrawn.onACore ∧ 8 ≤ 64 ∧ 64 / 8 ≤ lanes (tyOf (vr 8 9 1 10 24)).width ∧
     (tyOf (vr 8 9 1 10 24)).fmt? = some fD17 ∧ 0 = 0) ∧
    (tDrawn.onACore ∧ 8 ≤ 64 ∧ 64 / 8 ≤ lanes (tyOf (vr 8 9 1 10 25)).width ∧
     (tyOf (vr 8 9 1 10 25)).fmt? = some fD17 ∧ 1 = 1) ∧
    (tDrawn.onACore ∧ 8 ≤ 64 ∧ 64 / 8 ≤ lanes (tyOf (vr 8 9 1 10 26)).width ∧
     (tyOf (vr 8 9 1 10 26)).fmt? = some fD17 ∧ 2 = 2) ∧
    (tDrawn.onACore ∧ (vr 8 9 1 0 0).fn.toNat = 0) ∧
    (tDrawn.onACore ∧ (vr 8 9 1 0 0).vc.toNat < 256) ∧
    (tDrawn.onACore ∧ tDrawn.hereCore.drawn rmD68 256 [] tDrawn.hereCore) ∧
    (tDrawn.onACore ∧ (ety gB.ty.toNat).isInt = true) ∧
    (tDrawn.onACore ∧ (ety gF.ty.toNat).isInt = false) ∧
    (tDrawn.onACore ∧ (vr 8 9 1 0 1).fn.toNat = 1) ∧
    (tDrawn.onACore ∧ (vr 8 9 1 0 2).fn.toNat = 2) ∧
    (tDrawn.onACore ∧ (vr 8 9 1 0 3).fn.toNat = 3) ∧
    (tDrawn.onACore ∧ (vr 8 9 1 0 4).fn.toNat = 4) ∧
    (tDrawn.onACore ∧ (vr 8 9 1 0 5).fn.toNat = 5) := by
  and_intros <;> 
    first | decide +kernel | (simp only [Core.drawn]; decide +kernel)

theorem witness_VectorLoadsAndStores :
    (tVector.onACore ∧
     tVector.hereCore.accessOpen tVector.here { write := false, align := true, pieces := List.map (fun (j : Nat) => ((1048576 : Int) + 256 * ↑j, 256)) (List.range (gsize (mV 1).gs)) : SlotAccess }) ∧
    (tVector.onACore ∧
     tVector.hereCore.accessOpen tVector.here { write := true, align := true, pieces := List.map (fun (j : Nat) => ((1048576 : Int) + 256 * ↑j, 256)) (List.range (gsize (mV 1).gs)) : SlotAccess }) ∧
    (tVector.onACore ∧
     tVector.hereCore.accessOpen tVector.here { write := false, align := true, pieces := List.map (fun (i : Nat) => ((1048576 : Int) + ↑i * BitVec.toInt (tVector.hereCore.sreg (mV 1).sb.toNat), vmWidth (mV 1) / 8)) onD141 : SlotAccess } (some 4)) ∧
    (tVector.onACore ∧
     tVector.hereCore.accessOpen tVector.here { write := false, align := true, pieces := List.map (fun (i : Nat) => ((1048576 : Int) + ↑(elt (vmWidth (mV 1)) (tVector.hereCore.group (mV 1).va.toNat (gsize (mV 1).gs)) i * vmWidth (mV 1) / 8), vmWidth (mV 1) / 8)) onD141 : SlotAccess } (some 4)) ∧
    (tVector.onACore ∧
     tVector.hereCore.accessOpen tVector.here { write := true, align := true, pieces := List.map (fun (i : Nat) => ((1048576 : Int) + ↑i * BitVec.toInt (tVector.hereCore.sreg (mV 1).sb.toNat), vmWidth (mV 1) / 8)) onD141 : SlotAccess } (some 4)) ∧
    (tVector.onACore ∧
     tVector.hereCore.accessOpen tVector.here { write := true, align := true, pieces := List.map (fun (i : Nat) => ((1048576 : Int) + ↑(elt (vmWidth (mV 1)) (tVector.hereCore.group (mV 1).va.toNat (gsize (mV 1).gs)) i * vmWidth (mV 1) / 8), vmWidth (mV 1) / 8)) onD141 : SlotAccess } (some 4)) := by
  and_intros <;> decide +kernel

theorem witness_DirectionMovesAndQueries :
    (tUnit.onACore ∧ ¬(nD144 = 2147483648#32 ∨ nD144 = 2147483647#32) ∧
     2 ^ 20 < ((List.map (fun (i : Nat) => comp 0 i * comp 0 i) (List.range (128 * gsize (vr 1 6 0 10 0).gs))).sum - 2 ^ 30).natAbs) ∧
    (tUnit.onACore ∧ (nD150 = 2147483648#32 ∨ nD150 = 2147483647#32)) ∧
    (tUnit.onACore ∧ ¬(nD144 = 2147483648#32 ∨ nD144 = 2147483647#32) ∧
     ((List.map (fun (i : Nat) => comp 32767 i * comp 32767 i) (List.range (128 * gsize (vr 14 6 0 10 0).gs))).sum - 2 ^ 30).natAbs ≤ 2 ^ 20) := by
  and_intros <;> decide +kernel

theorem witness_DirectionArithmetic :
    (tUnit.onACore ∧ (xsD196.any fun (x : Val) => !x.isNum) = false ∧
     renormalise (commonExp xsD196).fst (commonExp xsD196).snd = (csD203, NormVal.zero)) ∧
    (tUnit.onACore ∧ aD156 ≠ nonfinD155 ∧ bD157 ≠ nonfinD155 ∧ aD156 ≠ zeroD154 ∧ bD157 ≠ zeroD154 ∧
     renormalise (List.map (fun (p : Int × Int) => if BitVec.toInt bD157 ≤ BitVec.toInt aD156 then p.fst * (16777216 : Int) + (1 : Int) * ↑(faithExp2 (BitVec.toInt aD156 - BitVec.toInt bD157).natAbs).fst * p.snd else ↑(faithExp2 (BitVec.toInt aD156 - BitVec.toInt bD157).natAbs).fst * p.fst + (1 : Int) * (16777216 : Int) * p.snd) (caD199.zip cbD200)) ((faithExp2 (BitVec.toInt aD156 - BitVec.toInt bD157).natAbs).snd - 15) = (csD206, NormVal.value (16774429 : Int))) ∧
    (tUnit.onACore ∧ tUnit.hereCore.drawn (rmOf (vr 5 6 0 10 0)) (128 * gsize (vr 5 6 0 10 0).gs) [] tUnit.hereCore) ∧
    (tUnit.onACore ∧ aD156 ≠ nonfinD155 ∧ aD156 ≠ nonfinD155 ∧ aD156 ≠ zeroD154 ∧ aD156 ≠ zeroD154 ∧
     renormalise (List.map (fun (p : Int × Int) => if BitVec.toInt aD156 ≤ BitVec.toInt aD156 then p.fst * (8388608 : Int) + (-1 : Int) * ↑(faithExp2 (BitVec.toInt aD156 - BitVec.toInt aD156).natAbs).fst * p.snd else ↑(faithExp2 (BitVec.toInt aD156 - BitVec.toInt aD156).natAbs).fst * p.fst + (-1 : Int) * (8388608 : Int) * p.snd) (caD215.zip cbD216)) ((faithExp2 (BitVec.toInt aD156 - BitVec.toInt aD156).natAbs).snd - 15) = (csD222, NormVal.zero)) ∧
    (tUnit.onACore ∧ (xsD227.any fun (x : Val) => !x.isNum) = true) ∧
    (tUnit.onACore ∧ aD164 = zeroD154 ∧ bD157 ≠ zeroD154 ∧ bD157 ≠ nonfinD155) ∧
    (tUnit.onACore ∧ (aD184 = nonfinD155 ∨ bD157 = nonfinD155)) ∧
    (tUnit.onACore ∧ aD164 = zeroD154 ∧ aD156 ≠ zeroD154 ∧ aD156 ≠ nonfinD155) ∧
    (tUnit.onACore ∧ (xsD309.any fun (x : Val) => !x.isNum) = false ∧
     renormalise (commonExp xsD309).fst (commonExp xsD309).snd = (csD316, NormVal.value (-2321091954 : Int))) := by
  and_intros <;> 
    first | decide +kernel | (simp only [Core.drawn]; decide +kernel)

end Arithmetic

namespace Banking

def acc1 : AccRow := { elems := [(0, 5)], nan := 2 }
def tRow : State := withCore fun c => { c with q := { c.q with rows := [acc1] } }
def bE3 : PassBank := { bank := 0, gen := 1, rs := 0 }
def vE4 : RowSet := tBanks.hereCore.viewSet bE3
def setE5 : RowSet := tBanks.hereCore.setOf bE3
def bE14 : PassBank := { bank := 0, gen := 1, rs := 1 }
def vE15 : RowSet := tBanks.hereCore.viewSet bE14
def setE16 : RowSet := tBanks.hereCore.setOf bE14
def rowsE75 : List (Nat × Nat × Nat) := [(0, 0, 2), (1, 0, 2)]
def rdE77 : Option (Nat × Nat) := some (1048576, 512)
def rowsE129 : List (Nat × Nat) := [(0, 0)]
def extE191 : Option (Nat × Nat) := some (1048576, 256)
def aE206 : Addend := ({ s := 3, e := 0, nan := false } : Addend)
def aE207 : Addend := ({ s := 3, e := 0, nan := true } : Addend)
def rE220 : AccRow := tRow.hereCore.q.rows.head (by decide +kernel)
def restE221 : List AccRow := []

theorem witness_BankInstructionsIssue :
    5 ≠ 124 ∧
    (tBanks.onACore ∧ (tBanks.hereCore.bank 0).mode = true ∧ setE5.state = 2 ∧ setE5.tag = 0 ∧
     tBanks.mRoom none none) ∧
    (tBanks.onACore ∧ 2 < 2 ^ 13 ∧ tBanks.hereCore.regionOpen (1048576 : Int) 256 (256 * 2) ∧
     tBanks.hereCore.exportHit (1048576 : Int).toNat (256 * 2) true = none ∧
     tBanks.mRoom none (extent (1048576 : Int).toNat (256 * 2))) ∧
    (tBanks.onACore ∧ tBanks.hereCore.visibleUnits 3 + tBanks.hereCore.pendingUnits 3 + 1 ≤ 8 ∧
     tBanks.mRoom none none) ∧
    (tBanks.onACore ∧ tBanks.hereCore.shadowOpen bE14 ∧ tBanks.hereCore.regionOpen (1048576 : Int) 256 16384 ∧
     tBanks.hereCore.exportHit (1048576 : Int).toNat 16384 false = none ∧
     (∀ (i : Nat), i < 16384 → tBanks.hereCore.tagAt ((1048576 : Int).toNat + i) = 0) ∧
     tBanks.mRoom (extent (1048576 : Int).toNat 16384) none) ∧
    (tBanks.onACore ∧ (tBanks.hereCore.bank 0).mode = true ∧ setE16.state = 0 ∧
     (vE15.storage ≠ 0 → ¬0 = 8 ∧ ¬0 = 8) ∧ tBanks.mRoom none none) ∧
    (tBanks.onACore ∧ tBanks.hereCore.shadowOpen bE14 ∧ vE15.storage = 0 ∧
     (vE15.state = 2 → vE15.wfmt = 8 ∧ vE15.afmt = 8) ∧ tBanks.mRoom none none) ∧
    (tBanks.onACore ∧ 1 ≤ (mf 0 1 0 0 1 3 0 0 1).fn.toNat ∧ (mf 0 1 0 0 1 3 0 0 1).fn.toNat ≤ 3 ∧
     (tBanks.hereCore.bank 0).mode = true ∧ setE16.state = 0 ∧ ¬vE15.wfmt = 8 ∧ ¬vE15.afmt = 8 ∧
     tBanks.hereCore.regionOpen (1048576 : Int) 256 256 ∧
     tBanks.hereCore.exportHit (1048576 : Int).toNat 256 false = none ∧
     tBanks.mRoom (extent (1048576 : Int).toNat 256) none) ∧
    (tBanks.onACore ∧ 0 < 2 ^ 16 ∧ 0 / 256 < vE4.cols ∧ (tBanks.hereCore.bank 0).mode = true ∧ setE5.state = 2 ∧
     tBanks.mRoom none none) := by
  and_intros <;> 
    first | exact fun _ _ => rfl | decide +kernel

theorem witness_ModeChangesEmptyTheirBanks :
    (tBanks.onACore ∧ 0 = 0) ∧
    (tBanks.onACore ∧ 17 ≠ 0 ∧
     (∀ (b : Nat), b < 16 ∧ (17).testBit b = true ∧ (tBanks.hereCore.bank b).mode ≠ true → true = true → tBanks.hereCore.exportHit (b * 65536) 65536 true = none) ∧
     (∀ (b : Nat), (tBanks.hereCore.bank b).turn = none) ∧ tBanks.mRoom none (maskExtent 17)) := by
  and_intros <;> 
    first | exact fun b h _ => (by decide +kernel : ∀ b, b < 16 → tBanks.hereCore.exportHit (b * 65536) 65536 true = none) b h.1 | exact Tab.look_all (P := fun x : Bank => x.turn = none) rfl (by decide +kernel) | decide +kernel

theorem witness_PassesIssueUnderTheirChecks :
    tBanks.onACore ∧ 3 ≠ 0 ∧ 2 < 2 ^ 16 ∧ 2 / 64 % 4 = 0 ∧ 1 ≤ 2 ∧ 2 ≤ 32 ∧ (false = false → 0 = 0) ∧
      (false = true → tBanks.inPod tBanks.hereCore 0 = true ∧ tBanks.groupOk tBanks.hereCore (mf 0 0 0 0 1 3 0 3 0).grp.toNat = true ∧ tBanks.isMember tBanks.hereCore (mf 0 0 0 0 1 3 0 3 0).grp.toNat tBanks.hereCore.lcore = true) ∧
      (∀ (k : Nat), k ∈ maskBanks 3 → (tBanks.hereCore.bank k).mode = true ∧ (tBanks.hereCore.setOf (tBanks.hereCore.nameSet k (tBanks.hereCore.bank k).act)).state = 2 ∧ (tBanks.hereCore.setOf (tBanks.hereCore.nameSet k (tBanks.hereCore.bank k).act)).afmt = (tBanks.hereCore.setOf (tBanks.hereCore.nameSet ((maskBanks 3).headD 0) (tBanks.hereCore.bank ((maskBanks 3).headD 0)).act)).afmt ∧ (tBanks.hereCore.setOf (tBanks.hereCore.nameSet k (tBanks.hereCore.bank k).act)).planes = (tBanks.hereCore.setOf (tBanks.hereCore.nameSet ((maskBanks 3).headD 0) (tBanks.hereCore.bank ((maskBanks 3).headD 0)).act)).planes ∧ (tBanks.hereCore.setOf (tBanks.hereCore.nameSet k (tBanks.hereCore.bank k).act)).storage = (tBanks.hereCore.setOf (tBanks.hereCore.nameSet ((maskBanks 3).headD 0) (tBanks.hereCore.bank ((maskBanks 3).headD 0)).act)).storage) ∧
      0 + (maskBanks 3).length ≤ 16 ∧ (∀ (r : Nat × Nat × Nat), r ∈ rowsE75 → r.snd.fst ≤ 31) ∧
      (false = false → tBanks.hereCore.regionOpen (1048576 : Int) 64 512 ∧ tBanks.hereCore.exportHit (1048576 : Int).toNat 512 false = none ∧ ∀ (j : Nat), j < 512 → tBanks.hereCore.tagAt ((1048576 : Int).toNat + j) = 0) ∧
      (∀ (j : Nat), j < (maskBanks 3).length → tBanks.hereCore.allocated (0 + j) = true) ∧
      (tBanks.hereCore.ctlBits 21 1 1 = 1 → ∀ (r : Nat × Nat × Nat), r ∈ rowsE75 → r.snd.snd ≤ (tBanks.hereCore.accRow r.fst r.snd.fst).h) ∧
      (∀ (r : Nat × Nat × Nat), r ∈ rowsE75 → tBanks.hereCore.eng.bandExports.has (r.fst * 4 + r.snd.fst / 8) = false) ∧
      tBanks.mRoom rdE77 none := by
  and_intros <;> decide +kernel

theorem witness_AccumulatorInstructionsIssue :
    (tBanks.onACore ∧ tBanks.hereCore.allocated 0 = true ∧ 0 % 8 = 0 ∧ tBanks.groupOk tBanks.hereCore 1 = true ∧
     tBanks.hereCore.eng.bandExports.has 0 = false ∧ tBanks.mRoom none none) ∧
    (tBanks.onACore ∧ tBanks.hereCore.allocated 0 = true ∧
     tBanks.hereCore.eng.bandExports.has (0 * 4 + 0 / 8) = false ∧ tBanks.mRoom none none) ∧
    (tBanks.onACore ∧ tBanks.hereCore.allocated 0 = true ∧ 0 + 1 ≤ 32 ∧ 196613 < 2 ^ 24 ∧ 196613 % 2 ^ 16 ≠ 32768 ∧
     (∀ (r : Nat × Nat), r ∈ rowsE129 → tBanks.hereCore.eng.bandExports.has (r.fst * 4 + r.snd / 8) = false) ∧
     tBanks.mRoom none none) ∧
    (tBanks.onACore ∧ tBanks.hereCore.allocated 0 = true ∧
     (tBanks.hereCore.eng.owners.has (0 * 4 + 0 / 8) = true → tBanks.isMember tBanks.hereCore (Tab.look 0 tBanks.hereCore.eng.owners (0 * 4 + 0 / 8)) tBanks.hereCore.lcore = true) ∧
     ((mf 0 0 0 0 5 0 1 0 0).fn.getLsbD 1 = true → tBanks.hereCore.eng.bandExports.has (0 * 4 + 0 / 8) = false) ∧
     tBanks.hereCore.visibleUnits 6 + tBanks.hereCore.pendingUnits 6 + 1 ≤ 4 ∧ tBanks.mRoom none none) ∧
    (tBanks.onACore ∧ 0 < 256 ∧ tBanks.inPod tBanks.hereCore 0 = true ∧ tBanks.groupOk tBanks.hereCore 1 = true ∧
     tBanks.isMember tBanks.hereCore 1 tBanks.hereCore.lcore = true ∧
     tBanks.hereCore.visibleUnits 6 + tBanks.hereCore.pendingUnits 6 + 1 ≤ 4 ∧ tBanks.mRoom none none) ∧
    (tBanks.onACore ∧ tBanks.hereCore.allocated 0 = true ∧
     tBanks.hereCore.visibleUnits 3 + tBanks.hereCore.pendingUnits 3 + 1 ≤ 8 ∧ tBanks.mRoom none none) ∧
    (tBanks.onACore ∧ 16 ≠ 0 ∧ 196613 < 2 ^ 24 ∧ 196613 % 2 ^ 16 ≠ 32768 ∧ 16 &&& tBanks.hereCore.eng.alloc = 0 ∧
     tBanks.mRoom none none) ∧
    (tBanks.onACore ∧ 12 ≠ 0 ∧
     (∀ (b : Nat), b ∈ maskBanks 12 → tBanks.hereCore.allocated b = true ∧ ∀ (k : Nat), k < 4 → tBanks.hereCore.eng.bandExports.has (b * 4 + k) = false) ∧
     tBanks.mRoom none none) ∧
    (tBanks.onACore ∧ tBanks.hereCore.allocated 1 = true ∧ 0 % 8 = 0 ∧ tBanks.groupOk tBanks.hereCore 1 = true ∧
     tBanks.hereCore.eng.owners.has 4 = true ∧ Tab.look 0 tBanks.hereCore.eng.owners 4 = 1 ∧ tBanks.mRoom none none) ∧
    (tBanks.onACore ∧ tBanks.hereCore.allocated 0 = true ∧
     (tBanks.hereCore.eng.owners.has (0 * 4 + 0 / 8) = true → tBanks.isMember tBanks.hereCore (Tab.look 0 tBanks.hereCore.eng.owners (0 * 4 + 0 / 8)) tBanks.hereCore.lcore = true) ∧
     ((mf 0 0 0 0 1 7 1 0 0).fn.getLsbD 3 = true → tBanks.hereCore.eng.bandExports.has (0 * 4 + 0 / 8) = false) ∧
     tBanks.hereCore.regionOpen (1048576 : Int) 256 (accexpBytes 0) ∧
     tBanks.hereCore.exportHit (1048576 : Int).toNat (accexpBytes 0) true = none ∧ tBanks.mRoom none extE191) ∧
    (tBanks.onACore ∧ 1 < 256 ∧ tBanks.inPod tBanks.hereCore 1 = true ∧ tBanks.groupOk tBanks.hereCore 1 = true ∧
     tBanks.isMember tBanks.hereCore 1 tBanks.hereCore.lcore = true ∧
     tBanks.hereCore.regionOpen (1048576 : Int) 256 (accexpBytes 0) ∧
     tBanks.hereCore.exportHit (1048576 : Int).toNat (accexpBytes 0) true = none ∧ tBanks.mRoom none extE191) := by
  and_intros <;> decide +kernel

theorem witness_AccumulatorsAddAndConvert :
    5 ≠ 0 ∧
    (acc1.nan.testBit 0 = false ∧ aE206.nan = false) ∧
    (acc1.nan.testBit 0 = false ∧ aE207.nan = true) ∧
    acc1.nan.testBit 1 = true ∧
    (tRow.onACore ∧ tRow.hereCore.q.rows = rE220 :: restE221) ∧
    (tState.onACore ∧ tState.hereCore.q.rows = [] ∧ tState.hereCore.pendingUnits 6 = 0) := by
  and_intros <;> decide +kernel

end Banking

namespace Copying

def nLL := tNest 0 0
def nLD := tNest 0 1
def nFill : Nest := { tNest 1 2 with bank := 2, rs := 1, inner := 16384 }
def nSh : Nest := { tNest 0 2 with bank := 2, rs := 1 }
def T (n : Nest) := cleared (tCopy n)
/-- A plan block at 0x100000: an all-reduce of 4 binary32 sums. -/
def planBytes : List Byte := leBytes 64 (1 + 64 * 2 ^ 16 + 10 * 2 ^ 34 + 4 * 2 ^ 64)
def tColl : State := let s := T nLL; s.setCore 0 (let c := s.core 0; { c with mem := c.mem.write 0x100000 planBytes })
def nestBytes : List Byte := nLL.bytes
def tSet : State := let s := T nLL; s.setCore 0 (let c := s.core 0; { c with mem := c.mem.write 0x100000 nestBytes })
def tExp : State := withCore fun c => { c with eng := { c.eng with exports := [{ addr := 0x100000, len := 256, grp := 1, kind := 0, id := 0, from_ := 0, live := false }] } }
def caF2 : Cap := (T nLL).hereCore.cap (cf 1 1 4 0 0 1 0 0).ca.toNat
def cbF3 : Cap := (T nLL).hereCore.cap (cf 1 1 4 0 0 1 0 0).cb.toNat
def goF7 : CopyCmd := { (cf 1 1 4 0 0 1 0 0).command 2 CopyKind.go with nest := nLL, src := (1048576 : Int), dst := (1052672 : Int), sc := caF2, dc := cbF3, gen := ((T nLL).hereCore.bank nLL.bank).gen : CopyCmd }
def castF9 : CopyCmd := { (cf 1 1 4 0 0 1 0 0).command 6 CopyKind.mcast with nest := nLL, src := (1048576 : Int), dst := (1052672 : Int), sc := caF2 : CopyCmd }
def fillF10 : CopyCmd := { (cf 1 1 4 0 0 1 0 0).command 7 CopyKind.fill with nest := nLL, dst := (1052672 : Int), value := (T nLL).hereCore.sreg (cf 1 1 4 0 0 1 0 0).sa.toNat, dc := cbF3 : CopyCmd }
def xF132 : SlotAccess := { write := false, align := false, pieces := [(1048576, 64)] }
def cbF197 : Cap := (T nLD).hereCore.cap (cf 1 1 5 0 1 1 0 0).cb.toNat
def zeroF210 : CopyCmd := { (cf 1 1 5 0 1 1 0 0).command 16 CopyKind.rowZero with dst := (0 : Int), n := 1, dc := cbF197, dpages := [tPage] : CopyCmd }
def caF223 : Cap := (T nFill).hereCore.cap (cf 1 5 5 1 0 1 0 0).ca.toNat
def cbF224 : Cap := (T nFill).hereCore.cap (cf 1 5 5 1 0 1 0 0).cb.toNat
def goF228 : CopyCmd := { (cf 1 5 5 1 0 1 0 0).command 2 CopyKind.go with nest := nFill, src := (0 : Int), dst := (0 : Int), sc := caF223, dc := cbF224, gen := ((T nFill).hereCore.bank nFill.bank).gen : CopyCmd }
def caF250 : Cap := (T nSh).hereCore.cap (cf 1 1 5 0 0 1 0 0).ca.toNat
def shellerF256 : CopyCmd := { (cf 1 1 5 0 0 1 0 0).command 8 CopyKind.shell with nest := nSh, src := (1048576 : Int), sc := caF250, gen := ((T nSh).hereCore.bank nSh.bank).gen : CopyCmd }
def caF277 : Cap := (T nLL).hereCore.cap (cf 1 5 6 1 2 1 0 0).ca.toNat
def cbF278 : Cap := (T nLL).hereCore.cap (cf 1 5 6 1 2 1 0 0).cb.toNat
def copyF290 : CopyCmd := { (cf 1 5 6 1 2 1 0 0).command 16 CopyKind.rowCopy with src := (0 : Int), dst := (4096 : Int), n := 1, sc := caF277, dc := cbF278, spages := [tPage], dpages := [tPage] : CopyCmd }
def caF304 : Cap := (T nLL).hereCore.cap (cf 1 1 7 1 2 1 0 0).ca.toNat
def cbF305 : Cap := (T nLL).hereCore.cap (cf 1 1 7 1 2 1 0 0).cb.toNat
def uF329 : State := tColl.accesses { write := false, align := false, pieces := [(0x100000, 64)] } []
def caF332 : Cap := tColl.hereCore.cap (cf 1 1 5 1 1 1 0 0).ca.toNat
def cbF333 : Cap := tColl.hereCore.cap (cf 1 1 5 1 1 1 0 0).cb.toNat
def pF347 : Plan := { kind := 0, type := 10, op := 0, count := 4, soff := 0, doff := 0 }
def mF356 : CopyCmd := { (cf 1 1 5 1 1 1 0 0).command 21 CopyKind.coll with src := ↑pF347.soff, dst := ↑pF347.doff, n := Tab.look 0 tColl.hereCore.colls 1, sc := caF332, dc := cbF333, plan := pF347, spages := [tPage], dpages := [tPage] : CopyCmd }
def sF357 : State := focusAs tExp (fun f => { f with idx := 8 })
def accessF362 : SlotAccess := { write := false, align := false, pieces := [(1048576, 128)] }
def dF368 : Nest := (readNest (tSet.hereCore.mem.bytes (1048576 : Int).toNat 128)).getLeft (by decide +kernel)
def accessF374 : SlotAccess := { write := false, align := false, pieces := [(1049344, 128)] }
def eF432 : Export := sF357.hereCore.eng.exports[0]?.get (by decide +kernel)
def sF433 : State := withCore fun c => { c with regs := { c.regs with s := [(1, 0x100000), (2, 0x100002 + 0), (3, 0x0100000000040002)] } }

theorem witness_CopyAndCollectiveCommands :
    ((T nLL).onACore ∧ ((T nLL).hereCore.chan 1).desc = some nLL ∧ goKinds (1052672 : Int) nLL = true ∧
     ((nLL.skind == 1) = false → (cf 1 1 4 0 0 1 0 0).ca = 0#4) ∧
     ((nLL.dkind == 1) = false → (cf 1 1 4 0 0 1 0 0).cb = 0#4) ∧
     (nLL.skind = 2 → (T nLL).inPod (T nLL).hereCore nLL.peer = true ∧ (T nLL).groupOk (T nLL).hereCore nLL.pgrp = true ∧ (T nLL).isMember (T nLL).hereCore nLL.pgrp (T nLL).hereCore.lcore = true) ∧
     (T nLL).sidesOpen (T nLL).here goF7 (nLL.skind == 0) (nLL.skind == 1) (nLL.dkind == 0) (nLL.dkind == 1) [] [] (T nLL) ∧
     nLL.dkind ≠ 2 ∧
     (T nLL).cRoom (T nLL).here 1 { id := goF7.id, slot := goF7.slot, bundle := goF7.bundle, seq := goF7.seq, pidx := goF7.pidx, code := goF7.code, kind := goF7.kind, note := goF7.note, nest := goF7.nest, src := goF7.src, dst := goF7.dst, value := goF7.value, n := goF7.n, sc := goF7.sc, dc := goF7.dc, scr := goF7.scr, dcr := goF7.dcr, grp := goF7.grp, acq := goF7.acq, rel := goF7.rel, scp := goF7.scp, plan := goF7.plan, gen := goF7.gen, spages := [], dpages := [], stale := goF7.stale, started := goF7.started, at_ := goF7.at_, moved := goF7.moved, units := goF7.units, scq := goF7.scq, buf := goF7.buf, ahead := goF7.ahead, aheadSlots := goF7.aheadSlots, open_ := goF7.open_, status := goF7.status, tagged := goF7.tagged, since := goF7.since, safe := goF7.safe, rest := goF7.rest, hostMarks := goF7.hostMarks : CopyCmd }) ∧
    ((T nLL).onACore ∧ ((T nLL).hereCore.chan 1).desc = some nLL ∧ nLL.skind ≤ 1 ∧ nLL.dkind = 0 ∧ nLL.fmt = 0 ∧
     ((nLL.skind == 1) = false → (cf 1 1 4 0 0 1 0 0).ca = 0#4) ∧ (false = false → (cf 1 1 4 0 0 1 0 0).cb = 0#4) ∧
     (((T nLL).groupOk (T nLL).hereCore 1 = true ∧ (T nLL).isMember (T nLL).hereCore 1 (T nLL).hereCore.lcore = true) ∧ ∀ (l : Nat), l ∈ membersOf ((T nLL).group (T nLL).hereCore 1) → (T nLL).inPod (T nLL).hereCore l = true) ∧
     (T nLL).sidesOpen (T nLL).here castF9 (nLL.skind == 0) (nLL.skind == 1) false false [] [] (T nLL) ∧
     (T nLL).cRoom (T nLL).here 1 { id := castF9.id, slot := castF9.slot, bundle := castF9.bundle, seq := castF9.seq, pidx := castF9.pidx, code := castF9.code, kind := castF9.kind, note := castF9.note, nest := castF9.nest, src := castF9.src, dst := castF9.dst, value := castF9.value, n := castF9.n, sc := castF9.sc, dc := castF9.dc, scr := castF9.scr, dcr := castF9.dcr, grp := castF9.grp, acq := castF9.acq, rel := castF9.rel, scp := castF9.scp, plan := castF9.plan, gen := castF9.gen, spages := [], dpages := [], stale := castF9.stale, started := castF9.started, at_ := castF9.at_, moved := castF9.moved, units := castF9.units, scq := castF9.scq, buf := castF9.buf, ahead := castF9.ahead, aheadSlots := castF9.aheadSlots, open_ := castF9.open_, status := castF9.status, tagged := castF9.tagged, since := castF9.since, safe := castF9.safe, rest := castF9.rest, hostMarks := castF9.hostMarks : CopyCmd }) ∧
    (tColl.onACore ∧
     ((tColl.groupOk tColl.hereCore 1 = true ∧ tColl.isMember tColl.hereCore 1 tColl.hereCore.lcore = true) ∧ ∀ (l : Nat), l ∈ membersOf (tColl.group tColl.hereCore 1) → tColl.inPod tColl.hereCore l = true) ∧
     tColl.cRoom tColl.here 1 ({ (cf 1 1 5 1 1 1 0 0).command 6 CopyKind.msg with value := tColl.hereCore.sreg (cf 1 1 5 1 1 1 0 0).sa.toNat : CopyCmd })) ∧
    ((T nLL).onACore ∧ ((T nLL).hereCore.chan 1).desc = some nLL ∧ nLL.dkind ≤ 1 ∧ nLL.fmt = 0 ∧
     (false = false → (cf 1 1 4 0 0 1 0 0).ca = 0#4) ∧ ((nLL.dkind == 1) = false → (cf 1 1 4 0 0 1 0 0).cb = 0#4) ∧
     (T nLL).sidesOpen (T nLL).here fillF10 false false (nLL.dkind == 0) (nLL.dkind == 1) [] [] (T nLL) ∧
     (T nLL).cRoom (T nLL).here 1 { id := fillF10.id, slot := fillF10.slot, bundle := fillF10.bundle, seq := fillF10.seq, pidx := fillF10.pidx, code := fillF10.code, kind := fillF10.kind, note := fillF10.note, nest := fillF10.nest, src := fillF10.src, dst := fillF10.dst, value := fillF10.value, n := fillF10.n, sc := fillF10.sc, dc := fillF10.dc, scr := fillF10.scr, dcr := fillF10.dcr, grp := fillF10.grp, acq := fillF10.acq, rel := fillF10.rel, scp := fillF10.scp, plan := fillF10.plan, gen := fillF10.gen, spages := [], dpages := [], stale := fillF10.stale, started := fillF10.started, at_ := fillF10.at_, moved := fillF10.moved, units := fillF10.units, scq := fillF10.scq, buf := fillF10.buf, ahead := fillF10.ahead, aheadSlots := fillF10.aheadSlots, open_ := fillF10.open_, status := fillF10.status, tagged := fillF10.tagged, since := fillF10.since, safe := fillF10.safe, rest := fillF10.rest, hostMarks := fillF10.hostMarks : CopyCmd }) ∧
    (tColl.onACore ∧
     tColl.cRoom tColl.here 1 ({ (cf 1 1 5 1 1 1 0 0).command 4 (CopyKind.mark (cf 1 1 5 1 1 1 0 0).imm.toNat) with note := true : CopyCmd })) ∧
    (tColl.onACore ∧ tColl.cRoom tColl.here 1 ((cf 1 1 5 1 1 1 0 0).command 18 CopyKind.inv)) ∧
    ((T nLD).onACore ∧ ((T nLD).hereCore.chan 1).desc = some nLD ∧ nLD.skind = 0 ∧ nLD.dkind = 1 ∧ nLD.fmt = 0 ∧
     nLD.inner % accWidth 0 = 0 ∧ (∀ (r : Int × Nat), r ∈ nLD.dstRuns (0 : Int) → r.fst % ↑(accWidth 0) = 0) ∧
     (T nLD).hereCore.localSide (nLD.srcRuns (1048576 : Int)) (nLD.srcExtent (1048576 : Int)).fst (nLD.srcExtent (1048576 : Int)).snd false = none ∧
     (T nLD).sideOpen (T nLD).here (cf 1 1 5 0 1 1 0 0).cb.toNat cbF197 Perm.at_ true (nLD.dstExtent (0 : Int)).fst (nLD.dstExtent (0 : Int)).snd (nLD.dstRuns (0 : Int)) [tPage] (T nLD) ∧
     accHostFault cbF197 (nLD.dstRuns (0 : Int)) [tPage] = none ∧
     (T nLD).cRoom (T nLD).here 1 ({ (cf 1 1 5 0 1 1 0 0).command 9 (CopyKind.acc 0) with nest := nLD, src := (1048576 : Int), dst := (0 : Int), dc := cbF197, dpages := [tPage] : CopyCmd })) ∧
    ((T nLD).onACore ∧ (0 : Int) % ↑(accWidth 0) = 0 ∧
     (T nLD).sideOpen (T nLD).here (cf 1 1 5 0 1 1 0 0).cb.toNat cbF197 Perm.at_ true (0 : Int) (accWidth 0) [((0 : Int), accWidth 0)] [tPage] (T nLD) ∧
     accHostFault cbF197 [((0 : Int), accWidth 0)] [tPage] = none ∧
     (T nLD).cRoom (T nLD).here 1 ({ (cf 1 1 5 0 1 1 0 0).command 9 (CopyKind.accOne 0) with dst := (0 : Int), value := (T nLD).hereCore.sreg (cf 1 1 5 0 1 1 0 0).sa.toNat, dc := cbF197, dpages := [tPage] : CopyCmd })) ∧
    ((T nLD).onACore ∧ ((0 : Int) % 4096 = 0 ∧ ∀ (p : Page), p ∈ [tPage] → p.loc = 0) ∧
     (T nLD).sideOpen (T nLD).here (cf 1 1 5 0 1 1 0 0).cb.toNat cbF197 (Perm.row + Perm.wr) true (0 : Int) (4096 * 1) [((0 : Int), 4096 * 1)] [tPage] (T nLD) ∧
     (pageStacks cbF197 (0 : Int) 1 [tPage]).length ≤ 1 ∧ (T nLD).cRoom (T nLD).here 1 zeroF210) ∧
    ((T nFill).onACore ∧ ((T nFill).hereCore.chan 1).desc = some nFill ∧ goKinds (0 : Int) nFill = true ∧
     ((nFill.skind == 1) = false → (cf 1 5 5 1 0 1 0 0).ca = 0#4) ∧
     ((nFill.dkind == 1) = false → (cf 1 5 5 1 0 1 0 0).cb = 0#4) ∧
     (nFill.skind = 2 → (T nFill).inPod (T nFill).hereCore nFill.peer = true ∧ (T nFill).groupOk (T nFill).hereCore nFill.pgrp = true ∧ (T nFill).isMember (T nFill).hereCore nFill.pgrp (T nFill).hereCore.lcore = true) ∧
     (T nFill).sidesOpen (T nFill).here goF228 (nFill.skind == 0) (nFill.skind == 1) (nFill.dkind == 0) (nFill.dkind == 1) [tPage] [] (T nFill) ∧
     nFill.dkind = 2 ∧ (T nFill).hereCore.shadowOpen ((T nFill).hereCore.nameSet nFill.bank nFill.rs) ∧
     ((T nFill).core (T nFill).here.core).eng.banks = (T nFill).hereCore.eng.banks ∧
     (T nFill).cRoom (T nFill).here 1 { id := goF228.id, slot := goF228.slot, bundle := goF228.bundle, seq := goF228.seq, pidx := goF228.pidx, code := goF228.code, kind := goF228.kind, note := goF228.note, nest := goF228.nest, src := goF228.src, dst := goF228.dst, value := goF228.value, n := goF228.n, sc := goF228.sc, dc := goF228.dc, scr := goF228.scr, dcr := goF228.dcr, grp := goF228.grp, acq := goF228.acq, rel := goF228.rel, scp := goF228.scp, plan := goF228.plan, gen := goF228.gen, spages := [tPage], dpages := [], stale := goF228.stale, started := goF228.started, at_ := goF228.at_, moved := goF228.moved, units := goF228.units, scq := goF228.scq, buf := goF228.buf, ahead := goF228.ahead, aheadSlots := goF228.aheadSlots, open_ := goF228.open_, status := goF228.status, tagged := goF228.tagged, since := goF228.since, safe := goF228.safe, rest := goF228.rest, hostMarks := goF228.hostMarks : CopyCmd }) ∧
    ((T nSh).onACore ∧ ((T nSh).hereCore.chan 1).desc = some nSh ∧ nSh.skind ≤ 1 ∧ nSh.dkind = 2 ∧ nSh.fmt = 0 ∧
     ((nSh.skind == 1) = false → (cf 1 1 5 0 0 1 0 0).ca = 0#4) ∧ (false = false → (cf 1 1 5 0 0 1 0 0).cb = 0#4) ∧
     (T nSh).hereCore.shadowOpen ((T nSh).hereCore.nameSet nSh.bank nSh.rs) ∧
     ((T nSh).core (T nSh).here.core).eng.banks = (T nSh).hereCore.eng.banks ∧
     (T nSh).sidesOpen (T nSh).here shellerF256 (nSh.skind == 0) (nSh.skind == 1) false false [] [] (T nSh) ∧
     (T nSh).cRoom (T nSh).here 1 { id := shellerF256.id, slot := shellerF256.slot, bundle := shellerF256.bundle, seq := shellerF256.seq, pidx := shellerF256.pidx, code := shellerF256.code, kind := shellerF256.kind, note := shellerF256.note, nest := shellerF256.nest, src := shellerF256.src, dst := shellerF256.dst, value := shellerF256.value, n := shellerF256.n, sc := shellerF256.sc, dc := shellerF256.dc, scr := shellerF256.scr, dcr := shellerF256.dcr, grp := shellerF256.grp, acq := shellerF256.acq, rel := shellerF256.rel, scp := shellerF256.scp, plan := shellerF256.plan, gen := shellerF256.gen, spages := [], dpages := [], stale := shellerF256.stale, started := shellerF256.started, at_ := shellerF256.at_, moved := shellerF256.moved, units := shellerF256.units, scq := shellerF256.scq, buf := shellerF256.buf, ahead := shellerF256.ahead, aheadSlots := shellerF256.aheadSlots, open_ := shellerF256.open_, status := shellerF256.status, tagged := shellerF256.tagged, since := shellerF256.since, safe := shellerF256.safe, rest := shellerF256.rest, hostMarks := shellerF256.hostMarks : CopyCmd }) ∧
    ((T nLL).onACore ∧ ((0 : Int) % 4096 = 0 ∧ ∀ (p : Page), p ∈ [tPage] → p.loc = 0) ∧
     ((4096 : Int) % 4096 = 0 ∧ ∀ (p : Page), p ∈ [tPage] → p.loc = 0) ∧
     ((BitVec.toNat caF277.base : Int) + 0 + 4096 * 1 ≤ BitVec.toNat cbF278.base + 4096 ∨
      (BitVec.toNat cbF278.base : Int) + 4096 + 4096 * 1 ≤ BitVec.toNat caF277.base + 0) ∧
     (T nLL).sideOpen (T nLL).here (cf 1 5 6 1 2 1 0 0).ca.toNat caF277 (Perm.row + Perm.rd) false (0 : Int) (4096 * 1) [((0 : Int), 4096 * 1)] [tPage] (T nLL) ∧
     (T nLL).sideOpen (T nLL).here (cf 1 5 6 1 2 1 0 0).cb.toNat cbF278 (Perm.row + Perm.wr) true (4096 : Int) (4096 * 1) [((4096 : Int), 4096 * 1)] [tPage] (T nLL) ∧
     (pageStacks caF277 (0 : Int) 1 [tPage] ++ pageStacks cbF278 (4096 : Int) 1 [tPage]).eraseDups.length ≤ 1 ∧
     (∀ a ∈ [tPage], ∀ b ∈ [tPage], a.mx = b.mx) ∧
     (T nLL).cRoom (T nLL).here 1 copyF290) ∧
    ((T nLL).onACore ∧ 1 ≤ 1 ∧ 1 ≤ 4096 ∧ (T nLL).groupOk (T nLL).hereCore 1 = true ∧
     (T nLL).isMember (T nLL).hereCore 1 (T nLL).hereCore.lcore = true ∧ (1048576 : Int) % 64 = 0 ∧
     (T nLL).hereCore.localSide [((1048576 : Int), 64 * 1)] (1048576 : Int) (64 * 1) false = none ∧
     (T nLL).cRoom (T nLL).here 1 ({ (cf 1 1 7 1 2 1 0 0).command 17 CopyKind.walk with src := (1048576 : Int), n := 1, sc := caF304, dc := cbF305 : CopyCmd })) ∧
    (tColl.onACore ∧ tColl.groupOk tColl.hereCore 1 = true ∧
     tColl.isMember tColl.hereCore 1 tColl.hereCore.lcore = true ∧ (1048576 : Int) % 64 = 0 ∧
     tColl.hereCore.accessOpen tColl.here xF132 ∧
     readPlan (tColl.hereCore.mem.bytes (1048576 : Int).toNat 64) = Sum.inl pF347 ∧
     (tColl.accesses xF132 []).sideOpen tColl.here (cf 1 1 5 1 1 1 0 0).ca.toNat caF332 (Perm.rd + Perm.coll) false (↑pF347.soff) 16 [(↑pF347.soff, 16)] [tPage] uF329 ∧
     uF329.sideOpen tColl.here (cf 1 1 5 1 1 1 0 0).cb.toNat cbF333 (Perm.wr + Perm.coll) true (↑pF347.doff) 16 [(↑pF347.doff, 16)] [tPage] uF329 ∧
     uF329.cRoom tColl.here (cf 1 1 5 1 1 1 0 0).ch.toNat mF356) := by
  and_intros <;> decide +kernel

theorem witness_DescriptorsWaitsAndExports :
    (tSet.onACore ∧ tSet.hereCore.accessOpen tSet.here accessF362 ∧
     readNest (tSet.hereCore.mem.bytes (1048576 : Int).toNat 128) = Sum.inl dF368) ∧
    (tSet.onACore ∧ 0 = 0) ∧
    (tSet.onACore ∧ (cf 1 1 8 0 0 1 0 0).fn.toNat % 4 = 0 ∧ tSet.groupOk tSet.hereCore 1 = true ∧ 1048576 % 256 = 0 ∧
     8192 % 256 = 0 ∧ 1 ≤ 8192 ∧ 8192 ≤ 2 ^ 20 ∧ 1048576 + 8192 ≤ 1310720 ∧ tSet.hereCore.eng.exports.length < 8 ∧
     (∀ (e : Export), e ∈ tSet.hereCore.eng.exports → rangesMeet 1048576 8192 e.addr e.len = false) ∧
     tSet.hereCore.computeBank 1048576 8192 = none ∧ tSet.hereCore.eng.sb.length < 16) ∧
    (tSet.onACore ∧ tSet.hereCore.accessOpen tSet.here accessF374 ∧
     readNest (tSet.hereCore.mem.bytes (1049344 : Int).toNat 128) = Sum.inr 0) ∧
    (tSet.onACore ∧ 3 ≠ 0) ∧
    (sF357.onACore ∧ sF357.focus.idx = 8 + 0 ∧ sF357.hereCore.eng.exports[0]? = some eF432 ∧ eF432.live = false ∧
     eF432.from_ ≤ sF357.now ∧ sF357.hereCore.sbClear eF432.id = true) := by
  and_intros <;> decide +kernel

theorem witness_CarryCommandsIssue :
    (sF433.onACore ∧ 2 ≠ 0 ∧ 16 ≠ 0 ∧ 1048578 / 2 ^ 48 % 256 = 0 ∧ 0 = 0 ∧ (1048576 : Int) % 4 = 0 ∧
     0 ≤ (1048576 : Int) ∧ (1048576 : Int) + ↑(4 * 16) ≤ 1310720 ∧
     (sF433.hereCore.computeBank (1048576 : Int).toNat (4 * 16) = none ∧ ∀ (e : Export), e ∈ sF433.hereCore.eng.exports → e.kind = 1 ∨ rangesMeet (1048576 : Int).toNat (4 * 16) e.addr e.len = false) ∧
     sF433.hereCore.eng.carry.queue.length < sF433.params.cdepth ∧
     ((extent (1048576 : Int).toNat (4 * 16)).isSome = true → sF433.hereCore.eng.sb.length < 16)) ∧
    (sF433.onACore ∧ 2 ≠ 0 ∧ 16 ≠ 0 ∧ 1048578 / 2 ^ 48 % 256 = 0 ∧ sF433.inPod sF433.hereCore 0 = true ∧
     sF433.groupOk sF433.hereCore 1 = true ∧ sF433.isMember sF433.hereCore 1 sF433.hereCore.lcore = true ∧
     sF433.isMember sF433.hereCore 1 0 = true ∧ (1048576 : Int) % 4 = 0 ∧ 0 ≤ (1048576 : Int) ∧
     (1048576 : Int) + ↑(4 * 16) ≤ 1310720 ∧ sF433.hereCore.eng.carry.queue.length < sF433.params.cdepth ∧
     ((none : Option (Nat × Nat)).isSome = true → sF433.hereCore.eng.sb.length < 16)) ∧
    (sF433.onACore ∧ (1048576 : Int) % 4 = 0 ∧ 0 ≤ (1048576 : Int) ∧ (1048576 : Int) + ↑4 ≤ 1310720 ∧
     (sF433.hereCore.computeBank (1048576 : Int).toNat 4 = none ∧ ∀ (e : Export), e ∈ sF433.hereCore.eng.exports → e.kind = 1 ∨ rangesMeet (1048576 : Int).toNat 4 e.addr e.len = false) ∧
     sF433.hereCore.eng.carry.queue.length < sF433.params.cdepth ∧
     ((some ((1048576 : Int).toNat, 4)).isSome = true → sF433.hereCore.eng.sb.length < 16)) := by
  and_intros <;> decide +kernel

end Copying

namespace Following

def hd (pr : Nat) (stall rep : Nat := 0) : Head := { present := BitVec.ofNat 6 pr, stall := stall, rep := rep, rot := false, early := false, safe := false, hush := false }
def lineWith (h : Head) (is : List Instr) : BitVec 1024 := oneBundleLine (headWord h :: is.flatMap fun i => (encode i).getD [])
def gRun : MF := mf 0 0 0 8 1 2 0 1 0
def gPl : MF := mf 2 1 0 0 0 0 0 0 0
def fCF : CF := cf 1 0 0 0 0 0 0 0
def tFo (i : Instr) : State := let s := tCopy {}; s.setCore 0 { s.hereCore with icache := [(lineNumber s.hereCore.seq.pc, lineWith (hd 0x18) [i, .cpfollow fCF])] }

theorem witness_DescriptorsWaitsAndExports_more :
    ((tFo (Instr.brun gRun)).onACore ∧ (tFo (Instr.brun gRun)).hereCore.carriedOp = some (Instr.brun gRun)) ∧
    ((tFo (Instr.bacc gRun)).onACore ∧ (tFo (Instr.bacc gRun)).hereCore.carriedOp = some (Instr.bacc gRun)) ∧
    ((tFo (Instr.bplane gPl)).onACore ∧ (tFo (Instr.bplane gPl)).hereCore.carriedOp = some (Instr.bplane gPl)) := by
  and_intros <;> decide +kernel

end Following

namespace Filtering

def tEv (cls part core : Nat) : AbEvent := { cls := BitVec.ofNat 3 cls, part := BitVec.ofNat 6 part, pcore := BitVec.ofNat 7 core, nocore := false, time := 77, payload := 0x123456789ABCDEF0123456789ABCDEF }
def tCtx : Context := { owner := some 0, en := true, cls := 2, len := 10, regs := [(1, 5), (2, 0xFFFFFFF0), (3, 1020), (4, 3)], table := [(1021, 7)], run := some { pc := 3, ev := tEv 2 0 1 } }
def tRun (f : Context → Context) : State := focusAs { tState with ctxs := [(5, f tCtx)] } fun x => { x with idx := 5 }
def fa (fd fa fb sub : Nat) : FA := ⟨BitVec.ofNat 4 fd, BitVec.ofNat 4 fa, BitVec.ofNat 4 fb, BitVec.ofNat 15 sub⟩
def fi (fd fa sub imm : Nat) : FI := ⟨BitVec.ofNat 4 fd, BitVec.ofNat 4 fa, BitVec.ofNat 3 sub, BitVec.ofNat 16 imm⟩
def tBare : State := let s := tRun id; s.onPart 0 fun p => { p with tt := none }
def tHostT (sl : Nat) : State := let s := tRun fun c => { c with tdest := 1 }; s.onPart 0 fun p => { p with arbase := 0x1000, arslots := sl }
def tTrace (n : Nat) : State := let s := tRun fun c => { c with tdest := 2 }; s.onPart 0 fun p => { p with trbase := 0x2000001000, trlen := n }
def tTraceT : State := let s := tTrace 4; { s with parts := [(0, { s.part 0 with tcen := true })], units := [(0, { cache := [(0, tPage)] })] }
def tIn (n : Nat) : State := { (tRun fun c => { c with run := none, queue := [tEv 2 0 1] }) with intake := List.replicate n (tEv 2 0 1), parts := [(0, { tPart with budget := 20 })] }
def tIn2 (f : Context → Context): State := { (tRun fun c => f { c with run := none, queue := [tEv 2 0 1] }) with intake := [tEv 2 0 1] }
def rG1 : FilterRun := ((tRun id).ctx (tRun id).focus.idx).run.get (by decide +kernel)
def cG2 : Context := (tRun id).ctx (tRun id).focus.idx
def tG223 : Timetable := ((tRun id).part 0).tt.get (by decide +kernel)
def sG738 : State := tRun (fun c => { c with tcore := 4 })
def xG740 : Instr := Instr.filterTld (fi 1 2 0 1)
def rG743 : FilterRun := (tBare.ctx tBare.focus.idx).run.get (by decide +kernel)
def cG744 : Context := tBare.ctx tBare.focus.idx
def rG750 : FilterRun := (sG738.ctx sG738.focus.idx).run.get (by decide +kernel)
def cG751 : Context := sG738.ctx sG738.focus.idx
def rG757 : FilterRun := ((tHostT 0).ctx (tHostT 0).focus.idx).run.get (by decide +kernel)
def cG758 : Context := (tHostT 0).ctx (tHostT 0).focus.idx
def rG764 : FilterRun := ((tHostT 8).ctx (tHostT 8).focus.idx).run.get (by decide +kernel)
def cG765 : Context := (tHostT 8).ctx (tHostT 8).focus.idx
def rG771 : FilterRun := ((tTrace 0).ctx (tTrace 0).focus.idx).run.get (by decide +kernel)
def cG772 : Context := (tTrace 0).ctx (tTrace 0).focus.idx
def tG804 : Timetable := (sG738.part 0).tt.get (by decide +kernel)
def xG820 : Partition := (tHostT 0).part 0
def xG834 : Partition := (tHostT 8).part 0
def xG849 : Partition := (tTrace 0).part 0
def rG853 : FilterRun := (tTraceT.ctx tTraceT.focus.idx).run.get (by decide +kernel)
def cG854 : Context := tTraceT.ctx tTraceT.focus.idx
def xG873 : Partition := tTraceT.part 0
def vG874 : State := (tTraceT.writeVirtual (podOf (xG873.cores.headD 0)) 0 (xG873.trbase + 32 * xG873.trnext) (leBytes 32 (4 + rG853.ev.pcore.toNat * 2 ^ 4 + 18446744004990140549 * 2 ^ 192)) .pass).snd
def restG877 : List AbEvent := []
def cG880 : Context := (tIn 0).ctx (tIn 0).focus.idx
def xG881 : Partition := (tIn 0).part 0
def cG895 : Context := (tIn2 id).ctx (tIn2 id).focus.idx
def xG896 : Partition := (tIn2 id).part 0

theorem witness_FilterInstructionResults :
    (tBare.focus.idx < 64 ∧ (tBare.ctx tBare.focus.idx).run = some rG743 ∧ (fa 1 2 1 3).sub.toNat < 10) ∧
    (tBare.focus.idx < 64 ∧ (tBare.ctx tBare.focus.idx).run = some rG743 ∧
     2 ^ 31 ≤ BitVec.toNat (if (fa 1 2 1 3).fa = 0#4 then 0#32 else Tab.look (0#32) cG744.regs (fa 1 2 1 3).fa.toNat) ∧
     BitVec.toNat (if (fa 1 2 1 3).fa = 0#4 then 0#32 else Tab.look (0#32) cG744.regs (fa 1 2 1 3).fa.toNat) < 2 ^ (31 + 1)) ∧
    (tBare.focus.idx < 64 ∧ (tBare.ctx tBare.focus.idx).run = some rG743 ∧ (fi 1 2 0 1).imm.toNat = 1 ∧ 1 ≤ 1 ∧
     1 ≤ 10 ∧ ((fi 1 2 0 1).sub = 0#3 → 2654435761 = 2654435761) ∧
     ((fi 1 2 0 1).sub = 1#3 → 2654435761 = 2246822519) ∧ ((fi 1 2 0 1).sub = 2#3 → 2654435761 = 3266489917) ∧
     ((fi 1 2 0 1).sub = 3#3 → 2654435761 = 668265263) ∧ (fi 1 2 0 1).sub.toNat < 4) ∧
    (tBare.focus.idx < 64 ∧ (tBare.ctx tBare.focus.idx).run = some rG743 ∧ (fi 1 2 0 1).imm.toNat < 16) ∧
    ((tRun id).focus.idx < 64 ∧ ((tRun id).ctx (tRun id).focus.idx).run = some rG1 ∧
     (if (fa 0 0 1 9).fa = 0#4 then 0#32 else Tab.look (0#32) cG2.regs (fa 0 0 1 9).fa.toNat) = 0#32) ∧
    (tBare.focus.idx < 64 ∧ (tBare.ctx tBare.focus.idx).run = some rG743 ∧ (fa 1 2 1 3).sub.toNat < 64) ∧
    ((tRun id).focus.idx < 64 ∧ ((tRun id).ctx (tRun id).focus.idx).run = some rG1 ∧ cG2.owner = some 0 ∧
     cG2.tdest = 0 ∧ ((tRun id).part 0).tt = some tG223 ∧ tG223.binding.has cG2.tcore = true) ∧
    ((tRun id).focus.idx < 64 ∧ ((tRun id).ctx (tRun id).focus.idx).run = some rG1 ∧ 15 < 1024) ∧
    (tBare.focus.idx < 64 ∧ (tBare.ctx tBare.focus.idx).run = some rG743 ∧ 1024 ≤ 4294967281 ∧
     xG740 ∈ [Instr.filterTld (fi 1 2 0 1), Instr.filterTst (fi 1 2 0 1), Instr.filterTadd (fi 1 2 0 1)]) ∧
    (tBare.focus.idx < 64 ∧ (tBare.ctx tBare.focus.idx).run = some rG743 ∧ cG744.owner = some 0 ∧ cG744.tdest = 0 ∧
     (tBare.part 0).tt = none) ∧
    (sG738.focus.idx < 64 ∧ (sG738.ctx sG738.focus.idx).run = some rG750 ∧ cG751.owner = some 0 ∧ cG751.tdest = 0 ∧
     (sG738.part 0).tt = some tG804 ∧ tG804.binding.has cG751.tcore = false) ∧
    ((tHostT 0).focus.idx < 64 ∧ ((tHostT 0).ctx (tHostT 0).focus.idx).run = some rG757 ∧ cG758.owner = some 0 ∧
     cG758.tdest = 1 ∧ (xG820.arslots = 0 ∨ (xG820.artail + 1) % xG820.arslots = xG820.arhead)) ∧
    ((tHostT 8).focus.idx < 64 ∧ ((tHostT 8).ctx (tHostT 8).focus.idx).run = some rG764 ∧ cG765.owner = some 0 ∧
     cG765.tdest = 1 ∧ xG834.arslots ≠ 0 ∧ (xG834.artail + 1) % xG834.arslots ≠ xG834.arhead) ∧
    ((tTrace 0).focus.idx < 64 ∧ ((tTrace 0).ctx (tTrace 0).focus.idx).run = some rG771 ∧ cG772.owner = some 0 ∧
     cG772.tdest = 2 ∧ xG849.trlen = 0) ∧
    (tTraceT.focus.idx < 64 ∧ (tTraceT.ctx tTraceT.focus.idx).run = some rG853 ∧ cG854.owner = some 0 ∧
     cG854.tdest = 2 ∧ xG873.trlen ≠ 0 ∧
     tTraceT.writeVirtual (podOf (xG873.cores.headD 0)) 0 (xG873.trbase + 32 * xG873.trnext) (leBytes 32 (4 + rG853.ev.pcore.toNat * 2 ^ 4 + 18446744004990140549 * 2 ^ 192)) .pass = (none, vG874)) := by
  and_intros <;> decide +kernel

theorem witness_EventsAreTakenDispatchedAndRun :
    (tIn 0).intake = [] ∧
    ((tIn 0).focus.idx < 64 ∧ cG880.run = none ∧ cG880.queue = tEv 2 0 1 :: restG877 ∧ cG880.owner = some 0 ∧
     cG880.en = true ∧ cG880.susp = false ∧ cG880.len + xG881.bused ≤ xG881.budget) ∧
    (tIn 1).intake = tEv 2 0 1 :: restG877 ∧
    ((tIn2 id).focus.idx < 64 ∧ cG895.run = none ∧ cG895.queue = tEv 2 0 1 :: restG877 ∧ cG895.owner = some 0 ∧
     cG895.en = true ∧ cG895.susp = false ∧ xG896.budget < cG895.len + xG896.bused) := by
  and_intros <;> decide +kernel

end Filtering

namespace Sequencing

def hd (pr : Nat) (stall rep : Nat := 0) : Head := { present := BitVec.ofNat 6 pr, stall := stall, rep := rep, rot := false, early := false, safe := false, hush := false }
def lineWith (h : Head) (is : List Instr) : BitVec 1024 := oneBundleLine (headWord h :: is.flatMap fun i => (encode i).getD [])
def opS : Instr := match decodeWords .s [0x22210001] with | .ok i => i | _ => .bundleIssue
/-- The line of core 0's program counter holds a bundle of `is`. -/
def tLine (h : Head) (is : List Instr) (f : Core → Core := id) : State := withCore fun c => f { c with icache := [(lineNumber c.seq.pc, lineWith h is)], seq := { c.seq with arrive := .branch } }
def tBundle (s : State) : Bundle := match s.hereCore.ahead.1 with | .bundle b => b | _ => { head := hd 0, ops := [] }
def tRan (s : State) : State := let d := s.hereCore.ahead.2; let b := tBundle s
  (State.runOps none 0 (((s.setCore 0 d).findSuccessor 0).onCore 0 fun c => { c with q := { c.q with need := 0, owed := 0 } }) (d.issueOps b)).s
def sB := tLine (hd 1) [opS]
def sStall := withCore fun c => { c with seq := { c.seq with stall := 2 } }
def sWait (sl : Nat) := withCore fun c => { c with ctl := Tab.store c.ctl 0x014 (BitVec.ofNat 64 sl), seq := { c.seq with wait := some { lost := 2, causes := [{ code := 1, slot := 0, detail := 0 }] } } }
def sF (f : Core → Core) : State := let s := focusAs (tCopy {}) (fun f => { f with idx := lineNumber 0x2000000004 }); s.setCore 0 (f { s.hereCore with fetches := [(lineNumber 0x2000000004, 40)] })
def sIn : State := (sF id).onPart 0 fun p => { p with tt := some { tTable with code := 0 } }
def sActed := withCore fun c => { c with seq := { c.seq with acted := 51 } }
def dH1 : Core := sB.hereCore.ahead.snd
def xH2 : Core := (tRan sB).core sB.focus.core
def wH20 : Waiting := (sWait 0).hereCore.seq.wait.get (by decide +kernel)
def bsH46 : List Byte := (sIn.readVirtual (podOf sIn.focus.core) sIn.hereCore.part (128 * sIn.focus.idx) 128 .queue).fst.getLeft (by decide +kernel)
def vH47 : State := (sIn.readVirtual (podOf sIn.focus.core) sIn.hereCore.part (128 * sIn.focus.idx) 128 .queue).snd

theorem witness_SequencersIssueStallAndFetch :
    (sB.onACore ∧ sB.hereCore.seq.run = RunState.running ∧ sB.hereCore.seq.halted = false ∧
     sB.hereCore.seq.acted ≠ sB.now + 1 ∧ sB.hereCore.seq.stall = 0 ∧ sB.hereCore.seq.after = none ∧
     sB.hereCore.seq.haltReq = false ∧ sB.hereCore.seq.preempt = false ∧ sB.hereCore.svc = false ∧
     sB.hereCore.seq.arrivedFaults = [] ∧ sB.hereCore.seq.replay = none ∧ sB.hereCore.seq.access = none ∧
     (∀ (r : PhaseRun), (sB.part sB.hereCore.part).run = some r → sB.hereCore.scycle < ((sB.phaseOf sB.hereCore).grades.getD r.grade { segoff := 0, length := 0, energy := 0 : Grade }).length) ∧
     sB.hereCore.badLines.contains (lineNumber sB.hereCore.seq.pc) = false ∧
     sB.hereCore.ahead = (Ahead.bundle (tBundle sB), dH1) ∧ dH1.svc = false ∧ dH1.seq.preempt = false ∧
     dH1.issueTrap (tBundle sB) (dH1.issueOps (tBundle sB)) = none ∧
     State.runOps (Option.map (fun (x : Nat × Instr) => x.snd) (List.find? (fun (x : Nat × Instr) => x.fst == 3) (tBundle sB).ops)) sB.focus.core (((sB.setCore sB.focus.core dH1).findSuccessor sB.focus.core).onCore sB.focus.core fun (c : Core) => { num := c.num, part := c.part, seq := c.seq, regs := c.regs, ctl := c.ctl, zNew := c.zNew, seeding := c.seeding, q := { c.q with need := 0, owed := 0 : Queues }, mem := c.mem, tags := c.tags, eng := c.eng, icache := c.icache, fetches := c.fetches, badLines := c.badLines, devLog := c.devLog, bal := c.bal, events := c.events, colls := c.colls, free := c.free : Core }) (dH1.issueOps (tBundle sB)) = { s := tRan sB, need := [], trap := none : Attempt } ∧
     xH2.plainEnd ∧ xH2.svc = false) ∧
    (sB.onACore ∧ sB.hereCore.seq.wait = none) ∧
    (sB.onACore ∧
     ¬(sB.hereCore.fetches.has sB.focus.idx = true ∧ Tab.look 0 sB.hereCore.fetches sB.focus.idx ≤ sB.now)) ∧
    (sStall.onACore ∧ sStall.hereCore.seq.run = RunState.running ∧ sStall.hereCore.seq.halted = false ∧
     sStall.hereCore.seq.acted ≠ sStall.now + 1 ∧ sStall.hereCore.seq.stall = 1 + 1 ∧ sStall.hereCore.svc = false) ∧
    ((sWait 0).onACore ∧ (sWait 0).hereCore.seq.wait = some wH20 ∧ (sWait 0).hereCore.seq.run = RunState.running ∧
     (sWait 0).hereCore.svc = false ∧ (sWait 0).hereCore.strict = false ∧ (sWait 0).hereCore.ctlBits 20 31 0 = 0) ∧
    ((sF id).onACore ∧ (sF id).hereCore.fetches.has (sF id).focus.idx = true ∧
     Tab.look 0 (sF id).hereCore.fetches (sF id).focus.idx ≤ (sF id).now ∧
     (sF id).inCode (sF id).hereCore.part (sF id).focus.idx = false) ∧
    (sActed.onACore ∧ (sActed.hereCore.seq.acted = sActed.now + 1 ∨ sActed.hereCore.seq.halted = true)) ∧
    (sIn.onACore ∧ sIn.hereCore.fetches.has sIn.focus.idx = true ∧
     Tab.look 0 sIn.hereCore.fetches sIn.focus.idx ≤ sIn.now ∧ sIn.inCode sIn.hereCore.part sIn.focus.idx = true ∧
     sIn.readVirtual (podOf sIn.focus.core) sIn.hereCore.part (128 * sIn.focus.idx) 128 .queue = (Sum.inl bsH46, vH47)) := by
  and_intros <;> decide +kernel

end Sequencing

namespace Faulting

def fRec (c : Nat) : FaultRec := { cause := c, det := 5, src := 2, chan := 1, seq := 9, cmd := 0x2000000100 }
def fSeq (f : Seq → Seq) : State := withCore fun c => { c with seq := f c.seq }
def fBegun := fSeq fun q => { q with arrivedFaults := [fRec 0x42], begun := true, rem := 3, idx := 2 }
def fSvc := withCore fun c => { c with ctl := Tab.store c.ctl 0x088 1, seq := { c.seq with arrivedFaults := [fRec 0x42] } }
def fPre := fSeq fun q => { q with preempt := true, safePt := true }
def fHalt := fSeq fun q => { q with haltReq := true }
def fSamp := withPart fun p => { p with dsamp := 5 }
def fAcc (w : Bool) : State := let s := tCopy {}; s.setCore 0 { s.hereCore with seq := { s.hereCore.seq with access := some { tAccess w with ready := false, pages := [] } } }
def fRes := withPart fun p => { p with restore := [0] }
def tProv : Prov := { cap := tCap, off := 0x1000, nest := { tNest 1 2 with bank := 0 }, sheller := false }
def tProvBad : Prov := { tProv with cap := { tCap with base := 0x3000000000 } }
def fRow (p : Prov) : State := let s := tCopy {}; (s.setCore 0 { s.hereCore with eng := { s.hereCore.eng with banks := [(0, { mode := true, sets := [(0, { state := 2, prov := some p })] })] } }).onPart 0 fun p => { p with restore := [0] }
/-- A GLD whose bytes core 0 has itself written in part, and one that reads a poisoned line. -/
def gldF : SRI := ⟨9, 6, 0x408, none⟩
def fGld (l : List (Nat × Nat × Page)) (bad : Bool) : State :=
  let s := tCopy {}
  { s.setCore 0 { s.hereCore with
      own := [(0x100000101, 7)]
      seq := { s.hereCore.seq with access := some { tAccess false with op := .gld gldF, ready := false, pages := l } } } with
    poison := if bad then [(0x4000004, true)] else [] }
def gldOk := fGld [(0x2000000100, 8, tPage)] false
def gldBad := fGld [(0x2000000100, 8, tPage)] true
/-- Core 0 has row set 0 of bank 0 in state `st`, with an image, and a copy fill of it by a command on channel 1. -/
def fSet (st : Nat) (im : Memory) (p : Prov) (k : Option CopyKind) (mv : Nat) (u : TransUnit := { cache := [(0, tPage)] }) : State :=
  let s := tCopy {}
  let m (k : CopyKind) : CopyCmd := { id := 3, slot := 4, bundle := 0x2000000004, seq := 1, pidx := 0, code := 2, kind := k, nest := p.nest, moved := mv }
  { (s.setCore 0 { s.hereCore with eng := { s.hereCore.eng with
      banks := [(0, { mode := true, sets := [(0, { state := st, prov := some p, image := im })] })]
      fills := k.elim [] fun _ => [{ id := 3, chan := some 1, set := ⟨0, 0, 0⟩, start := some 20 }]
      chans := k.elim [] fun k => [(1, { queue := [m k] })] } }).onPart 0 fun p => { p with restore := [0] } with
    units := [(0, u)] }
def tProvSh : Prov := { tProv with sheller := true }
def sDiffer := fSet 2 [(0, 5)] tProv (some .go) 32
def sFill := fSet 1 [] tProv (some .go) 32
def sFillBad := fSet 1 [(3, 9)] tProv (some .go) 32
def sFillGone := fSet 1 [] tProvBad (some .go) 32
def sShell := fSet 1 [] tProvSh (some .shell) 16
def sWaits := fSet 2 [] tProv none 0 { walks := [{ part := 0, unit := 0x2000001, held := true }] }
def reread (s : State) : Option (Option Memory) × State :=
  let c := s.hereCore
  let y := c.nameSet 0 0
  let set := c.setOf y
  let pr := set.prov.getD tProv
  s.refilled c pr (if set.state = 1 && !pr.sheller then c.imageBytes y else pr.nest.total)
/-- The conditions of a row set's restore, and that the row set, its provenance and its image are these. -/
def restores (s : State) (st : Nat) (p : Prov) (un : Bool) : Prop :=
  let c := s.hereCore
  let y := c.nameSet 0 0
  s.onACore ∧ (s.part c.part).restore.contains s.focus.core = true ∧ (0 < 16 ∧ 0 < 4) ∧ (c.bank 0).mode = true ∧
  (∀ b, b < 16 → (c.bank b).mode = true → ∀ r, r < 4 → (b, r) ∉ [(0, 0)] → (c.setOf (c.nameSet b r)).prov = none) ∧
  (c.setOf y).prov = some p ∧ (c.setOf y).state ≠ 0 ∧ (c.setOf y).state = st ∧
  (((c.setOf y).state = 1 ∧ p.sheller = true ∧ c.imageBytes y = 0) ↔ un = true)
def crcs (s : State) (m : Memory) : Nat := crc32 (Memory.bytes m 0 (s.hereCore.imageBytes (s.hereCore.nameSet 0 0)))
def errI0 : SoftError := SoftError.mk .registerFile 3 true
def vI3 : State := ((fRow tProv).refilled (fRow tProv).hereCore tProv 64).2
def vI4 : State := ((fRow tProvBad).refilled (fRow tProvBad).hereCore tProvBad 64).2
def fI6 : FaultRec := fBegun.hereCore.seq.arrivedFaults.head (by decide +kernel)
def lI7 : Core := fBegun.hereCore.logDeviation fBegun.now true
def eI8 : Core := { num := lI7.num, part := lI7.part, seq := { lI7.seq with acted := fBegun.now + 1, arrivedFaults := [] : Machine.Seq }, regs := lI7.regs, ctl := lI7.ctl, zNew := lI7.zNew, seeding := lI7.seeding, q := lI7.q, mem := lI7.mem, tags := lI7.tags, eng := lI7.eng, icache := lI7.icache, fetches := lI7.fetches, badLines := lI7.badLines, devLog := lI7.devLog, bal := lI7.bal, events := lI7.events, colls := lI7.colls, free := lI7.free : Core }.drainAll fBegun.now
def fI16 : FaultRec := fSvc.hereCore.seq.arrivedFaults.head (by decide +kernel)
def xI34 : DevAccess := (fAcc true).hereCore.seq.access.get (by decide +kernel)
def bsI35 : List Byte := []
def xI39 : DevAccess := (fAcc false).hereCore.seq.access.get (by decide +kernel)
def vI41 : State := ((fAcc false).readPages xI39.pages).snd
def yI50 : PassBank := { bank := 0, gen := 0, rs := 0 }
def imageI51 : Memory := []

theorem witness_FaultsAndStopsReachTheirCore :
    (fBegun.onACore ∧ fBegun.hereCore.seq.arrivedFaults = [fI6] ∧ fBegun.hereCore.seq.run = RunState.running ∧
     fBegun.hereCore.seq.halted = false ∧ fBegun.hereCore.seq.stall = 0 ∧ fBegun.hereCore.svc = false ∧
     fI6.cause ≠ 7 ∧ fI6.cause ≠ 81 ∧ eI8.ctlOf 135 ≠ 0#64 ∧ eI8.svc = false) ∧
    (fBegun.onACore ∧ fBegun.hereCore.seq.preempt = false) ∧
    (fBegun.onACore ∧ (fBegun.part fBegun.hereCore.part).dsamp = 0) ∧
    (fBegun.onACore ∧ errI0.replayable = true) ∧
    (fBegun.onACore ∧ { site := SoftSite.queue, index := 3#24, replayable := false : SoftError }.replayable = false) ∧
    (fSvc.onACore ∧ fSvc.hereCore.seq.arrivedFaults = [fI16] ∧ fSvc.hereCore.seq.run = RunState.running ∧
     fSvc.hereCore.seq.halted = false ∧ fSvc.hereCore.seq.stall = 0 ∧ fSvc.hereCore.svc = true ∧
     fSvc.hereCore.seq.pending.length < 16) ∧
    (fPre.onACore ∧ fPre.hereCore.seq.preempt = true ∧ fPre.hereCore.seq.halted = false ∧
     fPre.hereCore.seq.run = RunState.running ∧ fPre.hereCore.seq.stall = 0 ∧ fPre.hereCore.seq.after = none ∧
     fPre.hereCore.svc = false ∧ fPre.hereCore.seq.safePt = true) ∧
    (fHalt.onACore ∧ fHalt.hereCore.seq.haltReq = true ∧ fHalt.hereCore.seq.halted = false) ∧
    (fSamp.onACore ∧ (fSamp.part fSamp.hereCore.part).dsamp ≠ 0 ∧
     (fSamp.participants fSamp.hereCore.part).contains fSamp.focus.core = true) ∧
    ((fAcc true).onACore ∧ (fAcc true).hereCore.seq.access = some xI34 ∧ xI34.ready = false ∧
     xI34.due ≤ (fAcc true).now ∧ xI34.write = true) ∧
    ((fAcc false).onACore ∧ (fAcc false).hereCore.seq.access = some xI39 ∧ xI39.ready = false ∧
     xI39.due ≤ (fAcc false).now ∧ xI39.write = false ∧ (fAcc false).readPages xI39.pages = (Sum.inl bsI35, vI41)) ∧
    (fRes.onACore ∧ (fRes.part fRes.hereCore.part).restore.contains fRes.focus.core = true ∧
     (∀ (b : Nat), b < 16 → (fRes.hereCore.bank b).mode = true → ∀ (r : Nat), r < 4 → ¬(b, r) ∈ [] → (fRes.hereCore.setOf (fRes.hereCore.nameSet b r)).prov = none)) ∧
    (gldOk.onACore ∧ gldOk.hereCore.seq.access = some (gldOk.hereCore.seq.access.get (by decide +kernel)) ∧
     (gldOk.hereCore.seq.access.get (by decide +kernel)).ready = false ∧
     (gldOk.hereCore.seq.access.get (by decide +kernel)).due ≤ gldOk.now ∧
     (gldOk.hereCore.seq.access.get (by decide +kernel)).write = false ∧
     (gldOk.hereCore.seq.access.get (by decide +kernel)).op = .gld gldF ∧ gldOk.hereCore.own ≠ [] ∧
     gldOk.readPages [(0x2000000100, 8, tPage)] = (Sum.inl (List.replicate 8 0#8), (gldOk.readPages [(0x2000000100, 8, tPage)]).2)) ∧
    (gldBad.onACore ∧ (gldBad.hereCore.seq.access.get (by decide +kernel)).ready = false ∧
     (gldBad.hereCore.seq.access.get (by decide +kernel)).due ≤ gldBad.now ∧
     (gldBad.hereCore.seq.access.get (by decide +kernel)).write = false ∧
     gldBad.readPages [(0x2000000100, 8, tPage)] = (Sum.inr (dataCheckDetail 0x100000100), (gldBad.readPages [(0x2000000100, 8, tPage)]).2)) ∧
    (restores (fRow tProv) 2 tProv false ∧ reread (fRow tProv) = (some (some imageI51), vI3) ∧
     crcs (fRow tProv) imageI51 = crcs (fRow tProv) ((fRow tProv).hereCore.setOf yI50).image) ∧
    (restores sDiffer 2 tProv false ∧ reread sDiffer = (some (some imageI51), (reread sDiffer).2) ∧
     crcs sDiffer imageI51 ≠ crcs sDiffer (sDiffer.hereCore.setOf yI50).image) ∧
    (restores (fRow tProvBad) 2 tProvBad false ∧ reread (fRow tProvBad) = (some none, vI4)) ∧
    (restores sWaits 2 tProv false ∧ reread sWaits = (none, (reread sWaits).2)) ∧
    (restores sFill 1 tProv false ∧ reread sFill = (some (some imageI51), (reread sFill).2) ∧
     crcs sFill imageI51 = crcs sFill (sFill.hereCore.setOf yI50).image) ∧
    (restores sFillBad 1 tProv false ∧ reread sFillBad = (some (some imageI51), (reread sFillBad).2) ∧
     crcs sFillBad imageI51 ≠ crcs sFillBad (sFillBad.hereCore.setOf yI50).image) ∧
    (restores sFillGone 1 tProvBad false ∧ reread sFillGone = (some none, (reread sFillGone).2)) ∧
    (restores sShell 1 tProvSh true ∧ sShell.hereCore.fillOf yI50 = some ((sShell.hereCore.fillOf yI50).get (by decide +kernel))) ∧
    (∀ f ∈ (fRow tProv).hereCore.eng.fills, f.set ≠ yI50) ∧
    ((sFill.hereCore.eng.fills.find? fun f => f.set == yI50) = some { id := 3, chan := some 1, set := yI50, start := some 20 } ∧
     sFill.hereCore.copyCmd 1 3 = some ((sFill.hereCore.copyCmd 1 3).get (by decide +kernel)) ∧
     ((sFill.hereCore.copyCmd 1 3).get (by decide +kernel)).status = none) := by
  and_intros <;> 
    first
      | decide +kernel
      | (exact congrArg (fun m => crc32 (Memory.bytes m 0 _)) (by decide +kernel))
      | (unfold restores; decide +kernel)

end Faulting

namespace Engining

def pb (i r : Nat) : PassBank := ⟨i, 1, r⟩
def tPass : Pass := { onto := false, banks := [pb 0 0], ab := 0, ar := 8, count := 2, addr := 0x100000, remote := none, grp := 0, planar := false, half := 0, tag := 0, afmt := 0, planes := 8, storage := 0 }
def tM (w : MWork) (f : MCmd → MCmd := id) : MCmd := f { id := 3, bundle := 0x2000000004, scyc := 4, at_ := 45, work := w, uses := [] }
def tMq (m : MCmd) (g : Core → Core := id) : State := let s := focusAs tBanks fun f => { f with idx := 3 }; s.setCore 0 (g { s.hereCore with eng := { s.hereCore.eng with mq := [m], nextId := 4 }, q := { s.hereCore.q with scales := [(8, (List.range 20).map fun i => (BitVec.ofNat 8 (i + 120), 0))] } })
def mPass := tM (.pass tPass)
def mRun (f : Pass → Pass) := tM (.pass (f { tPass with at_ := 48, asked := true, bytes := some ((List.range 128).map (BitVec.ofNat 8)) })) fun m => { m with begun := true }
def job : TokenJob := { due := 49, tok := 0, bytes := (List.range 128).map (BitVec.ofNat 8), scales := [127,127,127,127,127,127,127,127] }
def mBprec := tM (.bprec (pb 0 0) 1 2 5)
def mDrain := tM (.drain 1 0 3 1 none)
def mMode (d : Nat) := tM (.bmode 3) fun m => { m with begun := true, due := some d }
def mZero (d : Nat) := tM (.bzero (pb 0 1)) fun m => { m with begun := true, due := some d }
def mLoad := tM (.bload (pb 0 1) 0x100000 5) fun m => { m with begun := true }
def tFill : Fill := { id := 3, chan := none, set := pb 0 1, cols := 128, blocks := 8, tag := 5, rows := 64, taken := 1024, start := some 20, full := true }
def sFill := tMq mLoad fun c => { c with eng := { c.eng with fills := [tFill] } }
def tFol (i : Instr) (b : Nat := 1) : Follow := { id := 3, op := i, a := 0x100000, b := BitVec.ofNat 64 b, chan := 0, cmd := none, seq := 1, cmdBundle := 0x2000000100, bundle := 0x2000000104, scyc := 3 }
def sFol (f : Follow) (g : Core → Core := id) : State := let s := focusAs tBanks fun f => { f with idx := 0 }; s.setCore 0 (g { s.hereCore with eng := { s.hereCore.eng with follows := [f], nextId := 4 } })
def chQ (m : CopyCmd) (f : List Nat := []): Core → Core := fun c => { c with eng := { c.eng with chans := [(0, { queue := [m], faults := f })] } }
def tGo : CopyCmd := { id := 2, slot := 4, bundle := 0x2000000100, seq := 1, pidx := 0, code := 2, kind := .go, nest := tNest 0 0 }
def pRun (f : Pass → Pass) : Pass := f { tPass with at_ := 48, asked := true, bytes := some ((List.range 128).map (BitVec.ofNat 8)) }
def gBad : MF := mf 15 3 0 8 1 2 0 1 0
def gRun : MF := mf 0 0 0 8 1 2 0 1 0
def fW : Follow := { tFol (.bplane gRun) with cmd := some 2 }
def mJ3 : MCmd := ((tMq mPass).hereCore.mCmd (tMq mPass).focus.idx).get (by decide +kernel)
def restJ7 : List TokenJob := []
def mJ16 : MCmd := ((tMq mDrain).hereCore.mCmd (tMq mDrain).focus.idx).get (by decide +kernel)
def mJ28 : MCmd := ((tMq mBprec).hereCore.mCmd (tMq mBprec).focus.idx).get (by decide +kernel)
def mJ36 : MCmd := ((tMq (tM (MWork.bmode 3))).hereCore.mCmd (tMq (tM (MWork.bmode 3))).focus.idx).get (by decide +kernel)
def mJ50 : MCmd := ((tMq (mMode 50)).hereCore.mCmd (tMq (mMode 50)).focus.idx).get (by decide +kernel)
def mJ58 : MCmd := ((tMq (mMode 60)).hereCore.mCmd (tMq (mMode 60)).focus.idx).get (by decide +kernel)
def mJ72 : MCmd := ((tMq (mZero 50)).hereCore.mCmd (tMq (mZero 50)).focus.idx).get (by decide +kernel)
def mJ80 : MCmd := ((tMq (mZero 60)).hereCore.mCmd (tMq (mZero 60)).focus.idx).get (by decide +kernel)
def mJ88 : MCmd := (sFill.hereCore.mCmd sFill.focus.idx).get (by decide +kernel)
def fJ94 : Fill := (List.find? (fun (f : Fill) => f.id == sFill.focus.idx) sFill.hereCore.eng.fills).get (by decide +kernel)
def sJ102 : State := tMq (mRun fun p => { p with jobs := [job] })
def sJ103 : State := tMq (mRun fun p => { p with jobs := [job], next := 2 })
def sJ104 : State := tMq (mRun fun p => { p with jobs := [{job with due := 60}] })
def pJ105 : Pass := pRun (fun p => { p with jobs := [job] })
def pJ106 : Pass := pRun (fun p => { p with jobs := [job], next := 2 })
def pJ107 : Pass := pRun (fun p => { p with jobs := [{job with due := 60}] })
def mJ116 : MCmd := ((tMq (mRun id)).hereCore.mCmd (tMq (mRun id)).focus.idx).get (by decide +kernel)
def bsJ118 : List Byte := (pRun id).bytes.get (by decide +kernel)
def jobJ124 : TokenJob := pJ105.jobs.head (by decide +kernel)
def jobJ126 : TokenJob := pJ106.jobs.head (by decide +kernel)
def jobJ128 : TokenJob := pJ107.jobs.head (by decide +kernel)
def mJ133 : MCmd := (sJ102.hereCore.mCmd sJ102.focus.idx).get (by decide +kernel)
def mJ150 : MCmd := (sJ103.hereCore.mCmd sJ103.focus.idx).get (by decide +kernel)
def mJ167 : MCmd := (sJ104.hereCore.mCmd sJ104.focus.idx).get (by decide +kernel)
def fJ201 : Follow := (sFol fW (chQ tGo)).hereCore.eng.follows[(sFol fW (chQ tGo)).focus.idx]?.get (by decide +kernel)
def fJ203 : Follow := (sFol fW (chQ tGo [2])).hereCore.eng.follows[(sFol fW (chQ tGo [2])).focus.idx]?.get (by decide +kernel)
def fJ205 : Follow := (sFol (tFol (Instr.bplane gRun))).hereCore.eng.follows[(sFol (tFol (Instr.bplane gRun))).focus.idx]?.get (by decide +kernel)
def xJ211 : Nat × Nat := (12, 15)
def fJ215 : Follow := (sFol (tFol (Instr.bplane gBad))).hereCore.eng.follows[(sFol (tFol (Instr.bplane gBad))).focus.idx]?.get (by decide +kernel)
def fJ225 : Follow := (sFol (tFol (Instr.brun gRun) 0)).hereCore.eng.follows[(sFol (tFol (Instr.brun gRun) 0)).focus.idx]?.get (by decide +kernel)
def xJ228 : Nat × Nat := (2, 0)
def fJ235 : Follow := (sFol (tFol (Instr.brun gRun) 2)).hereCore.eng.follows[(sFol (tFol (Instr.brun gRun) 2)).focus.idx]?.get (by decide +kernel)
def pJ239 : Pass := { onto := false, banks := [{ bank := 0, gen := 1, rs := 0 }], ab := 0, ar := 8, count := 2, addr := 1048576, remote := none, grp := 0, planar := false, half := 0, tag := 0, afmt := 0, planes := 8, storage := 0, next := 0, at_ := 0, jobs := [], bytes := none, part := [], asked := false }
def rowsJ240 : List (Nat × Nat × Nat) := [(0, 8, 1), (0, 9, 1)]

theorem witness_EngineCommandsAndCarriedOperations :
    ((tMq mPass).onACore ∧ (tMq mPass).hereCore.mCmd (tMq mPass).focus.idx = some mJ3 ∧ mJ3.begun = false ∧
     (tMq mPass).hereCore.canStart mJ3 = true ∧ mJ3.work = MWork.pass tPass ∧ tPass.remote = none) ∧
    ((tMq mDrain).onACore ∧ (tMq mDrain).hereCore.mCmd (tMq mDrain).focus.idx = some mJ16 ∧ mJ16.begun = false ∧
     (tMq mDrain).hereCore.canStart mJ16 = true ∧ mJ16.work = MWork.drain 1 0 3 1 none) ∧
    ((tMq mBprec).onACore ∧ (tMq mBprec).hereCore.mCmd (tMq mBprec).focus.idx = some mJ28 ∧ mJ28.begun = false ∧
     (tMq mBprec).hereCore.canStart mJ28 = true ∧ mJ28.work = MWork.bprec (pb 0 0) 1 2 5) ∧
    ((tMq (tM (MWork.bmode 3))).onACore ∧
     (tMq (tM (MWork.bmode 3))).hereCore.mCmd (tMq (tM (MWork.bmode 3))).focus.idx = some mJ36 ∧ mJ36.begun = false ∧
     (tMq (tM (MWork.bmode 3))).hereCore.canStart mJ36 = true ∧ mJ36.work = MWork.bmode 3) ∧
    ((tMq (mRun id)).onACore ∧ (tMq (mRun id)).hereCore.mCmd (tMq (mRun id)).focus.idx = some mJ116 ∧
     (mJ116.begun = true ∨ (tMq (mRun id)).hereCore.canStart mJ116 = false)) ∧
    ((tMq (mMode 50)).onACore ∧ (tMq (mMode 50)).hereCore.mCmd (tMq (mMode 50)).focus.idx = some mJ50 ∧
     mJ50.work = MWork.bmode 3 ∧ mJ50.due = some 50 ∧ 50 ≤ (tMq (mMode 50)).now) ∧
    ((tMq (mMode 60)).onACore ∧ (tMq (mMode 60)).hereCore.mCmd (tMq (mMode 60)).focus.idx = some mJ58 ∧
     mJ58.work = MWork.bmode 3 ∧ mJ58.due = some 60 ∧ (tMq (mMode 60)).now < 60) ∧
    ((tMq (mZero 50)).onACore ∧ (tMq (mZero 50)).hereCore.mCmd (tMq (mZero 50)).focus.idx = some mJ72 ∧
     mJ72.work = MWork.bzero (pb 0 1) ∧ mJ72.due = some 50 ∧
     List.find? (fun (f : Fill) => f.id == (tMq (mZero 50)).focus.idx) (tMq (mZero 50)).hereCore.eng.fills = none ∧
     50 ≤ (tMq (mZero 50)).now) ∧
    ((tMq (mZero 60)).onACore ∧ (tMq (mZero 60)).hereCore.mCmd (tMq (mZero 60)).focus.idx = some mJ80 ∧
     mJ80.work = MWork.bzero (pb 0 1) ∧ mJ80.due = some 60 ∧
     List.find? (fun (f : Fill) => f.id == (tMq (mZero 60)).focus.idx) (tMq (mZero 60)).hereCore.eng.fills = none ∧
     (tMq (mZero 60)).now < 60) ∧
    (sFill.onACore ∧ sFill.hereCore.mCmd sFill.focus.idx = some mJ88 ∧
     List.find? (fun (f : Fill) => f.id == sFill.focus.idx) sFill.hereCore.eng.fills = some fJ94 ∧
     fJ94.start = some 20 ∧ 20 < sFill.now ∧ mJ88.due = none ∧ fJ94.chan = none ∧ fJ94.rows = 64 ∧ fJ94.full = true ∧
     fJ94.taken = fJ94.cols * fJ94.blocks ∧ (sFill.hereCore.bank fJ94.set.bank).gen = fJ94.set.gen) ∧
    ((tMq (mRun id)).onACore ∧ (tMq (mRun id)).hereCore.mCmd (tMq (mRun id)).focus.idx = some mJ116 ∧
     mJ116.begun = true ∧ mJ116.work = MWork.pass (pRun id) ∧ (pRun id).remote = none ∧
     (pRun id).bytes = some bsJ118 ∧ (pRun id).at_ ≤ (tMq (mRun id)).now ∧ (pRun id).next < (pRun id).count ∧
     (tMq (mRun id)).hereCore.scaleTurn (tMq (mRun id)).focus.idx = true ∧
     tokenBlocks (pRun id).storage ≤ ((tMq (mRun id)).hereCore.scaleQ 8).length ∧
     frameBad (List.map (fun (x : Byte × BitVec 2) => x.snd) (List.take (tokenBlocks (pRun id).storage) ((tMq (mRun id)).hereCore.scaleQ 8))) = false) ∧
    (sJ102.onACore ∧ sJ102.hereCore.mCmd sJ102.focus.idx = some mJ133 ∧ mJ133.begun = true ∧
     mJ133.work = MWork.pass pJ105 ∧ pJ105.jobs = jobJ124 :: restJ7 ∧ jobJ124.due ≤ sJ102.now ∧
     (restJ7 ≠ [] ∨ pJ105.next < pJ105.count)) ∧
    (sJ103.onACore ∧ sJ103.hereCore.mCmd sJ103.focus.idx = some mJ150 ∧ mJ150.begun = true ∧
     mJ150.work = MWork.pass pJ106 ∧ pJ106.jobs = jobJ126 :: restJ7 ∧ jobJ126.due ≤ sJ103.now ∧ restJ7 = [] ∧
     pJ106.count ≤ pJ106.next) ∧
    (sJ104.onACore ∧ sJ104.hereCore.mCmd sJ104.focus.idx = some mJ167 ∧ mJ167.begun = true ∧
     mJ167.work = MWork.pass pJ107 ∧ pJ107.jobs = jobJ128 :: restJ7 ∧ sJ104.now < jobJ128.due) ∧
    ((sFol fW (chQ tGo)).onACore ∧
     (sFol fW (chQ tGo)).hereCore.eng.follows[(sFol fW (chQ tGo)).focus.idx]? = some fJ201 ∧
     (sFol fW (chQ tGo)).hereCore.followed fJ201 = Followed.waits) ∧
    ((sFol fW (chQ tGo [2])).onACore ∧
     (sFol fW (chQ tGo [2])).hereCore.eng.follows[(sFol fW (chQ tGo [2])).focus.idx]? = some fJ203 ∧
     (sFol fW (chQ tGo [2])).hereCore.followed fJ203 = Followed.lost) ∧
    ((sFol (tFol (Instr.bplane gRun))).onACore ∧
     (sFol (tFol (Instr.bplane gRun))).hereCore.eng.follows[(sFol (tFol (Instr.bplane gRun))).focus.idx]? = some fJ205 ∧
     (sFol (tFol (Instr.bplane gRun))).hereCore.followed fJ205 = Followed.landed ∧
     (sFol (tFol (Instr.bplane gRun))).hereCore.eng.mq.length < (sFol (tFol (Instr.bplane gRun))).params.mdepth ∧
     fJ205.op = Instr.bplane gRun ∧ (sFol (tFol (Instr.bplane gRun))).hereCore.bplaneTrap gRun = none) ∧
    ((sFol (tFol (Instr.bplane gBad))).onACore ∧
     (sFol (tFol (Instr.bplane gBad))).hereCore.eng.follows[(sFol (tFol (Instr.bplane gBad))).focus.idx]? = some fJ215 ∧
     (sFol (tFol (Instr.bplane gBad))).hereCore.followed fJ215 = Followed.landed ∧
     (sFol (tFol (Instr.bplane gBad))).hereCore.eng.mq.length < (sFol (tFol (Instr.bplane gBad))).params.mdepth ∧
     fJ215.op = Instr.bplane gBad ∧ (sFol (tFol (Instr.bplane gBad))).hereCore.bplaneTrap gBad = some xJ211) ∧
    ((sFol (tFol (Instr.brun gRun) 0)).onACore ∧
     (sFol (tFol (Instr.brun gRun) 0)).hereCore.eng.follows[(sFol (tFol (Instr.brun gRun) 0)).focus.idx]? = some fJ225 ∧
     (sFol (tFol (Instr.brun gRun) 0)).hereCore.followed fJ225 = Followed.landed ∧
     (sFol (tFol (Instr.brun gRun) 0)).hereCore.eng.mq.length < (sFol (tFol (Instr.brun gRun) 0)).params.mdepth ∧
     (fJ225.op = if false = true then Instr.bacc gRun else Instr.brun gRun) ∧
     (sFol (tFol (Instr.brun gRun) 0)).passPlan (sFol (tFol (Instr.brun gRun) 0)).hereCore { core := (sFol (tFol (Instr.brun gRun) 0)).focus.core, slot := 3, dv := { d := 0, a := 0, b := 0, c := 0, o := 0 : Steps }, now := (sFol (tFol (Instr.brun gRun) 0)).now, idx := 0, fn := { port := 0, vf := none : HostFn } : Focus } false gRun fJ225.a fJ225.b = Sum.inl xJ228) ∧
    ((sFol (tFol (Instr.brun gRun) 2)).onACore ∧
     (sFol (tFol (Instr.brun gRun) 2)).hereCore.eng.follows[(sFol (tFol (Instr.brun gRun) 2)).focus.idx]? = some fJ235 ∧
     (sFol (tFol (Instr.brun gRun) 2)).hereCore.followed fJ235 = Followed.landed ∧
     (sFol (tFol (Instr.brun gRun) 2)).hereCore.eng.mq.length < (sFol (tFol (Instr.brun gRun) 2)).params.mdepth ∧
     (fJ235.op = if false = true then Instr.bacc gRun else Instr.brun gRun) ∧
     (sFol (tFol (Instr.brun gRun) 2)).passPlan (sFol (tFol (Instr.brun gRun) 2)).hereCore { core := (sFol (tFol (Instr.brun gRun) 2)).focus.core, slot := 3, dv := { d := 0, a := 0, b := 0, c := 0, o := 0 : Steps }, now := (sFol (tFol (Instr.brun gRun) 2)).now, idx := 0, fn := { port := 0, vf := none : HostFn } : Focus } false gRun fJ235.a fJ235.b = Sum.inr (pJ239, rowsJ240) ∧
     (sFol (tFol (Instr.brun gRun) 2)).hereCore.eng.sb.length < 16 ∧
     (sFol (tFol (Instr.brun gRun) 2)).hereCore.seq.fenced.contains fJ235.id = false) := by
  and_intros <;> decide +kernel

end Engining

namespace Carrying

def dMsg (b : MsgBody) : Msg := { no := 7, at_ := 40, src := 0, dst := 1, body := b }
def tMsg (b : MsgBody) (g : Core → Core := id) (h : Core → Core := id) : State := let s := focusAs tBanks fun f => { f with idx := 7 }; { (s.setCore 0 (h s.hereCore)).setCore 1 (g { s.hereCore with num := 1 }) with msgs := [dMsg b] }
def bDrain : MsgBody := .drain 3 1 3 1
def bImage : MsgBody := .image 3 { h := 7 }
def bCarry (a : Nat) (l : List (Nat × Nat)) : MsgBody := .carry 3 a 16 0 1 l
def expo (c : Core) : Core := { c with eng := { c.eng with bandLive := [4], bandExports := [(4, 1)] } }
def expC (c : Core) : Core := { c with eng := { c.eng with exports := [{ addr := 0x100000, len := 256, grp := 1, kind := 1, id := 0, from_ := 0, live := true }] } }
def unal (c : Core) : Core := { c with eng := { c.eng with alloc := 0 } }
def mDr : MCmd := { id := 3, bundle := 0x2000000004, scyc := 4, at_ := 45, work := .drain 1 1 3 1 none, uses := [], begun := true }
def hasM (c : Core) : Core := { c with eng := { c.eng with mq := [mDr], posts := [.image none 3 {}] } }
def pairs1 : List (Nat × Nat) := [(0, 5), (1, 7)]
def pairs2 : List (Nat × Nat) := [(0, 5), (70, 7)]
def cq (k : CarryKind) (l : Option (List (Nat × Nat))) (op : Nat := 0) : CarryCmd := { id := 3, bundle := 0x2000000004, kind := k, op := op, left := l }
def tCq (k : CarryCmd) (g : Core → Core := id) : State := withCore fun c => g { c with eng := { c.eng with carry := { c.eng.carry with queue := [k] } } }
def strm (v : Nat) (c : Core) : Core := { c with q := { c.q with streams := [(12, [BitVec.ofNat 2048 v]), (13, [BitVec.ofNat 2048 5])] } }
def madeE (c : Core) (req id op a : Nat) (l : List (Nat × Nat)) : CarryStep := c.carryCycle 50 req id op a l
def stE : CarryStep → Core | .made e _ _ _ => e | .wait e => e | .refused e _ => e
def stK : CarryStep → Nat | .made _ k _ _ => k | _ => 0
def stL : CarryStep → List (Nat × Nat) | .made _ _ l _ => l | _ => []
def stN : CarryStep → Bool | .made _ _ _ n => n | _ => false
def dc (l : List (Nat × Nat)) : CarryStep := madeE ((tMsg (bCarry 0x100000 l) expC).core 1) 18 ((tMsg (bCarry 0x100000 l) expC).core 1).eng.nextId 0 0x100000 l
def kTab : CarryCmd := cq (.table 0x100000 16 2) none
def kTabL (l : List (Nat × Nat)) : CarryCmd := cq (.table 0x100000 16 2) (some l)
def kW : CarryCmd := cq (.word 0x100000 9) none
def lc (s : State) (l : List (Nat × Nat)) : CarryStep := madeE s.hereCore 16 3 0 0x100000 l
def cK0 : Core := (tMsg (bCarry 0x100000 pairs1) expC).core 1
def rowK1 : AccRow := ({ h := 7 } : AccRow)
def hK3 : Core := (tMsg bDrain expo).core (dMsg bDrain).dst
def restK6 : List CarryCmd := []
def hK15 : Core := (tMsg bDrain unal).core (dMsg bDrain).dst
def xK32 : MCmd := (((tMsg bImage hasM).core (dMsg bImage).dst).mCmd 3).get (by decide +kernel)
def sK38 : State := tMsg (bCarry 0x100000 pairs1) id
def sK39 : State := tMsg (bCarry 0x100000 pairs1) expC
def mK41 : Msg := dMsg (bCarry 0x100000 pairs1)
def hK44 : Core := sK38.core mK41.dst
def yK45 : Nat × Nat := (72, 268435456)
def hK61 : Core := sK39.core mK41.dst
def eK94 : Core := stE (lc (tCq (kTabL pairs1)) pairs1)
def eK95 : Core := stE (lc (tCq (kTabL pairs2)) pairs2)
def leftK96 : List (Nat × Nat) := stL (lc (tCq (kTabL pairs1)) pairs1)
def leftK97 : List (Nat × Nat) := stL (lc (tCq (kTabL pairs2)) pairs2)
def kK98 : CarryCmd := (tCq kTab (strm 3)).hereCore.eng.carry.queue.head (by decide +kernel)
def lK102 : List (Nat × Nat) := (tCq kTab (strm 3)).hereCore.windowPairs.get (by decide +kernel)
def kK130 : CarryCmd := (tCq kTab (strm 300)).hereCore.eng.carry.queue.head (by decide +kernel)
def lK134 : List (Nat × Nat) := (tCq kTab (strm 300)).hereCore.windowPairs.get (by decide +kernel)
def pK135 : Nat × Nat := (300, 5)
def kK162 : CarryCmd := (tCq (kTabL pairs1)).hereCore.eng.carry.queue.head (by decide +kernel)
def lK164 : List (Nat × Nat) := kK162.left.get (by decide +kernel)
def kK193 : CarryCmd := (tCq (kTabL pairs2)).hereCore.eng.carry.queue.head (by decide +kernel)
def kK224 : CarryCmd := (tCq kW).hereCore.eng.carry.queue.head (by decide +kernel)
def kK255 : CarryCmd := (tCq (cq CarryKind.status none)).hereCore.eng.carry.queue.head (by decide +kernel)
def sK287 : State := withCore (fun c => { c with seeding := true })

theorem witness_CarriesDrainsAndDrawsComplete :
    (cK0.carryCycle 50 18 ((tMsg (bCarry 1048576 pairs1) expC).core 1).eng.nextId 0 1048576 pairs1 = CarryStep.made (stE (dc pairs1)) (stK (dc pairs1)) (stL (dc pairs1)) (stN (dc pairs1)) ∧
     pairs1 ≠ []) ∧
    (cK0.carryCycle 50 18 ((tMsg (bCarry 1048576 pairs1) expC).core 1).eng.nextId 0 1048576 pairs1 = CarryStep.made (stE (dc pairs1)) (stK (dc pairs1)) (stL (dc pairs1)) (stN (dc pairs1)) ∧
     cK0.eng.retired = []) ∧
    ((tMsg bDrain expo).onACore ∧ (tMsg bDrain expo).msg (tMsg bDrain expo).focus.idx = some (dMsg bDrain) ∧
     (dMsg bDrain).body = MsgBody.drain 3 1 3 1 ∧ hK3.allocated 1 = true ∧ hK3.bandOpen 1 3 1 = true ∧
     (tMsg bDrain expo).isMember hK3 1 ((tMsg bDrain expo).core (dMsg bDrain).src).lcore = true) ∧
    (tState.onACore ∧ tState.hereCore.seedReady = true ∧ tState.hereCore.q.need = 0) ∧
    ((tMsg bDrain unal).onACore ∧ (tMsg bDrain unal).msg (tMsg bDrain unal).focus.idx = some (dMsg bDrain) ∧
     (dMsg bDrain).body = MsgBody.drain 3 1 3 1 ∧ hK15.allocated 1 = false) ∧
    ((tMsg bImage hasM).onACore ∧ (tMsg bImage hasM).msg (tMsg bImage hasM).focus.idx = some (dMsg bImage) ∧
     (dMsg bImage).body = MsgBody.image 3 rowK1 ∧ ((tMsg bImage hasM).core (dMsg bImage).dst).mCmd 3 = some xK32 ∧
     xK32.work = MWork.drain 1 1 3 1 none) ∧
    (sK38.onACore ∧ sK38.msg sK38.focus.idx = some mK41 ∧ sK38.windowTurn mK41 = true ∧ mK41.src ≠ mK41.dst ∧
     mK41.body = MsgBody.carry 3 1048576 16 0 1 pairs1 ∧
     List.findSome? (fun (p : Nat × Nat) => sK38.refusal hK44 1 72 1 (↑1048576 + 4 * ↑p.fst) 4 (sK38.core mK41.src).lcore) pairs1 = some yK45) ∧
    (sK39.onACore ∧ sK39.msg sK39.focus.idx = some mK41 ∧ sK39.windowTurn mK41 = true ∧ mK41.src ≠ mK41.dst ∧
     mK41.body = MsgBody.carry 3 1048576 16 0 1 pairs1 ∧
     List.findSome? (fun (p : Nat × Nat) => sK39.refusal hK61 1 72 1 (↑1048576 + 4 * ↑p.fst) 4 (sK39.core mK41.src).lcore) pairs1 = none ∧
     hK61.carryCycle sK39.now 18 hK61.eng.nextId 0 1048576 pairs1 = CarryStep.made (stE (dc pairs1)) (stK (dc pairs1)) (stL (dc pairs1)) (stN (dc pairs1))) ∧
    ((tCq kTab (strm 3)).onACore ∧ (tCq kTab (strm 3)).hereCore.eng.carry.queue = kK98 :: restK6 ∧
     (tCq kTab (strm 3)).hereCore.eng.carry.remote = none ∧ (tCq kTab (strm 3)).hereCore.heldIn 2 = false ∧
     kK98.at_ ≤ (tCq kTab (strm 3)).now ∧ (tCq kTab (strm 3)).hereCore.sbClear kK98.id = true ∧ kK98.failed = false ∧
     kK98.kind = CarryKind.table 1048576 16 2 ∧ kK98.left = none ∧
     (tCq kTab (strm 3)).hereCore.windowPairs = some lK102 ∧
     (∀ (p : Nat × Nat), p ∈ lK102 → p.fst = 4294967295 ∨ p.fst < 16)) ∧
    ((tCq kTab (strm 300)).onACore ∧ (tCq kTab (strm 300)).hereCore.eng.carry.queue = kK130 :: restK6 ∧
     (tCq kTab (strm 300)).hereCore.eng.carry.remote = none ∧ (tCq kTab (strm 300)).hereCore.heldIn 2 = false ∧
     kK130.at_ ≤ (tCq kTab (strm 300)).now ∧ (tCq kTab (strm 300)).hereCore.sbClear kK130.id = true ∧
     kK130.failed = false ∧ kK130.kind = CarryKind.table 1048576 16 2 ∧ kK130.left = none ∧
     (tCq kTab (strm 300)).hereCore.windowPairs = some lK134 ∧
     List.find? (fun (p : Nat × Nat) => p.fst != 4294967295 && decide (16 ≤ p.fst)) lK134 = some pK135) ∧
    ((tCq (kTabL pairs1)).onACore ∧ (tCq (kTabL pairs1)).hereCore.eng.carry.queue = kK162 :: restK6 ∧
     (tCq (kTabL pairs1)).hereCore.eng.carry.remote = none ∧ (tCq (kTabL pairs1)).hereCore.heldIn 2 = false ∧
     kK162.at_ ≤ (tCq (kTabL pairs1)).now ∧ (tCq (kTabL pairs1)).hereCore.sbClear kK162.id = true ∧
     kK162.failed = false ∧ kK162.kind = CarryKind.table 1048576 16 2 ∧ kK162.left = some lK164) ∧
    ((tCq (kTabL pairs1)).onACore ∧ (tCq (kTabL pairs1)).hereCore.eng.carry.queue = kK162 :: restK6 ∧
     (tCq (kTabL pairs1)).hereCore.carryCycle (tCq (kTabL pairs1)).now 16 kK162.id kK162.op 1048576 pairs1 = CarryStep.made eK94 2 leftK96 false ∧
     leftK96 = [] ∧ kK162.done + 1 ≠ 2) ∧
    ((tCq (kTabL pairs1)).onACore ∧ (tCq (kTabL pairs1)).hereCore.eng.carry.queue = kK162 :: restK6 ∧
     (tCq (kTabL pairs1)).hereCore.carryCycle (tCq (kTabL pairs1)).now 16 kK162.id kK162.op 1048576 pairs1 = CarryStep.made eK94 2 leftK96 false ∧
     leftK96 = [] ∧ kK162.done + 1 = 1) ∧
    ((tCq (kTabL pairs2)).onACore ∧ (tCq (kTabL pairs2)).hereCore.eng.carry.queue = kK193 :: restK6 ∧
     (tCq (kTabL pairs2)).hereCore.carryCycle (tCq (kTabL pairs2)).now 16 kK193.id kK193.op 1048576 pairs2 = CarryStep.made eK95 1 leftK97 false ∧
     leftK97 ≠ []) ∧
    ((tCq kW).onACore ∧ (tCq kW).hereCore.eng.carry.queue = kK224 :: restK6 ∧
     (tCq kW).hereCore.eng.carry.remote = none ∧ (tCq kW).hereCore.heldIn 2 = false ∧ kK224.at_ ≤ (tCq kW).now ∧
     (tCq kW).hereCore.sbClear kK224.id = true ∧ kK224.failed = false ∧ kK224.kind = CarryKind.word 1048576 9#32) ∧
    ((tCq (cq CarryKind.status none)).onACore ∧
     (tCq (cq CarryKind.status none)).hereCore.eng.carry.queue = kK255 :: restK6 ∧
     (tCq (cq CarryKind.status none)).hereCore.eng.carry.remote = none ∧
     (tCq (cq CarryKind.status none)).hereCore.heldIn 2 = false ∧ kK255.at_ ≤ (tCq (cq CarryKind.status none)).now ∧
     (tCq (cq CarryKind.status none)).hereCore.sbClear kK255.id = true ∧ kK255.failed = false ∧
     kK255.kind = CarryKind.status) ∧
    (sK287.onACore ∧ sK287.hereCore.seedReady = false) := by
  and_intros <;> decide +kernel

end Carrying

namespace Moving

def cc (k : CopyKind) (f : CopyCmd → CopyCmd := id) : CopyCmd := f { id := 3, slot := 4, bundle := 0x2000000004, seq := 1, pidx := 0, code := 2, kind := k, nest := tNest 0 0, src := 0x100000, dst := 0x110000, n := 1, value := 0x1122334455667788 }
def tCh (m : CopyCmd) (g : Core → Core := id) : State := let s := focusAs (cleared (tCopy {})) fun f => { f with idx := 1 }; s.setCore 0 (g { s.hereCore with mem := s.hereCore.mem.write 0x100000 [1,2,3,4,5,6,7,8,9], eng := { s.hereCore.eng with nextId := 9, chans := [(1, { queue := [m, cc .go fun m => { m with id := 5, nest := tNest 1 0 }] })] } })
def run (m : CopyCmd) : CopyCmd := { m with started := true, at_ := 48 }
def mWait := cc .go
def mRun := run (cc .go)
def mFill := run (cc .fill)
def mDev (f : CopyCmd → CopyCmd := id) := run (cc .go fun m => f { m with nest := tNest 0 1, dst := 0x8000, dc := tCap, ahead := (List.range 64).map (BitVec.ofNat 8), dpages := [tPage] })
def mAgain (n : Nat) := { run (cc .go fun m => { m with nest := tNest 1 0, src := n, sc := tCap, scr := 1 }) with stale := true }
def mDone := run (cc .go fun m => { m with moved := 64, note := true })
def mFail := run (cc .go fun m => { m with status := some 3, note := true })
def mMark := cc (.mark 9) fun m => { m with note := true }
def mInv := cc .inv
def tRes (r : List Result) : State := let s := tCh mRun; s.setCore 0 { s.hereCore with eng := { s.hereCore.eng with results := [(1, r)] } }
def agV (m : CopyCmd) : State := ((tCh m).probeAgain 0 1 m).2
def n1k : Nest := { tNest 0 0 with inner := 1024 }
def mOv2 := run (cc .go fun m => { m with nest := n1k, dst := 0x100040 })
def mMis := run (cc .go fun m => { m with nest := tNest 1 0, src := 0x80E0, sc := tCap, spages := [tPage] })
def agS : Nat × Nat := match ((tCh (mAgain 0x800000)).probeAgain 0 1 (mAgain 0x800000)).1 with | Xfer.stop a b => (a,b) | _ => (0,0)
def mAcq := cc .go fun m => { m with acq := true, scp := 2 }
def tAcq : State := { tCh mAcq with farColl := [{ part := 0, group := 1, lcore := 1, n := 0, starts := 0, bytes := [] }] }
def mHeld := mAgain 0x8000
def tUnits (u : TransUnit) : State := { (tCh mHeld).onPart 0 (fun p => { p with inval := some { all := true, base := 0, units := 0, no := 0, at_ := 10 } }) with units := [(0, u)] }
def tStale : State := tUnits {}
def tHeld : State := tUnits { walks := [{ part := 0, unit := 0x2000008, held := true }] }
def mMarked := { mDone with hostMarks := [3] }
def mLast := run (cc .go fun m => { m with nest := n1k, dst := 0x110000, rel := true, scp := 2, relOut := [1] })
def tLast : State := tCh mLast fun c => { c with eng := { c.eng with farOut := [(1, 7, 0)] } }
def bsL1 : List Byte := List.replicate 32 (0 : Byte)
def mL2 : CopyCmd := ((tCh mWait).hereCore.chan (tCh mWait).focus.idx).queue.head (by decide +kernel)
def restL3 : List CopyCmd := ((tCh mWait).hereCore.chan (tCh mWait).focus.idx).queue.tail
def xL4 : Channel := (tCh mWait).hereCore.chan (tCh mWait).focus.idx
def mL8 : CopyCmd := ((tCh mRun).hereCore.chan (tCh mRun).focus.idx).queue.head (by decide +kernel)
def restL9 : List CopyCmd := ((tCh mRun).hereCore.chan (tCh mRun).focus.idx).queue.tail
def xL10 : Channel := (tCh mRun).hereCore.chan (tCh mRun).focus.idx
def readPortsL11 : Bool × Core := (tCh mRun).hereCore.enginePorts (tCh mRun).now (8 + (tCh mRun).focus.idx) (if mL8.nest.skind = 0 then portsOf mL8.srcPiece.at_.toNat mL8.srcPiece.len false else [])
def mL14 : CopyCmd := ((tCh mFill).hereCore.chan (tCh mFill).focus.idx).queue.head (by decide +kernel)
def restL15 : List CopyCmd := ((tCh mFill).hereCore.chan (tCh mFill).focus.idx).queue.tail
def xL16 : Channel := (tCh mFill).hereCore.chan (tCh mFill).focus.idx
def bytesL18 : List Byte := if mL14.kind = CopyKind.fill then fillBytes mL14.value mL14.dstPiece.at_ mL14.dstPiece.len else List.take mL14.dstPiece.len mL14.ahead
def mL26 : CopyCmd := ((tCh mDev).hereCore.chan (tCh mDev).focus.idx).queue.head (by decide +kernel)
def restL27 : List CopyCmd := ((tCh mDev).hereCore.chan (tCh mDev).focus.idx).queue.tail
def xL28 : Channel := (tCh mDev).hereCore.chan (tCh mDev).focus.idx
def bytesL30 : List Byte := if mL26.kind = CopyKind.fill then fillBytes mL26.value mL26.dstPiece.at_ mL26.dstPiece.len else List.take mL26.dstPiece.len mL26.ahead
def vL31 : State := (((tCh mDev).setCore (tCh mDev).focus.core ((tCh mDev).hereCore.enginePorts (tCh mDev).now (8 + (tCh mDev).focus.idx) (if mL26.localDst = true then portsOf mL26.dstPiece.at_.toNat mL26.dstPiece.len true else [])).snd).cmdWrite (tCh mDev).focus.core mL26.dc mL26.dpages mL26.dstPiece.at_ bytesL30).snd
def mL44 : CopyCmd := ((tCh mDone).hereCore.chan (tCh mDone).focus.idx).queue.head (by decide +kernel)
def restL45 : List CopyCmd := ((tCh mDone).hereCore.chan (tCh mDone).focus.idx).queue.tail
def xL46 : Channel := (tCh mDone).hereCore.chan (tCh mDone).focus.idx
def mL50 : CopyCmd := ((tCh mFail).hereCore.chan (tCh mFail).focus.idx).queue.head (by decide +kernel)
def restL51 : List CopyCmd := ((tCh mFail).hereCore.chan (tCh mFail).focus.idx).queue.tail
def xL52 : Channel := (tCh mFail).hereCore.chan (tCh mFail).focus.idx
def mL56 : CopyCmd := ((tCh mMark).hereCore.chan (tCh mMark).focus.idx).queue.head (by decide +kernel)
def restL57 : List CopyCmd := ((tCh mMark).hereCore.chan (tCh mMark).focus.idx).queue.tail
def xL58 : Channel := (tCh mMark).hereCore.chan (tCh mMark).focus.idx
def mL62 : CopyCmd := ((tCh mInv).hereCore.chan (tCh mInv).focus.idx).queue.head (by decide +kernel)
def restL63 : List CopyCmd := ((tCh mInv).hereCore.chan (tCh mInv).focus.idx).queue.tail
def xL64 : Channel := (tCh mInv).hereCore.chan (tCh mInv).focus.idx
def mL68 : CopyCmd := ((tRes [Result.value 2 0 (some 7#64)]).hereCore.chan (tRes [Result.value 2 0 (some 7#64)]).focus.idx).queue.head (by decide +kernel)
def restL69 : List CopyCmd := ((tRes [Result.value 2 0 (some 7#64)]).hereCore.chan (tRes [Result.value 2 0 (some 7#64)]).focus.idx).queue.tail
def xL70 : Channel := (tRes [Result.value 2 0 (some 7#64)]).hereCore.chan (tRes [Result.value 2 0 (some 7#64)]).focus.idx
def mL74 : CopyCmd := ((tRes [Result.wait 2 2]).hereCore.chan (tRes [Result.wait 2 2]).focus.idx).queue.head (by decide +kernel)
def restL75 : List CopyCmd := ((tRes [Result.wait 2 2]).hereCore.chan (tRes [Result.wait 2 2]).focus.idx).queue.tail
def xL76 : Channel := (tRes [Result.wait 2 2]).hereCore.chan (tRes [Result.wait 2 2]).focus.idx
def mL80 : CopyCmd := ((tCh (mAgain 32768)).hereCore.chan (tCh (mAgain 32768)).focus.idx).queue.head (by decide +kernel)
def restL81 : List CopyCmd := ((tCh (mAgain 32768)).hereCore.chan (tCh (mAgain 32768)).focus.idx).queue.tail
def xL82 : Channel := (tCh (mAgain 32768)).hereCore.chan (tCh (mAgain 32768)).focus.idx
def mL86 : CopyCmd := ((tCh (mAgain 8388608)).hereCore.chan (tCh (mAgain 8388608)).focus.idx).queue.head (by decide +kernel)
def restL87 : List CopyCmd := ((tCh (mAgain 8388608)).hereCore.chan (tCh (mAgain 8388608)).focus.idx).queue.tail
def xL88 : Channel := (tCh (mAgain 8388608)).hereCore.chan (tCh (mAgain 8388608)).focus.idx
def mL92 : CopyCmd := ((tCh mOv2).hereCore.chan (tCh mOv2).focus.idx).queue.head (by decide +kernel)
def restL93 : List CopyCmd := ((tCh mOv2).hereCore.chan (tCh mOv2).focus.idx).queue.tail
def xL94 : Channel := (tCh mOv2).hereCore.chan (tCh mOv2).focus.idx
def readPortsL95 : Bool × Core := (tCh mOv2).hereCore.enginePorts (tCh mOv2).now (8 + (tCh mOv2).focus.idx) (if mL92.nest.skind = 0 then portsOf mL92.srcPiece.at_.toNat mL92.srcPiece.len false else [])
def mL100 : CopyCmd := ((tCh mMis).hereCore.chan (tCh mMis).focus.idx).queue.head (by decide +kernel)
def restL101 : List CopyCmd := ((tCh mMis).hereCore.chan (tCh mMis).focus.idx).queue.tail
def xL102 : Channel := (tCh mMis).hereCore.chan (tCh mMis).focus.idx
def readPortsL103 : Bool × Core := (tCh mMis).hereCore.enginePorts (tCh mMis).now (8 + (tCh mMis).focus.idx) (if mL100.nest.skind = 0 then portsOf mL100.srcPiece.at_.toNat mL100.srcPiece.len false else [])
def vL106 : State := (((tCh mMis).setCore (tCh mMis).focus.core readPortsL103.snd).cmdRead (tCh mMis).focus.core mL100.sc mL100.spages mL100.srcPiece.at_ mL100.srcPiece.len).snd

theorem witness_CopiesStartMoveAndComplete :
    ((tCh mWait).onACore ∧ xL4.queue = mL2 :: restL3 ∧
     (tCh mWait).hereCore.chanWaits (tCh mWait).focus.idx = false ∧ (tCh mWait).focus.idx < 8 ∧ mL2.status = none ∧
     mL2.stale = false ∧ mL2.started = false ∧ (tCh mWait).hereCore.sbClear mL2.id = true ∧
     (tCh mWait).hereCore.copyHeld (tCh mWait).focus.idx mL2 = false ∧ mL2.fills = none ∧
     (tCh mWait).acquireWaits (tCh mWait).hereCore mL2 = false) ∧
    ((tCh mRun).onACore ∧ xL10.queue = mL8 :: restL9 ∧
     (tCh mRun).hereCore.chanWaits (tCh mRun).focus.idx = false ∧ (tCh mRun).focus.idx < 8 ∧ mL8.status = none ∧
     mL8.stale = false ∧
     (mL8.started = true ∨ (tCh mRun).hereCore.sbClear mL8.id = false ∨ (tCh mRun).hereCore.copyHeld (tCh mRun).focus.idx mL8 = true)) ∧
    ((tCh mRun).onACore ∧ xL10.queue = mL8 :: restL9 ∧
     (tCh mRun).hereCore.chanWaits (tCh mRun).focus.idx = false ∧ mL8.status = none ∧ mL8.started = true ∧ mL8.stale = false ∧
     mL8.at_ ≤ (tCh mRun).now ∧ mL8.scq = [] ∧ mL8.scalesTurn = false ∧ mL8.moved < mL8.nest.total ∧
     List.find? (fun (f : Fill) => f.id == mL8.id) (tCh mRun).hereCore.eng.fills = none ∧
     (tCh mRun).hereCore.eng.retired = [] ∧ 0 < mL8.dstPiece.len ∧ mL8.kind = CopyKind.go ∧ mL8.nest.skind = 0 ∧
     mL8.nest.dkind = 0 ∧ mL8.ahead = [] ∧ 0 < mL8.srcPiece.len ∧ mL8.wanted ≤ mL8.srcPiece.len ∧
     readPortsL11.fst = true ∧
     (mL8.moved + mL8.dstPiece.len < mL8.nest.total ∨ (tCh mRun).hereCore.lastHeld mL8 = false) ∧
     (tCh mRun).hereCore.engineFault mL8.id mL8.srcPiece.at_.toNat mL8.srcPiece.len (8 + (tCh mRun).focus.idx) = none ∧
     (tCh mRun).hereCore.engineFault mL8.id mL8.dstPiece.at_.toNat mL8.dstPiece.len (8 + (tCh mRun).focus.idx) = none ∧
     (((readPortsL11.snd.onCopy (tCh mRun).focus.idx mL8.id fun (m : CopyCmd) => m.take ((tCh mRun).hereCore.mem.bytes mL8.srcPiece.at_.toNat mL8.srcPiece.len) [] []).stepCopy (tCh mRun).now (tCh mRun).focus.idx mL8.id).enginePorts (tCh mRun).now (8 + (tCh mRun).focus.idx) (if mL8.localDst = true then portsOf mL8.dstPiece.at_.toNat mL8.dstPiece.len true else [])).fst = true ∧
     mL8.dstPiece.len ≤ mL8.srcPiece.len) ∧
    ((tCh mFill).onACore ∧ xL16.queue = mL14 :: restL15 ∧
     (tCh mFill).hereCore.chanWaits (tCh mFill).focus.idx = false ∧
     (mL14.status = none ∧ mL14.started = true ∧ mL14.stale = false ∧ mL14.at_ ≤ (tCh mFill).now ∧ mL14.scq = [] ∧ mL14.scalesTurn = false ∧ mL14.moved < mL14.nest.total ∧ List.find? (fun (f : Fill) => f.id == mL14.id) (tCh mFill).hereCore.eng.fills = none ∧ (tCh mFill).hereCore.eng.retired = [] ∧ 0 < mL14.dstPiece.len) ∧
     mL14.wanted ≤ mL14.ahead.length ∧
     (mL14.moved + mL14.dstPiece.len < mL14.nest.total ∨ (tCh mFill).hereCore.lastHeld mL14 = false) ∧
     ((tCh mFill).hereCore.enginePorts (tCh mFill).now (8 + (tCh mFill).focus.idx) (if mL14.localDst = true then portsOf mL14.dstPiece.at_.toNat mL14.dstPiece.len true else [])).fst = true ∧
     (mL14.kind = CopyKind.fill ∨ mL14.kind = CopyKind.go) ∧ mL14.nest.dkind = 0 ∧
     (tCh mFill).hereCore.engineFault mL14.id mL14.dstPiece.at_.toNat bytesL18.length (8 + (tCh mFill).focus.idx) = none ∧
     mL14.dstPiece.len ≤ bytesL18.length) ∧
    ((tCh mDev).onACore ∧ xL28.queue = mL26 :: restL27 ∧
     (tCh mDev).hereCore.chanWaits (tCh mDev).focus.idx = false ∧
     (mL26.status = none ∧ mL26.started = true ∧ mL26.stale = false ∧ mL26.at_ ≤ (tCh mDev).now ∧ mL26.scq = [] ∧ mL26.scalesTurn = false ∧ mL26.moved < mL26.nest.total ∧ List.find? (fun (f : Fill) => f.id == mL26.id) (tCh mDev).hereCore.eng.fills = none ∧ (tCh mDev).hereCore.eng.retired = [] ∧ 0 < mL26.dstPiece.len) ∧
     mL26.wanted ≤ mL26.ahead.length ∧
     (mL26.moved + mL26.dstPiece.len < mL26.nest.total ∨ (tCh mDev).hereCore.lastHeld mL26 = false) ∧
     ((tCh mDev).hereCore.enginePorts (tCh mDev).now (8 + (tCh mDev).focus.idx) (if mL26.localDst = true then portsOf mL26.dstPiece.at_.toNat mL26.dstPiece.len true else [])).fst = true ∧
     (mL26.kind = CopyKind.fill ∨ mL26.kind = CopyKind.go) ∧ mL26.nest.dkind = 1 ∧ mL26.nest.fmt = 0 ∧
     ((tCh mDev).setCore (tCh mDev).focus.core ((tCh mDev).hereCore.enginePorts (tCh mDev).now (8 + (tCh mDev).focus.idx) (if mL26.localDst = true then portsOf mL26.dstPiece.at_.toNat mL26.dstPiece.len true else [])).snd).cmdWrite (tCh mDev).focus.core mL26.dc mL26.dpages mL26.dstPiece.at_ bytesL30 = (Xfer.ok tPage, vL31)) ∧
    ((tCh mDone).onACore ∧ xL46.queue = mL44 :: restL45 ∧
     (tCh mDone).hereCore.chanWaits (tCh mDone).focus.idx = false ∧ mL44.status = none ∧
     (tCh mDone).hereCore.copyDone mL44 = true ∧ (∀ (k : Nat), mL44.kind ≠ CopyKind.mark k)) ∧
    ((tCh mFail).onACore ∧ xL52.queue = mL50 :: restL51 ∧
     (tCh mFail).hereCore.chanWaits (tCh mFail).focus.idx = false ∧ mL50.status = some 3 ∧
     (∀ (op : Nat), mL50.kind ≠ CopyKind.accOne op) ∧ (∀ (k : Nat), mL50.kind ≠ CopyKind.mark k)) ∧
    ((tCh mMark).onACore ∧ xL58.queue = mL56 :: restL57 ∧
     (tCh mMark).hereCore.chanWaits (tCh mMark).focus.idx = false ∧ mL56.status = none ∧ mL56.kind = CopyKind.mark 9) ∧
    ((tCh mInv).onACore ∧ xL64.queue = mL62 :: restL63 ∧
     (tCh mInv).hereCore.chanWaits (tCh mInv).focus.idx = false ∧ mL62.status = none ∧ mL62.kind = CopyKind.inv) ∧
    ((tRes [Result.value 2 0 (some 7#64)]).onACore ∧ xL70.queue = mL68 :: restL69 ∧
     (tRes [Result.value 2 0 (some 7#64)]).hereCore.chanWaits (tRes [Result.value 2 0 (some 7#64)]).focus.idx = false ∧
     ((tRes [Result.value 2 0 (some 7#64)]).hereCore.queue (tRes [Result.value 2 0 (some 7#64)]).focus.idx).length < queueDepth (tRes [Result.value 2 0 (some 7#64)]).focus.idx ∧
     Tab.look [] (tRes [Result.value 2 0 (some 7#64)]).hereCore.eng.results (tRes [Result.value 2 0 (some 7#64)]).focus.idx = [Result.value 2 0 (some 7#64)]) ∧
    ((tRes [Result.wait 2 2]).onACore ∧ xL76.queue = mL74 :: restL75 ∧
     (tRes [Result.wait 2 2]).hereCore.chanWaits (tRes [Result.wait 2 2]).focus.idx = false ∧
     ((tRes [Result.wait 2 2]).hereCore.queue (tRes [Result.wait 2 2]).focus.idx).length < queueDepth (tRes [Result.wait 2 2]).focus.idx ∧
     Tab.look [] (tRes [Result.wait 2 2]).hereCore.eng.results (tRes [Result.wait 2 2]).focus.idx = [Result.wait 2 2] ∧
     (tRes [Result.wait 2 2]).hereCore.openBefore 2 2 = false ∧
     (∀ (k : Nat), k < 8 → Nat.testBit 2 k = true → ∀ (i : Nat), i ∈ ((tRes [Result.wait 2 2]).hereCore.chan k).faults → 2 ≤ i)) ∧
    ((tCh (mAgain 32768)).onACore ∧ xL82.queue = mL80 :: restL81 ∧
     (tCh (mAgain 32768)).hereCore.chanWaits (tCh (mAgain 32768)).focus.idx = false ∧ (tCh (mAgain 32768)).focus.idx < 8 ∧
     mL80.status = none ∧ mL80.stale = true ∧ mL80.started = true ∧
     (tCh (mAgain 32768)).probeAgain (tCh (mAgain 32768)).focus.core (tCh (mAgain 32768)).focus.idx mL80 = (Xfer.ok (), agV (mAgain 32768))) ∧
    ((tCh (mAgain 8388608)).onACore ∧ xL88.queue = mL86 :: restL87 ∧
     (tCh (mAgain 8388608)).hereCore.chanWaits (tCh (mAgain 8388608)).focus.idx = false ∧ (tCh (mAgain 8388608)).focus.idx < 8 ∧
     mL86.status = none ∧ mL86.stale = true ∧ mL86.started = true ∧
     (tCh (mAgain 8388608)).probeAgain (tCh (mAgain 8388608)).focus.core (tCh (mAgain 8388608)).focus.idx mL86 = (Xfer.stop agS.fst agS.snd, agV (mAgain 8388608))) ∧
    ((tCh mOv2).onACore ∧ xL94.queue = mL92 :: restL93 ∧
     (tCh mOv2).hereCore.chanWaits (tCh mOv2).focus.idx = false ∧ mL92.status = none ∧ mL92.started = true ∧
     mL92.stale = false ∧ mL92.at_ ≤ (tCh mOv2).now ∧ mL92.scq = [] ∧ mL92.scalesTurn = false ∧
     mL92.moved < mL92.nest.total ∧
     List.find? (fun (f : Fill) => f.id == mL92.id) (tCh mOv2).hereCore.eng.fills = none ∧
     (tCh mOv2).hereCore.eng.retired = [] ∧ 0 < mL92.dstPiece.len ∧
     (mL92.kind = CopyKind.go ∨ mL92.kind = CopyKind.mcast ∨ mL92.kind = CopyKind.shell) ∧ mL92.nest.skind ≤ 1 ∧
     mL92.ahead.length + mL92.srcPiece.len < mL92.wanted ∧
     (mL92.kind = CopyKind.mcast → (tCh mOv2).hereCore.castTurn mL92.id = true) ∧ readPortsL95.fst = true ∧
     mL92.nest.skind = 0 ∧
     (tCh mOv2).hereCore.engineFault mL92.id mL92.srcPiece.at_.toNat mL92.srcPiece.len (8 + (tCh mOv2).focus.idx) = none) ∧
    ((tCh mMis).onACore ∧ xL102.queue = mL100 :: restL101 ∧
     (tCh mMis).hereCore.chanWaits (tCh mMis).focus.idx = false ∧ mL100.status = none ∧ mL100.started = true ∧
     mL100.stale = false ∧ mL100.at_ ≤ (tCh mMis).now ∧ mL100.scq = [] ∧ mL100.scalesTurn = false ∧
     mL100.moved < mL100.nest.total ∧
     List.find? (fun (f : Fill) => f.id == mL100.id) (tCh mMis).hereCore.eng.fills = none ∧
     (tCh mMis).hereCore.eng.retired = [] ∧ 0 < mL100.dstPiece.len ∧
     (mL100.kind = CopyKind.go ∨ mL100.kind = CopyKind.mcast ∨ mL100.kind = CopyKind.shell) ∧ mL100.nest.skind ≤ 1 ∧
     mL100.ahead.length + mL100.srcPiece.len < mL100.wanted ∧
     (mL100.kind = CopyKind.mcast → (tCh mMis).hereCore.castTurn mL100.id = true) ∧ readPortsL103.fst = true ∧
     mL100.nest.skind = 1 ∧ mL100.nest.fmt = 0 ∧ bsL1.length = mL100.srcPiece.len ∧
     ((tCh mMis).setCore (tCh mMis).focus.core readPortsL103.snd).cmdRead (tCh mMis).focus.core mL100.sc mL100.spages mL100.srcPiece.at_ mL100.srcPiece.len = (Xfer.ok (bsL1, tPage), vL106)) ∧
    (tAcq.onACore ∧ (tAcq.hereCore.chan tAcq.focus.idx).queue = mAcq :: (tAcq.hereCore.chan tAcq.focus.idx).queue.tail ∧
     tAcq.focus.idx < 8 ∧ mAcq.status = none ∧ mAcq.stale = false ∧ mAcq.started = false ∧
     tAcq.hereCore.sbClear mAcq.id = true ∧ tAcq.hereCore.copyHeld tAcq.focus.idx mAcq = false ∧
     tAcq.hereCore.chanWaits tAcq.focus.idx = false ∧ tAcq.acquireWaits tAcq.hereCore mAcq = true) ∧
    (tStale.onACore ∧ (tStale.hereCore.chan tStale.focus.idx).queue = mHeld :: (tStale.hereCore.chan tStale.focus.idx).queue.tail ∧
     tStale.focus.idx < 8 ∧ mHeld.status = none ∧ mHeld.stale = true ∧ mHeld.started = true ∧
     tStale.hereCore.chanWaits tStale.focus.idx = false ∧
     tStale.probeAgain tStale.focus.core tStale.focus.idx mHeld = (Xfer.wait false, (tStale.probeAgain 0 1 mHeld).2)) ∧
    (tHeld.onACore ∧ (tHeld.hereCore.chan tHeld.focus.idx).queue = mHeld :: (tHeld.hereCore.chan tHeld.focus.idx).queue.tail ∧
     tHeld.focus.idx < 8 ∧ mHeld.status = none ∧ mHeld.stale = true ∧ mHeld.started = true ∧
     tHeld.hereCore.chanWaits tHeld.focus.idx = false ∧
     tHeld.probeAgain tHeld.focus.core tHeld.focus.idx mHeld = (Xfer.wait true, (tHeld.probeAgain 0 1 mHeld).2) ∧
     ((tHeld.probeAgain 0 1 mHeld).2.part tHeld.hereCore.part).inval.isSome = true) ∧
    ((tCh mMarked).onACore ∧ ((tCh mMarked).hereCore.chan (tCh mMarked).focus.idx).queue = mMarked :: ((tCh mMarked).hereCore.chan (tCh mMarked).focus.idx).queue.tail ∧
     (tCh mMarked).hereCore.chanWaits (tCh mMarked).focus.idx = false ∧ mMarked.status = none ∧ mMarked.hostMarks ≠ [] ∧
     (tCh mMarked).hereCore.copyDone mMarked = true ∧ (∀ (k : Nat), mMarked.kind ≠ CopyKind.mark k)) ∧
    (tLast.onACore ∧ tLast.hereCore.chanWaits tLast.focus.idx = false ∧ mLast.moved + mLast.dstPiece.len < mLast.nest.total ∧
     tLast.hereCore.lastHeld mLast = true) := by
  and_intros <;> 
    first | exact not_mark (by decide +kernel) | exact not_accOne (by decide +kernel) | decide +kernel

end Moving

namespace Peering

def dMsg (b : MsgBody) : Msg := { no := 7, at_ := 40, src := 0, dst := 1, body := b }
def cc (k : CopyKind) (f : CopyCmd → CopyCmd := id) : CopyCmd := f { id := 3, slot := 4, bundle := 0x2000000004, seq := 1, pidx := 0, code := 2, kind := k, nest := tNest 0 0, src := 0x100000, dst := 0x110000, n := 1, value := 0x1122334455667788, open_ := 1, started := true }
def tPass : Pass := { onto := false, banks := [⟨0, 1, 0⟩], ab := 0, ar := 8, count := 2, addr := 0x100000, remote := some 1, grp := 1, planar := false, half := 0, tag := 0, afmt := 0, planes := 8, storage := 0, asked := true, at_ := 40 }
def mPass : MCmd := { id := 3, bundle := 0x2000000004, scyc := 4, at_ := 45, work := .pass tPass, uses := [], begun := true }
def tMsg (b : MsgBody) (k : Nat) : State := let s := focusAs tBanks fun f => { f with idx := 7 }
  { (s.setCore 0 { s.hereCore with eng := { s.hereCore.eng with mq := [mPass], chans := [(1, { queue := [cc .mcast] })] } }).setCore 1 { s.hereCore with num := 1, eng := { s.hereCore.eng with exports := [{ addr := if k = 2 then 0x100000 else 0x50000, len := 4096, grp := 1, kind := k, id := 0, from_ := 0, live := true }] } } with msgs := [dMsg b] }
def bRead (k : Nat) : MsgBody := .peerRead 3 1 0x50010 k 1
def bOp (k : Nat) : MsgBody := .operand 3 0x500F0 k 1 0 []
def bData (a : Int) (k : Nat) : MsgBody := .data 3 1 a (List.replicate k 5) (some 2) 1
def bWord : MsgBody := .word 3 1 99
def tU (m : CopyCmd) (f : State → State := id) : State := let s := focusAs (cleared (tCopy {})) fun f => { f with idx := 1 }; f (s.setCore 0 { s.hereCore with eng := { s.hereCore.eng with nextId := 9, chans := [(1, { queue := [m] })] } })
def mAcc := cc (.accOne 0) fun m => { m with dst := 0x8000, dc := tCap, dpages := [tPage], open_ := 0, at_ := 40 }
def bigP : Page := { tPage with size := 0x40000000 }
def mRow (d : Int) := cc .rowCopy fun m => { m with src := 0x4000, dst := d, sc := tCap, dc := tCap, spages := [bigP], dpages := [bigP], n := 2, at_ := 40 }
def mZero := cc .rowZero fun m => { m with dst := 0x8000, dc := tCap, dpages := [tPage], n := 2, at_ := 40 }
def wRec : Nat := 1 + 64 * 2^16 + 0 * 2^32 + 10 * 2^34 + 10 * 2^38 + 0 * 2^48 + 4 * 2^64 + 1 * 2^80 + 0x1000 * 2^96 + 64 * 2^144 + 4 * 2^176 + 0x2000 * 2^208 + 0x100000 * 2^304
def mWalk := cc .walk fun m => { m with src := 0x100000, sc := { tCap with perm := 0x3FF }, dc := tCap, scr := 1, dcr := 1, grp := 1, n := 1, at_ := 40, open_ := 0 }
def tW (x : Nat) : State := tU mWalk fun s => s.setCore 0 { s.hereCore with mem := s.hereCore.mem.write 0x100000 (leBytes 64 x) }
def planR : Plan := { kind := 0, type := 10, op := 0, count := 2 }
def mColl := cc .coll fun m => { m with src := 0x4000, dst := 0x8000, sc := tCap, dc := tCap, spages := [tPage], dpages := [tPage], n := 0, grp := 1, plan := planR, at_ := 40, open_ := 0 }
def tWd (m : CopyCmd) : State := tU m fun s => s.onPart 0 fun p => { p with inval := some { all := true, base := 0, units := 0, no := 0, at_ := 10 } }
def tWl (m : CopyCmd) : State := { (tWd m) with now := 100000 }
def tWp (m : CopyCmd) : State := { (tU m fun s => s.onPart 0 fun p => { p with preemptAt := some 20 }) with now := 100000 }
def tHeld (m : CopyCmd) : State := tU m fun s => s.setCore 0 { s.hereCore with eng := { s.hereCore.eng with farOut := [(1, 7, 0)] } }
def mEnded := { mZero with units := 2 }
def mAccRel := { mAcc with rel := true, scp := 2, relOut := [1] }
def mZeroRel := { mZero with rel := true, scp := 2, relOut := [1] }
def askedAt (s : State) (at_ : Nat) : Prop :=
  (∃ i, (s.part s.hereCore.part).inval = some i ∧ i.at_ = at_) ∨ (s.part s.hereCore.part).preemptAt = some at_
def bsM0 : List Byte := List.replicate 64 (5 : Byte)
def bsM1 : List Byte := List.replicate 16 (5 : Byte)
def xM2 : Msg := ((tMsg (bRead 64) 0).msg (tMsg (bRead 64) 0).focus.idx).get (by decide +kernel)
def hM3 : Core := (tMsg (bRead 64) 0).core xM2.dst
def from_M4 : Core := (tMsg (bRead 64) 0).core xM2.src
def xM18 : Msg := ((tMsg (bRead 64) 1).msg (tMsg (bRead 64) 1).focus.idx).get (by decide +kernel)
def hM19 : Core := (tMsg (bRead 64) 1).core xM18.dst
def from_M20 : Core := (tMsg (bRead 64) 1).core xM18.src
def yM21 : Nat × Nat := (70, 83890176)
def xM34 : Msg := ((tMsg (bOp 64) 0).msg (tMsg (bOp 64) 0).focus.idx).get (by decide +kernel)
def hM35 : Core := (tMsg (bOp 64) 0).core xM34.dst
def from_M36 : Core := (tMsg (bOp 64) 0).core xM34.src
def mM37 : MCmd := ((from_M36.livePass 3).get (by decide +kernel)).fst
def pM38 : Pass := ((from_M36.livePass 3).get (by decide +kernel)).snd
def xM66 : Msg := ((tMsg (bData 1048816 64) 2).msg (tMsg (bData 1048816 64) 2).focus.idx).get (by decide +kernel)
def hM67 : Core := (tMsg (bData 1048816 64) 2).core xM66.dst
def from_M68 : Core := (tMsg (bData 1048816 64) 2).core xM66.src
def xM100 : Msg := ((tMsg (bData (-64) 16) 2).msg (tMsg (bData (-64) 16) 2).focus.idx).get (by decide +kernel)
def hM101 : Core := (tMsg (bData (-64) 16) 2).core xM100.dst
def from_M102 : Core := (tMsg (bData (-64) 16) 2).core xM100.src
def yM115 : Nat × Nat := (71, 4294950912)
def xM117 : Msg := ((tMsg bWord 0).msg (tMsg bWord 0).focus.idx).get (by decide +kernel)
def hM118 : Core := (tMsg bWord 0).core xM117.dst
def pM132 : Plan := ({ kind := 1, count := 2 } : Plan)
def pM133 : Plan := ({ kind := 0, type := 2, op := 0, count := 2 } : Plan)
def uM135 : State := ((tU mAcc).cmdPage (tU mAcc).focus.core mAcc.dpages (BitVec.toNat mAcc.dc.base + mAcc.dst.toNat) true).snd
def vM136 : State := (uM135.devRead (tPage.at (BitVec.toNat mAcc.dc.base + mAcc.dst.toNat)) (accWidth 0) tPage.cache).snd
def uM153 : State := ((tU (mRow 32768)).rowAt (tU (mRow 32768)).focus.core (mRow 32768) (mRow 32768).sc (mRow 32768).spages (mRow 32768).src false).snd.snd
def vM154 : State := (uM153.rowAt (tU (mRow 32768)).focus.core (mRow 32768) (mRow 32768).dc (mRow 32768).dpages (mRow 32768).dst true).snd.snd
def wM155 : State := ((vM154.rowLines (some 4294983680) 4295000064).copyThroughBuffer 4294983680 4295000064).snd
def uM173 : State := ((tU (mRow 3162112)).rowAt (tU (mRow 3162112)).focus.core (mRow 3162112) (mRow 3162112).sc (mRow 3162112).spages (mRow 3162112).src false).snd.snd
def vM174 : State := (uM173.rowAt (tU (mRow 3162112)).focus.core (mRow 3162112) (mRow 3162112).dc (mRow 3162112).dpages (mRow 3162112).dst true).snd.snd
def vM192 : State := ((tU mZero).rowAt (tU mZero).focus.core mZero mZero.dc mZero.dpages mZero.dst true).snd.snd
def gM208 : Bool × Core := (tW wRec).hereCore.enginePorts (tW wRec).now (8 + (tW wRec).focus.idx) (portsOf 1048576 64 false)
def uM209 : State := (tW wRec).setCore (tW wRec).focus.core gM208.snd
def yM211 : Nat × List Nat := (0, [0, 0, 0, 0])
def vM212 : State := (uM209.lookupRow (tW wRec).focus.core mWalk (readLookup (leNat (gM208.snd.engineBytes mWalk.id 1048576 64))) 0).snd
def gM225 : Bool × Core := (tW 0).hereCore.enginePorts (tW 0).now (8 + (tW 0).focus.idx) (portsOf 1048576 64 false)
def uM226 : State := (tW 0).setCore (tW 0).focus.core gM225.snd
def eM227 : WalkErr := { reason := 1, pos := 0, value := 0 }
def uM243 : State := ((tU mColl).collGather (tU mColl).hereCore.part mColl.grp mColl.n (tU mColl).hereCore.starts (List.map (fun (x : Member × Bool) => x.fst) ((tU mColl).collMembers (tU mColl).hereCore mColl.grp mColl.n))).2
def foundM244 : List (Member × Bool) := (tU mColl).collMembers (tU mColl).hereCore mColl.grp mColl.n
def msM245 : List Member := List.map (fun (x : Member × Bool) => x.fst) foundM244
def hereM246 : List (Nat × Nat × CopyCmd) := List.filterMap (fun (x : Member) => x.here) msM245

theorem witness_PeersAnswerAndTakeDeliveries :
    ((0x100000 : Int) < 0xFFFF0 + 64 ∧ hM3.computeBank 0xFFFF0 64 = none) ∧
    ((tMsg (bRead 64) 0).msg (tMsg (bRead 64) 0).focus.idx = some xM2 ∧ xM2.src ≠ xM2.dst ∧
     xM2.body = MsgBody.peerRead 3 1 (327696 : Int) 64 1 ∧
     (tMsg (bRead 64) 0).refusal hM3 0 70 1 (327696 : Int) 64 from_M4.lcore = none ∧
     (hM3.enginePorts (tMsg (bRead 64) 0).now 18 (portsOf (327696 : Int).toNat 64 false)).fst = true) ∧
    ((tMsg (bRead 64) 1).msg (tMsg (bRead 64) 1).focus.idx = some xM18 ∧ xM18.src ≠ xM18.dst ∧
     xM18.body = MsgBody.peerRead 3 1 (327696 : Int) 64 1 ∧
     (tMsg (bRead 64) 1).refusal hM19 0 70 1 (327696 : Int) 64 from_M20.lcore = some yM21) ∧
    ((tMsg (bOp 64) 0).msg (tMsg (bOp 64) 0).focus.idx = some xM34 ∧ xM34.src ≠ xM34.dst ∧
     xM34.body = MsgBody.operand 3 (327920 : Int) 64 1 0 [] ∧
     (([] : List Byte) = [] → (tMsg (bOp 64) 0).refusal hM35 0 70 1 (327920 : Int) 64 from_M36.lcore = none ∧ hM35.tagTrap (327920 : Int).toNat 64 0 = none) ∧
     (hM35.enginePorts (tMsg (bOp 64) 0).now 18 (portsOf (327920 : Int).toNat 16 false)).fst = true ∧
     from_M36.livePass 3 = some (mM37, pM38)) ∧
    ((tMsg (bData 1048816 64) 2).msg (tMsg (bData 1048816 64) 2).focus.idx = some xM66 ∧ xM66.src ≠ xM66.dst ∧
     xM66.body = MsgBody.data 3 1 (1048816 : Int) bsM0 (some 2) 1 ∧ (tMsg (bData 1048816 64) 2).behind xM66 = false ∧
     (tMsg (bData 1048816 64) 2).refusal hM67 2 71 1 (1048816 : Int) bsM0.length from_M68.lcore = none ∧
     (hM67.enginePorts (tMsg (bData 1048816 64) 2).now 18 (portsOf (1048816 : Int).toNat 16 true)).fst = true) ∧
    ((tMsg (bData (-64) 16) 2).msg (tMsg (bData (-64) 16) 2).focus.idx = some xM100 ∧ xM100.src ≠ xM100.dst ∧
     xM100.body = MsgBody.data 3 1 (-64) bsM1 (some 2) 1 ∧ (tMsg (bData (-64) 16) 2).behind xM100 = false ∧
     (tMsg (bData (-64) 16) 2).refusal hM101 2 71 1 (-64) bsM1.length from_M102.lcore = some yM115) ∧
    ((tMsg bWord 0).msg (tMsg bWord 0).focus.idx = some xM117 ∧ xM117.src ≠ xM117.dst ∧
     xM117.body = MsgBody.word 3 1 99#64 ∧ (hM118.queue 11).length < 8 ∧ (tMsg bWord 0).behind xM117 = false) := by
  and_intros <;> decide +kernel

theorem witness_StackUnitsActOnMemory :
    ((tU mAcc).onACore ∧ (tU mAcc).hereCore.unitHead (tU mAcc).now (tU mAcc).focus.idx = some mAcc ∧
     mAcc.kind = CopyKind.accOne 0 ∧ mAcc.units = 0 ∧ (tU mAcc).hereCore.lastHeld mAcc = false ∧
     (tU mAcc).cmdPage (tU mAcc).focus.core mAcc.dpages 137438986240 true = (Trans.page tPage, uM135) ∧
     uM135.devRead (tPage.at 137438986240) (accWidth 0) tPage.cache = (Sum.inl (List.replicate 4 0#8), vM136)) ∧
    ((tU mAcc).onACore ∧ pM132.kind = 1) ∧
    ((tU mAcc).onACore ∧ pM133.kind = 0 ∧ ety pM133.type = ETy.i32 ∧ pM133.op = 0 ∧ 1 < pM133.count) ∧
    ((tU (mRow 32768)).onACore ∧
     (tU (mRow 32768)).hereCore.unitHead (tU (mRow 32768)).now (tU (mRow 32768)).focus.idx = some (mRow 32768) ∧
     (mRow 32768).kind = CopyKind.rowCopy ∧ (mRow 32768).units < (mRow 32768).n ∧
     ((mRow 32768).units + 1 < (mRow 32768).n ∨ (tU (mRow 32768)).hereCore.lastHeld (mRow 32768) = false) ∧
     (tU (mRow 32768)).rowAt (tU (mRow 32768)).focus.core (mRow 32768) (mRow 32768).sc (mRow 32768).spages (mRow 32768).src false = (Trans.page bigP, 4294983680, uM153) ∧
     uM153.rowAt (tU (mRow 32768)).focus.core (mRow 32768) (mRow 32768).dc (mRow 32768).dpages (mRow 32768).dst true = (Trans.page bigP, 4295000064, vM154) ∧
     sameSubarray 4294983680 4295000064 = false ∧
     (vM154.rowLines (some 4294983680) 4295000064).copyThroughBuffer 4294983680 4295000064 = (none, wM155)) ∧
    ((tU (mRow 3162112)).onACore ∧
     (tU (mRow 3162112)).hereCore.unitHead (tU (mRow 3162112)).now (tU (mRow 3162112)).focus.idx = some (mRow 3162112) ∧
     (mRow 3162112).kind = CopyKind.rowCopy ∧ (mRow 3162112).units < (mRow 3162112).n ∧
     ((mRow 3162112).units + 1 < (mRow 3162112).n ∨ (tU (mRow 3162112)).hereCore.lastHeld (mRow 3162112) = false) ∧
     (tU (mRow 3162112)).rowAt (tU (mRow 3162112)).focus.core (mRow 3162112) (mRow 3162112).sc (mRow 3162112).spages (mRow 3162112).src false = (Trans.page bigP, 4294983680, uM173) ∧
     uM173.rowAt (tU (mRow 3162112)).focus.core (mRow 3162112) (mRow 3162112).dc (mRow 3162112).dpages (mRow 3162112).dst true = (Trans.page bigP, 4298129408, vM174) ∧
     sameSubarray 4294983680 4298129408 = true) ∧
    ((tU mZero).onACore ∧ (tU mZero).hereCore.unitHead (tU mZero).now (tU mZero).focus.idx = some mZero ∧
     mZero.kind = CopyKind.rowZero ∧ mZero.units < mZero.n ∧
     (mZero.units + 1 < mZero.n ∨ (tU mZero).hereCore.lastHeld mZero = false) ∧
     (tU mZero).rowAt (tU mZero).focus.core mZero mZero.dc mZero.dpages mZero.dst true = (Trans.page tPage, 4295000064, vM192)) ∧
    ((tW wRec).onACore ∧ (tW wRec).hereCore.unitHead (tW wRec).now (tW wRec).focus.idx = some mWalk ∧
     mWalk.kind = CopyKind.walk ∧ mWalk.units < mWalk.n ∧
     (mWalk.units + 1 < mWalk.n ∨ (tW wRec).hereCore.lastHeld mWalk = false) ∧
     (tW wRec).walkTurn (tW wRec).focus.core (tW wRec).focus.idx mWalk.since = true ∧ gM208.fst = true ∧
     gM208.snd.engineFault mWalk.id 1048576 64 (8 + (tW wRec).focus.idx) = none ∧
     uM209.lookupErr gM208.snd mWalk (leNat (gM208.snd.engineBytes mWalk.id 1048576 64)) (readLookup (leNat (gM208.snd.engineBytes mWalk.id 1048576 64))) = none ∧
     (readLookup (leNat (gM208.snd.engineBytes mWalk.id 1048576 64))).nidx = 1 ∧
     uM209.lookupRow (tW wRec).focus.core mWalk (readLookup (leNat (gM208.snd.engineBytes mWalk.id 1048576 64))) 0 = (Sum.inl yM211, vM212)) ∧
    ((tW 0).onACore ∧ (tW 0).hereCore.unitHead (tW 0).now (tW 0).focus.idx = some mWalk ∧
     mWalk.kind = CopyKind.walk ∧ mWalk.units < mWalk.n ∧
     (mWalk.units + 1 < mWalk.n ∨ (tW 0).hereCore.lastHeld mWalk = false) ∧
     (tW 0).walkTurn (tW 0).focus.core (tW 0).focus.idx mWalk.since = true ∧ gM225.fst = true ∧
     gM225.snd.engineFault mWalk.id 1048576 64 (8 + (tW 0).focus.idx) = none ∧
     uM226.lookupErr gM225.snd mWalk (leNat (gM225.snd.engineBytes mWalk.id 1048576 64)) (readLookup (leNat (gM225.snd.engineBytes mWalk.id 1048576 64))) = some eM227) ∧
    ((tU mColl).onACore ∧ (tU mColl).hereCore.unitHead (tU mColl).now (tU mColl).focus.idx = some mColl ∧
     mColl.kind = CopyKind.coll ∧ mColl.units = 0 ∧ (∀ (y : Member × Bool), y ∈ foundM244 → y.snd = true) ∧
     (∀ (y : Nat × Nat × CopyCmd), y ∈ hereM246 → (tU mColl).collReady y.fst y.snd.fst y.snd.snd = true) ∧
     ((tU mColl).part (tU mColl).hereCore.part).farBoundary = 0 ∧
     (∀ (x : Member), x ∈ msM245 → ∀ (b : FarBlock), (tU mColl).physOf (tU mColl).hereCore x.lcore = none → (tU mColl).farBlock (tU mColl).hereCore.part mColl.grp mColl.n (tU mColl).hereCore.starts x.lcore = some b → b.plan = some mColl.plan.shape) ∧
     (∀ (y : Nat × Nat × CopyCmd), y ∈ hereM246 → y.snd.snd.plan.kind = mColl.plan.kind ∧ y.snd.snd.plan.type = mColl.plan.type ∧ y.snd.snd.plan.op = mColl.plan.op ∧ y.snd.snd.plan.count = mColl.plan.count) ∧
     (tU mColl).collGather (tU mColl).hereCore.part mColl.grp mColl.n (tU mColl).hereCore.starts msM245 = (true, uM243) ∧
     (∀ (y : Nat × Nat × CopyCmd), y ∈ hereM246 → ∃ (z : CopyCmd), (uM243.core y.fst).copyCmd y.snd.fst y.snd.snd.id = some z ∧ z.status = none)) ∧
    ((tWd mZero).onACore ∧ (tWd mZero).hereCore.unitCmd (tWd mZero).focus.idx = some mZero ∧
     mZero.unitStack (tWd mZero).focus.core = some 0 ∧
     (∀ (at_ : Nat), askedAt (tWd mZero) at_ → ¬(at_ + ((tWd mZero).stack 0).cycles ≤ (tWd mZero).now ∧ mZero.safe ≤ at_))) ∧
    ((tWl mEnded).onACore ∧ (tWl mEnded).hereCore.unitCmd (tWl mEnded).focus.idx = some mEnded ∧
     mEnded.unitStack (tWl mEnded).focus.core = some 0 ∧
     (tWl mEnded).holdsItem (tWl mEnded).focus.core (tWl mEnded).focus.idx mEnded = false) ∧
    ((tWl mZero).onACore ∧ (tWl mZero).hereCore.unitCmd (tWl mZero).focus.idx = some mZero ∧
     mZero.unitStack (tWl mZero).focus.core = some 0 ∧ askedAt (tWl mZero) 10 ∧
     10 + ((tWl mZero).stack 0).cycles ≤ (tWl mZero).now ∧ mZero.safe ≤ 10 ∧
     (tWl mZero).holdsItem (tWl mZero).focus.core (tWl mZero).focus.idx mZero = true) ∧
    ((tWp mZero).onACore ∧ (tWp mZero).hereCore.unitCmd (tWp mZero).focus.idx = some mZero ∧
     mZero.unitStack (tWp mZero).focus.core = some 0 ∧ askedAt (tWp mZero) 20 ∧
     20 + ((tWp mZero).stack 0).cycles ≤ (tWp mZero).now ∧ mZero.safe ≤ 20 ∧
     (tWp mZero).holdsItem (tWp mZero).focus.core (tWp mZero).focus.idx mZero = true) ∧
    ((tHeld mAccRel).onACore ∧ (tHeld mAccRel).hereCore.unitHead (tHeld mAccRel).now (tHeld mAccRel).focus.idx = some mAccRel ∧
     mAccRel.kind = CopyKind.accOne 0 ∧ mAccRel.units = 0 ∧ (tHeld mAccRel).hereCore.lastHeld mAccRel = true) ∧
    ((tHeld mZeroRel).onACore ∧ (tHeld mZeroRel).hereCore.unitHead (tHeld mZeroRel).now (tHeld mZeroRel).focus.idx = some mZeroRel ∧
     mZeroRel.kind = CopyKind.rowZero ∧ mZeroRel.units < mZeroRel.n ∧ mZeroRel.units + 1 < mZeroRel.n ∧
     (tHeld mZeroRel).rowAt (tHeld mZeroRel).focus.core mZeroRel mZeroRel.dc mZeroRel.dpages mZeroRel.dst true = (Trans.page tPage, 4295000064,
       ((tHeld mZeroRel).rowAt (tHeld mZeroRel).focus.core mZeroRel mZeroRel.dc mZeroRel.dpages mZeroRel.dst true).2.2)) := by
  and_intros <;> 
    first
        | decide +kernel
        | exact fun x hx b h => absurd h ((by decide +kernel : ∀ y ∈ msM245, (tU mColl).physOf (tU mColl).hereCore y.lcore ≠ none) x hx)
        | exact Or.inl ⟨_, rfl, rfl⟩ | exact Or.inr rfl
        | (rintro at_ (⟨i, hi, rfl⟩ | hp)
           · cases hi; decide +kernel
           · exact nomatch (by decide +kernel : ((tWd mZero).part (tWd mZero).hereCore.part).preemptAt = none).symm.trans hp)

end Peering

namespace Phasing

def pRdy (f : Partition → Partition := id) (g : Core → Core := id) : State := let s := tCopy {}; (s.setCore 0 (g s.hereCore)).onPart 0 fun p => f { p with run := none, ready := some { idx := 0 }, tt := some { tTable with code := 0 } }
def boundary (nextP : Nat) : State :=
  let s := tState.setCore 0 { tCore with seq := { tCore.seq with run := .atPhase, ended := true } }
  let s := s.setCore 1 { num := 1, part := 0, seq := { run := .atPhase, ended := true } }
  s.onPart 0 fun p => { p with tt := some { tTable with phases := [{ (tTable.phases.headD {}) with next := nextP }] } }
/-- A page table whose root entry waits. -/
def lowBal := pRdy fun p => { p with bal := 0 }
def resu := pRdy fun p => { p with ready := some { idx := 0, resume := some 2 } }
def waitE : State := { pRdy with units := [(0, {})], dev := [(1, 8)] }
/-- A two-box timetable whose cores here are at PHASE; core 0 has a copy under way in the first. -/
def twoT : Timetable := { tTable with twobox := true }
def twoAt (f : Partition → Partition) (busy : Bool) : State :=
  let s := (boundary 0).onPart 0 fun p => f { p with tt := some twoT }
  if busy then s.setCore 0 { s.hereCore with eng := { s.hereCore.eng with chans := [(1, { queue := [{ id := 3, slot := 4, bundle := 0, seq := 1, pidx := 0, code := 2, kind := .go, nest := tNest 0 0 }] })] } } else s
def twoA := twoAt id true
def twoB := twoAt (fun p => { p with phasedSent := true }) false
def twoC := twoAt (fun p => { p with phasedSent := true, farSent := true }) false
def twoD := twoAt (fun p => { p with phasedSent := true, state := 6 }) false
def tN5 : Timetable := (tState.part tState.focus.idx).tt.get (by decide +kernel)
def xN6 : Partition := tState.part tState.focus.idx
def rN9 : PhaseRun := xN6.run.get (by decide +kernel)
def tN10 : Timetable := (pRdy.part pRdy.focus.idx).tt.get (by decide +kernel)
def xN11 : Partition := pRdy.part pRdy.focus.idx
def rN13 : Ready := xN11.ready.get (by decide +kernel)
def phN14 : PhaseRec := tN10.phases.getD rN13.idx { cores := 0, next := 65535, strict := false, slack := 0, grades := [], entries := [] : PhaseRec }
def tN18 : Timetable := (lowBal.part lowBal.focus.idx).tt.get (by decide +kernel)
def xN19 : Partition := lowBal.part lowBal.focus.idx
def rN21 : Ready := xN19.ready.get (by decide +kernel)
def phN22 : PhaseRec := tN18.phases.getD rN21.idx { cores := 0, next := 65535, strict := false, slack := 0, grades := [], entries := [] : PhaseRec }
def tN26 : Timetable := (resu.part resu.focus.idx).tt.get (by decide +kernel)
def xN27 : Partition := resu.part resu.focus.idx
def rN29 : Ready := xN27.ready.get (by decide +kernel)
def phN30 : PhaseRec := tN26.phases.getD rN29.idx { cores := 0, next := 65535, strict := false, slack := 0, grades := [], entries := [] : PhaseRec }
def tN34 : Timetable := ((boundary 0).part (boundary 0).focus.idx).tt.get (by decide +kernel)
def xN35 : Partition := (boundary 0).part (boundary 0).focus.idx
def rN38 : PhaseRun := xN35.run.get (by decide +kernel)
def tN46 : Timetable := (waitE.part waitE.focus.idx).tt.get (by decide +kernel)
def xN47 : Partition := waitE.part waitE.focus.idx
def rN49 : Ready := xN47.ready.get (by decide +kernel)
def phN50 : PhaseRec := tN46.phases.getD rN49.idx { cores := 0, next := 65535, strict := false, slack := 0, grades := [], entries := [] : PhaseRec }

theorem witness_PhasesStartRestartAndEnd :
    (tState.focus.idx < 40 ∧ xN6.tt = some tN5 ∧ xN6.ready = none) ∧
    (tState.focus.idx < 40 ∧ xN6.tt = some tN5 ∧ xN6.run = some rN9 ∧
     (tN5.twobox = false ∨ xN6.phasedSent = true ∨ tState.phasedHere tState.focus.idx = false) ∧
     (tState.atBoundary tState.focus.idx = false ∨ xN6.savesBoundary = true)) ∧
    (pRdy.focus.idx < 40 ∧ xN11.tt = some tN10 ∧ xN11.ready = some rN13 ∧ xN11.state = 2 ∧ xN11.restore = [] ∧
     coveredGrade xN11 phN14 rN13 = some 0 ∧ rN13.resume = none ∧ pRdy.startWaits pRdy.focus.idx 0 = false) ∧
    (lowBal.focus.idx < 40 ∧ xN19.tt = some tN18 ∧ xN19.ready = some rN21 ∧ xN19.state = 2 ∧ xN19.restore = [] ∧
     coveredGrade xN19 phN22 rN21 = none ∧ rN21.resume = none) ∧
    (resu.focus.idx < 40 ∧ xN27.tt = some tN26 ∧ xN27.ready = some rN29 ∧ xN27.state = 2 ∧ xN27.restore = [] ∧
     coveredGrade xN27 phN30 rN29 = some 0 ∧ rN29.resume = some 2 ∧ 2 ≠ 1) ∧
    ((boundary 0).focus.idx < 40 ∧ xN35.tt = some tN34 ∧ xN35.run = some rN38 ∧
     (boundary 0).atBoundary (boundary 0).focus.idx = true ∧ tN34.twobox = false ∧ tN34.balcap = 255 ∧
     xN35.state = 2) ∧
    (waitE.focus.idx < 40 ∧ xN47.tt = some tN46 ∧ xN47.ready = some rN49 ∧ xN47.state = 2 ∧ xN47.restore = [] ∧
     coveredGrade xN47 phN50 rN49 = some 0 ∧ rN49.resume = none ∧ waitE.startWaits waitE.focus.idx 0 = true) ∧
    (twoA.focus.idx < 40 ∧ (twoA.part 0).tt = some twoT ∧ (twoA.part 0).run = some ((twoA.part 0).run.get (by decide +kernel)) ∧
     twoT.twobox = true ∧ (twoA.part 0).phasedSent = false ∧ twoA.phasedHere 0 = true ∧ twoA.atBoundary 0 = false) ∧
    (twoB.focus.idx < 40 ∧ (twoB.part 0).tt = some twoT ∧ (twoB.part 0).run = some ((twoB.part 0).run.get (by decide +kernel)) ∧
     twoT.twobox = true ∧ (twoB.part 0).phasedSent = true ∧ twoB.atBoundary 0 = true ∧ (twoB.part 0).savesBoundary = false ∧
     (twoB.part 0).farSent = false) ∧
    (twoC.focus.idx < 40 ∧ (twoC.part 0).tt = some twoT ∧ (twoC.part 0).run = some ((twoC.part 0).run.get (by decide +kernel)) ∧
     twoT.twobox = true ∧ (twoC.part 0).phasedSent = true ∧ twoC.atBoundary 0 = true ∧ (twoC.part 0).savesBoundary = false ∧
     (twoC.part 0).farSent = true ∧ (twoC.part 0).farBoundary = 0) ∧
    (twoD.focus.idx < 40 ∧ (twoD.part 0).tt = some twoT ∧ (twoD.part 0).run = some ((twoD.part 0).run.get (by decide +kernel)) ∧
     twoT.twobox = true ∧ (twoD.part 0).phasedSent = true ∧ twoD.atBoundary 0 = true ∧ (twoD.part 0).savesBoundary = false ∧
     (twoD.part 0).farSent = false ∧ (twoD.part 0).state = 6) := by
  and_intros <;> decide +kernel

end Phasing

namespace Ticking

def tk : State := { tState with ticks := 3, ready := true }
def lease (f : State → State) : State := f { tState with lremain := 0 }
def stopC (n : Nat) : Core := { num := n, part := 0, seq := { run := .stopped 1 } }
/-- Every core has stopped for a save whose records lie in mapped pages. -/
def tSaveS : State := let s := tCopy {}
  { (s.setCore 0 (stopC 0)).setCore 1 (stopC 1) with parts := [(0, { (s.part 0) with state := 6, preemptAt := some 10, savebase := 0x2000100000 })] , units := [(0, { cache := [(0, { tPage with size := 0x40000000 })] })] }
def tFarT : State := tState.onPart 0 fun p => { p with loading := some 0x2000000000, loadAt := 1, state := 1 }
def tFarL : State := { tFarT with now := 2400000000 }
def tScrub (a : Bool) : State := { (tState.onPart 0 fun p => { p with scrubbing := a, needScrub := true, tcen := true, tcroot := 0 }) with dev := [(0, 1), (1, 0x10)], vfmap := [(3, 64)], tdisp := [(3, 3)] }
def tInv (f : Core → Core) : State := (tState.setCore 0 (f tCore)).onPart 0 fun p => { p with inval := some { all := true, base := 0, units := 0, no := 1, at_ := 10 } }
def tblE (l : List (Nat × Nat)) : Memory := (l.map fun x => (List.range 8).filterMap fun i => let b := x.2 / 256 ^ i % 256; if b = 0 then none else some (x.1 + i, BitVec.ofNat 8 b)).flatten
def wk : Walk := { part := 0, unit := 0x2000000, due := some 40 }
def tWalk (l : List (Nat × Nat)) (d : Nat := 40) : State := { (tState.onPart 0 fun p => { p with tcen := true }) with dev := tblE l, units := [(0, { walks := [{ wk with due := some d }] })] }
def okT := [(0, 0x1001), (0x1000, 0x2001), (0x2400, 0x3001), (0x3000, 0x10000010B)]
def roT := [(0, 0x1001), (0x1000, 0x2001), (0x2400, 0x3001), (0x3000, 0x10000000B)]
def tOnly : State := { tWalk roT with units := [(0, { walks := [{ wk with due := some 40, read := false }] })] }
def tRead : State := { tWalk roT with units := [(0, { walks := [{ wk with due := some 40, read := true }] })] }
def wG (l : List (Nat × Nat)) : Page := match ((tWalk l).walk 0 0 0x2000000000).1 with | .page g => g | _ => tPage
def sO0 : State := lease (fun s => { s with link1 := true })
def xO3 : Partition := tk.part tk.focus.idx
def coresO4 : List Nat := [0, 1]
def xO27 : Partition := tSaveS.part tSaveS.focus.idx
def tO29 : Timetable := xO27.tt.get (by decide +kernel)
def vO30 : State := (List.foldl (fun (acc : Bool × State) (n : Nat) => have r := acc.snd.recordPages tSaveS.focus.idx (xO27.recordAt (tSaveS.core n).lcore); (acc.fst && r.fst, r.snd)) (true, tSaveS) coresO4).snd
def xO39 : Partition := tFarL.part tFarL.focus.idx
def xO45 : Partition := (tScrub true).part (tScrub true).focus.idx
def xO51 : Partition := (tInv id).part (tInv id).focus.idx
def iO55 : Inval := xO51.inval.get (by decide +kernel)
def wO62 : Walk := { part := 0, unit := 33554432, due := some 40, held := false, fail := none }
def vO63 : State := ((tWalk okT).walk (tWalk okT).focus.idx wO62.part (wO62.unit * 4096)).snd
def vRo : State := (tOnly.walk tOnly.focus.idx wO62.part (wO62.unit * 4096)).snd
def vRead : State := (tRead.walk tRead.focus.idx wO62.part (wO62.unit * 4096)).snd
def vO83 : State := ((tWalk []).walk (tWalk []).focus.idx wO62.part (wO62.unit * 4096)).snd
def vO97 : State := ((tWalk [(0, 2048)]).walk (tWalk [(0, 2048)]).focus.idx wO62.part (wO62.unit * 4096)).snd

theorem witness_TicksSavesAndScrubs :
    (tk.lremain ≠ 0 ∧ tk.yield = false) ∧
    (((lease id).lremain = 0 ∨ (lease id).yield = true) ∧ (lease id).linkUp 1 = false) ∧
    ((sO0.lremain = 0 ∨ sO0.yield = true) ∧ sO0.linkUp 1 = true) ∧
    (tk.focus.idx < 40 ∧ xO3.state ≠ 6) ∧
    (tk.focus.idx < 40 ∧ xO3.loading = none ∧ (xO3.twoBox = false ∨ xO3.resumeAt = 0)) ∧
    (tk.focus.idx < 40 ∧ xO3.scrubbing = false) ∧
    (tk.focus.idx < 40 ∧ xO3.inval = none) ∧
    (tk.focus.idx < 8 ∧
     (∀ (w : Walk), w ∈ (tk.unit tk.focus.idx).serving → ∀ (d : Nat), w.due = some d → tk.now < d)) ∧
    tk.focus.idx < 16 ∧
    (tSaveS.focus.idx < 40 ∧ xO27.tt = some tO29 ∧ tO29.twobox = false ∧ xO27.state = 6 ∧ xO27.saveSet = [] ∧
     xO27.preemptAt.isSome = true ∧ xO27.restore = [] ∧ tSaveS.savers tSaveS.focus.idx = coresO4 ∧
     (∀ (n : Nat), n ∈ coresO4 → (tSaveS.core n).isStopped = true ∧ (tSaveS.core n).settled = true ∧ tSaveS.unitsRest n = true) ∧
     List.foldl (fun (acc : Bool × State) (n : Nat) => have r := acc.snd.recordPages tSaveS.focus.idx (xO27.recordAt (tSaveS.core n).lcore); (acc.fst && r.fst, r.snd)) (true, tSaveS) coresO4 = (true, vO30)) ∧
    (tFarL.focus.idx < 40 ∧ xO39.loading.isSome = true ∧ xO39.loadAt ≠ 0 ∧ xO39.loadAt + 2300000000 ≤ tFarL.now + 1) ∧
    ((tScrub true).focus.idx < 40 ∧ xO45.scrubbing = true ∧ xO45.tcen = true) ∧
    ((tInv id).focus.idx < 40 ∧ xO51.inval = some iO55 ∧
     (∀ (n : Nat), n ∈ xO51.cores → ((tInv id).core n).markWaits iO55.no = false ∧ ((tInv id).core n).accessMeets iO55 = false)) ∧
    ((tWalk okT).focus.idx < 8 ∧
     List.find? (fun (w : Walk) => Option.any (fun (d : Nat) => decide (d ≤ (tWalk okT).now)) w.due) ((tWalk okT).unit (tWalk okT).focus.idx).serving = some wO62 ∧
     (tWalk okT).walk (tWalk okT).focus.idx wO62.part (wO62.unit * 4096) = (WalkRes.page (wG okT), vO63) ∧ (wG okT).wr = true) ∧
    (tOnly.focus.idx < 8 ∧
     List.find? (fun (w : Walk) => Option.any (fun (d : Nat) => decide (d ≤ tOnly.now)) w.due) (tOnly.unit tOnly.focus.idx).serving = some { wO62 with read := false } ∧
     tOnly.walk tOnly.focus.idx wO62.part (wO62.unit * 4096) = (WalkRes.page (wG roT), vRo) ∧ (wG roT).wr = false ∧
     (∀ y ∈ (vRo.unit tOnly.focus.idx).walks, (y.part == wO62.part && (wG roT).covers (y.unit * 4096)) = true → y.read = false)) ∧
    (tRead.focus.idx < 8 ∧
     List.find? (fun (w : Walk) => Option.any (fun (d : Nat) => decide (d ≤ tRead.now)) w.due) (tRead.unit tRead.focus.idx).serving = some { wO62 with read := true } ∧
     tRead.walk tRead.focus.idx wO62.part (wO62.unit * 4096) = (WalkRes.page (wG roT), vRead) ∧
     (∃ y ∈ (vRead.unit tRead.focus.idx).walks, (y.part == wO62.part && (wG roT).covers (y.unit * 4096)) = true ∧ y.read = true)) ∧
    ((tWalk []).focus.idx < 8 ∧
     List.find? (fun (w : Walk) => Option.any (fun (d : Nat) => decide (d ≤ (tWalk []).now)) w.due) ((tWalk []).unit (tWalk []).focus.idx).serving = some wO62 ∧
     (tWalk []).walk (tWalk []).focus.idx wO62.part (wO62.unit * 4096) = (WalkRes.fail 4 1, vO83)) ∧
    ((tWalk [(0, 2048)]).focus.idx < 8 ∧
     List.find? (fun (w : Walk) => Option.any (fun (d : Nat) => decide (d ≤ (tWalk [(0, 2048)]).now)) w.due) ((tWalk [(0, 2048)]).unit (tWalk [(0, 2048)]).focus.idx).serving = some wO62 ∧
     (tWalk [(0, 2048)]).walk (tWalk [(0, 2048)]).focus.idx wO62.part (wO62.unit * 4096) = (WalkRes.wait, vO97)) := by
  and_intros <;> decide +kernel

end Ticking

namespace Hosting

def fnV : HostFn := { port := 0, vf := some 3 }
def hPage : Page := { tPage with host := true }
/-- VF 3 of partition 0 in RUN, in a session; the window lies in a page with HOST set. -/
def tHost (st : Nat) : State := focusAs { cleared (tCopy {}) with vfmap := [(3, 64)], tdisp := [(3, st)], spdm := [(0, true)], units := [(0, { cache := [(0, hPage)] })], parts := [(0, { (cleared (tCopy {})).part 0 with mwbase := 0x2000020000 })] } fun f => { f with fn := fnV }
def tGrant : State := (tHost 2).onPart 0 fun p => { p with tt := some { tTable with caps := [{ cap := { tCap with base := 0x2000020000 }, used := true, wg := true, wlast := 5 }] } }
def bs4 : List Byte := [1, 2, 3, 4]
def cx (en : Bool) (prog : Tab Word32 := [(0, 0)]) : Context := { owner := some 0, en := en, prog := prog, table := [(3, 4)], queue := [], regs := [(1, 1)] }
def tCtxS (en : Bool) (prog : Tab Word32 := [(0, 0)]) : State := focusAs { tHost 2 with ctxs := [(5, cx en prog)] } fun f => { f with idx := 5 }
def pf (s : State) : State := focusAs s fun f => { f with fn := { port := 0, vf := none } }
def tSaved (f : Partition → Partition := id) (g : Core → Core := id): State := (tHost 2 |>.setCore 0 (g tCore)).onPart 0 fun p => f { p with state := 7, saveSet := [0], saved := [{ lcore := 0, core := { tCore with seq := { tCore.seq with run := .stopped 1 } }, record := [] }], savebase := 0x2000000000 }
def stateP (k : Nat) : State := (tHost 2).onPart 0 fun p => { p with state := k }
def lP2 : List (Nat × Nat × Page) := ((tHost 2).hostPages 0 137439084544 bs4.length true).fst.get (by decide +kernel)
def uP3 : State := ((tHost 2).hostPages 0 137439084544 bs4.length true).snd
def lP4 : List (Nat × Nat × Page) := ((tHost 2).hostPages 0 137439084544 4 false).fst.get (by decide +kernel)
def uP5 : State := ((tHost 2).hostPages 0 137439084544 4 false).snd
def vP6 : State := (uP5.readPages lP4).snd
def gotP7 : List Byte := [0x00#8, 0x00#8, 0x00#8, 0x00#8]
def uP8 : State := ((tHost 2).resolve ((tHost 2).part 0).pod 0 137439084544 true false).snd
def vP9 : State := (uP8.devRead (hPage.at 137439084544) 4 hPage.cache).snd
def lP80 : List (Nat × Nat × Page) := (tGrant.hostPages 0 137439084544 bs4.length true).fst.get (by decide +kernel)
def uP81 : State := (tGrant.hostPages 0 137439084544 bs4.length true).snd
def xP229 : Partition := (stateP 1).part (stateP 1).focus.idx
def xP310 : Partition := tSaved.part tSaved.focus.idx
def tP314 : Timetable := xP310.tt.get (by decide +kernel)
def sP322 : State := tCtxS false [(0, 0), (1, 0xF0000000)]
def cP327 : Context := (tCtxS true [(0, 0#32)]).ctx (tCtxS true [(0, 0#32)]).focus.idx
def cP351 : Context := (tCtxS false [(0, 0#32)]).ctx (tCtxS false [(0, 0#32)]).focus.idx
def cP375 : Context := sP322.ctx sP322.focus.idx

theorem witness_HostsReachMemoryThroughTheWindow :
    (HostFn.exists_ (tHost 2).focus.fn = true ∧ (tHost 2).trafficPart = some 0 ∧ 0 + bs4.length ≤ 2 ^ 36 ∧
     (tHost 2).hitsCode 0 137439084544 bs4.length = false ∧
     (tHost 2).hostPages 0 137439084544 bs4.length true = (some lP2, uP3) ∧
     uP3.granted 0 137439084544 bs4.length = false) ∧
    (HostFn.exists_ (tHost 2).focus.fn = true ∧ (tHost 2).trafficPart = some 0 ∧ 0 + 4 ≤ 2 ^ 36 ∧
     (tHost 2).hostPages 0 137439084544 4 false = (some lP4, uP5) ∧ uP5.readPages lP4 = (Sum.inl gotP7, vP6)) ∧
    (HostFn.exists_ (tHost 2).focus.fn = true ∧ (tHost 2).trafficPart = some 0 ∧
     (4 = 4 ∨ 4 = 8 ∨ HostAtomicOp.fetchAdd = HostAtomicOp.cas ∧ 4 = 16) ∧ 0 + 4 ≤ 2 ^ 36 ∧ 137439084544 % 4 = 0 ∧
     (tHost 2).hitsCode 0 137439084544 4 = false ∧
     (tHost 2).resolve ((tHost 2).part 0).pod 0 137439084544 true false = (WalkRes.page hPage, uP8) ∧ hPage.loc = 0 ∧
     hPage.host = true ∧ uP8.granted 0 137439084544 4 = false ∧
     uP8.devRead (hPage.at 137439084544) 4 hPage.cache = (Sum.inl gotP7, vP9)) ∧
    (HostFn.exists_ (tHost 2).focus.fn = true ∧ (tHost 2).trafficPart = some 0 ∧ 137439084546 % 4 ≠ 0 ∧
     2 + 4 ≤ 2 ^ 36) ∧
    (HostFn.exists_ (tHost 0).focus.fn = true ∧ (tHost 0).trafficPart = none) ∧
    (HostFn.exists_ tGrant.focus.fn = true ∧ tGrant.trafficPart = some 0 ∧ 0 + bs4.length ≤ 2 ^ 36 ∧
     tGrant.hitsCode 0 137439084544 bs4.length = false ∧
     tGrant.hostPages 0 137439084544 bs4.length true = (some lP80, uP81) ∧
     uP81.granted 0 137439084544 bs4.length = true) ∧
    (HostFn.exists_ (tCtxS false [(0, 0#32)]).focus.fn = true ∧
     (tCtxS false [(0, 0#32)]).throughContext (tCtxS false [(0, 0#32)]).focus.idx ∧ 5 < 64 ∧
     ((tCtxS false [(0, 0#32)]).ctx (tCtxS false [(0, 0#32)]).focus.idx).en = false) ∧
    (HostFn.exists_ (tCtxS false [(0, 0#32)]).focus.fn = true ∧
     (tCtxS false [(0, 0#32)]).throughContext (tCtxS false [(0, 0#32)]).focus.idx ∧ 5 < 1024) ∧
    (HostFn.exists_ (tCtxS true [(0, 0#32)]).focus.fn = true ∧
     (tCtxS true [(0, 0#32)]).throughContext (tCtxS true [(0, 0#32)]).focus.idx ∧
     ((tCtxS true [(0, 0#32)]).ctx (tCtxS true [(0, 0#32)]).focus.idx).en = true) := by
  and_intros <;> decide +kernel

theorem witness_WindowRegistersActOnTheirPartition :
    ((pf tState).throughWindow (pf tState).focus.idx true ∧ (5#64).toNat.testBit 32 = false ∧ 0 + 5 ≤ 36800) ∧
    (tSaved.throughWindow tSaved.focus.idx false ∧ xP310.queue.length < 4) ∧
    ((pf tState).throughWindow (pf tState).focus.idx true ∧ (40000#64).toNat.testBit 32 = false ∧ 36800 < 0 + 40000) ∧
    ((pf tState).throughWindow (pf tState).focus.idx false ∧ (4096#64).toNat % 2 ^ 57 % 4096 = 0) ∧
    ((stateP 1).throughWindow (stateP 1).focus.idx false ∧ xP229.state = 1) ∧
    (tSaved.throughWindow tSaved.focus.idx false ∧
     (xP310.state = 3 ∨ xP310.state = 4 ∨ xP310.state = 5 ∨ xP310.state = 7)) ∧
    (tSaved.throughWindow tSaved.focus.idx false ∧ xP310.state = 7 ∧ xP310.tt = some tP314 ∧ tP314.twobox = false) ∧
    ((tCtxS true [(0, 0#32)]).throughContext (tCtxS true [(0, 0#32)]).focus.idx ∧ cP327.en = true ∧
     (20#64).getLsbD 0 = false) ∧
    ((tCtxS true [(0, 0#32)]).throughContext (tCtxS true [(0, 0#32)]).focus.idx ∧ cP327.en = true ∧
     (21#64).getLsbD 0 = true) ∧
    ((tCtxS false [(0, 0#32)]).throughContext (tCtxS false [(0, 0#32)]).focus.idx ∧ cP351.en = false ∧
     (21#64).getLsbD 0 = true ∧ 1 ≤ 1 ∧ 1 ≤ 64 ∧ 2 ≠ 7 ∧ 0 ≠ 3 ∧
     (∀ (i : Nat), i < 1 → decodeFilter (Tab.look (0#32) cP351.prog i) ≠ none)) ∧
    (sP322.throughContext sP322.focus.idx ∧ cP375.en = false ∧ (37#64).getLsbD 0 = true ∧ 2 ≤ 64 ∧ 2 ≠ 7 ∧ 0 ≠ 3 ∧
     1 < 2 ∧ decodeFilter (Tab.look (0#32) cP375.prog 1) = none ∧
     (∀ (j : Nat), j < 1 → decodeFilter (Tab.look (0#32) cP375.prog j) ≠ none)) := by
  and_intros <;> decide +kernel

end Hosting

namespace Windowing

def fnV : HostFn := { port := 0, vf := some 3 }
def hPage : Page := { tPage with host := true }
/-- VF 3 of partition 0 in RUN, in a session; the window lies in a page with HOST set. -/
def tHost (st : Nat) : State := focusAs { cleared (tCopy {}) with vfmap := [(3, 64)], tdisp := [(3, st)], spdm := [(0, true)], units := [(0, { cache := [(0, hPage)] })], parts := [(0, { (cleared (tCopy {})).part 0 with mwbase := 0x2000020000 })] } fun f => { f with fn := fnV }
def pf (s : State) : State := focusAs s fun f => { f with fn := { port := 0, vf := none } }
def sP20 : State := pf (tState.onPart 0 fun p => { p with tt := none })
def sP21 : State := (tHost 2).onPart 0 (fun p => { p with inval := some (Inval.mk true 0 0 0 0) })
def sP22 : State := (tHost 2).onPart 0 (fun p => { p with invAll := true, queue := [1,2,3,4] })
def xP23 : Partition := (pf tState).part (pf tState).focus.idx
def xP223 : Partition := sP20.part sP20.focus.idx
def xP2103 : Partition := sP21.part sP21.focus.idx
def xP2123 : Partition := sP22.part sP22.focus.idx

theorem witness_WindowRegistersActOnTheirPartition_more :
    ((pf tState).throughWindow (pf tState).focus.idx true ∧
     (pf tState).sumWatts - xP23.watts + 5 ≤ (pf tState).mpwr) ∧
    ((pf tState).throughWindow (pf tState).focus.idx true ∧ xP23.tt ≠ none) ∧
    ((pf tState).throughWindow (pf tState).focus.idx false ∧ xP23.state = 2) ∧
    ((pf tState).throughWindow (pf tState).focus.idx true ∧
     (pf tState).mpwr < (pf tState).sumWatts - xP23.watts + 900) ∧
    (sP20.throughWindow sP20.focus.idx true ∧ xP223.tt = none) ∧
    (sP21.throughWindow sP21.focus.idx false ∧ xP2103.inval.isSome = true) ∧
    (sP22.throughWindow sP22.focus.idx false ∧ xP2123.inval = none ∧ (xP2123.invLen ≠ 0 ∨ xP2123.invAll = true)) ∧
    (sP22.throughWindow sP22.focus.idx false ∧ 4 ≤ xP2123.queue.length) := by
  and_intros <;> decide +kernel

/-- A saved partition whose records' pages are not mapped, and one whose translation waits at an entry with WAIT. -/
def tLost (u : TransUnit) : State := pf { tHost 2 with
  units := [(0, u)], parts := [(0, { (tHost 2).part 0 with state := 7, saveSet := [0], savebase := 0x2000000000 })] }
def tWaits : TransUnit := { walks := [{ part := 0, unit := 0x2000000, held := true }] }
def lChecked (s : State) : List SavedCore ⊕ Bool :=
  ((s.onPart 0 fun x => { x with resumeAt := s.now + 1, farTold := false }).checkRecords 0 [0]).1

/-- Partition 0 saved inside its phase, core 0 with an empty record in empty host memory behind port 0. -/
def rPage : Page := { va := 0x2000000000, size := 0x4000000, pa := 0x1000000, level := 1, mx := false, cache := false, host := true, wr := true, loc := 1 }
def rTable : Timetable := { tTable with code := 0x3000000000 }
def tResume (kind : Nat) : State := pf { tHost 2 with
  units := [(0, { cache := [(0, rPage)] })]
  parts := [(0, { (tHost 2).part 0 with
    state := 7, saveSet := [0], savebase := 0x2000000000, saveKind := kind, savedRun := some { idx := 0, grade := 0, started := 4, energy := 5 }
    saved := [{ lcore := 0, core := { tCore with seq := { tCore.seq with run := .stopped kind } }, record := [] }] })] }

theorem chunks_start (n : Nat) : ∀ fuel a, ∀ x ∈ pageChunks fuel a n, a ≤ x.1 ∧ x.1 < a + n := by
  intro fuel
  induction fuel generalizing n with
  | zero => intro a x hx; cases hx
  | succ fuel ih =>
    intro a x hx
    unfold pageChunks at hx
    split at hx
    · cases hx
    · rcases List.mem_cons.1 hx with rfl | hx
      · exact ⟨Nat.le_refl _, by dsimp; omega⟩
      · have := ih _ _ x hx
        omega

theorem chunks_none (fuel a : Nat) : pageChunks fuel a 0 = [] := by
  cases fuel <;> simp [pageChunks]

theorem chunks_total (n : Nat) : ∀ fuel a, n ≤ 4096 * fuel → 4096 ∣ a → ((pageChunks fuel a n).map (·.2)).sum = n := by
  intro fuel
  induction fuel generalizing n with
  | zero => intro a h _; obtain rfl : n = 0 := by omega
            rfl
  | succ fuel ih =>
    intro a h ha
    have h0 : a % 4096 = 0 := Nat.mod_eq_zero_of_dvd ha
    unfold pageChunks
    split
    · simp_all
    · rename_i hn
      simp only [List.map_cons, List.sum_cons, h0, Nat.sub_zero]
      by_cases hs : n ≤ 4096
      · simp [Nat.min_eq_left hs, chunks_none]
      · rw [Nat.min_eq_right (by omega), ih _ _ (by omega) (by omega)]
        omega

theorem empty_bytes (a n : Nat) : Memory.bytes [] a n = List.replicate n 0 := by
  induction n with
  | zero => rfl
  | succ n ih => rw [List.replicate_succ', ← ih]; simp [Memory.bytes, List.range_succ, Memory.byte, Tab.look]

theorem zero_cells (n : Nat) : ∀ a, cellsFrom a (List.replicate n 0) = [] := by
  induction n with
  | zero => intro a; rfl
  | succ n ih => intro a; rw [List.replicate_succ, cellsFrom]; exact ih _

/-- That state as the resume of `lctlResume` checks it. -/
def rState (k : Nat) : State :=
  (tResume k).onPart 0 fun x => { x with resumeAt := (tResume k).now + 1, farTold := false }

theorem own_page (k a : Nat) (hk : k < 2) (h : rPage.covers a = true) :
    (rState k).ownPage 0 0 a false .hold = (.inl rPage, rState k) := by
  have hc : (rState k).cachedPage 0 0 a = some rPage := by
    have ht : ((rState k).part 0).tcen = true := rfl
    have hu : ((rState k).unit 0).cache = [(0, rPage)] := rfl
    rw [State.cachedPage, if_pos ht, hu]
    simp [h]
  have hr : (rState k).reaches 0 rPage = true :=
    (by decide +kernel : ∀ k, k < 2 → (rState k).reaches 0 rPage = true) k hk
  rw [State.ownPage, State.resolve, hc]
  simp [hr]

theorem reads_zero (k : Nat) (hk : k < 2) (l : List (Nat × Nat)) (h : ∀ x ∈ l, rPage.covers x.1 = true) (bs : List Byte) :
    l.foldl (fun (acc : (List Byte ⊕ MemErr) × State) ch =>
      match acc with
      | (.inr e, s) => (.inr e, s)
      | (.inl bs, s) =>
        match s.ownPage 0 0 ch.1 false .hold with
        | (.inr e, s) => (.inr e, s)
        | (.inl p, s) =>
          if p.loc = 0 then
            match s.devRead (p.at ch.1) ch.2 p.cache with
            | (.inr d, s) => (.inr (.data d), s)
            | (.inl x, s) => (.inl (bs ++ x), s)
          else (.inl (bs ++ Memory.bytes (s.hostMem (p.loc - 1)) (p.at ch.1) ch.2), s)) (.inl bs, rState k) =
      (.inl (bs ++ List.replicate (l.map (·.2)).sum 0), rState k) := by
  induction l generalizing bs with
  | nil => simp
  | cons x l ih =>
    rw [List.foldl_cons]
    dsimp only
    rw [own_page k x.1 hk (h x List.mem_cons_self)]
    have hm : (rState k).hostMem (rPage.loc - 1) = [] := rfl
    have hl : ¬ rPage.loc = 0 := by decide
    dsimp only
    rw [if_neg hl, hm, empty_bytes, ih fun y hy => h y (List.mem_cons_of_mem _ hy)]
    simp

theorem found_empty (x : Partition) (s : State) (l : Nat) (bs : List Byte) (r : SavedCore) (hz : cellsFrom 0 bs = [])
    (hf : x.saved.find? (fun r => r.lcore == l && r.record == ([] : Memory)) = some r) :
    x.recordFound l (.inl bs, s) = (.inl r, s) := by
  simp only [Partition.recordFound, hz, hf]

theorem check_each_one (f : State → Nat → (SavedCore ⊕ Bool) × State) (s : State) (l : Nat) (r : SavedCore)
    (h : f s l = (.inl r, s)) : checkEach f s [l] = (.inl [r], s) := by
  simp only [checkEach, h]

theorem check_one (s : State) (p l n : Nat) (hn : 2 ^ 22 = n) (bs : List Byte) (r : SavedCore)
    (h : s.readVirtual (s.part p).pod p ((s.part p).recordAt l) n = (.inl bs, s)) (hz : cellsFrom 0 bs = [])
    (hf : (s.part p).saved.find? (fun r => r.lcore == l && r.record == ([] : Memory)) = some r) :
    s.checkRecords p [l] = (.inl [r], s) := by
  refine check_each_one _ s l r ?_
  unfold State.checkRecord
  rw [hn, h, found_empty _ _ _ _ _ hz hf]

theorem reads_range (k : Nat) (hk : k < 2) (n : Nat) (hn : n ≤ 0x400000) :
    (rState k).readVirtual 0 0 0x2000000000 n = (.inl (List.replicate n 0), rState k) := by
  have hl : ∀ x ∈ pageChunks (n / 4096 + 2) 0x2000000000 n, rPage.covers x.1 = true := by
    intro x hx
    have := chunks_start _ _ _ x hx
    rw [Page.covers, Bool.and_eq_true]
    exact ⟨decide_eq_true this.1, decide_eq_true (Nat.lt_of_lt_of_le this.2 (by dsimp only [rPage]; omega))⟩
  refine (reads_zero k hk _ hl []).trans ?_
  rw [chunks_total _ _ _ (by omega) (by decide), List.nil_append]

/-- A record of 4 MiB in empty host memory is read as zeros, which the empty record that was kept equals. -/
theorem resume_checked (k n : Nat) (hk : k < 2) (hn : 2 ^ 22 = n) (hle : n ≤ 0x400000) :
    (rState k).checkRecords 0 [0] = (.inl [((tResume k).part 0).saved.headD ⟨0, tCore, []⟩], rState k) := by
  have hp : ((rState k).part 0).pod = 0 := (by decide +kernel : ∀ k, k < 2 → ((rState k).part 0).pod = 0) k hk
  have ha : ((rState k).part 0).recordAt 0 = 0x2000000000 := rfl
  have hread : (rState k).readVirtual ((rState k).part 0).pod 0 (((rState k).part 0).recordAt 0) n =
      (.inl (List.replicate n 0), rState k) := by rw [hp, ha, reads_range k hk n hle]
  have hf : ((rState k).part 0).saved.find? (fun r => r.lcore == 0 && r.record == ([] : Memory)) =
      some (((tResume k).part 0).saved.headD ⟨0, tCore, []⟩) := rfl
  exact check_one _ 0 0 n hn _ _ hread (zero_cells n 0) hf

theorem witness_WindowRegistersActOnTheirPartition_resume (k : Nat) (hk : k < 2) :
    (tResume k).throughWindow (tResume k).focus.idx false ∧ ((tResume k).part 0).state = 7 ∧
    ((tResume k).part 0).tt = some rTable ∧ rTable.twobox = false ∧ ((tResume k).part 0).saveSet = [0] ∧
    (∃ r, ((rState k).checkRecords 0 [0]).1 = .inl [r] ∧ Tab.has rTable.binding r.lcore = true) ∧
    ((tResume 0).part 0).saveKind = 0 ∧ ((tResume 1).part 0).saveKind = 1 := by
  refine ⟨(by decide +kernel : ∀ k, k < 2 → (tResume k).throughWindow (tResume k).focus.idx false) k hk, rfl, rfl, rfl, rfl, ⟨_, congrArg Prod.fst (resume_checked k _ hk rfl (by decide)), rfl⟩, rfl, rfl⟩

theorem witness_WindowRegistersActOnTheirPartition_refused :
    ((tLost {}).throughWindow (tLost {}).focus.idx false ∧ ((tLost {}).part 0).state = 7 ∧
     ((tLost {}).part 0).saveSet = [0] ∧ lChecked (tLost {}) = .inr false) ∧
    ((tLost tWaits).throughWindow (tLost tWaits).focus.idx false ∧ ((tLost tWaits).part 0).state = 7 ∧
     ((tLost tWaits).part 0).saveSet = [0] ∧ lChecked (tLost tWaits) = .inr true) := by
  and_intros <;> decide +kernel

end Windowing

namespace Moduling

def fnV : HostFn := { port := 0, vf := some 3 }
def vfS (f : State → State := id) : State := focusAs (f { tState with vfmap := [(3, 64)], tdisp := [(3, 2)], spdm := [(0, true)], link0 := true, ide := [(2, {})] }) fun f => { f with fn := fnV }
def vfI (st : Nat) : State := vfS fun s => { s with tdisp := [(3, st)] }
def pfO (f : State → State := id) : State := focusAs (f { tState with link0 := true, pmask := 0x10 }) fun f => { f with idx := 1 }
def pfX : State := focusAs tState fun f => { f with fn := { port := 1, vf := none } }
def dm (f : Core → Core) : State := { withCore f with dmActive := true, adata := [(0, 5), (1, 6)] }
def hal := dm fun c => { c with seq := { c.seq with halted := true } }
def lowerQ1 : List Instr := [Instr.mpwrWrite 5#64, Instr.vfmapWrite pfX.focus.idx 5#64, Instr.dmctlActive true, Instr.dmctlActive false, Instr.abstractCommand 5#64, Instr.dmctlHaltreq, Instr.dmctlResumereq, Instr.pctlCreate, Instr.pctlDestroy]
def cQ5 : Context := pfO.ctx pfO.focus.idx
def newQ7 : Option Nat := some 52
def cQ8 : Core := pfO.core pfO.dmCore
def sQ67 : State := tState.onPart 0 (fun p => { p with state := 0 })
def sQ68 : State := dm (fun c => { c with seq := { c.seq with run := .idle } })
def cQ71 : Context := tState.ctx tState.focus.idx
def newQ73 : Option Nat := none
def cQ138 : Core := (dm id).core (dm id).dmCore
def cQ174 : Core := hal.core hal.dmCore
def cQ210 : Core := sQ68.core sQ68.dmCore
def sQ304 : State := (vfI 0).onPart 0 (fun p => { p with needScrub := true, tt := none })
def sQ305 : State := vfS (fun s => { s with spdm := [] })
def vfNone : State := vfS fun s => { s with tdisp := [], vfmap := [] }
/-- A two-box partition whose core 0 a request to pre-empt has stopped; the far module has asked too, or not. -/
def crossAt (asked : Bool) : State := (withCore fun c => { c with seq := { c.seq with run := .stopped 0, preempt := true } }).onPart 0
  fun p => { p with tt := some { tTable with twobox := true }, state := 6, saveKind := 0, farAsked := asked }
def sQ330 : State := focusAs (vfI 0) (fun f => { f with fn := { port := 1, vf := none } })

theorem witness_ModuleRequestsActThroughTheOwner :
    (pfX.focus.fn.port < 2 ∧ pfX.focus.fn.vf = none ∧ pfX.focus.fn.port ≠ pfX.owner ∧ Instr.dmctlHaltreq ∈ lowerQ1) ∧
    (pfX.focus.fn.port < 2 ∧ pfX.focus.fn.vf = none ∧ pfX.resync = none ∧ pfX.rsaddr % 4096 = 0) ∧
    (pfO.throughOwner ∧ 450 ≤ 500 ∧ 500 ≤ 850 ∧ pfO.sumWatts ≤ 500) ∧
    (pfO.throughOwner ∧ 0 < 512 ∧ pfO.iface 0 0 = 0 ∧ pfO.iface 1 0 = 0) ∧
    (pfO.throughOwner ∧ pfO.focus.idx < 64 ∧ pfO.ctx pfO.focus.idx = cQ5 ∧ newQ7 ≠ cQ5.owner) ∧
    (pfO.throughOwner ∧ (1#16).toNat = pfO.epoch) ∧
    (pfO.throughOwner ∧ pfO.focus.idx < 40 ∧ (pfO.part pfO.focus.idx).pairs = 0 ∧ pfO.pmask ≠ 0 ∧
     (∀ (y : Nat × Partition), y ∈ pfO.parts → y.snd.pairs &&& pfO.pmask = 0)) ∧
    (pfO.throughOwner ∧ pfO.dmActive = false) ∧
    (pfO.throughOwner ∧ pfO.dmBusy = false ∧ cQ8.seq.halted = false) ∧
    (pfO.throughOwner ∧ (2#16).toNat ≠ pfO.epoch) ∧
    (pfO.throughOwner ∧ (69 < 450 ∨ 850 < 69 ∨ 69 < pfO.sumWatts)) ∧
    (tState.throughOwner ∧ (40 ≤ tState.focus.idx ∨ (tState.part tState.focus.idx).pairs ≠ 0 ∨ tState.pmask = 0)) ∧
    (tState.throughOwner ∧ tState.focus.idx < 64 ∧ tState.ctx tState.focus.idx = cQ71 ∧ newQ73 = cQ71.owner) ∧
    (sQ67.throughOwner ∧ (sQ67.part sQ67.focus.idx).pairs ≠ 0 ∧
     ((sQ67.part sQ67.focus.idx).state = 0 ∨ (sQ67.part sQ67.focus.idx).state = 4)) ∧
    ((dm id).throughOwner ∧ (dm id).dmActive = true ∧ cQ138.seq.run = RunState.running) ∧
    (hal.throughOwner ∧ hal.dmActive = true ∧ cQ174.seq.halted = true) ∧
    (hal.throughOwner ∧ hal.dmBusy = false ∧ cQ174.seq.halted = true ∧ 3 < 32 ∧ 4099 = 4096 + 3 ∧
     (69635#64).getLsbD 16 = true ∧ 3 ≠ 0) ∧
    (hal.throughOwner ∧ hal.dmBusy = false ∧ cQ174.seq.halted = true ∧ 3 < 32 ∧ 4099 = 4096 + 3 ∧
     (4099#64).getLsbD 16 = false) ∧
    (hal.throughOwner ∧ hal.dmBusy = false ∧ cQ174.seq.halted = true ∧ 1280 = 1280) ∧
    (sQ68.throughOwner ∧ sQ68.dmActive = true ∧ cQ210.seq.run = RunState.idle ∧ cQ210.seq.halted = false) := by
  and_intros <;> decide +kernel

theorem witness_HostRegistersAnswerByOffset :
    (tState.focus.fn.port < 2 ∧ tState.focus.fn.vf = none ∧ 0 < 16) ∧
    (tState.focus.fn.port < 2 ∧ tState.focus.fn.vf = none ∧ 0 < 40 ∧ (tState.part 0).pairs ≠ 0) ∧
    (tState.throughOwner ∧ 1000 ≤ 8192 ∧ 8192 ≤ 10000000) ∧
    (tState.throughOwner ∧ 0 < 16) ∧
    (tState.throughOwner ∧ 0 < 40 ∧ (tState.part 0).pairs ≠ 0 ∧ (8192#64).toNat % 2 ^ 57 % 4096 = 0) ∧
    (HostFn.exists_ tState.focus.fn = true ∧ (4 ≠ 8 ∨ 0 % 8 ≠ 0) ∧ tState.focus.fn.vf = none ∧ 0 < 16777216) ∧
    (pfX.focus.fn.port < 2 ∧ pfX.focus.fn.vf = none ∧ pfX.focus.fn.port ≠ pfX.owner) := by
  and_intros <;> decide +kernel

theorem witness_InterfacesAndLinksChangeState :
    (HostFn.exists_ (vfI 0).focus.fn = true ∧ (vfI 0).focus.fn.port = 0) ∧
    ((vfI 0).focus.fn.port < 2 ∧ 3 < 512 ∧ (vfI 0).focus.fn.vf = some 3 ∧ 0 ≠ 2) ∧
    ((vfI 0).focus.fn.port < 2 ∧ 3 < 512 ∧ (vfI 0).focus.fn.vf = some 3 ∧ (vfI 0).vfPart 3 = some 0 ∧ true = true ∧
     ((vfI 0).part 0).needScrub = false ∧ 0 = 0) ∧
    (HostFn.exists_ (vfI 0).focus.fn = true ∧ 0 < 40) ∧
    (HostFn.exists_ (vfI 0).focus.fn = true ∧ true = true ∧ (vfI 0).ide.has 2 = true) ∧
    ((vfI 0).part 0).state ≠ 6 ∧
    ((vfI 1).focus.fn.port < 2 ∧ 3 < 512 ∧ (vfI 1).focus.fn.vf = some 3 ∧ (vfI 1).vfPart 3 = some 0 ∧ true = true ∧
     1 = 1) ∧
    ((vfI 2).focus.fn.port < 2 ∧ 3 < 512 ∧ (vfI 2).focus.fn.vf = some 3 ∧ (vfI 2).vfPart 3 = some 0 ∧
     (vfI 2).iface (vfI 2).focus.fn.port 3 = 2) ∧
    ((vfI 1).focus.fn.port < 2 ∧ (vfI 1).focus.fn.vf = some 3 ∧ (vfI 1).vfPart 3 = some 0 ∧
     (vfI 1).iface (vfI 1).focus.fn.port 3 ≠ 3 ∧ (vfI 1).iface (vfI 1).focus.fn.port 3 ≠ 2) ∧
    ((vfI 3).focus.fn.port < 2 ∧ (vfI 3).focus.fn.vf = some 3 ∧ (vfI 3).iface (vfI 3).focus.fn.port 3 = 3) ∧
    (vfNone.focus.fn.port < 2 ∧ vfNone.focus.fn.vf = some 3 ∧ vfNone.iface vfNone.focus.fn.port 3 = 0 ∧ vfNone.vfPart 3 = none) ∧
    ((vfI 1).iface (vfI 1).focus.fn.port 3 = 1 ∧ (vfI 2).iface (vfI 2).focus.fn.port 3 = 2) ∧
    ((vfI 0).part 0).loading = none ∧
    ((crossAt false).part 0).state = 6 ∧ ((crossAt false).part 0).twoBox = true ∧ ((crossAt false).part 0).saveKind ≠ 1 ∧
    ((crossAt false).part 0).farAsked = false ∧ (∃ n ∈ (crossAt false).participants 0, ((crossAt false).core n).isStopped = true) ∧
    ((crossAt true).part 0).state = 6 ∧ ((crossAt true).part 0).twoBox = true ∧ ((crossAt true).part 0).saveKind ≠ 1 ∧
    ((crossAt true).part 0).farAsked = true ∧
    (((vfI 0).onPart 0 fun p => { p with tt := some { tTable with twobox := true }, loading := none }).part 0).state = 2 ∧
    (sQ304.focus.fn.port < 2 ∧ 3 < 512 ∧ sQ304.focus.fn.vf = some 3 ∧ sQ304.vfPart 3 = some 0 ∧ true = true ∧
     (sQ304.part 0).needScrub = true ∧ (sQ304.part 0).tt = none) ∧
    (sQ305.focus.fn.port < 2 ∧ 3 < 512 ∧ sQ305.focus.fn.vf = some 3 ∧ false = false) ∧
    (HostFn.exists_ sQ305.focus.fn = true ∧ false = false) ∧
    (HostFn.exists_ sQ330.focus.fn = true ∧ sQ330.focus.fn.port = 1) := by
  and_intros <;> decide +kernel

theorem witness_ResetsClearTheModule :
    tState.throughOwner ∧
    (pfX.focus.fn.vf = none ∧ pfX.focus.fn.port < 2 ∧ pfX.focus.fn.port ≠ pfX.owner) := by
  and_intros <;> decide +kernel

end Moduling

namespace Stepping

def ag (i : Option Instr) (f : State → State := id) : State := f { tState with agenda := [{ at_ := { core := 0, now := 50 }, what := i }] }
def agf (w : Word32) (f : State → State := id) : State := f { tState with agenda := [{ at_ := { idx := 5 }, what := none }], ctxs := [(5, { owner := some 0, en := true, len := 4, prog := [(0, w)], run := some { pc := 0, ev := { cls := 0, part := 0, pcore := 0, nocore := false, time := 0, payload := 0 } } })] }
def em (st : Nat) : State := { tState with stage := st }
def sR1 : State := ag (some .bundleIssue) (fun s => { s with off := true })
def sR2 : State := agf 0 (fun s => { s with ctxs := [] })
def sR3 : State := { tState with ready := false }
def sR4 : State := { tState with ready := false, off := true }
def dR7 : Due := (ag (some Instr.bundleIssue)).agenda.head (by decide +kernel)
def restR8 : List Due := []
def iR9 : Instr := dR7.what.get (by decide +kernel)
def dR27 : Due := sR1.agenda.head (by decide +kernel)
def dR37 : Due := (agf 0#32).agenda.head (by decide +kernel)
def rR44 : FilterRun := ((agf 0#32).ctx dR37.at_.idx).run.get (by decide +kernel)
def wR45 : Word32 := 0x00000000#32
def iR46 : Instr := (decodeFilter wR45).get (by decide +kernel)
def dR49 : Due := (agf 144244736#32).agenda.head (by decide +kernel)
def rR56 : FilterRun := ((agf 144244736#32).ctx dR49.at_.idx).run.get (by decide +kernel)
def wR57 : Word32 := 0x08990000#32
def dR61 : Due := sR2.agenda.head (by decide +kernel)
def iR121 : Instr := Instr.nop ⟨0,0,0,0⟩
def sR123 : State := focusAs tState (fun f => { f with core := 128 })
def tR127 : State := afterStep tState

theorem witness_AStepRunsWhatIsDue :
    ((ag (some Instr.bundleIssue)).agenda = dR7 :: restR8 ∧ dR7.what = some iR9 ∧
     ((ag (some Instr.bundleIssue)).off = false ∨ iR9 = Instr.coldReset)) ∧
    (sR1.agenda = dR27 :: restR8 ∧ dR27.what ≠ some Instr.coldReset ∧ sR1.off = true) ∧
    ((agf 0#32).agenda = dR37 :: restR8 ∧ dR37.what = none ∧ (agf 0#32).off = false ∧
     ((agf 0#32).ctx dR37.at_.idx).run = some rR44 ∧ decodeFilter wR45 = some iR46) ∧
    ((agf 144244736#32).agenda = dR49 :: restR8 ∧ dR49.what = none ∧ (agf 144244736#32).off = false ∧
     ((agf 144244736#32).ctx dR49.at_.idx).run = some rR56 ∧ decodeFilter wR57 = none) ∧
    (sR2.agenda = dR61 :: restR8 ∧ dR61.what = none ∧ sR2.off = false ∧ (sR2.ctx dR61.at_.idx).run = none) ∧
    ((em 0).agenda = [] ∧ (em 0).ready = true) ∧
    (sR3.agenda = [] ∧ sR3.ready = false ∧ sR3.off = false) ∧
    (sR4.agenda = [] ∧ sR4.ready = false ∧ sR4.off = true) := by
  and_intros <;> decide +kernel

theorem witness_BundleOperationsActAsTheirInstructions :
    tVector.onACore ∧ iR121.slotClass.isSome = true ∧ (noSticky iR121 = false ∨ ∃ (f : SRI), iR121 = Instr.gbar f) ∧
      (∀ (f : SRI), iR121 ≠ Instr.capldMemory f ∧ iR121 ≠ Instr.capst f ∧ iR121 ≠ Instr.gld f ∧ iR121 ≠ Instr.gst f) := by
  and_intros <;> 
    first | decide +kernel | exact Or.inl (by decide +kernel) | (unfold iR121; simp)

theorem witness_EveryInstructionAnswers :
    (tState.focus.core < 128 ∧ tState.focus.idx < 8 ∧ HostFn.exists_ tState.focus.fn = true) ∧
    (128 ≤ sR123.focus.core ∧ iR121.slotClass.isSome = true) := by
  and_intros <;> decide +kernel

theorem witness_ResetLeavesTheGivenValues :
    0 < 128 := by decide +kernel

theorem witness_ResultsLandInTheirCycle :
    (1 ≤ 1 ∧ 0 < 3 ∧ tCore.seq.flight = [] ∧ 1 = 1) ∧
    (1 ≤ 1 ∧ 0 < 3 ∧ tCore.seq.flight = [] ∧ 4 ≠ 3) ∧
    (1 ≤ 3 ∧ 0 < 3 ∧ tCore.seq.flight = [] ∧ 1 < 3) := by
  and_intros <;> decide +kernel

theorem witness_MemoriesStayCanonical :
    tState.dev.wf ∧ tState.host0.wf ∧ tState.host1.wf ∧ tState.intake.length ≤ 1024 ∧
      step tState = Host.Outcome.next tR127 := by
  and_intros <;> 
    first | decide +kernel | rfl

end Stepping

end Sys2Proof.Tests
end

section
/-! Settles O22. Rounding a magnitude (R8, R117), one equation per mode, and why the code of a number is the
rounding of that number: the last bit's weight of a represented magnitude is the weight it is written in, so the
quotient is exact, and the code of the largest magnitude is above every finite code (R115). -/

namespace Sys2Proof.Machine

/-! Rounding to a count of `2^(e + n)`: the quotient and the rest are those of `m` by `2^n`. -/

theorem quotient_add_nat (m n : Nat) (e : Int) : quotient m e (e + n) = (m / 2 ^ n, m % 2 ^ n, n) := by
  rcases Nat.eq_zero_or_pos n with rfl | hn
  · simp [quotient, Nat.mod_one]
  · have hk : ¬ e + n ≤ e := by omega
    have hs : (e + n - e).toNat = n := by omega
    rw [quotient, if_neg hk, hs]

section Modes
variable (neg : Bool) (m n b : Nat) (e : Int)

theorem roundMag_rtz : roundMag neg m e (e + n) .rtz b = m / 2 ^ n := by
  simp [roundMag, quotient_add_nat]

theorem roundMag_rdn :
    roundMag neg m e (e + n) .rdn b = if neg ∧ m % 2 ^ n ≠ 0 then m / 2 ^ n + 1 else m / 2 ^ n := by
  simp [roundMag, quotient_add_nat]

theorem roundMag_rup :
    roundMag neg m e (e + n) .rup b = if ¬ neg ∧ m % 2 ^ n ≠ 0 then m / 2 ^ n + 1 else m / 2 ^ n := by
  simp [roundMag, quotient_add_nat]

theorem roundMag_rne :
    roundMag neg m e (e + n) .rne b =
      if 2 * (m % 2 ^ n) < 2 ^ n ∨ m % 2 ^ n = 0 then m / 2 ^ n
      else if 2 * (m % 2 ^ n) = 2 ^ n then m / 2 ^ n + m / 2 ^ n % 2 else m / 2 ^ n + 1 := by
  simp only [roundMag, quotient_add_nat]

theorem roundMag_sr :
    roundMag neg m e (e + n) .sr b =
      if m % 2 ^ n * 2 ^ 16 + b * 2 ^ n < 2 ^ 16 * 2 ^ n then m / 2 ^ n else m / 2 ^ n + 1 := by
  simp only [roundMag, quotient_add_nat]

/-- Every mode answers one of the two neighbours. -/
theorem roundMag_neighbour (rm : RMode) :
    roundMag neg m e (e + n) rm b = m / 2 ^ n ∨ roundMag neg m e (e + n) rm b = m / 2 ^ n + 1 := by
  cases rm with
  | rtz => exact .inl (roundMag_rtz ..)
  | rdn => rw [roundMag_rdn]; split <;> omega
  | rup => rw [roundMag_rup]; split <;> omega
  | rne =>
    rw [roundMag_rne]
    split
    · exact .inl rfl
    · split <;> omega
  | sr => rw [roundMag_sr]; split <;> omega

/-- An exact multiple stays; under SR because a draw is below one unit. -/
theorem roundMag_of_mod_eq_zero (rm : RMode) (hb : b < 2 ^ 16) (hm : m % 2 ^ n = 0) :
    roundMag neg m e (e + n) rm b = m / 2 ^ n := by
  cases rm with
  | rtz => exact roundMag_rtz ..
  | rdn => simp [roundMag_rdn, hm]
  | rup => simp [roundMag_rup, hm]
  | rne => simp [roundMag_rne, hm]
  | sr =>
    have hdraw : b * 2 ^ n < 2 ^ 16 * 2 ^ n := Nat.mul_lt_mul_of_pos_right hb (Nat.two_pow_pos n)
    rw [roundMag_sr, hm, if_pos (by omega)]

/-- RNE is within half a unit of the magnitude, and a tie goes to the even count. -/
theorem roundMag_rne_nearest :
    let q := roundMag neg m e (e + n) .rne b
    2 * q * 2 ^ n ≤ 2 * m + 2 ^ n ∧ 2 * m ≤ 2 * q * 2 ^ n + 2 ^ n ∧
      ((2 * q * 2 ^ n = 2 * m + 2 ^ n ∨ 2 * m = 2 * q * 2 ^ n + 2 ^ n) → q % 2 = 0) := by
  have hdiv : m / 2 ^ n * 2 ^ n + m % 2 ^ n = m := Nat.div_add_mod' m (2 ^ n)
  have hrest : m % 2 ^ n < 2 ^ n := Nat.mod_lt m (Nat.two_pow_pos n)
  have hlow : 2 * (m / 2 ^ n) * 2 ^ n = 2 * (m / 2 ^ n * 2 ^ n) := Nat.mul_assoc ..
  have hhigh : 2 * (m / 2 ^ n + 1) * 2 ^ n = 2 * (m / 2 ^ n * 2 ^ n) + 2 * 2 ^ n := by
    rw [Nat.mul_assoc, Nat.add_mul, Nat.one_mul, Nat.mul_add]
  intro q
  simp only [q, roundMag_rne]
  by_cases hbelow : 2 * (m % 2 ^ n) < 2 ^ n ∨ m % 2 ^ n = 0
  · rw [if_pos hbelow, hlow]; omega
  · rw [if_neg hbelow]
    by_cases htie : 2 * (m % 2 ^ n) = 2 ^ n
    · rw [if_pos htie]
      rcases Nat.mod_two_eq_zero_or_one (m / 2 ^ n) with heven | hodd
      · rw [heven, Nat.add_zero, hlow]; omega
      · rw [hodd, hhigh]; omega
    · rw [if_neg htie, hhigh]; omega

theorem roundMag_sr_eq_succ_iff :
    roundMag neg m e (e + n) .sr b = m / 2 ^ n + 1 ↔ 2 ^ n * 2 ^ 16 ≤ m % 2 ^ n * 2 ^ 16 + b * 2 ^ n := by
  rw [roundMag_sr]
  split <;> omega

/-- A magnitude in units of its own weight is exact. -/
theorem roundMag_self (rm : RMode) (hb : b < 2 ^ 16) : roundMag neg m e e rm b = m := by
  simpa using roundMag_of_mod_eq_zero neg m 0 b e rm hb (Nat.mod_one m)

end Modes

/-! The fields of a code (R115). -/

/-- The mantissa field M of a code. -/
def FFmt.manOf (F : FFmt) (c : Nat) : Nat := c % 2 ^ F.mw
/-- The biased exponent field E of a code. -/
def FFmt.expOf (F : FFmt) (c : Nat) : Nat := c / 2 ^ F.mw % 2 ^ F.ew
/-- The sign of a code, its top bit. -/
def FFmt.negOf (F : FFmt) (c : Nat) : Bool := c / 2 ^ (F.mw + F.ew) % 2 == 1

theorem FFmt.decode_eq_fields (F : FFmt) (c : Nat) :
    F.decode c =
      if F.hasInf && F.expOf c == 2 ^ F.ew - 1 then
        (if F.manOf c == 0 then .inf (F.negOf c) else .nan)
      else if F == .e4m3 && F.expOf c == 15 && F.manOf c == 7 then .nan
      else if F.expOf c == 0 then .num (F.negOf c) (F.manOf c) (F.emin - F.mw)
      else .num (F.negOf c) (2 ^ F.mw + F.manOf c) ((F.expOf c : Int) - F.bias - F.mw) := rfl

theorem FFmt.manOf_lt (F : FFmt) (c : Nat) : F.manOf c < 2 ^ F.mw := Nat.mod_lt c (Nat.two_pow_pos F.mw)

theorem FFmt.expOf_lt (F : FFmt) (c : Nat) : F.expOf c < 2 ^ F.ew := Nat.mod_lt _ (Nat.two_pow_pos F.ew)

/-- A code is the sum of its fields. -/
theorem FFmt.signBit_add_fields (F : FFmt) {c : Nat} (hc : c < 2 ^ F.width) :
    F.signBit (F.negOf c) + (F.expOf c * 2 ^ F.mw + F.manOf c) = c := by
  have hwidth : F.width = F.mw + F.ew + 1 := by rw [FFmt.width]; omega
  have htop : c / 2 ^ (F.mw + F.ew) < 2 := Nat.div_lt_of_lt_mul (by rwa [← Nat.pow_succ, Nat.succ_eq_add_one, ← hwidth])
  have hsign : F.signBit (F.negOf c) = c / 2 ^ (F.mw + F.ew) * 2 ^ (F.mw + F.ew) := by
    rcases Nat.le_one_iff_eq_zero_or_eq_one.1 (Nat.le_of_lt_succ htop) with h | h <;>
      simp [FFmt.signBit, FFmt.negOf, h, hwidth]
  have hexp : c / 2 ^ (F.mw + F.ew) * 2 ^ F.ew + F.expOf c = c / 2 ^ F.mw := by
    rw [Nat.pow_add, ← Nat.div_div_eq_div_mul]
    exact Nat.div_add_mod' (c / 2 ^ F.mw) (2 ^ F.ew)
  calc F.signBit (F.negOf c) + (F.expOf c * 2 ^ F.mw + F.manOf c)
      = (c / 2 ^ (F.mw + F.ew) * 2 ^ F.ew + F.expOf c) * 2 ^ F.mw + F.manOf c := by
        rw [hsign, Nat.add_mul, Nat.add_assoc, Nat.mul_assoc, ← Nat.pow_add, Nat.add_comm F.ew]
    _ = c := by rw [hexp]; exact Nat.div_add_mod' c (2 ^ F.mw)

/-- The magnitude bits of a code that is neither infinity nor NaN are at most those of the largest finite value:
R115 gives that value format by format, so the bound is arithmetic on each format's numbers. -/
theorem FFmt.magnitude_le_maxCode (F : FFmt) (c : Nat)
    (hfin : ¬ (F.hasInf && F.expOf c == 2 ^ F.ew - 1) = true)
    (hnum : ¬ (F == .e4m3 && F.expOf c == 15 && F.manOf c == 7) = true) :
    F.expOf c * 2 ^ F.mw + F.manOf c ≤ F.maxCode := by
  have hman := F.manOf_lt c
  have hexp := F.expOf_lt c
  cases F <;> simp [FFmt.hasInf, FFmt.ew, FFmt.mw, FFmt.maxCode] at * <;> omega

/-! Rounding a represented value. -/

/-- The significand of a normal number, hidden bit included, is not zero. -/
theorem FFmt.significand_ne_zero (F : FFmt) (man : Nat) : 2 ^ F.mw + man ≠ 0 :=
  Nat.ne_of_gt (Nat.add_pos_left (Nat.two_pow_pos F.mw) man)

/-- A magnitude written in units of its last bit's weight keeps all of its bits. -/
theorem roundFloat_of_lastBit (F : FFmt) (neg : Bool) {m b : Nat} {e : Int} (rm : RMode) (hb : b < 2 ^ 16)
    (hm : m ≠ 0) (hlast : F.lastBit m e = e) (hmax : F.encodeMag m e ≤ F.maxCode) :
    roundFloat F (.num neg m e) rm b = { code := F.signBit neg + F.encodeMag m e } := by
  have hover : F.overflows m e = false := by simpa [FFmt.overflows] using hmax
  have hexact : roundMag neg m e e rm b = m := roundMag_self neg m b e rm hb
  rw [roundFloat]
  · simp [hlast, hexact, hover]
  · exact hm

theorem FFmt.lastBit_subnormal (F : FFmt) {m : Nat} (hm : m ≠ 0) (hlt : m < 2 ^ F.mw) :
    F.lastBit m (F.emin - F.mw) = F.emin - F.mw := by
  have hlog : Nat.log2 m < F.mw := (Nat.log2_lt hm).2 hlt
  have hsub : floorLog2 m (F.emin - F.mw) < F.emin := by simp only [floorLog2, ilog2]; omega
  simp only [FFmt.lastBit, hsub, if_true, FFmt.prec]
  omega

theorem FFmt.lastBit_normal (F : FFmt) {man ex : Nat} (hman : man < 2 ^ F.mw) (hex : ex ≠ 0) :
    F.lastBit (2 ^ F.mw + man) ((ex : Int) - F.bias - F.mw) = (ex : Int) - F.bias - F.mw := by
  have hlog : Nat.log2 (2 ^ F.mw + man) = F.mw :=
    (Nat.log2_eq_iff (F.significand_ne_zero man)).2 ⟨by omega, by rw [Nat.pow_succ]; omega⟩
  have hfloor : floorLog2 (2 ^ F.mw + man) ((ex : Int) - F.bias - F.mw) = ex - F.bias := by
    rw [floorLog2, ilog2, hlog]; omega
  have hnormal : ¬ (ex : Int) - F.bias < F.emin := by rw [FFmt.emin]; omega
  simp only [FFmt.lastBit, hfloor, hnormal, if_false, FFmt.prec]
  omega

theorem FFmt.encodeMag_subnormal (F : FFmt) {m : Nat} (k : Int) (hlt : m < 2 ^ F.mw) : F.encodeMag m k = m := by
  simp [FFmt.encodeMag, hlt]

theorem FFmt.encodeMag_normal (F : FFmt) {man : Nat} (ex : Nat) (hman : man < 2 ^ F.mw) :
    F.encodeMag (2 ^ F.mw + man) ((ex : Int) - F.bias - F.mw) = ex * 2 ^ F.mw + man := by
  have hhidden : ¬ 2 ^ F.mw + man < 2 ^ F.mw := by omega
  have hcarry : ¬ 2 ^ F.mw + man = 2 ^ (F.mw + 1) := by rw [Nat.pow_succ]; omega
  have hexp : ((ex : Int) - F.bias - F.mw + F.mw + F.bias).toNat = ex := by omega
  rw [FFmt.encodeMag, if_neg hhidden]
  simp only [if_neg hcarry, hexp, Nat.add_sub_cancel_left]

theorem roundFloat_subnormal (F : FFmt) (neg : Bool) {m b : Nat} (rm : RMode) (hb : b < 2 ^ 16)
    (hlt : m < 2 ^ F.mw) (hmax : m ≤ F.maxCode) :
    roundFloat F (.num neg m (F.emin - F.mw)) rm b = { code := F.signBit neg + m } := by
  rcases Nat.eq_zero_or_pos m with rfl | hm
  · rfl
  · have hne : m ≠ 0 := Nat.ne_of_gt hm
    have henc := F.encodeMag_subnormal (F.emin - F.mw) hlt
    rw [roundFloat_of_lastBit F neg rm hb hne (F.lastBit_subnormal hne hlt) (by omega), henc]

theorem roundFloat_normal (F : FFmt) (neg : Bool) {man ex b : Nat} (rm : RMode) (hb : b < 2 ^ 16)
    (hman : man < 2 ^ F.mw) (hex : ex ≠ 0) (hmax : ex * 2 ^ F.mw + man ≤ F.maxCode) :
    roundFloat F (.num neg (2 ^ F.mw + man) ((ex : Int) - F.bias - F.mw)) rm b =
      { code := F.signBit neg + (ex * 2 ^ F.mw + man) } := by
  have henc := F.encodeMag_normal ex hman
  rw [roundFloat_of_lastBit F neg rm hb (F.significand_ne_zero man) (F.lastBit_normal hman hex) (by omega), henc]

/-- Every code but a NaN is the rounding of its own value. -/
theorem roundFloat_decode (F : FFmt) {c b : Nat} (rm : RMode) (hc : c < 2 ^ F.width) (hb : b < 2 ^ 16)
    (hnan : (F.decode c).isNan = false) : roundFloat F (F.decode c) rm b = { code := c } := by
  have hfields := F.signBit_add_fields hc
  have hman := F.manOf_lt c
  have hmax := F.magnitude_le_maxCode c
  rw [FFmt.decode_eq_fields] at hnan ⊢
  by_cases hinf : (F.hasInf && F.expOf c == 2 ^ F.ew - 1) = true
  · obtain ⟨hhas, hexp⟩ : F.hasInf = true ∧ F.expOf c = 2 ^ F.ew - 1 := by simpa using hinf
    by_cases hzero : (F.manOf c == 0) = true
    · -- an infinity
      have hman0 : F.manOf c = 0 := by simpa using hzero
      rw [hexp, hman0, Nat.add_zero] at hfields
      rw [if_pos hinf, if_pos hzero]
      simp only [roundFloat, hhas, if_true, FFmt.infCode, hfields]
    · -- a NaN
      rw [if_pos hinf, if_neg hzero] at hnan
      cases hnan
  · rw [if_neg hinf] at hnan ⊢
    by_cases hnum : (F == .e4m3 && F.expOf c == 15 && F.manOf c == 7) = true
    · -- the NaN of E4M3
      rw [if_pos hnum] at hnan
      cases hnan
    · rw [if_neg hnum]
      have hmag := hmax hinf hnum
      by_cases hsub : (F.expOf c == 0) = true
      · -- a zero or a subnormal number
        have hexp : F.expOf c = 0 := by simpa using hsub
        rw [hexp, Nat.zero_mul, Nat.zero_add] at hfields hmag
        rw [if_pos hsub, roundFloat_subnormal F _ rm hb hman hmag, hfields]
      · -- a normal number
        have hexp : F.expOf c ≠ 0 := by simpa using hsub
        rw [if_neg hsub, roundFloat_normal F _ rm hb hman hexp hmag, hfields]

/-- Settles O22: by mode from the quotient and the rest of m by 2^n, and for a format from the fields of the code. -/
theorem roundingPicksANeighbour : Obligations.RoundingPicksANeighbour := by
  unfold Obligations.RoundingPicksANeighbour
  refine ⟨fun neg m n b e hb => ?_, fun F c b rm hc hb hnan => roundFloat_decode F rm hc hb hnan⟩
  obtain ⟨hupper, hlower, htie⟩ := roundMag_rne_nearest neg m n b e
  refine ⟨fun rm => ⟨roundMag_neighbour neg m n b e rm, roundMag_of_mod_eq_zero neg m n b e rm hb⟩,
    hupper, hlower, htie, roundMag_rtz .., fun hrest => ?_, roundMag_sr_eq_succ_iff ..⟩
  cases neg <;> simp [roundMag_rdn, roundMag_rup, hrest]

end Sys2Proof.Machine
end

section
/-! Settles O56. The parts of the module as power finds them, the step of an empty agenda and of an agenda whose front
is an instruction, and what a boot leaves (R485, R489): two steps of the reset state are these lemmas in a row. -/

namespace Sys2Proof.Machine

/-! The parts of the state after reset hold their defaults: nothing is listed. -/

@[simp] theorem State.core_reset (n : Nat) : State.reset.core n = { num := n } := rfl
@[simp] theorem State.part_reset (p : Nat) : State.reset.part p = {} := rfl
@[simp] theorem State.stack_reset (k : Nat) : State.reset.stack k = {} := rfl
@[simp] theorem State.ctx_reset (k : Nat) : State.reset.ctx k = {} := rfl

theorem State.vfPart_of_vfmap_nil {s : State} (h : s.vfmap = []) (f : Nat) : s.vfPart f = none := by
  simp [State.vfPart, h]

theorem State.iface_of_tdisp_nil {s : State} (h : s.tdisp = []) (port f : Nat) : s.iface port f = 0 := by
  simp [State.iface, h]

/-- A core without a control register listed is outside service code: TSTAT reads 0 (R445). -/
theorem Core.svc_of_ctl_nil {c : Core} (h : c.ctl = []) : c.svc = false := by
  simp [Core.svc, Core.ctlBits, Core.ctlNat, Core.ctlOf, bits, h]

/-! The step (log 3). -/

/-- A module that has power and is not ready boots when nothing is due (R489, log 6). -/
theorem step_of_unbooted {s : State} (hagenda : s.agenda = []) (hready : s.ready = false) (hoff : s.off = false) :
    step s = .next { s with agenda := [todo 0 0 .coldReset] } := by
  simp [step, hagenda, State.idleStep, hready, hoff]

/-- An instruction at the front of the agenda of a module that is on happens at its focus. -/
theorem step_of_due {s : State} {d : Due} {rest : List Due} {i : Instr} (hagenda : s.agenda = d :: rest)
    (hwhat : d.what = some i) (hoff : s.off = false) : step s = exec i { s with agenda := rest, focus := d.at_ } := by
  simp [step, hagenda, hwhat, hoff]

theorem exec_coldReset (s : State) : exec .coldReset s = .next s.coldReset := rfl

/-! The boot. -/

/-- A boot leaves the module restarted, and READY says whether the firmware was accepted (R485). -/
theorem State.boot_eq_restarted (s : State) (up0 up1 box : Bool) :
    s.boot up0 up1 box = { s.restarted up0 up1 box with ready := s.firmware.accepted s.fused } := by
  cases haccepted : s.firmware.accepted s.fused <;> simp [State.boot, State.restarted, haccepted]

/-- A cold reset restarts the module with the links that train (R477). -/
theorem State.coldReset_eq_restarted (s : State) :
    s.coldReset =
      { s.restarted (Config.trains s.resets 0) (Config.trains s.resets 1) (Config.trains s.resets 2) with
        ready := s.firmware.accepted s.fused } := s.boot_eq_restarted ..

theorem State.coldReset_ready (s : State) : s.coldReset.ready = s.firmware.accepted s.fused := by
  rw [State.coldReset_eq_restarted]

theorem State.coldReset_dev (s : State) : s.coldReset.dev = [] := by
  rw [State.coldReset_eq_restarted]; rfl

theorem State.coldReset_owner (s : State) : s.coldReset.owner = if Config.trains s.resets 0 then 0 else 1 := by
  rw [State.coldReset_eq_restarted]; rfl

/-- Two steps of a module that has power and has not booted are its cold reset. -/
theorem step_step_of_unbooted {s : State} (hagenda : s.agenda = []) (hready : s.ready = false) (hoff : s.off = false) :
    ∃ t, step s = .next t ∧ step t = .next { s with agenda := [], focus := {} }.coldReset :=
  ⟨_, step_of_unbooted hagenda hready hoff,
    step_of_due (s := { s with agenda := [todo 0 0 .coldReset] }) rfl rfl hoff |>.trans (exec_coldReset _)⟩

/-- The boot of a module that has power: its firmware decides READY (R485), port 0 owns it when its link trained
(R477), and device memory is zero (R489). -/
theorem boot_of_unbooted {s : State} (hagenda : s.agenda = []) (hready : s.ready = false) (hoff : s.off = false) :
    ∃ t u, step s = .next t ∧ step t = .next u ∧ u.ready = s.firmware.accepted s.fused ∧ u.dev = [] ∧
      u.owner = if Config.trains s.resets 0 then 0 else 1 := by
  obtain ⟨t, hfirst, hsecond⟩ := step_step_of_unbooted hagenda hready hoff
  exact ⟨t, _, hfirst, hsecond, State.coldReset_ready _, State.coldReset_dev _, State.coldReset_owner _⟩

/-- Settles O56: field by field of the reset state, then the boot that its first two steps are. -/
theorem resetLeavesTheGivenValues : Obligations.ResetLeavesTheGivenValues := by
  unfold Obligations.ResetLeavesTheGivenValues
  refine ⟨⟨rfl, rfl, rfl, rfl, rfl, rfl, rfl, rfl, fun p => ?part, fun k => ?stack, fun k => ?ctx,
    State.vfPart_of_vfmap_nil rfl, State.iface_of_tdisp_nil rfl, rfl, rfl, fun n _ => ?core,
    boot_of_unbooted rfl rfl rfl⟩, Memory.wf_nil, Memory.wf_nil, Memory.wf_nil, ?intake⟩
  case part => simp
  case stack => simp
  case ctx => simp
  case core => exact ⟨Core.svc_of_ctl_nil rfl, Core.sreg_zero _, rfl⟩
  case intake => exact Nat.zero_le 1024

end Sys2Proof.Machine
end

section
/-! Settles O59 and O60. The fields of a word put together from its parts (R72, R73, R439), the round trip of each
format, and the code of each instruction: from these, decode inverts encode form by form. -/

namespace Sys2Proof

/-! Parts of a concatenation. The width of the whole is written out as a literal in the model, so that the index of
these two rules leaves it out. -/

theorem extractLsb'_of_high {v w start len : Nat} {x : BitVec v} {y : BitVec w} (h : w ≤ start) :
    @BitVec.extractLsb' (no_index (v + w)) start len (no_index (x ++ y)) = x.extractLsb' (start - w) len :=
  BitVec.extractLsb'_append_eq_of_le h

theorem extractLsb'_of_low {v w start len : Nat} {x : BitVec v} {y : BitVec w} (h : start + len ≤ w) :
    @BitVec.extractLsb' (no_index (v + w)) start len (no_index (x ++ y)) = y.extractLsb' start len :=
  BitVec.extractLsb'_append_eq_of_add_le h

/-- X as a field, like the others (R72). -/
theorem xBit_eq_field (w : Word32) : xBit w = (w.extractLsb' 24 1).getLsbD 0 := by simp [xBit]

@[simp] theorem bitField_getElem_zero (b : Bool) : (bitField b)[0] = b := by cases b <;> rfl

/-! The slot operations: class, format and instruction of an operand record under a code. -/

/-- The class whose map lists a record's format. -/
@[simp] def Form.slotClass : Form → SlotClass
  | .rrr _ | .ri _ | .b _ | .j _ | .sq _ => .s
  | .vr _ | .vi _ | .vm _ | .vq _ => .v
  | .m _ => .m
  | .c _ => .c

/-- The name of a record's format. -/
@[simp] def Form.kind : Form → FormatKind
  | .rrr _ => .rrr | .ri _ => .ri | .b _ => .b | .j _ => .j | .sq _ => .sq
  | .vr _ => .vr | .vi _ => .vi | .vm _ => .vm | .vq _ => .vq | .m _ => .m | .c _ => .c

/-- The instruction that a record is under a code. -/
@[simp] def Form.instr (op : Nat) : Form → Option Instr
  | .rrr f => ofRrr op f
  | .ri f => ofRi op f
  | .b f => ofB op f
  | .j f => ofJ op f
  | .sq f => ofSq op f
  | .vr f => ofVr op f
  | .vi f => ofVi op f
  | .vm f => ofVm op f
  | .vq f => ofVq op f
  | .m f => ofM op f
  | .c f => ofC op f

/-- The format of a code in the map of a class. -/
@[simp] def SlotClass.kindOf : SlotClass → Nat → Option FormatKind
  | .s => kindS
  | .v => kindV
  | .m => kindM
  | .c => kindC

/-- An operation has one syllable or two (R72, R73). -/
theorem Form.words_eq_cons (op : BitVec 7) (f : Form) :
    ∃ a rest, f.words op = a :: rest ∧ rest.length ≤ 1 := by
  have hext (e : Option Word32) : e.toList.length ≤ 1 := by cases e <;> simp
  cases f with
  | ri f => exact ⟨_, _, rfl, hext f.ext⟩
  | b f => exact ⟨_, _, rfl, hext f.ext⟩
  | j f => exact ⟨_, _, rfl, hext f.ext⟩
  | _ => exact ⟨_, _, rfl, by simp⟩

/-- The syllables of a record under a code of its format decode to the record's instruction under the code: every
field stands where decode reads it. -/
theorem decodeWords_words {op : BitVec 7} {f : Form} (h : f.slotClass.kindOf op.toNat = some f.kind) :
    decodeWords f.slotClass (f.words op) = assigned (f.instr op.toNat) := by
  cases f with
  | rrr f | sq f =>
    simp only [Form.slotClass, Form.kind, SlotClass.kindOf] at h
    simp [decodeWords, Form.words, decodeS, readRrr, readSq, xBit_eq_field, opOf, extractLsb'_of_high,
      extractLsb'_of_low, h]
  | ri f | b f | j f =>
    simp only [Form.slotClass, Form.kind, SlotClass.kindOf] at h
    rcases f with ⟨_, _, _, _ | _⟩ <;>
      simp [decodeWords, Form.words, decodeS, readRi, readB, readJ, xBit_eq_field, opOf, extractLsb'_of_high,
        extractLsb'_of_low, h]
  | vr f | vi f | vm f | vq f =>
    simp only [Form.slotClass, Form.kind, SlotClass.kindOf] at h
    simp [decodeWords, Form.words, decodeV, readVr, readVi, readVm, readVq, opOf, extractLsb'_of_high,
      extractLsb'_of_low, h]
  | m f =>
    simp only [Form.slotClass, Form.kind, SlotClass.kindOf] at h
    simp [decodeWords, Form.words, decodeM, readM, opOf, extractLsb'_of_high, extractLsb'_of_low, h]
  | c f =>
    simp only [Form.slotClass, Form.kind, SlotClass.kindOf] at h
    simp [decodeWords, Form.words, decodeC, readC, opOf, extractLsb'_of_high, extractLsb'_of_low, h]

/-! Rows that share a code (R79 to R82): the bits of FN or of the immediate that tell them apart. -/

/-- The bits by which decode tells an instruction from the others of its code are as its row gives them. -/
def Instr.toldApart : Instr → Prop
  | .capld f => f.imm.getLsbD 13 = true
  | .capldMemory f => f.imm.getLsbD 13 = false
  | .dexp f | .dnormq f => f.fn.getLsbD 0 = false
  | .dexpRaw f | .dnormqDev f => f.fn.getLsbD 0 = true
  | .dscale f => f.fn ≠ 1 ∧ f.fn ≠ 2
  | .dscaleAdd f => f.fn = 1
  | .dscaleSub f => f.fn = 2
  | .vbcast f => f.fn.getLsbD 0 = false
  | .vbcastLane f => f.fn.getLsbD 0 = true
  | .bmodeScratch f | .bclr f | .accband f | .accrd f => f.fn.getLsbD 0 = false
  | .bmodeCompute f | .bclrAll f | .accbandLocal f | .accrdRemote f => f.fn.getLsbD 0 = true
  | .bsparse f => f.fn ≠ 0
  | .bsparseDense f => f.fn = 0
  | .accexp f => f.fn.getLsbD 2 = false
  | .accexpRemote f => f.fn.getLsbD 2 = true
  | .cpmcast f | .memrowCopy f => f.fn.getLsbD 0 = false
  | .cpmcastMsg f | .memrowZero f => f.fn.getLsbD 0 = true
  | .cpacc f | .carry f => f.fn.getLsbD 3 = false
  | .cpaccOne f | .carryRemote f => f.fn.getLsbD 3 = true
  | .cpexportRead f => f.fn ≠ 1 ∧ f.fn ≠ 2
  | .cpexportCarry f => f.fn = 1
  | .cpexportReceive f => f.fn = 2
  | _ => True

theorem testBit_false_of_and_eq_zero {a m k : Nat} (h : a &&& m = 0) (hm : m.testBit k = true) :
    a.testBit k = false := by
  simpa [Nat.testBit_and, hm] using congrArg (·.testBit k) h

/-- A bit that FN must not set is clear (R341). -/
theorem fnIn_getLsbD {f : CF} {m k : Nat} (h : fnIn f m = true) (hk : (255 - 128 - m).testBit k = true) :
    f.fn.getLsbD k = false := by
  simp only [fnIn, beq_iff_eq] at h
  exact testBit_false_of_and_eq_zero h hk

theorem getLsbD_two_eq (x : BitVec 8) : x.getLsbD 2 = decide (x.toNat / 4 % 2 = 1) := Nat.testBit_eq_decide_div_mod_eq

theorem getLsbD_three_eq (x : BitVec 8) : x.getLsbD 3 = decide (x.toNat / 8 % 2 = 1) := Nat.testBit_eq_decide_div_mod_eq

theorem fn_eq_zero_of_bankRs {f : MF} (h : bankRs f 0 = true) : f.fn = 0 := by
  simp only [bankRs, Bool.and_eq_true, decide_eq_true_eq] at h
  exact BitVec.eq_of_toNat_eq (Nat.le_zero.mp h.2)

theorem fn_eq_zero_of_plainOk {f : VR} (h : plainOk f 0 = true) : f.fn = 0 := by
  simp only [plainOk, vrOk, Bool.and_eq_true, decide_eq_true_eq] at h
  exact BitVec.eq_of_toNat_eq (Nat.le_zero.mp h.2)

/-- Row 5 of R76 fixes the bits that tell rows of one code apart. -/
theorem toldApart_of_fieldsOk {i : Instr} (h : i.fieldsOk = true) : i.toldApart := by
  cases i with
  | capld f | capldMemory f | dexp f | dexpRaw f | dscaleAdd f | dscaleSub f | dnormqDev f | vbcast f | vbcastLane f
    | bmodeScratch f | bmodeCompute f | bclrAll f | accband f | accbandLocal f | accrdRemote f | cpmcastMsg f
    | memrowZero f | cpaccOne f | cpexportCarry f | cpexportReceive f =>
    -- the row names FN, or the bit
    unfold Instr.fieldsOk at h
    simp_all [Instr.toldApart]
  | dscale f | dnormq f =>
    unfold Instr.fieldsOk at h
    have hfn : f.fn = 0 := fn_eq_zero_of_plainOk (by simp_all)
    simp [Instr.toldApart, hfn]
  | bsparseDense f | bclr f =>
    have hfn : f.fn = 0 := fn_eq_zero_of_bankRs h
    simp [Instr.toldApart, hfn]
  | bsparse f =>
    unfold Instr.fieldsOk at h
    intro hfn
    simp [hfn] at h
  | cpmcast f | memrowCopy f | cpacc f =>
    unfold Instr.fieldsOk at h
    simp only [Bool.and_eq_true] at h
    exact fnIn_getLsbD h.2 (by decide)
  | accrd f | cpexportRead f =>
    -- FN is one of two values
    unfold Instr.fieldsOk at h
    simp only [Bool.and_eq_true, Bool.or_eq_true, beq_iff_eq] at h
    obtain ⟨-, hfn | hfn⟩ := h <;> simp [Instr.toldApart, hfn]
  | accexp f | accexpRemote f | carry f | carryRemote f =>
    -- the row gives the bit as a digit of FN
    unfold Instr.fieldsOk at h
    simp only [carryFn, Bool.and_eq_true, decide_eq_true_eq] at h
    simp only [Instr.toldApart, getLsbD_two_eq, getLsbD_three_eq, decide_eq_true_eq, decide_eq_false_iff_not]
    omega
  | _ => trivial

/-- Its code is one of its format, and stands for it when the bits that tell it apart are its own. -/
theorem form_assigned {i : Instr} {k : SlotClass} {op : BitVec 7} {f : Form} (hform : i.form = some (k, op, f))
    (htold : i.toldApart) : f.slotClass = k ∧ k.kindOf op.toNat = some f.kind ∧ f.instr op.toNat = some i := by
  cases i with
  | capld f | capldMemory f | dexp f | dexpRaw f | dscale f | dscaleAdd f | dscaleSub f | dnormq f | dnormqDev f
    | vbcast f | vbcastLane f | bmodeScratch f | bmodeCompute f | bsparse f | bsparseDense f | bclr f | bclrAll f
    | accband f | accbandLocal f | accrd f | accrdRemote f | accexp f | accexpRemote f | cpmcast f | cpmcastMsg f
    | memrowCopy f | memrowZero f | cpacc f | cpaccOne f | cpexportRead f | cpexportCarry f | cpexportReceive f
    | carry f | carryRemote f =>
    simp only [Instr.toldApart] at htold
    cases hform
    exact ⟨rfl, rfl, by simp_all [ofRi, ofVr, ofVi, ofM, ofC]⟩
  | _ => cases hform <;> exact ⟨rfl, rfl, rfl⟩

/-- An instruction of slot class `k` is what its syllables decode to in the map of the class, before its checks. -/
theorem decodeWords_form {i : Instr} {k : SlotClass} {op : BitVec 7} {f : Form} (hform : i.form = some (k, op, f))
    (htold : i.toldApart) : decodeWords k (f.words op) = .ok i := by
  obtain ⟨rfl, hkind, hinstr⟩ := form_assigned hform htold
  rw [decodeWords_words hkind, hinstr]
  rfl

/-! The filter instructions (R439). -/

theorem filterCode_word_a (op : BitVec 5) (f : FA) :
    BitVec.extractLsb' 27 5 (op ++ f.fd ++ f.fa ++ f.fb ++ f.sub) = op := by
  simp [extractLsb'_of_high]

theorem filterCode_word_i (op : BitVec 5) (f : FI) :
    BitVec.extractLsb' 27 5 (op ++ f.fd ++ f.fa ++ f.sub ++ f.imm) = op := by
  simp [extractLsb'_of_high]

theorem readFa_word (op : BitVec 5) (f : FA) : readFa (op ++ f.fd ++ f.fa ++ f.fb ++ f.sub) = f := by
  simp [readFa, extractLsb'_of_high, extractLsb'_of_low]

theorem readFi_word (op : BitVec 5) (f : FI) : readFi (op ++ f.fd ++ f.fa ++ f.sub ++ f.imm) = f := by
  simp [readFi, extractLsb'_of_high, extractLsb'_of_low]

/-- The word of a filter instruction stands for it. -/
theorem filterOf_filterWord {i : Instr} {w : Word32} (h : filterWord i = some w) : filterOf w = some i := by
  cases i with
  | filterExit f | filterBr f | filterLde f | filterAdd f | filterSub f | filterAnd f | filterOr f | filterXor f
    | filterMin f | filterMax f | filterAbsd f | filterLog2 f =>
    cases h
    rw [filterOf, filterCode_word_a, readFa_word]
    rfl
  | filterLdi f | filterLih f | filterAddi f | filterShl f | filterShr f | filterSha f | filterHash f | filterEwma f
    | filterTld f | filterTst f | filterTadd f | filterTrig f =>
    cases h
    rw [filterOf, filterCode_word_i, readFi_word]
    rfl
  | _ => cases h

theorem decodeFilter_filterWord {i : Instr} {w : Word32} (hwf : i.WellFormed) (h : filterWord i = some w) :
    decodeFilter w = some i := by
  simp [decodeFilter, filterOf_filterWord h, hwf]

/-! Encoding by the form of the instruction. -/

theorem encode_of_form {i : Instr} {k : SlotClass} {op : BitVec 7} {f : Form} (h : i.form = some (k, op, f)) :
    encode i = some (f.words op) := by
  simp [encode, h]

theorem encode_of_no_form {i : Instr} (h : i.form = none) : encode i = (filterWord i).map fun w => [w] := by
  simp [encode, h]

theorem decodeAs_encode {i : Instr} (hwf : i.WellFormed) {ws : List Word32} (h : encode i = some ws) :
    decodeAs i.slotClass ws = some i := by
  rcases hform : i.form with _ | ⟨k, op, f⟩
  · -- a filter instruction
    rw [encode_of_no_form hform, Option.map_eq_some_iff] at h
    obtain ⟨w, hword, rfl⟩ := h
    simpa [decodeAs, Instr.slotClass, hform] using decodeFilter_filterWord hwf hword
  · -- a slot operation
    obtain rfl : f.words op = ws := Option.some.inj ((encode_of_form hform).symm.trans h)
    have hfields : i.fieldsOk = true := by
      simp only [Instr.WellFormed, Instr.wf, Bool.and_eq_true] at hwf
      exact hwf.1.1
    simp [decodeAs, Instr.slotClass, hform, decodeWords_form hform (toldApart_of_fieldsOk hfields), hwf]

/-- Settles O59: a slot operation by its form, a filter instruction by its word. -/
theorem decodeInvertsEncode : Obligations.DecodeInvertsEncode := by
  unfold Obligations.DecodeInvertsEncode
  refine fun i hwf => ⟨fun ws h => decodeAs_encode hwf h, fun hslot => ?_, fun f g hfilter => ?_⟩
  · obtain ⟨⟨k, op, f⟩, hform⟩ := Option.isSome_iff_exists.mp (Option.isSome_map.symm.trans hslot)
    obtain ⟨a, rest, hwords, hlen⟩ := f.words_eq_cons op
    exact ⟨a, rest, by rw [encode_of_form hform, hwords], hlen⟩
  · simp only [List.mem_cons, List.not_mem_nil, or_false] at hfilter
    rcases hfilter with rfl | rfl | rfl | rfl | rfl | rfl | rfl | rfl | rfl | rfl | rfl | rfl | rfl | rfl | rfl | rfl |
      rfl | rfl | rfl | rfl | rfl | rfl | rfl | rfl <;> exact ⟨_, rfl⟩

/-- Settles O60: each word by running decode on it. -/
theorem wordsDecodeAsWritten : Obligations.WordsDecodeAsWritten := by
  unfold Obligations.WordsDecodeAsWritten
  and_intros <;> decide

end Sys2Proof
end

section
/-! Settles O54: exec of a slot operation is the settled outcome of what a bundle issues (R71, R75). -/

namespace Sys2Proof.Machine

/-- Settles O54: but for the operations that end their bundle or close an access, exec and the issue of a bundle name
one operation, and on a core exec settles it. -/
theorem bundleOperationsActAsTheirInstructions : Obligations.BundleOperationsActAsTheirInstructions := by
  unfold Obligations.BundleOperationsActAsTheirInstructions
  intro s i hn hslot hends haccess
  cases i with
  | beq f | bne f | blt f | bge f | bltn f | bgen f | jmp f | call f | jr f | ret f | loopr f | phase f | trap f
    | tret f | halt f | dbgbrk f => simp [noSticky] at hends
  | capldMemory f | capst f | gld f | gst f => simp at haccess
  | _ =>
    -- an event has no slot class; a slot operation is run by `State.runSlot`
    cases hslot <;> exact if_pos hn

end Sys2Proof.Machine
end

section
/-! Settles O3. Offsets as two's-complement numbers (R72), the target of a relative branch (R145), and where a bundle of
one operation of control flow goes (R66, R67). -/

namespace Sys2Proof.Machine

/-! Offsets (R8, R72). -/

theorem signExt_toNat {w : Nat} (x : BitVec w) : signExt x.toNat w = x.toInt := by
  simp only [signExt, BitVec.toInt, Nat.mod_eq_of_lt x.isLt]

/-- An extension syllable before a field reads as one number with it. -/
theorem signExt_extended {v w : Nat} (e : BitVec v) (x : BitVec w) :
    signExt (e.toNat * 2 ^ w + x.toNat) (v + w) = (e ++ x).toInt := by
  rw [← signExt_toNat, BitVec.toNat_append, ← Nat.shiftLeft_add_eq_or_of_lt x.isLt, Nat.shiftLeft_eq]

/-- A field with the extension syllable that may stand before it, as a two's-complement number (R72). -/
def extendedValue {w : Nat} (ext : Option Word32) (x : BitVec w) : Int :=
  match ext with
  | none => x.toInt
  | some e => (e ++ x).toInt

theorem sbValue_eq (f : SB) : sbValue f = extendedValue f.ext f.off := by
  rcases f with ⟨_, _, off, _ | e⟩
  · exact signExt_toNat off
  · exact signExt_extended e off

theorem sjValue_eq (f : SJ) : sjValue f = extendedValue f.ext f.off := by
  rcases f with ⟨off, _ | e⟩
  · exact signExt_toNat off
  · exact signExt_extended e off

theorem Core.relative_eq (c : Core) (off : Int) :
    c.relative off = BitVec.ofInt 64 (c.seq.pc.toInt + 4 * off) := by
  rw [Core.relative, word, BitVec.ofInt_add, BitVec.ofInt_toInt]

theorem ofInt_toInt_sub_one (a : Word) : BitVec.ofInt 64 (a.toInt - 1) = a - 1 := by
  rw [Int.sub_eq_add_neg, BitVec.ofInt_add, BitVec.ofInt_toInt, BitVec.sub_eq_add_neg]
  rfl

/-! A bundle of one operation (log 2). -/

/-- The core in the focus once the successor of its bundle is found (R66). -/
def State.linkedCore (s : State) : Core :=
  { s.hereCore with seq := { s.hereCore.seq with succ := s.nextBundle.1, succNew := s.nextBundle.2 } }

theorem State.findSuccessor_eq (s : State) : s.findSuccessor s.focus.core = s.setCore s.focus.core s.linkedCore := rfl

/-- A core whose bundle has a branch to take, to an address in a register or not, when there is one. -/
def Core.redirected (c : Core) (target : Option (Word × Bool)) : Core :=
  { c with seq := { c.seq with redirect := target } }

/-- Where the sequencer goes at the end of a bundle that is not otherwise ended (R66, R67). -/
def Seq.goesOn (q : Seq) : Seq :=
  match q.redirect with
  | some (t, reg) => q.goTo t (if reg then .register else .branch)
  | none => q.goTo q.succ (if q.succNew then .newLine else .sequential)

/-- The end of a bundle with no HALT, TRET, PHASE or trap to follow. -/
theorem State.endBundle_of_plain {s : State} {n : Nat} (hhalt : (s.core n).seq.haltOp = false)
    (htret : (s.core n).seq.tret = false) (hended : (s.core n).seq.ended = false)
    (hafter : (s.core n).seq.after = none) :
    s.endBundle n 0 = s.onCore n fun c => { c with seq := c.seq.goesOn } := by
  rcases hr : (s.core n).seq.redirect with _ | ⟨t, reg⟩ <;>
    simp [State.endBundle, State.onSeq, State.onCore, Seq.goesOn, Seq.goTo, hhalt, htret, hended, hafter, hr]

theorem Seq.goesOn_after (q : Seq) : q.goesOn.after = none := by
  rcases hr : q.redirect with _ | ⟨t, reg⟩ <;> simp [Seq.goesOn, Seq.goTo, hr]

/-- An operation of one core that goes through as a bundle of its own, and notes no other end of it. -/
theorem State.runControl_core {s : State} {op : Focus → Core → Res Core} {c : Core} (hn : s.onACore)
    (h : op s.here s.linkedCore = .ok c) (hhalt : c.seq.haltOp = false) (htret : c.seq.tret = false)
    (hended : c.seq.ended = false) (hafter : c.seq.after = none) :
    s.runControl (fun fo s => s.liftCore fo (op fo)) =
      .next (s.setCore s.focus.core { c with seq := c.seq.goesOn }) := by
  have hend : (s.setCore s.focus.core c).endBundle s.focus.core 0 =
      s.setCore s.focus.core { c with seq := c.seq.goesOn } := by
    rw [State.endBundle_of_plain] <;> simp [State.onCore, hhalt, htret, hended, hafter]
  have hn : s.focus.core < 128 := hn
  simp [State.runControl, hn, State.liftCore, State.findSuccessor_eq, h, Res.map, hend, Seq.goesOn_after]

/-- A bundle that nothing ends in another way goes on at its target, or at its successor. -/
theorem State.runControl_goesOn {s : State} {op : Focus → Core → Res Core} {l : List (Nat × WriteBack)}
    {target : Option (Word × Bool)} (hn : s.onACore) (hplain : s.hereCore.plainEnd)
    (h : op s.here s.linkedCore = .ok ((s.linkedCore.takesIn l).redirected target)) :
    s.runControl (fun fo s => s.liftCore fo (op fo)) =
      .next (s.goesOn l (target.map fun x => (x.1, if x.2 then .register else .branch))) := by
  obtain ⟨hhalt, htret, hended, hafter, -⟩ := hplain
  rw [State.runControl_core hn h hhalt htret hended hafter]
  rcases target with _ | ⟨t, reg⟩ <;> rfl

/-- A bundle that sends nothing and takes its branch. -/
theorem State.runControl_jumps {s : State} {op : Focus → Core → Res Core} (t : Word) (reg : Bool) (hn : s.onACore)
    (hplain : s.hereCore.plainEnd) (h : op s.here s.linkedCore = .ok (s.linkedCore.redirected (some (t, reg)))) :
    s.runControl (fun fo s => s.liftCore fo (op fo)) =
      .next (s.goesOn [] (some (t, if reg then .register else .branch))) :=
  State.runControl_goesOn (target := some (t, reg)) hn hplain (by rw [Core.takesIn_nil, h])

theorem Core.redirected_none {c : Core} (h : c.seq.redirect = none) : c.redirected none = c := by
  rw [Core.redirected, ← h]

/-- An operation that notes its branch when it is taken: its bundle goes on there, else at its successor. -/
theorem State.runControl_branches {s : State} {op : Focus → Core → Res Core} {l : List (Nat × WriteBack)}
    {taken : Prop} [Decidable taken] {t : Word} (hn : s.onACore) (hplain : s.hereCore.plainEnd)
    (h : op s.here s.linkedCore =
      .ok (if taken then (s.linkedCore.takesIn l).branchTo t else s.linkedCore.takesIn l)) :
    s.runControl (fun fo s => s.liftCore fo (op fo)) =
      .next (s.goesOn l (if taken then some (t, .branch) else none)) := by
  by_cases htaken : taken
  · rw [if_pos htaken] at h ⊢
    exact State.runControl_goesOn (target := some (t, false)) hn hplain h
  · obtain ⟨-, -, -, -, hredirect⟩ := id hplain
    rw [if_neg htaken] at h ⊢
    have hstays : (s.linkedCore.takesIn l).redirected none = s.linkedCore.takesIn l := Core.redirected_none hredirect
    exact State.runControl_goesOn (target := none) hn hplain (h.trans (congrArg _ hstays.symm))

/-- A conditional branch (R145), by its test of s[SA] and s[SB]. -/
theorem State.condBranch_goesOn {s : State} (f : SB) (test : Word → Word → Bool) (hn : s.onACore)
    (hplain : s.hereCore.plainEnd) :
    s.runControl (fun fo s => s.liftCore fo fun c => condBranch f c test) =
      .next (s.goesOn [] (if test (s.hereCore.sreg f.sa.toNat) (s.hereCore.sreg f.sb.toNat)
        then some (s.hereCore.relative (sbValue f), .branch) else none)) :=
  State.runControl_branches (op := fun _ c => condBranch f c test) hn hplain (by rw [Core.takesIn_nil]; rfl)

/-- LOOPR (R148): one fewer, and on to its target until none is left. -/
theorem State.loopr_goesOn {s : State} (f : SB) (hn : s.onACore) (hplain : s.hereCore.plainEnd) :
    let n := s.hereCore.sreg f.sa.toNat - 1
    exec (.loopr f) s = .next (s.goesOn [(1, .scalar f.sa.toNat n)]
      (if (n != 0) = true then some (s.hereCore.relative (sbValue f), .branch) else none)) :=
  State.runControl_branches (op := fun fo => opLoopr fo f) hn hplain rfl

/-- JMP and CALL (R146), CALL with its link. -/
theorem State.jmp_goesOn {s : State} (f : SJ) (hn : s.onACore) (hplain : s.hereCore.plainEnd) :
    exec (.jmp f) s = .next (s.goesOn [] (some (s.hereCore.relative (sjValue f), .branch))) :=
  State.runControl_jumps (op := fun fo => opJmp fo f) _ false hn hplain rfl

theorem State.call_goesOn {s : State} (f : SJ) (hn : s.onACore) (hplain : s.hereCore.plainEnd) :
    exec (.call f) s = .next (s.goesOn [(1, .scalar 31 s.nextBundle.1)]
      (some (s.hereCore.relative (sjValue f), .branch))) :=
  State.runControl_goesOn (op := fun fo => opCall fo f) (target := some (_, false)) hn hplain rfl

/-- Settles O3: each operation notes its branch, and its bundle goes on there or at its successor. -/
theorem controlFlowGoesToItsTarget : Obligations.ControlFlowGoesToItsTarget := by
  unfold Obligations.ControlFlowGoesToItsTarget
  refine ⟨fun s hn hplain => ⟨fun f => ?branches, fun f => ?jmp⟩,
    fun s hn hplain => ⟨fun f => ?call, fun f => ?jr, fun f => ?ret, fun f => ?loopr⟩⟩
  case branches =>
    have hgoes := fun test => State.condBranch_goesOn f test hn hplain
    simp only [Core.relative_eq, sbValue_eq] at hgoes
    refine ⟨hgoes fun a b => a == b, (hgoes fun a b => a != b).trans ?bne, hgoes fun a b => decide (a.toInt < b.toInt),
      hgoes fun a b => decide (b.toInt ≤ a.toInt), hgoes fun a b => decide (a.toNat < b.toNat),
      hgoes fun a b => decide (b.toNat ≤ a.toNat)⟩
    case bne =>
      rw [decide_not]
      rfl
  case jmp =>
    have hgoes := State.jmp_goesOn f hn hplain
    rw [Core.relative_eq, sjValue_eq] at hgoes
    exact hgoes
  case call =>
    have hgoes := State.call_goesOn f hn hplain
    rw [Core.relative_eq, sjValue_eq] at hgoes
    exact hgoes
  case jr => exact State.runControl_jumps (op := fun fo => opJr fo f) _ true hn hplain rfl
  case ret => exact State.runControl_jumps (op := fun fo => opRet fo f) _ true hn hplain rfl
  case loopr =>
    have hgoes := State.loopr_goesOn f hn hplain
    simp only [Core.relative_eq, sbValue_eq, bne_iff_ne, ite_not, ← ofInt_toInt_sub_one] at hgoes
    exact hgoes

end Sys2Proof.Machine
end

section
/-! Fields of a control register after an update of one: what the field itself reads, and what the other registers
do. -/

namespace Sys2Proof.Machine

theorem setBits_eq (x hi lo v : Nat) :
    setBits x hi lo v =
      (x / 2 ^ lo / 2 ^ (hi + 1 - lo) * 2 ^ (hi + 1 - lo) + v % 2 ^ (hi + 1 - lo)) * 2 ^ lo + x % 2 ^ lo := by
  have hlow := Nat.div_add_mod' x (2 ^ lo)
  have hfield := Nat.div_add_mod' (x / 2 ^ lo) (2 ^ (hi + 1 - lo))
  have hsplit := congrArg (· * 2 ^ lo) hfield
  simp only [Nat.add_mul] at hsplit ⊢
  simp only [setBits, bits]
  omega

theorem bits_setBits (x hi lo v : Nat) : bits (setBits x hi lo v) hi lo = v % 2 ^ (hi + 1 - lo) := by
  have hlow : x % 2 ^ lo < 2 ^ lo := Nat.mod_lt _ (Nat.two_pow_pos lo)
  rw [setBits_eq, bits, Nat.add_comm, Nat.add_mul_div_right _ _ (Nat.two_pow_pos lo), Nat.div_eq_of_lt hlow, Nat.zero_add,
    Nat.mul_add_mod_self_right, Nat.mod_mod]

/-- A field within a word of `n` bits is that of the word. -/
theorem bits_mod_two_pow (x : Nat) {hi lo n : Nat} (hlo : lo ≤ hi) (hhi : hi < n) :
    bits (x % 2 ^ n) hi lo = bits x hi lo := by
  have hsplit : 2 ^ n = 2 ^ lo * 2 ^ (n - lo) := by rw [← Nat.pow_add, Nat.add_sub_cancel' (by omega)]
  have hdvd : 2 ^ (hi + 1 - lo) ∣ 2 ^ (n - lo) := Nat.pow_dvd_pow 2 (by omega)
  rw [bits, bits, hsplit, Nat.mod_mul_right_div_self, Nat.mod_mod_of_dvd _ hdvd]

theorem Core.ctlBits_setCtlBits (c : Core) {n hi lo v : Nat} (hlo : lo ≤ hi) (hhi : hi < 64) :
    (c.setCtlBits n hi lo v).ctlBits n hi lo = v % 2 ^ (hi + 1 - lo) := by
  simp only [Core.ctlBits, Core.ctlNat, Core.setCtlBits, Core.ctlOf_setCtl, BitVec.toNat_ofNat,
    bits_mod_two_pow _ hlo hhi, bits_setBits]

theorem Core.ctlBits_setCtlBits_other (c : Core) {n m hi lo v hi' lo' : Nat} (h : m ≠ n) :
    (c.setCtlBits n hi lo v).ctlBits m hi' lo' = c.ctlBits m hi' lo' := by
  simp only [Core.ctlBits, Core.ctlNat, Core.ctlOf_setCtlBits_other c n hi lo v h]

theorem Core.ctlBits_of_ctl {c d : Core} (h : c.ctl = d.ctl) (n hi lo : Nat) :
    c.ctlBits n hi lo = d.ctlBits n hi lo := by
  simp only [Core.ctlBits, Core.ctlNat, Core.ctlOf, h]

theorem Core.ctlBits_lt (c : Core) (n hi lo : Nat) : c.ctlBits n hi lo < 2 ^ (hi + 1 - lo) :=
  Nat.mod_lt _ (Nat.two_pow_pos _)

end Sys2Proof.Machine
end

section
/-! Settles O14. The arrival of a GBAR and its answers (R165), what an attempt that waits keeps (R161, R165, R226), and a
cycle of a wait that slack absorbs (R112). -/

namespace Sys2Proof.Machine

/-! The arrival of a GBAR (R165). -/

/-- A core with an arrival at group `k` noted, unless its GBAR there has arrived already. -/
def Core.arrives (c : Core) (k : Nat) : Core :=
  let a := Tab.look 0 c.seq.arrivals k
  if a ≠ Tab.look 0 c.seq.barred k then c
  else { c with seq := { c.seq with arrivals := Tab.store c.seq.arrivals k (a + 1) } }

theorem State.arrive_core (s : State) (n k : Nat) : (s.arrive n k).core n = (s.core n).arrives k := by
  simp only [State.arrive, Core.arrives]
  split
  · rfl
  · split <;> simp

theorem Core.arrives_barred (c : Core) (k : Nat) : (c.arrives k).seq.barred = c.seq.barred := by
  simp only [Core.arrives]
  split <;> rfl

theorem Core.arrives_arrivals (c : Core) (k : Nat) :
    Tab.look 0 (c.arrives k).seq.arrivals k =
      if Tab.look 0 c.seq.arrivals k = Tab.look 0 c.seq.barred k then Tab.look 0 c.seq.barred k + 1
      else Tab.look 0 c.seq.arrivals k := by
  by_cases h : Tab.look 0 c.seq.arrivals k = Tab.look 0 c.seq.barred k <;> simp [Core.arrives, h]

theorem State.arrive_parts (s : State) (n k : Nat) : (s.arrive n k).parts = s.parts := by
  simp only [State.arrive]
  split
  · rfl
  · split <;> rfl

theorem State.arrive_group (s : State) (n k : Nat) (c : Core) (j : Nat) : (s.arrive n k).group c j = s.group c j := by
  simp only [State.group, State.ttOf, State.part, State.arrive_parts]

/-- The core is in the group of a GBAR, and the group is used. -/
def State.barrierOpen (s : State) (n k : Nat) : Bool :=
  s.groupOk (s.core n) k && s.isMember (s.core n) k (s.core n).lcore

/-- Every member of the group of a GBAR has arrived, the core's own arrival made. -/
def State.barrierMet (s : State) (n k : Nat) : Prop :=
  ∀ l ∈ membersOf (s.group (s.core n) k),
    Tab.look 0 (s.core n).seq.barred k < (s.arrive n k).arrivedAt (s.core n) k l

theorem State.barrierMet_iff {s : State} {n k : Nat} :
    s.barrierMet n k ↔ ((membersOf (s.group (s.core n) k)).all fun l => decide
      (Tab.look 0 (s.core n).seq.barred k < (s.arrive n k).arrivedAt (s.core n) k l)) = true := by
  simp [State.barrierMet]

section
variable {fo : Focus} {f : SRI} {s : State} (hsvc : (s.core fo.core).svc = false)
include hsvc

theorem opGbar_outside (hopen : s.barrierOpen fo.core (barGroup f) = false) :
    opGbar fo f s = .trap (fo.trap Cause.illegalOperand) := by
  rw [State.barrierOpen] at hopen
  simp [opGbar, notInService, guardTrap, hsvc, hopen]

theorem opGbar_met (hopen : s.barrierOpen fo.core (barGroup f) = true) (hmet : s.barrierMet fo.core (barGroup f)) :
    opGbar fo f s = .ok ((s.arrive fo.core (barGroup f)).onCore fo.core fun c => { c with seq := { c.seq with
      barred := Tab.store c.seq.barred (barGroup f) (Tab.look 0 c.seq.barred (barGroup f) + 1) } }) := by
  rw [State.barrierOpen] at hopen
  simp only [opGbar, notInService, guardTrap, hsvc, hopen, State.arrive_group, State.barrierMet_iff.mp hmet,
    Bool.not_false, if_true, State.onCore, State.arrive_core, Core.arrives_barred]

theorem opGbar_unmet (hopen : s.barrierOpen fo.core (barGroup f) = true) (hmet : ¬ s.barrierMet fo.core (barGroup f)) :
    opGbar fo f s = fo.waits 3 (barGroup f) (s.arrive fo.core (barGroup f)) := by
  have hsome := Bool.eq_false_iff.mpr (mt State.barrierMet_iff.mpr hmet)
  rw [State.barrierOpen] at hopen
  simp only [opGbar, notInService, guardTrap, hsvc, hopen, State.arrive_group, hsome, Bool.not_false, if_true,
    Bool.false_eq_true, if_false]

end

theorem notInService_outside {α : Type} {fo : Focus} {c : Core} (k : Res α) (h : c.svc = false) :
    notInService fo c k = k := by
  simp [notInService, guardTrap, h]

/-- Service code issues no GBAR and no IDLE (R449). -/
theorem notInService_svc {α : Type} {fo : Focus} {c : Core} (k : Res α) (h : c.svc = true) :
    notInService fo c k = .trap (fo.trap Cause.illegalOperation) := by
  simp [notInService, guardTrap, h]

/-! Waiting. -/

/-- What an attempt that waits leaves of its core: the arrivals, the open access and what it set aside of q7. -/
theorem State.keepAttempt_core (s t : State) (n : Nat) :
    ∃ q, (s.keepAttempt t n).core n = { s.core n with q := q, seq := { (s.core n).seq with
      arrivals := (t.core n).seq.arrivals, access := (t.core n).seq.access } } :=
  ⟨_, State.core_onCore _ _ _⟩

theorem State.keepAttempt_core_other (s t : State) {n m : Nat} (h : m ≠ n) :
    (s.keepAttempt t n).core m = s.core m := State.core_onCore_other _ _ _ h

/-- The counts of a cycle of a wait that slack absorbs (R112): one less of slack, one more counted. -/
def Core.absorbed (c : Core) : Core :=
  let d := c.setCtlBits Ctl.devslack 31 0 (c.ctlBits Ctl.devslack 31 0 - 1)
  d.setCtlBits Ctl.devcnt 63 32 (satAdd32 (d.ctlBits Ctl.devcnt 63 32) 1)

/-- A core after a cycle of a wait that slack absorbs. -/
def Core.absorbs (c : Core) (now : Nat) (w : List WaitCause) : Core :=
  { c.absorbed with seq := { c.seq with
      acted := now + 1, wait := some { lost := satAdd32 ((c.seq.wait.map (·.lost)).getD 0) 1, causes := w } } }

/-- A cycle of a wait outside service code, of a core that neither stops at it nor runs in strict mode, with slack
left. -/
theorem State.waitCycle_absorbed {s : State} {n : Nat} {w : List WaitCause} (hstage : s.stage ≠ 1)
    (hsvc : (s.core n).svc = false) (hpreempt : (s.core n).seq.preempt = false) (hstrict : (s.core n).strict = false)
    (hslack : (s.core n).ctlBits Ctl.devslack 31 0 ≠ 0) :
    s.waitCycle n w = s.setCore n ((s.core n).absorbs s.now w) := by
  dsimp only [State.waitCycle]
  rw [if_neg (by simp [hstage]), if_neg (by simp [hsvc]), if_neg (by simp [hpreempt]), if_neg (by simp [hstrict]),
    if_neg hslack]
  rcases hwait : (s.core n).seq.wait with _ | x <;>
  · simp only [State.onSeq, State.onCore_onCore, Core.absorbs, Core.absorbed, hwait]
    rfl

theorem Core.absorbs_slack (c : Core) (now : Nat) (w : List WaitCause) :
    (c.absorbs now w).ctlBits Ctl.devslack 31 0 = c.ctlBits Ctl.devslack 31 0 - 1 := by
  have hlt : c.ctlBits Ctl.devslack 31 0 - 1 < 2 ^ (31 + 1 - 0) :=
    Nat.lt_of_le_of_lt (Nat.sub_le _ _) (c.ctlBits_lt _ 31 0)
  have hctl : (c.absorbs now w).ctl = (c.absorbed).ctl := rfl
  rw [Core.ctlBits_of_ctl hctl, Core.absorbed, Core.ctlBits_setCtlBits_other _ (by decide),
    Core.ctlBits_setCtlBits _ (by decide) (by decide), Nat.mod_eq_of_lt hlt]

theorem Core.absorbs_wait (c : Core) (now : Nat) (w : List WaitCause) :
    (c.absorbs now w).seq.wait = some { lost := satAdd32 ((c.seq.wait.map (·.lost)).getD 0) 1, causes := w } := rfl

/-- A cycle that slack absorbs, of a wait whose attempt left `t`: a cycle less of slack, one more lost, and what the
attempt left stays. -/
theorem State.keepAttempt_absorbed {s : State} (t : State) {n : Nat} (w : List WaitCause) (hstage : s.stage ≠ 1)
    (hsvc : (s.core n).svc = false) (hpreempt : (s.core n).seq.preempt = false) (hstrict : (s.core n).strict = false)
    (hslack : (s.core n).ctlBits Ctl.devslack 31 0 ≠ 0) :
    let d := ((s.keepAttempt t n).waitCycle n w).core n
    d.ctlBits Ctl.devslack 31 0 = (s.core n).ctlBits Ctl.devslack 31 0 - 1 ∧
    d.seq.wait = some { lost := satAdd32 (((s.core n).seq.wait.map (·.lost)).getD 0) 1, causes := w } ∧
    d.seq.arrivals = ((s.keepAttempt t n).core n).seq.arrivals ∧ d.seq.barred = (s.core n).seq.barred := by
  obtain ⟨q, hcore⟩ := s.keepAttempt_core t n
  have hctl : ((s.keepAttempt t n).core n).ctl = (s.core n).ctl := by rw [hcore]
  have hwait : ((s.keepAttempt t n).core n).seq.wait = (s.core n).seq.wait := by rw [hcore]
  have hbarred : ((s.keepAttempt t n).core n).seq.barred = (s.core n).seq.barred := by rw [hcore]
  have habsorbs := State.waitCycle_absorbed (s := s.keepAttempt t n) (n := n) (w := w) hstage
    (by rwa [Core.svc, Core.ctlBits_of_ctl hctl]) (by rw [hcore]; exact hpreempt)
    (by rwa [Core.strict, Core.ctlBits_of_ctl hctl]) (by rwa [Core.ctlBits_of_ctl hctl])
  intro d
  have hd : d = ((s.keepAttempt t n).core n).absorbs s.now w :=
    (congrArg (·.core n) habsorbs).trans (State.core_setCore ..)
  rw [hd, Core.absorbs_slack, Core.absorbs_wait, Core.ctlBits_of_ctl hctl, hwait]
  exact ⟨rfl, rfl, rfl, hbarred⟩

/-- Settles O14: NOP, FENCE.E and IDLE by their operation, GBAR by its answers and, where it waits, by what it keeps. -/
theorem barrierFenceAndIdle : Obligations.BarrierFenceAndIdle := by
  unfold Obligations.BarrierFenceAndIdle
  intro s f g hn n c k u all
  have hk : barGroup f = k := by simp [barGroup, bits, k]
  have hi : idleMask f = f.imm.toNat % 64 := by simp [idleMask, bits]
  refine ⟨?nop, ?fence, fun hsvc => ?idle, fun hsvc hopen => ?outside, fun hsvc hopen hmet => ?met,
    fun hsvc hopen hmet => ?unmet, fun hsvc => ?service⟩
  case nop => exact State.runSlot_sends (op := fun fo => opNop fo g) hn (congrArg Res.ok (Core.takesIn_nil _).symm)
  case fence => exact State.runSlot_core (op := fun fo => opFenceE fo f) hn rfl
  case idle =>
    refine State.runSlot_core (op := fun fo => opIdle fo f) hn ?_
    rw [opIdle, notInService_outside _ hsvc, hi]
    rfl
  case outside =>
    rw [← hk] at hopen
    exact State.runSlot_trap (op := fun fo s => opGbar fo f s) hn (opGbar_outside (fo := s.here) hsvc hopen)
  case met =>
    have hpasses := opGbar_met (fo := s.here) (f := f) hsvc (by rwa [hk]) (by rwa [hk])
    rw [hk] at hpasses
    exact State.runSlot_ok (op := fun fo s => opGbar fo f s) hn hpasses
  case unmet =>
    intro w n0 cause
    have hexec : exec (.gbar f) s = .next (w.waitCycle n [cause]) := by
      have hwaits := opGbar_unmet (fo := s.here) (f := f) hsvc (by rwa [hk]) (by rwa [hk])
      rw [hk] at hwaits
      exact State.runSlot_wait (op := fun fo s => opGbar fo f s) hn hwaits
    obtain ⟨q, hcore⟩ : ∃ q, w.core n = { c with q := q, seq := { c.seq with
      arrivals := (u.core n).seq.arrivals, access := (u.core n).seq.access } } := s.keepAttempt_core u n
    refine ⟨hexec, ?arrivals, by rw [hcore], by rw [hcore], by rw [hcore],
      fun m hm => s.keepAttempt_core_other u hm, fun hstage hpreempt hstrict hslack =>
        ⟨_, hexec, s.keepAttempt_absorbed u [cause] hstage hsvc hpreempt hstrict hslack⟩⟩
    rw [hcore, State.arrive_core]
    exact Core.arrives_arrivals c k
  case service =>
    exact ⟨State.runSlot_core_trap (op := fun fo => opIdle fo f) hn (notInService_svc _ hsvc),
      State.runSlot_trap (op := fun fo s => opGbar fo f s) hn (notInService_svc (fo := s.here) _ hsvc)⟩

end Sys2Proof.Machine
end

section
/-! Settles O57. A pipeline cycle passing (R92): it lands the results due at the next cycle and leaves the others in
flight, so the one result of a core whose flight was empty lands exactly when its latency is 1. -/

namespace Sys2Proof.Machine

/-! A scalar result landing. -/

theorem Core.sreg_of_regs {c d : Core} (h : c.regs = d.regs) (q : Nat) : c.sreg q = d.sreg q := by
  rw [Core.sreg, Core.sreg, h]

theorem Core.sreg_apply_scalar_same (info : Nat → Option CtlInfo) (c : Core) {r : Nat} (v : Word) (hr : r ≠ 0) :
    (c.apply info (.scalar r v)).sreg r = v := by
  simp [Core.apply, Core.sreg, hr]

theorem Core.sreg_apply_scalar_other (info : Nat → Option CtlInfo) (c : Core) {q r : Nat} (v : Word) (hq : q ≠ r) :
    (c.apply info (.scalar r v)).sreg q = c.sreg q := by
  by_cases hr : r = 0
  · simp [Core.apply, hr]
  · simp [Core.apply, Core.sreg, hr, Tab.look_store_other _ _ _ hq]

@[simp] theorem Core.apply_scalar_seq (info : Nat → Option CtlInfo) (c : Core) (r : Nat) (v : Word) :
    (c.apply info (.scalar r v)).seq = c.seq := by
  by_cases hr : r = 0 <;> simp [Core.apply, hr]

/-! A pipeline cycle passing. -/

@[simp] theorem Core.endZblk_regs (c : Core) : c.endZblk.regs = c.regs := by
  by_cases hz : c.zNew = 0 <;> simp [Core.endZblk, hz]

/-- A core at its next pipeline cycle, with `l` in flight and nothing landed yet. -/
def Core.nextTick (c : Core) (l : List InFlight) : Core :=
  { c.endZblk with seq := { c.seq with tick := c.seq.tick + 1, flight := l } }

theorem Core.sreg_nextTick (c : Core) (l : List InFlight) (q : Nat) : (c.nextTick l).sreg q = c.sreg q :=
  Core.sreg_of_regs c.endZblk_regs q

/-- A pipeline cycle passes: what is due at the next one lands, and the rest stays in flight (R92, R93). -/
theorem Core.advance_eq (info : Nat → Option CtlInfo) (c : Core) :
    c.advance info = (cycleOrder (c.seq.flight.filter fun e => e.due == c.seq.tick + 1)).foldl
      (fun c e => c.apply info e.wb) (c.nextTick (c.seq.flight.filter fun e => e.due != c.seq.tick + 1)) := rfl

theorem Core.advance_none_due (info : Nat → Option CtlInfo) {c : Core}
    (h : ∀ e ∈ c.seq.flight, e.due ≠ c.seq.tick + 1) : c.advance info = c.nextTick c.seq.flight := by
  have hnow : c.seq.flight.filter (fun e => e.due == c.seq.tick + 1) = [] :=
    List.filter_eq_nil_iff.mpr fun e he => by simpa using h e he
  have hrest : c.seq.flight.filter (fun e => e.due != c.seq.tick + 1) = c.seq.flight :=
    List.filter_eq_self.mpr fun e he => by simpa using h e he
  rw [Core.advance_eq, hnow, hrest]
  rfl

theorem cycleOrder_singleton (e : InFlight) : cycleOrder [e] = [e] := by
  cases h : e.wb.isNumstat <;> simp [cycleOrder, h]

theorem Core.advance_one_due (info : Nat → Option CtlInfo) {c : Core} {e : InFlight} (hflight : c.seq.flight = [e])
    (hdue : e.due = c.seq.tick + 1) : c.advance info = (c.nextTick []).apply info e.wb := by
  have hnow : [e].filter (fun e => e.due == c.seq.tick + 1) = [e] := by simp [hdue]
  have hrest : [e].filter (fun e => e.due != c.seq.tick + 1) = [] := by simp [hdue]
  rw [Core.advance_eq, hflight, hnow, hrest, cycleOrder_singleton]
  rfl

/-! The one result of a core with nothing else in flight. -/

section
variable {c : Core} (hempty : c.seq.flight = [])
include hempty

theorem Core.emit_flight_of_empty (L : Nat) (w : WriteBack) :
    (c.emit L w).seq.flight = [{ due := c.seq.tick + L, wb := w }] := by
  rw [Core.emit_flight, hempty, List.nil_append]

theorem Core.advance_emit_one (info : Nat → Option CtlInfo) (w : WriteBack) :
    (c.emit 1 w).advance info = ((c.emit 1 w).nextTick []).apply info w :=
  Core.advance_one_due info (Core.emit_flight_of_empty hempty 1 w) rfl

theorem Core.advance_emit_later (info : Nat → Option CtlInfo) {L : Nat} (w : WriteBack) (hL : L ≠ 1) :
    (c.emit L w).advance info = (c.emit L w).nextTick [{ due := c.seq.tick + L, wb := w }] := by
  have hflight := Core.emit_flight_of_empty hempty L w
  have hlater : ∀ e ∈ (c.emit L w).seq.flight, e.due ≠ (c.emit L w).seq.tick + 1 := by
    rw [hflight]
    simpa using hL
  rw [Core.advance_none_due info hlater, hflight]

theorem Core.sreg_advance_emit_other (info : Nat → Option CtlInfo) (L : Nat) {q r : Nat} (v : Word) (hq : q ≠ r) :
    ((c.emit L (.scalar r v)).advance info).sreg q = c.sreg q := by
  by_cases hL : L = 1
  · subst hL
    rw [Core.advance_emit_one hempty, Core.sreg_apply_scalar_other _ _ _ hq, Core.sreg_nextTick, Core.sreg_emit]
  · rw [Core.advance_emit_later hempty _ _ hL, Core.sreg_nextTick, Core.sreg_emit]

end

/-- Settles O57: at latency 1 the result is the one that lands, at a longer latency none is due. -/
theorem resultsLandInTheirCycle : Obligations.ResultsLandInTheirCycle := by
  unfold Obligations.ResultsLandInTheirCycle
  intro c r v L _ hr hempty d
  refine ⟨c.sreg_emit L _ r, fun hL => ?lands, fun hL => ?stays,
    fun q hq => Core.sreg_advance_emit_other hempty ctlInfo L v hq⟩
  case lands =>
    subst hL
    rw [show d.advance ctlInfo = _ from Core.advance_emit_one hempty ctlInfo _]
    exact ⟨Core.sreg_apply_scalar_same _ _ v (Nat.ne_of_gt hr), by rw [Core.apply_scalar_seq]; rfl⟩
  case stays =>
    rw [show d.advance ctlInfo = _ from Core.advance_emit_later hempty ctlInfo _ (Nat.ne_of_gt hL)]
    exact ⟨by rw [Core.sreg_nextTick, Core.sreg_emit], rfl⟩

end Sys2Proof.Machine
end

section
/-! Elements of a packed run and members of a register run (R168, R206), and components as signed numbers (R204). -/

namespace Sys2Proof.Machine

/-! Elements and members. -/

/-- Element `i` of a run packed from its elements is the `i`th of them. -/
theorem elt_packElts (w : Nat) (es : List Nat) (i : Nat) : elt w (packElts w es) i = es.getD i 0 % 2 ^ w := by
  induction es generalizing i with
  | nil => simp [packElts, elt]
  | cons e es ih =>
    have hlow : e % 2 ^ w < 2 ^ w := Nat.mod_lt e (Nat.two_pow_pos w)
    cases i with
    | zero => simp [packElts, elt]
    | succ i =>
      have hrest : (e % 2 ^ w + 2 ^ w * packElts w es) / 2 ^ w = packElts w es := by
        rw [Nat.add_mul_div_left _ _ (Nat.two_pow_pos w), Nat.div_eq_of_lt hlow, Nat.zero_add]
      rw [elt, packElts, Nat.mul_succ, Nat.add_comm (w * i), Nat.pow_add, ← Nat.div_div_eq_div_mul, hrest]
      exact ih i

/-- A run packed from registers takes every bit of them. -/
theorem packElts_toNat {w : Nat} (l : List (BitVec w)) :
    packElts w (l.map (·.toNat)) = l.foldr (fun v x => v.toNat + 2 ^ w * x) 0 := by
  induction l with
  | nil => rfl
  | cons v l ih => rw [List.map_cons, packElts, ih, BitVec.toNat_mod_cancel, List.foldr_cons]

theorem packElts_of_zeros (w : Nat) {es : List Nat} (h : ∀ e ∈ es, e = 0) : packElts w es = 0 := by
  induction es with
  | nil => rfl
  | cons e es ih => simp [packElts, h e, ih fun x hx => h x (List.mem_cons_of_mem e hx)]

theorem runBits_eq_packElts (read : Nat → VReg) (r k : Nat) :
    runBits read r k = packElts 2048 (((List.range k).map fun j => read (r + j)).map (·.toNat)) := by
  rw [packElts_toNat, List.foldr_map, runBits]

theorem toNat_ofNat_eq_elt (w x j : Nat) : (BitVec.ofNat w (x / 2 ^ (w * j))).toNat = elt w x j := BitVec.toNat_ofNat ..

theorem toNat_member (x j : Nat) : (member x j).toNat = elt 2048 x j := by
  rw [member, toNat_ofNat_eq_elt]

@[simp] theorem member_zero (j : Nat) : member 0 j = 0 := by
  rw [member, Nat.zero_div]
  rfl

theorem member_runBits (read : Nat → VReg) (r : Nat) {j k : Nat} (hj : j < k) :
    member (runBits read r k) j = read (r + j) := by
  have hget : (((List.range k).map fun j => read (r + j)).map (·.toNat)).getD j 0 = (read (r + j)).toNat := by
    simp [List.getD_eq_getElem?_getD, hj]
  apply BitVec.eq_of_toNat_eq
  rw [toNat_member, runBits_eq_packElts, elt_packElts, hget, (read (r + j)).toNat_mod_cancel]

theorem Core.member_group (c : Core) (r : Nat) {j k : Nat} (hj : j < k) : member (c.group r k) j = c.vreg (r + j) :=
  member_runBits c.vreg r hj

theorem Core.member_dgroup (c : Core) (r : Nat) {j k : Nat} (hj : j < k) : member (c.dgroup r k) j = c.dreg (r + j) :=
  member_runBits c.dreg r hj

/-- The elements of a wider element stand in the run one after the other, from the wider one's place on. -/
theorem elt_elt (w k x j : Nat) {i : Nat} (hi : i < k) : elt w (elt (w * k) x j) i = elt w x (k * j + i) := by
  refine Nat.eq_of_testBit_eq fun b => ?_
  simp only [elt, Nat.testBit_mod_two_pow, Nat.testBit_div_two_pow]
  by_cases hb : b < w
  · have hin : b + w * i < w * k :=
      calc b + w * i < w * (i + 1) := by rw [Nat.mul_succ]; omega
        _ ≤ w * k := Nat.mul_le_mul_left w hi
    have hplace : b + w * i + w * k * j = b + w * (k * j + i) := by
      rw [Nat.mul_add, Nat.mul_assoc, Nat.add_assoc, Nat.add_comm (w * i)]
    simp only [hb, hin, hplace, decide_true, Bool.true_and]
  · simp only [hb, decide_false, Bool.false_and]

theorem elt_member (x j : Nat) {i : Nat} (hi : i < 128) : elt 16 (member x j).toNat i = elt 16 x (128 * j + i) := by
  rw [toNat_member]
  exact elt_elt 16 128 x j hi

/-! The low bits of an integer (R8). -/

theorem toNat_ofInt_eq_lowBits (x : Int) (w : Nat) : (BitVec.ofInt w x).toNat = lowBits x w := BitVec.toNat_ofInt x

theorem ofNat_lowBits (x : Int) (w : Nat) : BitVec.ofNat w (lowBits x w) = BitVec.ofInt w x := by
  rw [← toNat_ofInt_eq_lowBits, BitVec.ofNat_toNat, BitVec.setWidth_eq]

/-- The low bits of a number of their range read back as the number. -/
theorem signExt_lowBits {w : Nat} {x : Int} (hw : 0 < w) (hlo : -2 ^ (w - 1) ≤ x) (hhi : x < 2 ^ (w - 1)) :
    signExt (lowBits x w) w = x := by
  rw [← toNat_ofInt_eq_lowBits, signExt_toNat, BitVec.toInt_ofInt_eq_self hw hlo hhi]

/-! Components. -/

theorem comp_le (x i : Nat) : comp x i ≤ 32767 := by
  have hlt : elt 16 x i < 2 ^ 16 := Nat.mod_lt _ (Nat.two_pow_pos 16)
  simp only [comp, signExt]
  split <;> omega

theorem comp_member (x j : Nat) {i : Nat} (hi : i < 128) : comp (member x j).toNat i = comp x (128 * j + i) := by
  rw [comp, elt_member x j hi, comp]

/-- A component in range is what was packed. -/
theorem comp_packComps {cs : List Int} {i : Nat} (hi : i < cs.length) (hlo : -2 ^ 15 ≤ cs[i]) (hhi : cs[i] < 2 ^ 15) :
    comp (packComps cs) i = cs[i] := by
  have hlow : lowBits cs[i] 16 < 2 ^ 16 := by rw [lowBits]; omega
  rw [comp, packComps, elt_packElts, List.getD_eq_getElem?_getD, List.getElem?_map, List.getElem?_eq_getElem hi,
    Option.map_some, Option.getD_some, Nat.mod_eq_of_lt hlow]
  exact signExt_lowBits (by decide) hlo hhi

theorem packComps_zeros (cs : List Int) : packComps (cs.map fun _ => 0) = 0 := by
  refine packElts_of_zeros 16 fun e he => ?_
  simp only [List.map_map, List.mem_map] at he
  obtain ⟨_, -, rfl⟩ := he
  rfl

/-- Sat as a clamp (R8). -/
theorem sat_eq_max_min {lo hi : Int} (x : Int) (h : lo ≤ hi) : sat x lo hi = max lo (min hi x) := by
  simp only [sat]
  split
  · omega
  · split <;> omega

theorem ite_le_eq_max (x y : Int) : (if y ≤ x then x else y) = max x y := by
  split <;> omega

/-- A sum taken in the order of the elements. -/
theorem foldl_add_eq_sum (g : Nat → Int) (l : List Nat) : l.foldl (fun a i => a + g i) 0 = (l.map g).sum := by
  rw [List.sum_eq_foldl, List.foldl_map]

end Sys2Proof.Machine
end

section
/-! A direction, a norm and a report to NUMSTAT as results sent, and the special norm codes as words (R205). -/

namespace Sys2Proof.Machine

/-! What the write of a direction, of a norm and of NUMSTAT sends. -/

/-- Results sent in the order of a list. -/
theorem Core.foldl_emit {α : Type} (c : Core) (L : Nat) (w : α → WriteBack) (l : List α) :
    l.foldl (fun c a => c.emit L (w a)) c = c.takesIn (l.map fun a => (L, w a)) := by
  induction l generalizing c with
  | nil => exact c.takesIn_nil.symm
  | cons a l ih => rw [List.foldl_cons, ih, Core.emit_eq_takesIn, Core.takesIn_takesIn]; rfl

/-- The members of a direction of `g` registers from `r` on, each sent with latency `L`. -/
def dirResults (L r g : Nat) (v : Nat → VReg) : List (Nat × WriteBack) :=
  (List.range g).map fun j => (L, .dir (r + j) (v j))

theorem dirResults_congr {L r g : Nat} {v w : Nat → VReg} (h : ∀ j, j < g → v j = w j) :
    dirResults L r g v = dirResults L r g w :=
  List.map_congr_left fun j hj => by rw [h j (List.mem_range.mp hj)]

theorem putDir_eq (c : Core) (L r g x : Nat) : putDir c L r g x = c.takesIn (dirResults L r g (member x)) :=
  c.foldl_emit L (fun j => .dir (r + j) (member x j)) (List.range g)

theorem putNorm_eq (c : Core) (L r n : Nat) : putNorm c L r n = c.takesIn [(L, .norm r (BitVec.ofNat 32 n))] := rfl

theorem Core.putNumstat_eq (c : Core) (L : Nat) (sat : Bool) :
    c.putNumstat L sat false 0 = c.takesIn (if sat then [(L, .numstat true false 0)] else []) := by
  cases sat
  · exact c.takesIn_nil.symm
  · rfl

theorem putNorm_putDir (c : Core) (L M r g x n : Nat) :
    putNorm (putDir c L r g x) M r n =
      c.takesIn (dirResults L r g (member x) ++ [(M, .norm r (BitVec.ofNat 32 n))]) := by
  rw [putNorm_eq, putDir_eq, Core.takesIn_takesIn]

theorem State.next_sends_ite {p : Prop} [Decidable p] (s : State) (l m : List (Nat × WriteBack)) :
    (Host.Outcome.next (s.sends (if p then l else m)) : Host.Outcome State Fault Refusal) =
      if p then .next (s.sends l) else .next (s.sends m) := apply_ite (fun l => Host.Outcome.next (s.sends l)) ..

/-! Special codes as words (R205). -/

@[simp] theorem toNat_eq_zeroCode {n : Word32} : n.toNat = zeroCode ↔ n = 0x80000000#32 :=
  BitVec.toNat_inj (y := 0x80000000#32)

@[simp] theorem toNat_eq_nonFiniteCode {n : Word32} : n.toNat = nonFiniteCode ↔ n = 0x7FFFFFFF#32 :=
  BitVec.toNat_inj (y := 0x7FFFFFFF#32)

end Sys2Proof.Machine
end

section
/-! Settles O26. DNEG's components, the length of a direction, and DSET by its word and its length (R219). -/

namespace Sys2Proof.Machine

/-- No negated component falls below the range. -/
theorem sat_neg_comp (x i : Nat) : sat (-comp x i) (-32768) 32767 = min 32767 (-comp x i) := by
  have hle := comp_le x i
  rw [sat_eq_max_min _ (by decide)]
  omega

theorem comp_member_dneg (x g : Nat) {j i : Nat} (hj : j < g) (hi : i < 128) :
    comp (member (packComps ((List.range (128 * g)).map fun i => sat (-comp x i) (-32768) 32767)) j).toNat i =
      min 32767 (-comp x (128 * j + i)) := by
  have hle := comp_le x (128 * j + i)
  have hin : 128 * j + i < 128 * g := by omega
  rw [comp_member _ _ hi, comp_packComps (by simpa using hin)] <;>
    rw [List.getElem_map, List.getElem_range, sat_neg_comp] <;> omega

theorem unitDeviation_eq (x g : Nat) :
    unitDeviation x g = ((List.range (128 * g)).map fun i => comp x i * comp x i).sum - 2 ^ 30 := by
  rw [unitDeviation, foldl_add_eq_sum fun i => comp x i * comp x i]

theorem toNat_setWidth_32 (v : Word) : v.toNat % 2 ^ 32 = (v.setWidth 32).toNat := (BitVec.toNat_setWidth ..).symm

/-- What DSET sends: components `x` and code `n`. -/
def dsetResults (f : VR) (x : Nat) (n : Word32) : List (Nat × WriteBack) :=
  dirResults 2 f.vd.toNat (gsize f.gs) (member x) ++ [(2, .norm f.vd.toNat n)]

theorem opDset_eq (fo : Focus) (f : VR) (c : Core) :
    let n := (c.sreg f.vb.toNat).setWidth 32
    let x := c.group f.va.toNat (gsize f.gs)
    opDset fo f c = .ok (c.takesIn (
      if n = 0x80000000#32 ∨ n = 0x7FFFFFFF#32 then dsetResults f 0 n
      else if 2 ^ 20 < (unitDeviation x (gsize f.gs)).natAbs then dsetResults f 0 0x7FFFFFFF#32
      else dsetResults f x n)) := by
  intro n x
  simp only [opDset, toNat_setWidth_32, toNat_eq_zeroCode, toNat_eq_nonFiniteCode, putNorm_putDir, dsetResults, n, x]
  split
  · rw [BitVec.ofNat_toNat, BitVec.setWidth_eq]
  · split
    · rfl
    · rw [BitVec.ofNat_toNat, BitVec.setWidth_eq]

/-- Settles O26: each operation by the results that it sends, DSET by the test that its word and its length pass. -/
theorem directionMovesAndQueries : Obligations.DirectionMovesAndQueries := by
  unfold Obligations.DirectionMovesAndQueries
  intro s f hn c g run norm d x n dev
  have hdev : ∀ y, dev y = unitDeviation y g := fun y => (unitDeviation_eq y g).symm
  have hrunZero : ∀ L, run (fun _ => 0) L = dirResults L f.vd.toNat g (member 0) := fun L =>
    dirResults_congr fun j _ => (member_zero j).symm
  refine ⟨?dzero, ?dmov, ?dneg, ?raw, ?normq, ?dev, fun hcode => ?special, fun hcode hlen => ?noUnit,
    fun hcode hlen => ?plain⟩
  case dzero =>
    refine State.runSlot_sends (op := fun fo => opDzero fo f) hn ?_
    rw [hrunZero, opDzero, putNorm_putDir]
    rfl
  case dmov =>
    refine State.runSlot_sends (op := fun fo => opDmov fo f) hn ?_
    rw [opDmov, putNorm_putDir, BitVec.ofNat_toNat, BitVec.setWidth_eq,
      dirResults_congr fun j hj => c.member_dgroup f.va.toNat hj]
    rfl
  case dneg =>
    refine ⟨_, State.runSlot_sends (op := fun fo => opDneg fo f) hn (congrArg Res.ok (putDir_eq ..)),
      fun j i hj hi => comp_member_dneg d g hj hi⟩
  case raw => exact State.runSlot_core (op := fun fo => opDexpRaw fo f) hn rfl
  case normq =>
    refine State.runSlot_sends (op := fun fo => opDnormq fo f) hn ?_
    rw [opDnormq, signExt_toNat]
    rfl
  case dev =>
    rw [hdev]
    exact State.runSlot_sends (op := fun fo => opDnormqDev fo f) hn rfl
  case special =>
    refine State.runSlot_sends (op := fun fo => opDset fo f) hn ?_
    rw [opDset_eq, if_pos hcode, hrunZero]
    rfl
  case noUnit =>
    rw [hdev] at hlen
    refine State.runSlot_sends (op := fun fo => opDset fo f) hn ?_
    rw [opDset_eq, if_neg hcode, if_pos hlen, hrunZero]
    rfl
  case plain =>
    rw [hdev, ← Nat.not_lt] at hlen
    refine State.runSlot_sends (op := fun fo => opDset fo f) hn ?_
    rw [opDset_eq, if_neg hcode, if_neg hlen, dsetResults, dirResults_congr fun j hj => c.member_group f.va.toNat hj]
    rfl

end Sys2Proof.Machine
end

section
/-! Settles O27. The cosine and DSCALE's addition to a norm code (R215 to R217); the renormalised sums of DNORM and DADD
after their special codes (R208, R213, R218); the elements of DEXP (R214). An operation that only sends results has an
equation that names them. -/

namespace Sys2Proof.Machine

/-! The cosine (R215). -/

theorem Core.cosine_eq (c : Core) (rm : RMode) (g a b : Nat) :
    cosine rm g (c.dgroup a g) (c.nreg a).toNat (c.dgroup b g) (c.nreg b).toNat =
      if c.nreg a = 0x7FFFFFFF#32 ∨ c.nreg b = 0x7FFFFFFF#32 then 0x7FC00000
      else if c.nreg a = 0x80000000#32 ∨ c.nreg b = 0x80000000#32 then 0
      else
        let d := ((List.range (128 * g)).map fun i => comp (c.dgroup a g) i * comp (c.dgroup b g) i).sum
        (roundFloat .f32 (Val.ofInt (max (-2 ^ 30) (min (2 ^ 30) d)) (-30)) rm 0).code := by
  have hclamp : (-2 ^ 30 : Int) ≤ 2 ^ 30 := by decide
  simp only [cosine, toNat_eq_nonFiniteCode, toNat_eq_zeroCode, sat_eq_max_min _ hclamp,
    foldl_add_eq_sum fun i => comp (c.dgroup a g) i * comp (c.dgroup b g) i, FFmt.nanCode]

/-! Norm arithmetic (R217). -/

/-- A norm code alone, and the report that it was clamped at the top. -/
def normResults (r : Nat) (n : Word32) (sat : Bool) : List (Nat × WriteBack) :=
  (3, .norm r n) :: if sat then [(3, .numstat true false 0)] else []

/-- The norm code of a sum of norms, within its range. -/
def codeResults (r : Nat) (v : Int) : List (Nat × WriteBack) :=
  if v < -2 ^ 31 + 1 then normResults r 0x80000000#32 false
  else if 2 ^ 31 - 2 < v then normResults r 0x7FFFFFFE#32 true
  else normResults r (BitVec.ofInt 32 v) false

/-- What DSCALE sends for a norm and the other norm it may have: the special codes first, then the sum `v`. -/
def scaleResults (r : Nat) (a : Word32) (other : Option Word32) (v : Int) : List (Nat × WriteBack) :=
  if a = 0x7FFFFFFF#32 ∨ other = some 0x7FFFFFFF#32 then normResults r 0x7FFFFFFF#32 false
  else if a = 0x80000000#32 ∨ other = some 0x80000000#32 then normResults r 0x80000000#32 false
  else codeResults r v

theorem putNorm_putNumstat (c : Core) (r n : Nat) (sat : Bool) :
    (putNorm c 3 r n).putNumstat 3 sat false 0 = c.takesIn (normResults r (BitVec.ofNat 32 n) sat) := by
  rw [putNorm_eq, Core.putNumstat_eq, Core.takesIn_takesIn]
  rfl

theorem putNorm_normCode (c : Core) (r : Nat) (v : Int) :
    let q := normCode true [] v
    (putNorm c 3 r q.2.1).putNumstat 3 q.2.2 false 0 = c.takesIn (codeResults r v) := by
  intro q
  rw [putNorm_putNumstat]
  simp only [q, normCode, codeResults]
  split
  · rfl
  · split
    · rfl
    · rw [ofNat_lowBits]

theorem scaleNorm_eq (c : Core) (r : Nat) (a : Word32) (other : Option Word32) (e : Int) :
    scaleNorm c r a.toNat (other.map (·.toNat)) e = .ok (c.takesIn (scaleResults r a other (a.toInt + e))) := by
  have hother (w : Word32) : other.map (·.toNat) = some w.toNat ↔ other = some w := by
    cases other <;> simp [BitVec.toNat_inj]
  have hnonfin : other.map (·.toNat) = some nonFiniteCode ↔ other = some 0x7FFFFFFF#32 := hother 0x7FFFFFFF#32
  have hzero : other.map (·.toNat) = some zeroCode ↔ other = some 0x80000000#32 := hother 0x80000000#32
  simp only [scaleNorm, signExt_toNat, putNorm_normCode, Bool.or_eq_true, decide_eq_true_eq, toNat_eq_nonFiniteCode,
    toNat_eq_zeroCode, hnonfin, hzero, scaleResults]
  split
  · rfl
  · split <;> rfl

/-! A direction with its norm (R213, R218). -/

/-- The members of a direction after `L` cycles, and two cycles later its norm code and the report that the code was
clamped. -/
def dirNormResults (f : VR) (L x : Nat) (n : Word32) (sat : Bool) : List (Nat × WriteBack) :=
  dirResults L f.vd.toNat (gsize f.gs) (member x) ++
    (L + 2, .norm f.vd.toNat n) :: if sat then [(L + 2, .numstat true false 0)] else []

theorem putNorm_putDir_putNumstat (c : Core) (f : VR) (L x n : Nat) (sat : Bool) :
    (putNorm (putDir c L f.vd.toNat (gsize f.gs) x) (L + 2) f.vd.toNat n).putNumstat (L + 2) sat false 0 =
      c.takesIn (dirNormResults f L x (BitVec.ofNat 32 n) sat) := by
  rw [putNorm_putDir, Core.putNumstat_eq, Core.takesIn_takesIn, List.append_assoc]
  rfl

theorem putNorm_putDir_unclamped (c : Core) (f : VR) (L x n : Nat) :
    putNorm (putDir c L f.vd.toNat (gsize f.gs) x) (L + 2) f.vd.toNat n =
      c.takesIn (dirNormResults f L x (BitVec.ofNat 32 n) false) := putNorm_putDir ..

/-- What a renormalised direction sends (R208): the zero direction, or the components with the code of `base` and the
length that Renormalise found. -/
def renormResults (f : VR) (L : Nat) (base : Int) (r : List Int × NormVal) : List (Nat × WriteBack) :=
  match r.2 with
  | .zero => dirNormResults f L 0 0x80000000#32 false
  | .value l =>
    let q := normCode false r.1 (base + l)
    dirNormResults f L (packComps q.1) (BitVec.ofNat 32 q.2.1) q.2.2

theorem renormResults_zero {f : VR} {L : Nat} {base : Int} {r : List Int × NormVal} {cs : List Int}
    (h : r = (cs, .zero)) : renormResults f L base r = dirNormResults f L 0 0x80000000#32 false := by
  rw [h, renormResults]

theorem renormResults_value {f : VR} {L : Nat} {base l : Int} {r : List Int × NormVal} {cs : List Int}
    (h : r = (cs, .value l)) :
    let q := normCode false cs (base + l)
    renormResults f L base r = dirNormResults f L (packComps q.1) (BitVec.ofNat 32 q.2.1) q.2.2 := by
  rw [h, renormResults]

/-- Zero components come with the norm value zero. -/
theorem packComps_renormalise_zero {xs cs : List Int} {e : Int} (h : renormalise xs e = (cs, .zero)) :
    packComps cs = 0 := by
  simp only [renormalise] at h
  split at h
  · obtain ⟨rfl, -⟩ := Prod.mk.inj h
    exact packComps_zeros xs
  · cases h

/-! DNORM (R213). -/

/-- The values that DNORM takes in, a masked element as zero. -/
def dnormValues (c : Core) (f : VR) : List Val :=
  (List.range (128 * gsize f.gs)).map fun i =>
    if active c f.pg (tyOf f).width i then
      (tyOf f).val (elt (tyOf f).width (c.group f.va.toNat (dirRun (tyOf f).width (gsize f.gs))) i)
    else .num false 0 0

/-- What DNORM sends: the non-finite code where a value is no number, else the values renormalised. -/
def dnormResults (c : Core) (f : VR) : List (Nat × WriteBack) :=
  if ((dnormValues c f).any fun x => !x.isNum) = true then dirNormResults f 14 0 0x7FFFFFFF#32 false
  else
    let v := commonExp (dnormValues c f)
    renormResults f 14 0 (renormalise v.1 v.2)

theorem dnormResults_notNum {c : Core} {f : VR} (h : ((dnormValues c f).any fun x => !x.isNum) = true) :
    dnormResults c f = dirNormResults f 14 0 0x7FFFFFFF#32 false := if_pos h

theorem dnormResults_num {c : Core} {f : VR} (h : ((dnormValues c f).any fun x => !x.isNum) = false) :
    dnormResults c f = renormResults f 14 0
      (renormalise (commonExp (dnormValues c f)).1 (commonExp (dnormValues c f)).2) :=
  if_neg (Bool.eq_false_iff.mp h)

theorem opDnorm_eq (fo : Focus) (f : VR) (c : Core) : opDnorm fo f c = .ok (c.takesIn (dnormResults c f)) := by
  by_cases h : ((dnormValues c f).any fun x => !x.isNum) = true
  · rw [dnormResults_notNum h]
    exact (if_pos h).trans (congrArg Res.ok (putNorm_putDir_unclamped c f 14 0 nonFiniteCode))
  · rcases hv : commonExp (dnormValues c f) with ⟨ys, e⟩
    rw [dnormResults_num (Bool.eq_false_iff.mpr h), hv, renormResults]
    simp only [dnormValues, dirRun] at h hv
    simp only [opDnorm, if_neg h, hv]
    rcases renormalise ys e with ⟨cs, _ | l⟩
    · exact congrArg Res.ok (putNorm_putDir_unclamped c f 14 0 zeroCode)
    · simp only [Int.zero_add]
      exact congrArg Res.ok (putNorm_putDir_putNumstat c f 14 ..)

/-! DADD and DSUB (R218). -/

/-- The components of a direction of the operation's size. -/
def dirComps (c : Core) (f : VR) (r : Nat) : List Int :=
  (List.range (128 * gsize f.gs)).map (comp (c.dgroup r (gsize f.gs)))

/-- The sign of the second operand: FN tells DADD and DSUB apart. -/
def daddSign (f : VR) : Int := if f.fn.getLsbD 0 then -1 else 1

/-- The scale of the operand of the smaller norm, as Faith24 gives it. -/
def daddScale (a b : Word32) : Nat × Int := faithExp2 (a.toInt - b.toInt).natAbs

/-- The exact sums, in units of the scale's last bit: the operand of the larger norm is brought to the exponent of the
scaled one. -/
def daddSums (c : Core) (f : VR) (a b : Word32) : List Int :=
  let ρ := daddScale a b
  let up : Int := 2 ^ (-ρ.2).toNat
  let ps := (dirComps c f f.va.toNat).zip (dirComps c f f.vb.toNat)
  if b.toInt ≤ a.toInt then ps.map fun p => p.1 * up + daddSign f * ρ.1 * p.2
  else ps.map fun p => ρ.1 * p.1 + daddSign f * up * p.2

/-- What DADD and DSUB send: by the special codes of the operands in their order, else the sums renormalised. -/
def daddResults (c : Core) (f : VR) (a b : Word32) : List (Nat × WriteBack) :=
  if a = 0x7FFFFFFF#32 ∨ b = 0x7FFFFFFF#32 then dirNormResults f 16 0 0x7FFFFFFF#32 false
  else if a = 0x80000000#32 ∧ b = 0x80000000#32 then dirNormResults f 16 0 0x80000000#32 false
  else if a = 0x80000000#32 then
    dirNormResults f 16 (packComps ((dirComps c f f.vb.toNat).map fun x => sat (daddSign f * x) (-32768) 32767)) b false
  else if b = 0x80000000#32 then dirNormResults f 16 (packComps (dirComps c f f.va.toNat)) a false
  else renormResults f 16 (max a.toInt b.toInt) (renormalise (daddSums c f a b) ((daddScale a b).2 - 15))

section DaddCases
variable {c : Core} {f : VR} {a b : Word32}

theorem daddResults_nonFinite (h : a = 0x7FFFFFFF#32 ∨ b = 0x7FFFFFFF#32) :
    daddResults c f a b = dirNormResults f 16 0 0x7FFFFFFF#32 false := if_pos h

theorem daddResults_zeros (ha : a = 0x80000000#32) (hb : b = 0x80000000#32) :
    daddResults c f a b = dirNormResults f 16 0 0x80000000#32 false := by
  subst ha hb
  simp [daddResults]

theorem daddResults_zeroLeft (ha : a = 0x80000000#32) (hb : b ≠ 0x80000000#32) (hfin : b ≠ 0x7FFFFFFF#32) :
    daddResults c f a b = dirNormResults f 16
      (packComps ((dirComps c f f.vb.toNat).map fun x => sat (daddSign f * x) (-32768) 32767)) b false := by
  subst ha
  simp [daddResults, hb, hfin]

theorem daddResults_zeroRight (hb : b = 0x80000000#32) (ha : a ≠ 0x80000000#32) (hfin : a ≠ 0x7FFFFFFF#32) :
    daddResults c f a b = dirNormResults f 16 (packComps (dirComps c f f.va.toNat)) a false := by
  subst hb
  simp [daddResults, ha, hfin]

theorem daddResults_sum (hfa : a ≠ 0x7FFFFFFF#32) (hfb : b ≠ 0x7FFFFFFF#32) (hza : a ≠ 0x80000000#32)
    (hzb : b ≠ 0x80000000#32) :
    daddResults c f a b = renormResults f 16 (max a.toInt b.toInt)
      (renormalise (daddSums c f a b) ((daddScale a b).2 - 15)) := by
  simp [daddResults, hfa, hfb, hza, hzb]

end DaddCases

theorem putDirNorm_eq (c : Core) (f : VR) (cs : List Int) (n : Nat) :
    putDirNorm c f cs n = c.takesIn (dirNormResults f 16 (packComps cs) (BitVec.ofNat 32 n) false) :=
  putNorm_putDir_unclamped c f 16 (packComps cs) n

theorem putDirNorm_zeros (c : Core) (f : VR) (cs : List Int) (n : Nat) :
    putDirNorm c f (cs.map fun _ => 0) n = c.takesIn (dirNormResults f 16 0 (BitVec.ofNat 32 n) false) := by
  rw [putDirNorm_eq, packComps_zeros]

theorem putDirNorm_word (c : Core) (f : VR) (cs : List Int) (n : Word32) :
    putDirNorm c f cs n.toNat = c.takesIn (dirNormResults f 16 (packComps cs) n false) := by
  rw [putDirNorm_eq, BitVec.ofNat_toNat, BitVec.setWidth_eq]

theorem putDirNorm_putNumstat (c : Core) (f : VR) (cs : List Int) (n : Nat) (sat : Bool) :
    (putDirNorm c f cs n).putNumstat 18 sat false 0 =
      c.takesIn (dirNormResults f 16 (packComps cs) (BitVec.ofNat 32 n) sat) :=
  putNorm_putDir_putNumstat c f 16 (packComps cs) n sat

theorem opDadd_eq (fo : Focus) (f : VR) (c : Core) :
    opDadd fo f c = .ok (c.takesIn (daddResults c f (c.nreg f.va.toNat) (c.nreg f.vb.toNat))) := by
  simp only [opDadd, toNat_eq_nonFiniteCode, toNat_eq_zeroCode, signExt_toNat, putDirNorm_zeros, putDirNorm_word,
    putDirNorm_putNumstat, daddResults]
  -- the four special cases, in their order
  split
  · rfl
  split
  · rfl
  split
  · rfl
  split
  · rfl
  -- two lengths to add
  simp only [daddSums, daddScale, dirComps, daddSign, renormResults, ite_le_eq_max]
  rcases hr : renormalise _ _ with ⟨cs, _ | l⟩
  · simp only [putDirNorm_eq, packComps_renormalise_zero hr]
    rfl
  · rfl

/-- The sums element by element. -/
theorem daddSums_eq_map (c : Core) (f : VR) (a b : Word32) :
    daddSums c f a b = ((dirComps c f f.va.toNat).zip (dirComps c f f.vb.toNat)).map fun p =>
      if b.toInt ≤ a.toInt then p.1 * 2 ^ (-(daddScale a b).2).toNat + daddSign f * (daddScale a b).1 * p.2
      else (daddScale a b).1 * p.1 + daddSign f * 2 ^ (-(daddScale a b).2).toNat * p.2 := by
  simp only [daddSums]
  split <;> rfl

/-! DEXP (R214). -/

/-- An operation with its draws at hand goes on with them (R177). -/
theorem withDraws_of_drawn (fo : Focus) {rm : RMode} {c d : Core} {n : Nat} {bs : List Nat}
    (k : List Nat → Core → Res Core) (h : c.drawn rm n bs d) : withDraws fo rm c n k = k bs d := by
  rcases h with ⟨hrm, rfl, rfl⟩ | ⟨rfl, hn, rfl, rfl⟩
  · exact if_neg hrm
  · exact (if_pos rfl).trans (if_pos hn)

/-- Element `i` of DEXP: the special codes of the norm, an exact zero, else the component's value rounded once. -/
def dexpCode (c : Core) (f : VR) (bs : List Nat) (i : Nat) : Nat :=
  let n := c.nreg f.va.toNat
  let x := comp (c.dgroup f.va.toNat (gsize f.gs)) i
  if n = 0x7FFFFFFF#32 then (fmtOf f).nanCode else if n = 0x80000000#32 ∨ x = 0 then 0
  else
    let y := dexpTrunc (fmtOf f) x.natAbs n.toInt
    (roundFloat (fmtOf f) (.num (decide (x < 0)) y.1 y.2) (rmOf f) (bs.getD i 0)).code

theorem opDexp_of_drawn (fo : Focus) {f : VR} {c d : Core} {bs : List Nat}
    (h : c.drawn (rmOf f) (128 * gsize f.gs) bs d) :
    opDexp fo f c = .ok (putElts d 8 f.vd.toNat (dirRun (tyOf f).width (gsize f.gs)) f.pg f.pz (tyOf f).width
      ((List.range (128 * gsize f.gs)).map (dexpCode c f bs))) := by
  simp only [opDexp, withDraws_of_drawn fo _ h, List.map_map]
  congr 3
  funext i
  simp only [Function.comp_apply, toNat_eq_nonFiniteCode, toNat_eq_zeroCode, signExt_toNat, apply_ite Rounded.code,
    dexpCode]

/-! What each instruction sends. -/

section Sends
variable {s : State} {f : VR} {l : List (Nat × WriteBack)}

theorem exec_dnorm_sends (hn : s.onACore) (h : dnormResults s.hereCore f = l) :
    exec (.dnorm f) s = .next (s.sends l) :=
  State.runSlot_sends (op := fun fo => opDnorm fo f) hn (h ▸ opDnorm_eq ..)

theorem exec_dadd_sends (hn : s.onACore)
    (h : daddResults s.hereCore f (s.hereCore.nreg f.va.toNat) (s.hereCore.nreg f.vb.toNat) = l) :
    exec (.dadd f) s = .next (s.sends l) :=
  State.runSlot_sends (op := fun fo => opDadd fo f) hn (h ▸ opDadd_eq ..)

end Sends

/-- Settles O27: each operation by the results that it sends, DNORM, DADD and DSUB by the special code or the
renormalised sum that their operands call for. -/
theorem directionArithmetic : Obligations.DirectionArithmetic := by
  unfold Obligations.DirectionArithmetic
  refine ⟨fun s f hn => ?products, fun s f bs d hn => ?sums⟩
  case products =>
    intro c g zero nonfin cos a b norm code
    have hcos : ∀ p q, cosine (rmOf f) g (c.dgroup p g) (c.nreg p).toNat (c.dgroup q g) (c.nreg q).toNat = cos p q :=
      c.cosine_eq (rmOf f) g
    refine ⟨?ddot, ?ddotm, ?dscale, ?dscaleAdd, ?dscaleSub⟩
    case ddot =>
      refine State.runSlot_sends (op := fun fo => opDdot fo f) hn ?_
      rw [opDdot, hcos]
      rfl
    case ddotm =>
      refine State.runSlot_core (op := fun fo => opDdotm fo f) hn ?_
      simp only [opDdotm, Nat.lt_succ_iff, ← hcos]
      rfl
    case dscale =>
      have hsends := State.runSlot_sends (op := fun fo => opDscale fo f) hn (scaleNorm_eq c f.vd.toNat a none _)
      simp only [signExt_extended f.vb f.vc, scaleResults, codeResults, State.next_sends_ite, reduceCtorEq,
        or_false] at hsends
      exact hsends
    case dscaleAdd =>
      have hsends := State.runSlot_sends (op := fun fo => opDscaleAdd fo f) hn (scaleNorm_eq c f.vd.toNat a (some b) _)
      simp only [signExt_toNat, scaleResults, codeResults, State.next_sends_ite, Option.some_inj] at hsends
      exact hsends
    case dscaleSub =>
      have hsends := State.runSlot_sends (op := fun fo => opDscaleSub fo f) hn (scaleNorm_eq c f.vd.toNat a (some b) _)
      simp only [signExt_toNat, scaleResults, codeResults, State.next_sends_ite, Option.some_inj,
        ← Int.sub_eq_add_neg] at hsends
      exact hsends
  case sums =>
    intro c t w F g zero nonfin gives renormed xs na nb ca cb σ ρ up
    refine ⟨fun hnan => ?notNum, fun hnum => ?dnorm, fun hfin => ?nonFinite, fun ha hb => ?zeros,
      fun ha hb hfin => ?zeroLeft, fun hb ha hfin => ?zeroRight, fun hfa hfb hza hzb => ?sum, fun hdrawn => ?dexp⟩
    case notNum => exact exec_dnorm_sends hn (dnormResults_notNum hnan)
    case dnorm =>
      exact ⟨fun cs hr => exec_dnorm_sends hn ((dnormResults_num hnum).trans (renormResults_zero hr)),
        fun cs l hr => exec_dnorm_sends hn ((dnormResults_num hnum).trans (renormResults_value hr))⟩
    case nonFinite => exact exec_dadd_sends hn (daddResults_nonFinite hfin)
    case zeros => exact exec_dadd_sends hn (daddResults_zeros ha hb)
    case zeroLeft =>
      have hclamp := daddResults_zeroLeft (c := c) (f := f) ha hb hfin
      simp only [sat_eq_max_min _ (show (-32768 : Int) ≤ 32767 by decide)] at hclamp
      exact exec_dadd_sends hn hclamp
    case zeroRight => exact exec_dadd_sends hn (daddResults_zeroRight hb ha hfin)
    case sum =>
      have hsum := daddResults_sum (c := c) (f := f) hfa hfb hza hzb
      rw [daddSums_eq_map] at hsum
      exact ⟨fun cs hr => exec_dadd_sends hn (hsum.trans (renormResults_zero hr)),
        fun cs l hr => exec_dadd_sends hn (hsum.trans (renormResults_value hr))⟩
    case dexp => exact State.runSlot_core (op := fun fo => opDexp fo f) hn (opDexp_of_drawn s.here hdrawn)

end Sys2Proof.Machine
end

section
/-! Settles O15. What the queue instructions find at the front of a record queue and of q7 (R226 to R229): enough, too
little with `.nf`, and too little without it. -/

namespace Sys2Proof.Machine

/-- What `.nf` sends of FLAGS.Q (R227). -/
def flagResults (nf : BitVec 1) (b : Bool) : List (Nat × WriteBack) := if nf = 1 then [(1, .flagQ b)] else []

theorem Core.performed_eq (c : Core) (nf : BitVec 1) :
    c.performed (nf == 1) = c.takesIn (flagResults nf false) := by
  simp only [Core.performed, flagResults, beq_iff_eq]
  split
  · rfl
  · exact c.takesIn_nil.symm

theorem Core.performed_takesIn (c : Core) (l : List (Nat × WriteBack)) (nf : BitVec 1) :
    (c.takesIn l).performed (nf == 1) = c.takesIn (l ++ flagResults nf false) := by
  rw [Core.performed_eq, Core.takesIn_takesIn]

theorem Core.performed_putS (c : Core) (L r : Nat) (v : Word) (nf : BitVec 1) :
    (c.putS L r v).performed (nf == 1) = c.takesIn ((L, .scalar r v) :: flagResults nf false) :=
  c.performed_takesIn [(L, .scalar r v)] nf

/-! Record queues (R229). -/

theorem ofNat_ones (w : Nat) : BitVec.ofNat w (2 ^ w - 1) = BitVec.allOnes w := by
  apply BitVec.eq_of_toNat_eq
  rw [BitVec.toNat_ofNat, BitVec.toNat_allOnes, Nat.mod_eq_of_lt (Nat.sub_lt (Nat.two_pow_pos w) Nat.one_pos)]

/-- A write of one whole register is one result of every bit. -/
theorem putWhole_one (c : Core) (L r x : Nat) :
    putWhole c L r 1 x = c.takesIn [(L, .vec (c.physV r) (BitVec.ofNat 2048 x) allBits)] := by
  have hfirst (y : Nat) : member y 0 = BitVec.ofNat 2048 y := by rw [member, Nat.mul_zero, Nat.pow_zero, Nat.div_one]
  rw [putWhole, putRun, List.range_one, List.foldl_cons, List.foldl_nil, hfirst, hfirst, Nat.mul_one 2048,
    ofNat_ones 2048, Core.emit_eq_takesIn, Nat.add_zero, allBits]

section
variable {fo : Focus} {c : Core} {q : Nat}

theorem Core.frontRecord_front {v : Word} {r : List Word} (hq : c.queue q = v :: r) (nf pop : Bool)
    (k : Word → Core → Core) :
    c.frontRecord fo q nf pop k = .ok ((k v (if pop then c.setQueue q r else c)).performed nf) := by
  simp only [Core.frontRecord, hq]

theorem Core.frontRecord_empty (hq : c.queue q = []) (nf pop : Bool) (k : Word → Core → Core) :
    c.frontRecord fo q nf pop k = c.emptyQueue fo q nf := by
  simp only [Core.frontRecord, hq]

/-- A scheduled queue with nothing pending underflows (R225). -/
theorem Core.emptyQueue_underflow (hkind : queueKind q = 1) (hpend : c.pendingUnits q = 0) :
    c.emptyQueue fo q false = .trap (fo.trap Cause.queueUnderflow q) := by
  simp [Core.emptyQueue, hkind, hpend]

end

section
variable {fo : Focus} {c : Core} {f : SQ} {g : VQ}

theorem takeS_record (h7 : f.qn.toNat ≠ 7) (pop : Bool) :
    takeS pop fo f c = c.frontRecord fo f.qn.toNat (f.nf == 1) pop fun v c => c.putS 2 f.sd.toNat v := if_neg h7

theorem takeV_record (h7 : g.qn.toNat ≠ 7) (pop : Bool) :
    takeV pop fo g c =
      c.frontRecord fo g.qn.toNat (g.nf == 1) pop fun v c => putWhole c 3 g.vd.toNat 1 v.toNat := if_neg h7

theorem takeS_draws (h7 : f.qn.toNat = 7) (pop : Bool) :
    takeS pop fo f c =
      c.frontDraws fo 4 (f.nf == 1) pop fun x c => c.putS 2 f.sd.toNat (BitVec.ofNat 64 x) := if_pos h7

theorem takeV_draws (h7 : g.qn.toNat = 7) (pop : Bool) :
    takeV pop fo g c = c.frontDraws fo (128 * gsize g.gs) (g.nf == 1) pop fun x c =>
      putElts c 3 g.vd.toNat (gsize g.gs) g.pg g.pz 16 (elts 16 x (128 * gsize g.gs)) := if_pos h7

theorem takeS_front (h7 : f.qn.toNat ≠ 7) {v : Word} {r : List Word} (hq : c.queue f.qn.toNat = v :: r) (pop : Bool) :
    takeS pop fo f c = .ok ((if pop then c.setQueue f.qn.toNat r else c).takesIn
      ((2, .scalar f.sd.toNat v) :: flagResults f.nf false)) := by
  rw [takeS_record h7, Core.frontRecord_front hq, Core.performed_putS]

theorem takeV_front (h7 : g.qn.toNat ≠ 7) {v : Word} {r : List Word} (hq : c.queue g.qn.toNat = v :: r) (pop : Bool) :
    takeV pop fo g c = .ok ((if pop then c.setQueue g.qn.toNat r else c).takesIn
      ((3, .vec (c.physV g.vd.toNat) (v.setWidth 2048) allBits) :: flagResults g.nf false)) := by
  have hphys : (if pop then c.setQueue g.qn.toNat r else c).physV g.vd.toNat = c.physV g.vd.toNat := by
    cases pop <;> rfl
  rw [takeV_record h7, Core.frontRecord_front hq, putWhole_one, Core.performed_takesIn, hphys, BitVec.ofNat_toNat,
    List.singleton_append]

end

/-- An operation that takes the front of an empty record queue (R225, R227). -/
theorem State.runSlot_emptyRecord {s : State} {op : Focus → Core → Res Core} {q : Nat} {nf : BitVec 1} {pop : Bool}
    {k : Word → Core → Core} (hn : s.onACore) (hempty : s.hereCore.queue q = [])
    (hop : op s.here s.hereCore = s.hereCore.frontRecord s.here q (nf == 1) pop k) :
    let out := s.runSlot fun fo s => s.liftCore fo (op fo)
    (nf = 1 → out = .next (s.sends [(1, .flagQ true)])) ∧
    (nf = 0 → q = 3 ∧ s.hereCore.pendingUnits q = 0 → out = .next (s.traps 0x12 (BitVec.ofNat 64 q))) := by
  rw [Core.frontRecord_empty hempty] at hop
  refine ⟨fun hnf => ?flag, fun hnf ⟨hq, hpend⟩ => ?trap⟩
  case flag =>
    subst hnf
    exact State.runSlot_sends hn hop
  case trap =>
    subst hnf hq
    exact State.runSlot_core_trap hn (hop.trans (Core.emptyQueue_underflow rfl hpend))

/-! Draws (R226, R229). -/

theorem Core.drawsSeen_dropDraws (c : Core) (n : Nat) : (c.dropDraws n).drawsSeen = c.drawsSeen.drop n :=
  List.drop_append.symm

theorem toNat_append_eq {v w : Nat} (x : BitVec v) (y : BitVec w) : (x ++ y).toNat = y.toNat + 2 ^ w * x.toNat := by
  rw [BitVec.toNat_append, ← Nat.shiftLeft_add_eq_or_of_lt y.isLt, Nat.shiftLeft_eq, Nat.add_comm, Nat.mul_comm]

/-- Four draws as a word, the first lowest (R226). -/
theorem ofNat_packElts_four (a b d e : BitVec 16) :
    BitVec.ofNat 64 (packElts 16 ([a, b, d, e].map (·.toNat))) = e ++ d ++ b ++ a := by
  have hpack : packElts 16 ([a, b, d, e].map (·.toNat)) = (e ++ d ++ b ++ a).toNat := by
    rw [packElts_toNat]
    exact ((toNat_append_eq (e ++ d ++ b) a).trans (by rw [toNat_append_eq, toNat_append_eq]; rfl)).symm
  rw [hpack, BitVec.ofNat_toNat]
  exact BitVec.setWidth_eq _

/-- The elements of a run are those that it was packed from. -/
theorem elts_packElts_toNat {w : Nat} (l : List (BitVec w)) :
    elts w (packElts w (l.map (·.toNat))) l.length = l.map (·.toNat) := by
  refine List.ext_getElem (by simp [elts]) fun i hi _ => ?_
  have hlen : i < l.length := by simpa [elts] using hi
  simp [elts, elt_packElts, List.getD_eq_getElem?_getD, hlen]

section
variable {fo : Focus} {c : Core} {n : Nat}

theorem Core.frontDraws_enough {l r : List (BitVec 16)} (hseen : c.drawsSeen = l ++ r) (hlen : l.length = n)
    (nf pop : Bool) (k : Nat → Core → Core) :
    c.frontDraws fo n nf pop k =
      .ok ((k (packElts 16 (l.map (·.toNat))) (if pop then c.dropDraws n else c)).performed nf) := by
  have hlong : ¬ c.drawsSeen.length < n := by rw [hseen, List.length_append]; omega
  have htake : c.drawsSeen.take n = l := by rw [hseen, ← hlen, List.take_left]
  rw [Core.frontDraws, if_neg hlong, htake]

theorem Core.frontDraws_lacking (hshort : c.drawsSeen.length < n) (nf pop : Bool) (k : Nat → Core → Core) :
    c.frontDraws fo n nf pop k =
      if nf then .ok (c.takesIn [(1, .flagQ true)]) else fo.waits 1 7 (c.missDraws n pop) := if_pos hshort

/-- What a taker lacks is noted whether it pops or peeks (R226). -/
theorem Core.missDraws_need (c : Core) (n : Nat) (pop : Bool) :
    (c.missDraws n pop).q.need = max c.q.need (c.q.owed + n - c.drawsSeen.length) := by
  cases pop <;> rfl

end

/-- An attempt that lacks draws sets aside every draw that is there, and needs what is missing besides (R226). -/
theorem State.keepAttempt_lacking (s t : State) (n : Nat) (h : (t.core n).q.need ≠ 0) :
    let d := (s.keepAttempt t n).core n
    d.q.aside = (s.core n).drawsSeen ∧ d.q.draws = [] ∧
      d.q.need = (s.core n).drawsSeen.length + (t.core n).q.need := by
  have hcore : ((s.keepAttempt t n).core n).q = { (s.core n).q with
      aside := (s.core n).drawsSeen, draws := [], need := (s.core n).drawsSeen.length + (t.core n).q.need } := by
    simp only [State.keepAttempt, State.core_onCore, h, if_false]
    rfl
  simp [hcore]

/-- An operation of one core that waits takes a cycle of its wait. -/
theorem State.runSlot_core_wait {s : State} {op : Focus → Core → Res Core} {w : List WaitCause} {c : Core}
    (hn : s.onACore) (h : op s.here s.hereCore = .wait w c) :
    s.runSlot (fun fo s => s.liftCore fo (op fo)) =
      .next ((s.keepAttempt (s.setCore s.focus.core c) s.focus.core).waitCycle s.focus.core w) :=
  State.runSlot_wait hn (by
    simp only [State.liftCore, State.here_core]
    rw [show s.core s.focus.core = s.hereCore from rfl, h]
    rfl)

/-- An operation that takes `n` draws where fewer are there (R226, R227). -/
theorem State.runSlot_lackingDraws {s : State} {op : Focus → Core → Res Core} {n : Nat} {nf : BitVec 1} {pop : Bool}
    {k : Nat → Core → Core} (hn : s.onACore) (hshort : s.hereCore.drawsSeen.length < n)
    (hop : op s.here s.hereCore = s.hereCore.frontDraws s.here n (nf == 1) pop k) :
    let out := s.runSlot fun fo s => s.liftCore fo (op fo)
    let c := s.hereCore
    (nf = 1 → out = .next (s.sends [(1, .flagQ true)])) ∧
    (nf = 0 →
      let w := s.keepAttempt (s.changesHere fun c => c.missDraws n pop) s.focus.core
      out = .next (w.waitCycle s.focus.core [{ code := 1, slot := s.focus.slot, detail := 7 }]) ∧
      (w.core s.focus.core).q.aside = c.drawsSeen ∧ (w.core s.focus.core).q.draws = [] ∧
      (c.q.need = 0 → c.q.owed = 0 → (w.core s.focus.core).q.need = n)) := by
  rw [Core.frontDraws_lacking hshort] at hop
  refine ⟨fun hnf => ?flag, fun hnf => ?wait⟩
  case flag =>
    subst hnf
    exact State.runSlot_sends hn hop
  case wait =>
    subst hnf
    intro w
    have hneed : ((s.changesHere fun c => c.missDraws n pop).core s.focus.core).q.need =
        max s.hereCore.q.need (s.hereCore.q.owed + n - s.hereCore.drawsSeen.length) := by
      rw [State.changesHere, State.core_setCore, Core.missDraws_need]
    obtain ⟨haside, hdraws, hkept⟩ := s.keepAttempt_lacking (s.changesHere fun c => c.missDraws n pop) s.focus.core
      (by omega)
    refine ⟨State.runSlot_core_wait hn hop, haside, hdraws, fun hneed0 howed0 => ?_⟩
    have hseen : (s.core s.focus.core).drawsSeen = s.hereCore.drawsSeen := rfl
    rw [hkept, hneed, hneed0, howed0, hseen]
    omega

/-- Settles O15: the record queues by what their front holds, q7 by whether it holds the draws asked for. -/
theorem popsAndDrawsTakeFronts : Obligations.PopsAndDrawsTakeFronts := by
  unfold Obligations.PopsAndDrawsTakeFronts
  refine ⟨fun s f g hn => ?records, fun s f g hn hq hp => ?draws⟩
  case records =>
    intro c q p flag under
    refine ⟨fun h7 v r hfront => ?frontS, fun h7 v r hfront => ?frontV, fun h7 hempty => ?emptyS,
      fun h7 hempty => ?emptyV⟩
    case frontS =>
      exact ⟨State.runSlot_core (op := fun fo => opQpeekS fo f) hn (takeS_front h7 hfront false),
        State.runSlot_core (op := fun fo => opQpopS fo f) hn (takeS_front h7 hfront true)⟩
    case frontV =>
      exact ⟨State.runSlot_core (op := fun fo => opQpeekV fo g) hn (takeV_front h7 hfront false),
        State.runSlot_core (op := fun fo => opQpopV fo g) hn (takeV_front h7 hfront true)⟩
    case emptyS =>
      obtain ⟨hpopFlag, hpopTrap⟩ :=
        State.runSlot_emptyRecord (op := fun fo => opQpopS fo f) hn hempty (takeS_record h7 true)
      obtain ⟨hpeekFlag, hpeekTrap⟩ :=
        State.runSlot_emptyRecord (op := fun fo => opQpeekS fo f) hn hempty (takeS_record h7 false)
      exact ⟨fun hnf => ⟨hpopFlag hnf, hpeekFlag hnf⟩, fun hnf hu => ⟨hpopTrap hnf hu, hpeekTrap hnf hu⟩⟩
    case emptyV =>
      obtain ⟨hpopFlag, hpopTrap⟩ :=
        State.runSlot_emptyRecord (op := fun fo => opQpopV fo g) hn hempty (takeV_record h7 true)
      obtain ⟨hpeekFlag, hpeekTrap⟩ :=
        State.runSlot_emptyRecord (op := fun fo => opQpeekV fo g) hn hempty (takeV_record h7 false)
      exact ⟨fun hnf => ⟨hpopFlag hnf, hpeekFlag hnf⟩, fun hnf hu => ⟨hpopTrap hnf hu, hpeekTrap hnf hu⟩⟩
  case draws =>
    intro c flag k
    refine ⟨fun a b d e r hseen => ⟨?restS, ?takenS⟩, fun l r hseen hlen => ⟨?restV, ?takenV⟩, ?lacking⟩
    case restS => rw [Core.drawsSeen_dropDraws, hseen]; rfl
    case restV => rw [Core.drawsSeen_dropDraws, hseen, ← hlen, List.drop_left]
    case takenS =>
      have htake (pop : Bool) : takeS pop s.here f c = .ok ((if pop then c.dropDraws 4 else c).takesIn
          ((2, .scalar f.sd.toNat (e ++ d ++ b ++ a)) :: flag f.nf)) := by
        rw [takeS_draws hq, Core.frontDraws_enough (n := 4) (l := [a, b, d, e]) hseen rfl, ofNat_packElts_four,
          Core.performed_putS]
        rfl
      exact ⟨State.runSlot_core (op := fun fo => opQpeekS fo f) hn (htake false),
        State.runSlot_core (op := fun fo => opQpopS fo f) hn (htake true)⟩
    case takenV =>
      have htake (pop : Bool) : takeV pop s.here g c = .ok ((putElts (if pop then c.dropDraws (128 * k) else c)
          3 g.vd.toNat k g.pg g.pz 16 (l.map (·.toNat))).takesIn (flag g.nf)) := by
        have helts := elts_packElts_toNat l
        rw [hlen] at helts
        rw [takeV_draws hp, Core.frontDraws_enough hseen hlen, helts]
        exact congrArg Res.ok (Core.performed_eq ..)
      exact ⟨State.runSlot_core (op := fun fo => opQpeekV fo g) hn (htake false),
        State.runSlot_core (op := fun fo => opQpopV fo g) hn (htake true)⟩
    case lacking =>
      intro lacks
      exact ⟨fun hshort =>
          ⟨State.runSlot_lackingDraws (op := fun fo => opQpopS fo f) hn hshort (takeS_draws hq true),
          State.runSlot_lackingDraws (op := fun fo => opQpeekS fo f) hn hshort (takeS_draws hq false)⟩,
        fun hshort =>
          ⟨State.runSlot_lackingDraws (op := fun fo => opQpopV fo g) hn hshort (takeV_draws hp true),
          State.runSlot_lackingDraws (op := fun fo => opQpeekV fo g) hn hshort (takeV_draws hp false)⟩⟩

end Sys2Proof.Machine
end

section
/-! Settles O16. Pushes with and without room (R224, R227, R230), the status word in a vector register (R231), and what
a flush cancels and empties (R232). -/

namespace Sys2Proof.Machine

/-! Pushes. -/

/-- The bytes of a number are those of its word. -/
theorem leBytes_toNat {w : Nat} (n : Nat) (v : BitVec w) :
    leBytes n v.toNat = (List.range n).map fun j => v.extractLsb' (8 * j) 8 := by
  have hbytes (n x : Nat) : leBytes n x = (List.range n).map fun j => BitVec.ofNat 8 (x / 2 ^ (8 * j)) := by
    induction n generalizing x with
    | zero => rfl
    | succ n ih =>
      have hhead : x / 2 ^ (8 * 0) = x := by rw [Nat.mul_zero, Nat.pow_zero, Nat.div_one]
      rw [leBytes, ih, List.range_succ_eq_map, List.map_cons, List.map_map, hhead]
      refine congrArg (BitVec.ofNat 8 x :: ·) (List.map_congr_left fun j _ => ?_)
      rw [Function.comp, Nat.div_div_eq_div_mul, show 8 * j.succ = 8 + 8 * j by omega, Nat.pow_add]
  rw [hbytes]
  refine List.map_congr_left fun j _ => ?_
  rw [BitVec.extractLsb', Nat.shiftRight_eq_div_pow]

/-- A push finds room, or reports overflow in one of two ways (R224, R227). -/
theorem State.runSlot_push {s : State} {op : Focus → Core → Res Core} {q n : Nat} {nf : BitVec 1}
    {k : Core → Core} {l : List (Nat × WriteBack)} (hn : s.onACore)
    (hop : op s.here s.hereCore = s.hereCore.push s.here q n (nf == 1) k)
    (hk : k s.hereCore = s.hereCore.takesIn l) :
    let out := s.runSlot fun fo s => s.liftCore fo (op fo)
    let room := s.hereCore.visibleUnits q + s.hereCore.pendingUnits q + n ≤ queueDepth q
    (room → out = .next (s.sends (l ++ flagResults nf false))) ∧
    (¬ room → nf = 0 → out = .next (s.traps 0x11 (BitVec.ofNat 64 q))) ∧
    (¬ room → nf = 1 → out = .next (s.sends [(1, .flagQ true)])) := by
  refine ⟨fun hroom => ?enters, fun hroom hnf => ?trap, fun hroom hnf => ?flag⟩
  case enters =>
    rw [Core.push, if_neg (by omega), hk, Core.performed_takesIn] at hop
    exact State.runSlot_sends hn hop
  case trap =>
    subst hnf
    rw [Core.push, if_pos (by omega)] at hop
    exact State.runSlot_core_trap hn hop
  case flag =>
    subst hnf
    rw [Core.push, if_pos (by omega)] at hop
    exact State.runSlot_sends hn hop

/-- The registers of a group, each pushed as the core finds it. -/
theorem Core.foldl_emit_stream (c : Core) (q r : Nat) (l : List Nat) :
    l.foldl (fun c j => c.emit 2 (.stream q (c.vreg (r + j)))) c =
      c.takesIn (l.map fun j => (2, .stream q (c.vreg (r + j)))) := by
  induction l generalizing c with
  | nil => exact c.takesIn_nil.symm
  | cons j l ih =>
    rw [List.foldl_cons, ih]
    simp only [Core.vreg_emit]
    rw [Core.emit_eq_takesIn, Core.takesIn_takesIn]
    rfl

theorem opQpushS_eq (fo : Focus) (f : SQ) (c : Core) :
    opQpushS fo f c = c.push fo f.qn.toNat 8 (f.nf == 1) fun c =>
      c.emit 2 (.scales f.qn.toNat (leBytes 8 (c.sreg f.sd.toNat).toNat)) := rfl

theorem opQpushV_scales {fo : Focus} {g : VQ} {c : Core} (hq : g.qn.toNat = 8 ∨ g.qn.toNat = 9) :
    opQpushV fo g c = c.push fo g.qn.toNat 32 (g.nf == 1) fun c =>
      c.emit 2 (.scales g.qn.toNat (leBytes 32 (c.vreg g.vd.toNat).toNat)) := if_pos hq

theorem opQpushV_stream {fo : Focus} {g : VQ} {c : Core} (hq : ¬ (g.qn.toNat = 8 ∨ g.qn.toNat = 9)) :
    opQpushV fo g c = c.push fo g.qn.toNat (gsize g.gs) (g.nf == 1) fun c =>
      (List.range (gsize g.gs)).foldl (fun c j => c.emit 2 (.stream g.qn.toNat (c.vreg (g.vd.toNat + j)))) c :=
  if_neg hq

/-! Flushes. -/

/-- The units that a result in flight will add to a queue (R223). -/
def InFlight.unitsFor (q : Nat) (e : InFlight) : Nat :=
  match e.wb.pushes with
  | some (p, n) => if p = q then n else 0
  | none => 0

/-- A result in flight is no push into the queue. -/
def InFlight.spares (q : Nat) (e : InFlight) : Bool :=
  match e.wb.pushes with
  | some (p, _) => p != q
  | none => true

/-- The core once its pushes in flight for the queue are cancelled (R232). -/
def Core.cancelPushes (c : Core) (q : Nat) : Core :=
  { c with
    seq := { c.seq with flight := c.seq.flight.filter (·.spares q) }
    eng := { c.eng with posts := c.eng.posts.filter fun p => p.queue != q } }

theorem Core.pendingUnits_eq (c : Core) (q : Nat) :
    c.pendingUnits q =
      (c.seq.flight.map (·.unitsFor q)).sum + (c.eng.posts.filter fun p => p.queue == q).length := rfl

theorem InFlight.unitsFor_of_spares {q : Nat} {e : InFlight} (h : e.spares q = true) : e.unitsFor q = 0 := by
  rcases hp : e.wb.pushes with _ | ⟨p, n⟩
  · simp [InFlight.unitsFor, hp]
  · have hne : p ≠ q := by simpa [InFlight.spares, hp] using h
    simp [InFlight.unitsFor, hp, hne]

/-- A push into one queue adds to no other. -/
theorem InFlight.unitsFor_of_not_spares {p q : Nat} {e : InFlight} (hpq : p ≠ q) (h : e.spares q = false) :
    e.unitsFor p = 0 := by
  rcases he : e.wb.pushes with _ | ⟨r, n⟩
  · simp [InFlight.unitsFor, he]
  · have hr : r = q := by simpa [InFlight.spares, he] using h
    simp [InFlight.unitsFor, he, hr, Ne.symm hpq]

theorem InFlight.spares_of_no_push {q : Nat} {e : InFlight} (h : e.wb.pushes = none) : e.spares q = true := by
  simp [InFlight.spares, h]

/-- What is left in flight adds nothing to the queue. -/
theorem sum_unitsFor_spares (q : Nat) (l : List InFlight) :
    ((l.filter (·.spares q)).map (·.unitsFor q)).sum = 0 := by
  induction l with
  | nil => rfl
  | cons e l ih =>
    cases h : e.spares q with
    | true =>
      rw [List.filter_cons_of_pos h, List.map_cons, List.sum_cons, ih, InFlight.unitsFor_of_spares h]
    | false => rw [List.filter_cons_of_neg (Bool.eq_false_iff.mp h), ih]

/-- The units of what is left out do not count. -/
theorem sum_unitsFor_filter {p q : Nat} (hpq : p ≠ q) (l : List InFlight) :
    ((l.filter (·.spares q)).map (·.unitsFor p)).sum = (l.map (·.unitsFor p)).sum := by
  induction l with
  | nil => rfl
  | cons e l ih =>
    cases h : e.spares q with
    | true => simp [h, ih]
    | false => simp [h, ih, InFlight.unitsFor_of_not_spares hpq h]

theorem Core.pendingUnits_cancelPushes_same (c : Core) (q : Nat) : (c.cancelPushes q).pendingUnits q = 0 := by
  simp [Core.pendingUnits_eq, Core.cancelPushes, sum_unitsFor_spares]

theorem Core.pendingUnits_cancelPushes_other (c : Core) {p q : Nat} (hpq : p ≠ q) :
    (c.cancelPushes q).pendingUnits p = c.pendingUnits p := by
  have hposts : (fun x : Post => x.queue == p && x.queue != q) = fun x => x.queue == p := by
    funext x
    by_cases h : x.queue = p <;> simp [h, hpq]
  simp [Core.pendingUnits_eq, Core.cancelPushes, sum_unitsFor_filter hpq, List.filter_filter, hposts]

theorem Core.flushAt_free {c : Core} {q : Nat} (h : c.queueInUse q = false) (fo : Focus) :
    c.flushAt fo q = .ok ((c.cancelPushes q).takesIn [(1, .flush q)]) := by
  rw [Core.flushAt, h]
  rfl

theorem Core.flushAt_used {c : Core} {q : Nat} (h : c.queueInUse q = true) (fo : Focus) :
    c.flushAt fo q = .trap (fo.trap Cause.illegalOperand) := by
  rw [Core.flushAt, if_pos h]

theorem Core.visibleUnits_flushQueue (c : Core) (q : Nat) : (c.flushQueue q).visibleUnits q = 0 := by
  by_cases h6 : q = 6
  · simp [Core.flushQueue, Core.visibleUnits, h6]
  by_cases h7 : q = 7
  · simp [Core.flushQueue, Core.visibleUnits, h7]
  by_cases hscales : q = 8 ∨ q = 9
  · simp [Core.flushQueue, Core.visibleUnits, h6, h7, hscales, Core.scaleQ]
  by_cases hstream : q = 12 ∨ q = 13
  · simp [Core.flushQueue, Core.visibleUnits, h6, h7, hscales, hstream, Core.streamQ]
  · simp [Core.flushQueue, Core.visibleUnits, h6, h7, hscales, hstream, Core.queue]

/-- A flush by its test of use (R232). -/
theorem State.runSlot_flush {s : State} {op : Focus → Core → Res Core} {q : Nat} (hn : s.onACore)
    (hop : op s.here s.hereCore = s.hereCore.flushAt s.here q) :
    let out := s.runSlot fun fo s => s.liftCore fo (op fo)
    let c := s.hereCore
    (c.queueInUse q = true → out = .next (s.traps 0x02 0)) ∧
    (c.queueInUse q = false → ∃ d : Core,
      out = .next (s.changesHere fun _ => d.takesIn [(1, .flush q)]) ∧
      d.pendingUnits q = 0 ∧ d.regs = c.regs ∧ d.ctl = c.ctl ∧ d.mem = c.mem ∧ d.q = c.q ∧
      (∀ p, p ≠ q → d.pendingUnits p = c.pendingUnits p) ∧
      (∀ w ∈ c.seq.flight, w.wb.pushes = none → w ∈ d.seq.flight)) := by
  intro out c
  refine ⟨fun hused => State.runSlot_core_trap hn (hop.trans (Core.flushAt_used hused _)), fun hfree =>
    ⟨c.cancelPushes q, State.runSlot_core hn (hop.trans (Core.flushAt_free hfree _)),
      c.pendingUnits_cancelPushes_same q, rfl, rfl, rfl, rfl, fun p hp => c.pendingUnits_cancelPushes_other hp,
      fun w hw hpush => List.mem_filter.mpr ⟨hw, InFlight.spares_of_no_push hpush⟩⟩⟩

/-- Settles O16: pushes by their room, the status word as one result, and flushes by their test of use. -/
theorem pushesFlushesAndStatus : Obligations.PushesFlushesAndStatus := by
  unfold Obligations.PushesFlushesAndStatus
  refine ⟨fun s f g hn => ?pushes, fun s f g hn => ?statusAndFlush⟩
  case pushes =>
    intro c room flag pushes q k
    refine ⟨?word, fun hq => ?scales, fun hq => ?stream⟩
    case word =>
      refine State.runSlot_push (op := fun fo => opQpushS fo f) hn (opQpushS_eq ..) ?_
      rw [leBytes_toNat, Core.emit_eq_takesIn]
    case scales =>
      refine State.runSlot_push (op := fun fo => opQpushV fo g) hn (opQpushV_scales hq) ?_
      rw [leBytes_toNat, Core.emit_eq_takesIn]
    case stream =>
      exact State.runSlot_push (op := fun fo => opQpushV fo g) hn (opQpushV_stream hq) (Core.foldl_emit_stream ..)
  case statusAndFlush =>
    intro c word flushes
    exact ⟨State.runSlot_sends (op := fun fo => opQstatS fo f) hn rfl,
      State.runSlot_sends (op := fun fo => opQstatV fo g) hn (congrArg Res.ok (putWhole_one ..)),
      State.runSlot_flush (op := fun fo => opQflushS fo f) hn rfl,
      State.runSlot_flush (op := fun fo => opQflushV fo g) hn rfl,
      fun d q => d.visibleUnits_flushQueue q⟩

end Sys2Proof.Machine
end

section
/-! One cycle of a window's updates (R303, R314, R315): what it makes of local memory, and what it leaves. -/

namespace Sys2Proof.Machine

/-! Writes of memory, one after the other. -/

theorem cellsFrom_append (a : Nat) (xs ys : List Byte) :
    cellsFrom a (xs ++ ys) = cellsFrom a xs ++ cellsFrom (a + xs.length) ys := by
  induction xs generalizing a with
  | nil => rfl
  | cons x xs ih =>
    have hnext : a + 1 + xs.length = a + (x :: xs).length := by rw [List.length_cons]; omega
    rw [List.cons_append, cellsFrom, cellsFrom, ih, hnext]
    split <;> rfl

/-- A run written in two parts, the second where the first ends. -/
theorem Memory.write_append (m : Memory) (a : Nat) (xs ys : List Byte) :
    (m.write a xs).write (a + xs.length) ys = m.write a (xs ++ ys) := by
  have hin : ∀ c ∈ cellsFrom a xs, a ≤ c.1 ∧ c.1 < a + xs.length := fun c hc =>
    ⟨(mem_cellsFrom hc).1, (mem_cellsFrom hc).2.1⟩
  have hlow : (m.write a xs).filter (fun c => c.1 < a + xs.length) =
      m.filter (fun c => c.1 < a) ++ cellsFrom a xs := by
    have hbelow : m.filter (fun c => decide (c.1 < a + xs.length) && decide (c.1 < a)) = m.filter (fun c => c.1 < a) :=
      List.filter_congr fun c _ => by
        rw [Bool.eq_iff_iff]
        simp only [Bool.and_eq_true, decide_eq_true_eq]
        omega
    have habove : m.filter (fun c => decide (c.1 < a + xs.length) && decide (a + xs.length ≤ c.1)) = [] :=
      List.filter_eq_nil_iff.mpr fun c _ => by
        simp only [Bool.and_eq_true, decide_eq_true_eq]
        omega
    have hcells : (cellsFrom a xs).filter (fun c => c.1 < a + xs.length) = cellsFrom a xs :=
      List.filter_eq_self.mpr fun c hc => by simpa using (hin c hc).2
    rw [Memory.write, List.filter_append, List.filter_append, List.filter_filter, List.filter_filter, hbelow, habove,
      hcells, List.append_nil]
  have hhigh : (m.write a xs).filter (fun c => a + xs.length + ys.length ≤ c.1) =
      m.filter (fun c => a + (xs ++ ys).length ≤ c.1) := by
    have hbelow : m.filter (fun c => decide (a + xs.length + ys.length ≤ c.1) && decide (c.1 < a)) = [] :=
      List.filter_eq_nil_iff.mpr fun c _ => by
        simp only [Bool.and_eq_true, decide_eq_true_eq]
        omega
    have habove : m.filter (fun c => decide (a + xs.length + ys.length ≤ c.1) && decide (a + xs.length ≤ c.1)) =
        m.filter (fun c => a + (xs ++ ys).length ≤ c.1) :=
      List.filter_congr fun c _ => by
        rw [Bool.eq_iff_iff, List.length_append]
        simp only [Bool.and_eq_true, decide_eq_true_eq]
        omega
    have hcells : (cellsFrom a xs).filter (fun c => a + xs.length + ys.length ≤ c.1) = [] :=
      List.filter_eq_nil_iff.mpr fun c hc => by
        have hrange := hin c hc
        simp only [decide_eq_true_eq]
        omega
    rw [Memory.write, List.filter_append, List.filter_append, List.filter_filter, List.filter_filter, hbelow, habove,
      hcells, List.nil_append, List.nil_append]
  rw [Memory.write, hlow, hhigh, List.append_assoc, List.append_assoc, ← List.append_assoc (cellsFrom a xs),
    ← cellsFrom_append, ← List.append_assoc, Memory.write]

/-! Bytes that an engine writes. -/

/-- What an update of local memory by the carry engine leaves. -/
structure Core.KeepsCarry (c d : Core) : Prop where
  regs : d.regs = c.regs
  seq : d.seq = c.seq
  carry : d.eng.carry = c.eng.carry

theorem Core.KeepsCarry.trans {c d e : Core} (h : c.KeepsCarry d) (g : d.KeepsCarry e) : c.KeepsCarry e :=
  ⟨g.regs.trans h.regs, g.seq.trans h.seq, g.carry.trans h.carry⟩

theorem Core.keepsCarry_writeLocal (c : Core) (a : Nat) (bs : List Byte) (tag : Nat) :
    c.KeepsCarry (c.writeLocal a bs tag) := by
  simp only [Core.writeLocal]
  split <;> exact ⟨rfl, rfl, rfl⟩

theorem Core.keepsCarry_engineWriteIn (c : Core) (id a : Nat) (bs : List Byte) (tag : Nat) :
    c.KeepsCarry (c.engineWriteIn id a bs tag) := by
  simp only [Core.engineWriteIn]
  split
  · exact ⟨rfl, rfl, rfl⟩
  · exact c.keepsCarry_writeLocal a bs tag

theorem Core.keepsCarry_engineWrite (c : Core) (id a : Nat) (bs : List Byte) (tag : Nat) :
    c.KeepsCarry (c.engineWrite id a bs tag) := by
  simp only [Core.engineWrite]
  split
  · exact c.keepsCarry_engineWriteIn ..
  · exact (c.keepsCarry_engineWriteIn ..).trans (Core.keepsCarry_engineWriteIn ..)

theorem Core.writeLocal_mem (c : Core) (a : Nat) {bs : List Byte} (h : bs ≠ []) (tag : Nat) :
    (c.writeLocal a bs tag).mem = c.mem.write a bs := by
  rw [Core.writeLocal, if_neg (by simpa using h)]

theorem Core.writeLocal_eng (c : Core) (a : Nat) (bs : List Byte) (tag : Nat) :
    (c.writeLocal a bs tag).eng = c.eng := by
  simp only [Core.writeLocal]
  split <;> rfl

/-- With no bank of before a mode change (R240), an engine writes local memory. -/
theorem Core.engineWriteIn_local {c : Core} (h : c.eng.retired = []) (id a : Nat) (bs : List Byte) (tag : Nat) :
    c.engineWriteIn id a bs tag = c.writeLocal a bs tag := by
  simp [Core.engineWriteIn, Core.retiredFor, h]

theorem Core.engineWrite_local {c : Core} (h : c.eng.retired = []) (id a : Nat) {bs : List Byte} (hbs : bs ≠ [])
    (tag : Nat) :
    (c.engineWrite id a bs tag).mem = c.mem.write a bs ∧ (c.engineWrite id a bs tag).eng = c.eng := by
  dsimp only [Core.engineWrite]
  split
  case isTrue =>
    rw [Core.engineWriteIn_local h]
    exact ⟨c.writeLocal_mem a hbs tag, c.writeLocal_eng ..⟩
  case isFalse hlong =>
    -- the bytes reach into the next bank
    have hfirst : (bs.take (65536 - a % 65536)).length = 65536 - a % 65536 := by rw [List.length_take]; omega
    have hlast : (bs.drop (65536 - a % 65536)).length = bs.length - (65536 - a % 65536) := List.length_drop
    have hneFirst : bs.take (65536 - a % 65536) ≠ [] := List.ne_nil_of_length_pos (by omega)
    have hneLast : bs.drop (65536 - a % 65536) ≠ [] := List.ne_nil_of_length_pos (by omega)
    have happend := c.mem.write_append a (bs.take (65536 - a % 65536)) (bs.drop (65536 - a % 65536))
    rw [hfirst, List.take_append_drop] at happend
    rw [Core.engineWriteIn_local h, Core.engineWriteIn_local (by rw [Core.writeLocal_eng, h])]
    exact ⟨by rw [Core.writeLocal_mem _ _ hneLast, Core.writeLocal_mem _ _ hneFirst, happend],
      by rw [Core.writeLocal_eng, Core.writeLocal_eng]⟩

/-! The updates of a window. -/

/-- One update of a window at `addr`: the word at the pair's index becomes op of what it holds and the value (R315). -/
def updateWord (op addr : Nat) (m : Memory) (p : Nat × Nat) : Memory :=
  m.write (addr + 4 * p.1) (leBytes 4 (carryOp op (leNat (m.bytes (addr + 4 * p.1) 4)) p.2))

theorem Core.keepsCarry_carryWord (c : Core) (id op a v : Nat) : c.KeepsCarry (c.carryWord id op a v).1 :=
  c.keepsCarry_engineWrite ..

theorem Core.carryWord_local {c : Core} (h : c.eng.retired = []) (id op addr : Nat) (p : Nat × Nat) :
    (c.carryWord id op (addr + 4 * p.1) p.2).1.mem = updateWord op addr c.mem p ∧
    (c.carryWord id op (addr + 4 * p.1) p.2).1.eng = c.eng := by
  have hbytes (a n : Nat) : c.engineBytes id a n = c.mem.bytes a n := by simp [Core.engineBytes, h]
  have hne (x : Nat) : leBytes 4 x ≠ [] := by simp [leBytes]
  simp only [Core.carryWord, hbytes]
  exact Core.engineWrite_local h id _ (hne _) 0

/-- The core that the updates leave, whatever they report. -/
theorem Core.carryApply_fst (c : Core) (id op addr : Nat) (l : List (Nat × Nat)) :
    (c.carryApply id op addr l).1 = l.foldl (fun c p => (c.carryWord id op (addr + 4 * p.1) p.2).1) c :=
  (List.foldl_hom Prod.fst fun _ _ => rfl).symm

theorem Core.keepsCarry_carryApply (c : Core) (id op addr : Nat) (l : List (Nat × Nat)) :
    c.KeepsCarry (c.carryApply id op addr l).1 := by
  rw [Core.carryApply_fst]
  induction l generalizing c with
  | nil => exact ⟨rfl, rfl, rfl⟩
  | cons p l ih => exact (c.keepsCarry_carryWord ..).trans (ih _)

theorem Core.carryApply_local {c : Core} (h : c.eng.retired = []) (id op addr : Nat) (l : List (Nat × Nat)) :
    (c.carryApply id op addr l).1.mem = l.foldl (updateWord op addr) c.mem := by
  rw [Core.carryApply_fst]
  induction l generalizing c with
  | nil => rfl
  | cons p l ih =>
    obtain ⟨hmem, heng⟩ := Core.carryWord_local h id op addr p
    rw [List.foldl_cons, List.foldl_cons, ih (by rw [heng, h]), hmem]

theorem Core.starve_core (c : Core) (now req : Nat) (ports : List (Nat × Bool)) (slot : Bool) :
    ∃ starved, c.starve now req ports slot = { c with eng := { c.eng with starved := starved } } := by
  unfold Core.starve
  extract_lets mine seen n
  split
  · exact ⟨c.eng.starved, rfl⟩
  · exact ⟨_, rfl⟩

/-- A request for ports changes only who holds them and who waits for them (R305, R306). -/
theorem Core.enginePorts_core (c : Core) (now req : Nat) (ports : List (Nat × Bool)) :
    ∃ starved used, (c.enginePorts now req ports).2 =
      { c with eng := { c.eng with starved := starved, used := used } } := by
  simp only [Core.enginePorts]
  split
  · exact ⟨_, _, rfl⟩
  · obtain ⟨starved, h⟩ := c.starve_core now req ports ((ports.map (c.portState now req)).contains .slot)
    exact ⟨starved, c.eng.used, h⟩

theorem Core.countCarry_mem (c : Core) (now : Nat) : (c.countCarry now).mem = c.mem := by
  simp only [Core.countCarry]
  split <;> rfl

theorem Core.keepsCarry_countCarry (c : Core) (now : Nat) : c.KeepsCarry (c.countCarry now) := by
  simp only [Core.countCarry]
  split <;> exact ⟨rfl, rfl, rfl⟩

/-- A cycle that has ports makes an update at least. -/
theorem cycleUpdates_pos (addr : Nat) {l : List (Nat × Nat)} (h : l ≠ []) : 0 < cycleUpdates addr [] l := by
  obtain ⟨p, r, rfl⟩ := List.exists_cons_of_ne_nil h
  simp only [cycleUpdates, List.all_nil, if_true]
  omega

/-- What a cycle that made updates has made (R303, R314). -/
theorem Core.carryCycle_made {c e : Core} {now req id op addr k : Nat} {l left : List (Nat × Nat)} {nan : Bool}
    (h : c.carryCycle now req id op addr l = .made e k left nan) :
    k = cycleUpdates addr [] l ∧ left = l.drop k ∧ c.KeepsCarry e ∧
      (c.eng.retired = [] → e.mem = (l.take k).foldl (updateWord op addr) c.mem) := by
  unfold Core.carryCycle at h
  extract_lets n g at h
  obtain ⟨starved, used, hports⟩ :
      ∃ starved used, g.2 = { c with eng := { c.eng with starved := starved, used := used } } := c.enginePorts_core ..
  split at h
  · cases h
  split at h
  · cases h
  obtain ⟨rfl, rfl, rfl, -⟩ := CarryStep.made.inj h
  have happly := g.2.keepsCarry_carryApply id op addr (l.take n)
  refine ⟨rfl, rfl, ?keeps, fun hret => ?mem⟩
  case keeps =>
    have hgot : c.KeepsCarry g.2 := by rw [hports]; exact ⟨rfl, rfl, rfl⟩
    split
    · exact hgot.trans happly
    · exact (hgot.trans happly).trans (Core.keepsCarry_countCarry ..)
  case mem =>
    have hlocal : (g.2.carryApply id op addr (l.take n)).1.mem = (l.take n).foldl (updateWord op addr) c.mem := by
      rw [Core.carryApply_local (by rw [hports]; exact hret), hports]
    split
    · exact hlocal
    · rw [Core.countCarry_mem, hlocal]

end Sys2Proof.Machine
end

section
/-! Settles O41. The events of remote drains and carries (R284, R292, R298, R316, R317), of the command at the front of
the carry engine (R314, R315, R319, R321), and of the seed generator (R233). -/

namespace Sys2Proof.Machine

theorem State.runCore_next {s : State} (hn : s.onACore) (ev : State → Nat → State) :
    s.runCore ev = .next (ev s s.focus.core) := if_pos hn

theorem exec_remoteDrain (s : State) : exec .remoteDrain s = .next (s.remoteDrain s.focus.idx) := rfl

theorem exec_remoteRowImage (s : State) : exec .remoteRowImage s = .next (s.remoteRowImage s.focus.idx) := rfl

theorem exec_remoteCarry (s : State) : exec .remoteCarry s = .next (s.remoteCarry s.focus.idx) := rfl

theorem exec_carryWindow {s : State} (hn : s.onACore) : exec .carryWindow s = .next (s.carryWindow s.focus.core) :=
  State.runCore_next hn _

theorem exec_carrystRecord {s : State} (hn : s.onACore) :
    exec .carrystRecord s = .next (s.setCore s.focus.core s.hereCore.carrystRecord) :=
  State.runCore_next hn fun s n => s.onCore n Core.carrystRecord

theorem exec_seedWord {s : State} (hn : s.onACore) :
    exec .seedWord s =
      .next (s.setCore s.focus.core (if s.hereCore.seedReady then s.hereCore.seedWord else s.hereCore)) :=
  State.runCore_next hn fun s n => s.onCore n fun c => if c.seedReady then c.seedWord else c

/-- The module after a cycle that made `k` updates of a remote window: its holder is `e`, busy with message `busy`, and
its sender counts the updates (R316, R321). -/
def State.remoteUpdates (s : State) (m : Msg) (e : Core) (busy : Option Nat) (k : Nat) (nan : Bool) : State :=
  (s.setCore m.dst (e.setCarry { e.eng.carry with remote := busy })).onCore m.src fun c => c.carryCounted k nan

theorem State.remoteUpdates_holder (s : State) {m : Msg} (hne : m.src ≠ m.dst) (e : Core) (busy : Option Nat)
    (k : Nat) (nan : Bool) :
    (s.remoteUpdates m e busy k nan).core m.dst = e.setCarry { e.eng.carry with remote := busy } :=
  (State.core_onCore_other _ _ _ hne.symm).trans (State.core_setCore ..)

theorem State.remoteUpdates_sender (s : State) {m : Msg} (hne : m.src ≠ m.dst) (e : Core) (busy : Option Nat)
    (k : Nat) (nan : Bool) :
    (s.remoteUpdates m e busy k nan).core m.src = (s.core m.src).carryCounted k nan := by
  rw [State.remoteUpdates, State.core_onCore, State.core_setCore_other _ _ _ hne]

/-- The message of a number once its body is another. -/
theorem State.msg_map_body {s : State} {no : Nat} {m : Msg} (hm : s.msg no = some m) (b : MsgBody) :
    ({ s with msgs := s.msgs.map fun y => if y.no = no then { y with body := b } else y } : State).msg no =
      some { m with body := b } := by
  have hno : m.no = no := by
    have hfound := List.find?_some hm
    simp only [Bool.and_eq_true, beq_iff_eq] at hfound
    exact hfound.1
  have hsame : ((fun y : Msg => y.no == no && decide (y.at_ ≤ s.now)) ∘
      fun y => if y.no = no then { y with body := b } else y) = fun y => y.no == no && decide (y.at_ ≤ s.now) := by
    funext y
    by_cases h : y.no = no <;> simp [h]
  rw [State.msg] at hm ⊢
  rw [List.find?_map, hsame, hm, Option.map_some, if_pos hno]

/-! Remote drains. -/

section
variable {s : State} {no : Nat} {m : Msg} (hm : s.msg no = some m)
include hm

theorem State.remoteDrain_image {cmd bank row grp : Nat} (hbody : m.body = .drain cmd bank row grp)
    (halloc : (s.core m.dst).allocated bank = true) (hopen : (s.core m.dst).bandOpen bank row grp = true)
    (hmember : s.isMember (s.core m.dst) grp (s.core m.src).lcore = true) :
    s.remoteDrain no = (s.dropMsg no).send m.dst m.src
      (.image cmd (((s.core m.dst).accRow bank row).image ((s.core m.dst).accRow bank row).h)) := by
  have hmember : (s.dropMsg no).isMember (s.core m.dst) grp (s.core m.src).lcore = true := hmember
  simp [State.remoteDrain, hm, hbody, halloc, hopen, hmember]

theorem State.remoteDrain_unallocated {cmd bank row grp : Nat} (hbody : m.body = .drain cmd bank row grp)
    (halloc : (s.core m.dst).allocated bank = false) :
    s.remoteDrain no = (s.dropMsg no).onCore m.src fun c => c.refuseM cmd Cause.accUnallocated bank := by
  simp [State.remoteDrain, hm, hbody, halloc]

theorem State.remoteRowImage_queued {cmd l b r g : Nat} {row : AccRow} {x : MCmd} (hbody : m.body = .image cmd row)
    (hcmd : (s.core m.dst).mCmd cmd = some x) (hwork : x.work = .drain l b r g none) :
    s.remoteRowImage no = (s.dropMsg no).setCore m.dst
      (((s.core m.dst).setImage cmd (max s.now (x.at_ + 8)) row).endM cmd) := by
  simp only [State.remoteRowImage, hm, hbody, hcmd, hwork]

/-! Remote carries. -/

section
variable {cmd a len op grp : Nat} {pairs : List (Nat × Nat)} (hbody : m.body = .carry cmd a len op grp pairs)
  (hturn : s.windowTurn m = true)
include hbody hturn

/-- A window of which the holder refuses an update is refused as a whole (R317). -/
theorem State.remoteCarry_refused {y : Nat × Nat} (hrefused : (pairs.findSome? fun p =>
      s.refusal (s.core m.dst) 1 Cause.unexportedCarry grp (a + 4 * p.1) 4 (s.core m.src).lcore) = some y) :
    let t := (s.dropMsg no).onCore m.dst fun c => c.setCarry { c.eng.carry with remote := none }
    s.remoteCarry no = t.onCore m.src fun c => c.carryRefused cmd y.1 y.2 := by
  simp [State.remoteCarry, hm, hbody, hturn, hrefused]

section
variable {e : Core} {k : Nat} {nan : Bool}
  (hopen : (pairs.findSome? fun p =>
    s.refusal (s.core m.dst) 1 Cause.unexportedCarry grp (a + 4 * p.1) 4 (s.core m.src).lcore) = none)
include hopen

/-- The last cycle of a window's updates at its holder: the sender has its answer (R316). -/
theorem State.remoteCarry_ends
    (hmade : (s.core m.dst).carryCycle s.now reqPod (s.core m.dst).eng.nextId op a pairs = .made e k [] nan) :
    s.remoteCarry no = ((s.remoteUpdates m e none k nan).dropMsg no).onCore m.src fun c => c.carryAnswered cmd := by
  simp only [State.remoteCarry, hm, hbody, hturn, hopen, hmade]
  rfl

/-- A cycle of a window's updates that leaves some for later cycles (R303). -/
theorem State.remoteCarry_goesOn {left : List (Nat × Nat)} (hleft : left ≠ [])
    (hmade : (s.core m.dst).carryCycle s.now reqPod (s.core m.dst).eng.nextId op a pairs = .made e k left nan) :
    s.remoteCarry no = { s.remoteUpdates m e (some no) k nan with msgs := s.msgs.map fun y =>
      if y.no = no then { y with body := .carry cmd a len op grp left } else y } := by
  obtain ⟨p, r, rfl⟩ := List.exists_cons_of_ne_nil hleft
  simp only [State.remoteCarry, hm, hbody, hturn, hopen, hmade]
  rfl

variable (hne : m.src ≠ m.dst)
include hne

theorem State.remoteCarry_ends_parts
    (hmade : (s.core m.dst).carryCycle s.now reqPod (s.core m.dst).eng.nextId op a pairs = .made e k [] nan) :
    (s.remoteCarry no).core m.dst = e.setCarry { e.eng.carry with remote := none } ∧
    (s.remoteCarry no).core m.src = ((s.core m.src).carryCounted k nan).carryAnswered cmd ∧
    (s.remoteCarry no).msgs = s.msgs.filter fun y => y.no != no := by
  rw [State.remoteCarry_ends hm hbody hturn hopen hmade]
  refine ⟨?_, ?_, rfl⟩
  · rw [State.core_onCore_other _ _ _ hne.symm]
    exact s.remoteUpdates_holder hne ..
  · rw [State.core_onCore]
    exact congrArg (Core.carryAnswered · cmd) (s.remoteUpdates_sender hne ..)

theorem State.remoteCarry_goesOn_parts {left : List (Nat × Nat)} (hleft : left ≠ [])
    (hmade : (s.core m.dst).carryCycle s.now reqPod (s.core m.dst).eng.nextId op a pairs = .made e k left nan) :
    (s.remoteCarry no).core m.dst = e.setCarry { e.eng.carry with remote := some no } ∧
    (s.remoteCarry no).core m.src = (s.core m.src).carryCounted k nan ∧
    (s.remoteCarry no).msg no = some { m with body := .carry cmd a len op grp left } := by
  rw [State.remoteCarry_goesOn hm hbody hturn hopen hleft hmade]
  exact ⟨s.remoteUpdates_holder hne .., s.remoteUpdates_sender hne .., State.msg_map_body hm _⟩

end
end
end

/-! The command at the front of the carry engine. -/

/-- The command as a cycle of its window leaves it: with what is left of the window, or ready for the next one. -/
def CarryCmd.afterCycle (m : CarryCmd) (now : Nat) (left : List (Nat × Nat)) : CarryCmd :=
  if left.isEmpty then { m with left := none, done := m.done + 1, at_ := now + 1 } else { m with left := some left }

@[simp] theorem Core.setCarry_carry (c : Core) (x : Carry) : (c.setCarry x).eng.carry = x := rfl
@[simp] theorem Core.setCarry_mem (c : Core) (x : Carry) : (c.setCarry x).mem = c.mem := rfl
@[simp] theorem Core.setCarry_regs (c : Core) (x : Carry) : (c.setCarry x).regs = c.regs := rfl

@[simp] theorem Core.carryCounted_carry (c : Core) (n : Nat) (nan : Bool) :
    (c.carryCounted n nan).eng.carry = { c.eng.carry with
      applied := satAdd32 c.eng.carry.applied n, nan := c.eng.carry.nan || nan } := rfl
@[simp] theorem Core.carryCounted_mem (c : Core) (n : Nat) (nan : Bool) : (c.carryCounted n nan).mem = c.mem := rfl
@[simp] theorem Core.carryCounted_regs (c : Core) (n : Nat) (nan : Bool) : (c.carryCounted n nan).regs = c.regs := rfl

@[simp] theorem Core.endCarry_carry (c : Core) (id : Nat) :
    (c.endCarry id).eng.carry = { c.eng.carry with queue := c.eng.carry.queue.filter fun m => m.id != id } := rfl
@[simp] theorem Core.endCarry_mem (c : Core) (id : Nat) : (c.endCarry id).mem = c.mem := rfl
@[simp] theorem Core.endCarry_regs (c : Core) (id : Nat) : (c.endCarry id).regs = c.regs := rfl

/-- A cycle that makes updates of a local window counts them; the command ends with the last window's last (R314). -/
theorem Core.localWindow_made {c e : Core} {now addr total j : Nat} {m : CarryCmd} {l left : List (Nat × Nat)}
    {nan : Bool} (hmade : c.carryCycle now reqCarry m.id m.op addr l = .made e j left nan) :
    c.localWindow now m addr total l =
      if left.isEmpty ∧ m.done + 1 = total then (e.carryCounted j nan).endCarry m.id
      else (e.carryCounted j nan).setCarry { (e.carryCounted j nan).eng.carry with
        queue := e.eng.carry.queue.map fun y => if y.id ≠ m.id then y else y.afterCycle now left } := by
  simp only [Core.localWindow, hmade]
  rfl

section
variable {c e : Core} {now addr total j : Nat} {m : CarryCmd} {l left : List (Nat × Nat)} {nan : Bool}
  (hmade : c.carryCycle now reqCarry m.id m.op addr l = .made e j left nan)
include hmade

/-- Such a cycle changes of memory what its updates do, and counts them and their NaN (R315, R321). -/
theorem Core.localWindow_counts :
    let d := c.localWindow now m addr total l
    d.mem = e.mem ∧ d.regs = c.regs ∧ d.eng.carry.applied = satAdd32 c.eng.carry.applied j ∧
      d.eng.carry.nan = (c.eng.carry.nan || nan) := by
  obtain ⟨-, -, hkeeps, -⟩ := Core.carryCycle_made hmade
  rw [Core.localWindow_made hmade, ← hkeeps.regs, ← hkeeps.carry]
  split <;> simp

theorem Core.localWindow_queue {rest : List CarryCmd} (hq : c.eng.carry.queue = m :: rest) :
    (c.localWindow now m addr total l).eng.carry.queue =
      if left.isEmpty ∧ m.done + 1 = total then rest.filter fun y => y.id != m.id
      else m.afterCycle now left :: rest.map fun y => if y.id ≠ m.id then y else y.afterCycle now left := by
  obtain ⟨-, -, hkeeps, -⟩ := Core.carryCycle_made hmade
  have hqueue : e.eng.carry.queue = m :: rest := by rw [hkeeps.carry, hq]
  rw [Core.localWindow_made hmade]
  split
  · have hfilter : (m :: rest).filter (fun y => y.id != m.id) = rest.filter fun y => y.id != m.id := by simp
    rw [Core.endCarry_carry, Core.carryCounted_carry, hqueue, hfilter]
  · rw [Core.setCarry_carry, hqueue, List.map_cons, if_neg fun h => h rfl]

end

section
variable {s : State} {n : Nat} {m : CarryCmd} {rest : List CarryCmd} (hq : (s.core n).eng.carry.queue = m :: rest)
  (hgo : ¬ (s.now < m.at_ ∨ !(s.core n).sbClear m.id ∨ m.failed ∨ (s.core n).eng.carry.remote.isSome ∨
    (s.core n).heldIn 2))
include hq hgo

theorem State.carryWindow_word {a : Nat} {v : Word32} (hkind : m.kind = .word a v) :
    s.carryWindow n = s.setCore n ((s.core n).localWindow s.now m a 1 (m.left.getD [(0, v.toNat)])) := by
  simp only [State.carryWindow, hq, hgo, if_false, hkind]

variable {a len total : Nat} (hkind : m.kind = .table a len total)
include hkind

theorem State.carryWindow_goesOn {l : List (Nat × Nat)} (hleft : m.left = some l) :
    s.carryWindow n = s.setCore n ((s.core n).localWindow s.now m a total l) := by
  simp only [State.carryWindow, hq, hgo, if_false, hkind, hleft]

theorem State.carryWindow_opens {d : Core} {l : List (Nat × Nat)} (hleft : m.left = none)
    (hopen : s.openWindow n m len = (d, some l)) :
    s.carryWindow n = s.setCore n (d.localWindow s.now m a total l) := by
  simp only [State.carryWindow, hq, hgo, if_false, hkind, hleft, hopen]

theorem State.carryWindow_stops {d : Core} (hleft : m.left = none) (hopen : s.openWindow n m len = (d, none)) :
    s.carryWindow n = s.setCore n d := by
  simp only [State.carryWindow, hq, hgo, if_false, hkind, hleft, hopen]

end

theorem State.openWindow_merged {s : State} {n len : Nat} {m : CarryCmd} {l : List (Nat × Nat)}
    (hpairs : (s.core n).windowPairs = some l) (hin : ∀ p ∈ l, p.1 = 0xFFFFFFFF ∨ p.1 < len) :
    s.openWindow n m len = ((s.core n).dropWindow.setCarry { (s.core n).eng.carry with
      merged := min ((s.core n).eng.carry.merged + (mergePairs m.op l).2) 65535 }, some (mergePairs m.op l).1) := by
  have hfind : l.find? (fun p => p.1 != skipIndex && decide (len ≤ p.1)) = none := by
    refine List.find?_eq_none.mpr fun p hp => ?_
    have hindex := hin p hp
    simp only [skipIndex, Bool.and_eq_true, bne_iff_ne, decide_eq_true_eq]
    omega
  simp only [State.openWindow, hpairs, hfind]

theorem State.openWindow_fault {s : State} {n len : Nat} {m : CarryCmd} {l : List (Nat × Nat)} {p : Nat × Nat}
    (hpairs : (s.core n).windowPairs = some l)
    (hfind : l.find? (fun p => p.1 != skipIndex && decide (len ≤ p.1)) = some p) :
    s.openWindow n m len = ((s.core n).dropWindow.carryFault m Cause.carryIndex p.1, none) := by
  simp only [State.openWindow, hpairs, hfind]

/-- The record of a status command at the front (R321). -/
theorem Core.carrystRecord_posts {c : Core} {m : CarryCmd} {rest : List CarryCmd} (hq : c.eng.carry.queue = m :: rest)
    (hkind : m.kind = .status) (hremote : c.eng.carry.remote = none) (hheld : c.heldIn 2 = false) :
    let x := c.eng.carry
    c.carrystRecord = (c.setCarry { queue := rest }).post 2 (BitVec.ofNat 64
      (x.applied + x.merged * 2 ^ 32 + (if x.fault then 2 ^ 48 else 0) + (if x.nan then 2 ^ 49 else 0))) := by
  simp [Core.carrystRecord, hq, hkind, hremote, hheld]

/-! The seed generator. -/

theorem Core.seed_seedWord (c : Core) : c.seedWord.seed = (Seed.draws 32 c.seed).2 := by
  have hctl : c.seedWord.ctlOf = ((((c.setCtl 0x060 (Seed.draws 32 c.seed).2.a).setCtl 0x061
      (Seed.draws 32 c.seed).2.b).setCtl 0x062 (Seed.draws 32 c.seed).2.c).setCtl 0x063
      (Seed.draws 32 c.seed).2.d).ctlOf := rfl
  simp [Core.seed, hctl, Core.ctlOf_setCtl_other]

theorem Core.seedWord_keeps (c : Core) : c.seedWord.regs = c.regs ∧ c.seedWord.mem = c.mem := ⟨rfl, rfl⟩

/-- With no issue waiting, the word's draws go behind those that are there (R233). -/
theorem Core.seedWord_q {c : Core} (h : c.q.need = 0) :
    c.seedWord.q = { c.q with draws := c.q.draws ++ (Seed.draws 32 c.seed).1 } := by
  simp [Core.seedWord, h]

/-- Settles O41: each event by the lemma of its case, the counts of a local window by what its cycle leaves alone. -/
theorem carriesDrainsAndDrawsComplete : Obligations.CarriesDrainsAndDrawsComplete := by
  unfold Obligations.CarriesDrainsAndDrawsComplete
  refine ⟨fun c e now req id op addr k l left nan hmade => ?cycle, fun s m hn => ?events⟩
  case cycle =>
    obtain ⟨rfl, rfl, hkeeps, hmem⟩ := Core.carryCycle_made hmade
    exact ⟨rfl, hkeeps.regs, hkeeps.seq, cycleUpdates_pos addr, hmem⟩
  case events =>
    intro n no c
    refine ⟨fun hm cmd bank row grp hbody => ?drain, fun hm cmd row x l b r g hbody hcmd hwork => ?image,
      fun hm hturn hne cmd a len op grp pairs hbody => ?carry, fun k rest hq hremote hheld hat hclear hfailed => ?front,
      fun l a total k rest hq => ?counts, fun hready => ?seedWaits, fun hready hneed => ?seedWord⟩
    case drain =>
      intro h
      refine ⟨fun halloc hopen hmember => ?sent, fun halloc => ?unallocated⟩
      case sent =>
        exact ⟨_, _, (exec_remoteDrain s).trans (congrArg _ (State.remoteDrain_image hm hbody halloc hopen hmember)),
          rfl, rfl, rfl, rfl, rfl, rfl⟩
      case unallocated =>
        exact (exec_remoteDrain s).trans (congrArg _ (State.remoteDrain_unallocated hm hbody halloc))
    case image =>
      exact (exec_remoteRowImage s).trans (congrArg _ (State.remoteRowImage_queued hm hbody hcmd hwork))
    case carry =>
      intro h refused
      refine ⟨fun y hrefused => ?refused, fun e k left nan hopen hmade => ?made⟩
      case refused =>
        refine ⟨_, (exec_remoteCarry s).trans (congrArg _ (State.remoteCarry_refused hm hbody hturn hrefused)), rfl,
          ?_, ?_⟩
        · rw [State.core_onCore_other _ _ _ hne.symm, State.core_onCore]
          rfl
        · rw [State.core_onCore, State.core_onCore_other _ _ _ hne]
          rfl
      case made =>
        obtain ⟨-, -, hkeeps, -⟩ := Core.carryCycle_made hmade
        by_cases hleft : left = []
        case pos =>
          subst hleft
          obtain ⟨hholder, hsender, hmsgs⟩ := State.remoteCarry_ends_parts hm hbody hturn hopen hne hmade
          exact ⟨_, exec_remoteCarry s, by rw [hholder, Core.setCarry_mem],
            by rw [hholder, Core.setCarry_regs, hkeeps.regs],
            fun _ => ⟨hmsgs, by rw [hholder, Core.setCarry_carry], hsender⟩, fun h => absurd rfl h⟩
        case neg =>
          obtain ⟨hholder, hsender, hmsg⟩ := State.remoteCarry_goesOn_parts hm hbody hturn hopen hne hleft hmade
          exact ⟨_, exec_remoteCarry s, by rw [hholder, Core.setCarry_mem],
            by rw [hholder, Core.setCarry_regs, hkeeps.regs],
            fun h => absurd h hleft, fun _ => ⟨by rw [hholder, Core.setCarry_carry], hmsg, hsender⟩⟩
    case front =>
      have hgo : ¬ (s.now < k.at_ ∨ !(s.core n).sbClear k.id ∨ k.failed ∨ (s.core n).eng.carry.remote.isSome ∨
          (s.core n).heldIn 2) := by
        have hremote : (s.core n).eng.carry.remote = none := hremote
        have hheld : (s.core n).heldIn 2 = false := hheld
        have hclear : (s.core n).sbClear k.id = true := hclear
        simp only [hremote, hheld, hclear, hfailed, Option.isSome_none, Bool.not_true, Bool.false_eq_true, or_false]
        omega
      intro runs
      have hexec {t : State} (h : s.carryWindow n = t) : exec .carryWindow s = .next t :=
        (exec_carryWindow hn).trans (congrArg _ h)
      refine ⟨fun a v hkind => hexec (State.carryWindow_word hq hgo hkind),
        fun a len total l hkind hleft => hexec (State.carryWindow_goesOn hq hgo hkind hleft),
        fun a len total l hkind hleft hpairs => ⟨fun hin => ?opens, fun p hfind => ?outside⟩,
        fun hkind => ?status⟩
      case opens => exact hexec (State.carryWindow_opens hq hgo hkind hleft (State.openWindow_merged hpairs hin))
      case outside => exact hexec (State.carryWindow_stops hq hgo hkind hleft (State.openWindow_fault hpairs hfind))
      case status =>
        exact (exec_carrystRecord hn).trans (congrArg (fun c => Host.Outcome.next (s.setCore n c))
          (Core.carrystRecord_posts hq hkind hremote hheld))
    case counts =>
      intro d e j left nan hmade
      obtain ⟨hmem, hregs, happlied, hnan⟩ := Core.localWindow_counts (total := total) hmade
      have hqueue : d.eng.carry.queue = _ := Core.localWindow_queue (total := total) hmade hq
      refine ⟨hmem, hregs, happlied, hnan, fun hleft hdone => ?ends, fun hleft => ?more, fun hleft hdone => ?next⟩
      case ends => rw [hqueue, if_pos ⟨by rw [hleft]; rfl, hdone⟩]
      case more =>
        have hmore : left.isEmpty = false := by simpa using hleft
        rw [hqueue, if_neg (by simp [hmore]), List.head?_cons, CarryCmd.afterCycle, if_neg (by simp [hmore])]
      case next =>
        rw [hqueue, if_neg (by simp [hdone]), List.head?_cons, CarryCmd.afterCycle, if_pos (by rw [hleft]; rfl)]
    case seedWaits =>
      rw [exec_seedWord hn, if_neg (by simpa using hready)]
      rfl
    case seedWord =>
      intro w
      obtain ⟨hregs, hmem⟩ := c.seedWord_keeps
      rw [exec_seedWord hn, if_pos hready]
      refine ⟨_, rfl, ?_⟩
      rw [State.core_setCore, Core.seedWord_q hneed, Core.seed_seedWord]
      exact ⟨rfl, rfl, rfl, hregs, hmem⟩

end Sys2Proof.Machine
end

section
/-! The issue of an M instruction (R263, R268): its checks in their order, one lemma per check that passes, and the
command that it gives the engine where there is room. -/

namespace Sys2Proof.Machine

/-! The engine's new command. -/

theorem Core.sbTake_core (c : Core) (id : Nat) (rd wr : Option (Nat × Nat)) :
    ∃ ctl sb, c.sbTake id rd wr = { c with ctl := ctl, eng := { c.eng with sb := sb } } := by
  simp only [Core.sbTake]
  split <;> exact ⟨_, _, rfl⟩

/-- A new command changes its queue and its number, the scoreboard, and a control register (R263, R308). -/
theorem Core.mPush_core (c : Core) (now : Nat) (bundle : Word) (scyc : Nat) (follow : Option (Nat × Nat × Word))
    (work : MWork) (uses : List Nat) (rd wr : Option (Nat × Nat)) :
    ∃ ctl sb mq, c.mPush now bundle scyc follow work uses rd wr =
      { c with ctl := ctl, eng := { c.eng with nextId := c.eng.nextId + 1, mq := mq, sb := sb } } := by
  simp only [Core.mPush]
  split
  · obtain ⟨ctl, sb, h⟩ := Core.sbTake_core _ c.eng.nextId rd wr
    exact ⟨ctl, sb, _, h⟩
  · exact ⟨_, _, _, rfl⟩

theorem State.mIssue_room {s : State} {rd wr : Option (Nat × Nat)} (h : s.mRoom rd wr) (work : MWork)
    (uses : List Nat) (k : Core → Core) :
    s.mIssue s.here work uses rd wr k = .ok (s.changesHere fun _ => k (s.engaged work uses rd wr)) := by
  obtain ⟨hqueue, hboard⟩ := h
  have hfull : ¬ s.mFull s.hereCore = true := by
    rw [State.mFull, decide_eq_true_eq]
    exact Nat.not_le.mpr hqueue
  have hsb : ¬ ((rd.isSome || wr.isSome) && decide (16 ≤ s.hereCore.eng.sb.length)) = true := by
    rw [Bool.and_eq_true, Bool.or_eq_true, decide_eq_true_eq]
    exact fun hx => Nat.not_le.mpr (hboard hx.1) hx.2
  exact (if_neg hfull).trans (if_neg hsb)

/-! Checks. -/

theorem firstTrap_eq_none {l : List (Option (Nat × Nat))} (h : ∀ x ∈ l, x = none) : firstTrap l = none :=
  List.findSome?_eq_none_iff.mpr h

theorem Focus.checked_pass {α : Type} (fo : Focus) {l : List (Option (Nat × Nat))} (h : ∀ x ∈ l, x = none)
    (k : Res α) : fo.checked l k = k := by
  simp only [Focus.checked, firstTrap_eq_none h]

/-- An M instruction whose checks pass gives the engine its command where there is room. -/
theorem State.runSlot_mIssue {s : State} {op : Focus → State → Res State} {checks : List (Option (Nat × Nat))}
    {rd wr : Option (Nat × Nat)} {work : MWork} {uses : List Nat} {k : Core → Core} (hn : s.onACore)
    (hop : op s.here s = s.here.checked checks (s.mIssue s.here work uses rd wr k)) (hchecks : ∀ x ∈ checks, x = none)
    (hroom : s.mRoom rd wr) : s.runSlot op = .next (s.changesHere fun _ => k (s.engaged work uses rd wr)) :=
  State.runSlot_ok hn (hop.trans ((s.here.checked_pass hchecks _).trans (State.mIssue_room hroom work uses k)))

/-- A check of every entry of a list that finds none. -/
theorem find?_map_eq_none {α β : Type} {l : List α} {p : α → Bool} (g : α → β) (h : ∀ x ∈ l, ¬ p x = true) :
    (l.find? p).map g = none := by
  rw [List.find?_eq_none.mpr h, Option.map_none]

theorem illegalIf_eq_none {b : Bool} (h : b = false) : illegalIf b = none := by rw [h]; rfl

theorem Core.computeTrap_eq_none {c : Core} {b : Nat} (h : (c.bank b).mode = true) : c.computeTrap b = none := by
  simp [Core.computeTrap, h]

/-- The row set of a bank in its present generation. -/
theorem Core.setOf_nameSet (c : Core) (bank rs : Nat) :
    c.setOf (c.nameSet bank rs) = Tab.look {} (c.bank bank).sets rs := if_pos rfl

theorem Core.shadowTrap_eq_none {c : Core} {bank rs : Nat} (hact : (c.bank bank).act ≠ rs)
    (hstate : (c.setOf (c.nameSet bank rs)).state ≠ 1) : c.shadowTrap bank rs = none := by
  rw [Core.setOf_nameSet] at hstate
  simp [Core.shadowTrap, hact, hstate]

theorem Core.regionTrap_eq_none {c : Core} {q : Int} {align n : Nat} (h : c.regionOpen q align n) :
    c.regionTrap q align n = none := by
  obtain ⟨halign, hlow, hhigh, hmode⟩ := h
  have hrange : ¬ (q < 0 ∨ (localTop : Int) < q + n) := by simp only [localTop]; omega
  simp [Core.regionTrap, halign, hrange, hmode]

theorem Core.readTrap_eq_none {c : Core} {q : Int} {n : Nat} (h : c.exportHit q.toNat n false = none) :
    c.readTrap q n = none := by
  simp [Core.readTrap, h]

/-- A region whose bytes all lie in rows of one tag passes the tag check (R249). -/
theorem Core.tagTrap_eq_none {c : Core} {q n tag : Nat} (h : ∀ j, j < n → c.tagAt (q + j) = tag) :
    c.tagTrap q n tag = none := by
  by_cases hn : n = 0
  · rw [Core.tagTrap, if_pos hn]
  · have hfind : (List.range ((q + n - 1) / 256 - q / 256 + 1)).find?
        (fun i => c.tagAt (q / 256 * 256 + 256 * i) != tag) = none := by
      refine List.find?_eq_none.mpr fun i hi => ?_
      rw [List.mem_range] at hi
      -- the first byte of the region in its row `i`
      obtain ⟨j, hj, hrow⟩ : ∃ j, j < n ∧ (q + j) / 256 = (q / 256 * 256 + 256 * i) / 256 :=
        ⟨q / 256 * 256 + 256 * i - q, by omega, by omega⟩
      have htag : c.tagAt (q / 256 * 256 + 256 * i) = c.tagAt (q + j) := by rw [Core.tagAt, Core.tagAt, hrow]
      rw [htag, h j hj]
      simp
    rw [Core.tagTrap, if_neg hn, hfind, Option.map_none]

theorem Core.unallocTrap_eq_none {c : Core} {l : List Nat} (h : ∀ b ∈ l, c.allocated b = true) :
    c.unallocTrap l = none :=
  find?_map_eq_none _ fun b hb => by simp [h b hb]

theorem Core.bandTrap_eq_none {c : Core} {l : List (Nat × Nat)}
    (h : ∀ r ∈ l, Tab.has c.eng.bandExports (r.1 * 4 + r.2 / 8) = false) : c.bandTrap l = none :=
  find?_map_eq_none _ fun r hr => by simp [h r hr]

theorem mem_maskBanks {m b : Nat} : b ∈ maskBanks m ↔ b < 16 ∧ m.testBit b = true := by simp [maskBanks]

/-- A mask of 16 bits that is not zero names a bank. -/
theorem maskBanks_ne_nil {m : Nat} (hm : m ≠ 0) (hlt : m < 2 ^ 16) : maskBanks m ≠ [] := by
  obtain ⟨b, hb⟩ := Nat.exists_testBit_of_ne_zero hm
  have hbit : 2 ^ b ≤ m := Nat.ge_two_pow_of_testBit hb
  have hb16 : b < 16 := (Nat.pow_lt_pow_iff_right (by decide)).mp (Nat.lt_of_le_of_lt hbit hlt)
  exact List.ne_nil_of_mem (mem_maskBanks.mpr ⟨hb16, hb⟩)

end Sys2Proof.Machine
end

section
/-! Refutes O28. BCLR and BZERO discard the outliers of their row set as they issue (R259): the row set's entries of the
outlier list are marked with the command's number, which the statement leaves out. -/

namespace Sys2Proof.Machine

/-- What BCLR does at issue under its checks (R259, R278). -/
theorem exec_bclr {s : State} (hn : s.onACore) (f : MF)
    (hopen : s.hereCore.shadowOpen (s.hereCore.nameSet f.bk.toNat f.rs.toNat)) (hroom : s.mRoom none none) :
    exec (.bclr f) s = .next (s.changesHere fun _ =>
      let b := s.hereCore.nameSet f.bk.toNat f.rs.toNat
      let d := s.engaged (.bclr b false) [b.key] none none
      (d.onSet b fun r => { r with state := 0 }).discardOutliers b (d.eng.nextId - 1)) := by
  obtain ⟨hmode, hact, hstate⟩ := hopen
  refine State.runSlot_mIssue (op := fun fo s => opBclr fo f s) hn rfl ?_ hroom
  simp only [List.forall_mem_cons]
  exact ⟨Core.computeTrap_eq_none hmode, Core.shadowTrap_eq_none hact hstate, by simp⟩

/-- A module whose core 0 has bank 0 in compute mode with an outlier in its shadow row set 0. -/
def outlierState : State := {
  cores := [(0, { num := 0, eng := { banks := [(0, {
    mode := true, act := 1, outl := [{ rs := 0, row := 0, col := 0, v := 1 }] })] } })] }

/-- The fields of an M instruction that names row set 0 of bank 0. -/
def firstRowSet : MF := ⟨0, 0, 0, 0, 0, 0, 0, 0, 0⟩

/-- Refutes O28: BCLR of a row set with an outlier marks that entry as discarded by the command, and the outlier list
that the statement gives is the one of before. -/
theorem not_bankInstructionsIssue : ¬ Obligations.BankInstructionsIssue := by
  unfold Obligations.BankInstructionsIssue
  rintro ⟨-, h⟩
  have hn : outlierState.onACore := by decide
  have hopen : outlierState.hereCore.shadowOpen (outlierState.hereCore.nameSet 0 0) := by decide
  have hroom : outlierState.mRoom none none := by decide
  obtain ⟨-, -, -, -, -, -, -, -, hclear, -⟩ := h outlierState firstRowSet hn
  have hstates := Host.Outcome.next.inj ((exec_bclr hn firstRowSet hopen hroom).symm.trans (hclear hopen hroom).1)
  exact absurd (congrArg (fun t : State => ((t.core 0).bank 0).outl.map (·.gone)) hstates) (by decide)

end Sys2Proof.Machine
end

section
/-! Settles O29. Banks marked to turn by a BMODE (R240, R269), and what the settling of an issue makes of each bank and
of local memory (R239). -/

namespace Sys2Proof.Machine

theorem Core.bank_setBank_other (c : Core) (b : Nat) (x : Bank) {k : Nat} (h : k ≠ b) :
    (c.setBank b x).bank k = c.bank k := Tab.look_store_other _ _ _ h

/-! Banks marked to turn. -/

/-- The banks of a list marked with one turn (R240). -/
def Core.markTurn (c : Core) (turn : Option (Bool × Nat)) (l : List Nat) : Core :=
  l.foldl (fun c b => c.setBank b { c.bank b with turn := turn }) c

theorem Core.markTurn_core (c : Core) (turn : Option (Bool × Nat)) (l : List Nat) :
    ∃ banks, c.markTurn turn l = { c with eng := { c.eng with banks := banks } } := by
  induction l generalizing c with
  | nil => exact ⟨c.eng.banks, rfl⟩
  | cons b l ih =>
    obtain ⟨banks, h⟩ := ih (c.setBank b { c.bank b with turn := turn })
    exact ⟨banks, h⟩

theorem Core.markTurn_bank (c : Core) (turn : Option (Bool × Nat)) (l : List Nat) (k : Nat) :
    (c.markTurn turn l).bank k = if k ∈ l then { c.bank k with turn := turn } else c.bank k := by
  induction l generalizing c with
  | nil => simp [Core.markTurn]
  | cons b l ih =>
    have hcons : c.markTurn turn (b :: l) = (c.setBank b { c.bank b with turn := turn }).markTurn turn l := rfl
    rw [hcons, ih]
    by_cases hk : k = b
    · subst hk
      simp
    · simp [Core.bank_setBank_other _ _ _ hk, hk]

/-! Settling (R239, R240). -/

/-- A bank from the next cycle on: one that turns is empty, in its new mode and the next generation. -/
def Bank.settled (x : Bank) : Bank :=
  match x.turn with
  | none => x
  | some (compute, _) => { mode := compute, gen := x.gen + 1 }

theorem Bank.settled_of_none {x : Bank} (h : x.turn = none) : x.settled = x := by simp [Bank.settled, h]

theorem Bank.settled_turn (x : Bank) : x.settled.turn = none := by
  unfold Bank.settled
  split
  · assumption
  · rfl

theorem Core.settleBank_of_none {c : Core} {b : Nat} (h : (c.bank b).turn = none) : c.settleBank b = c := by
  simp only [Core.settleBank, h]

theorem Core.settleBank_bank (c : Core) (b k : Nat) :
    (c.settleBank b).bank k = if k = b then (c.bank b).settled else c.bank k := by
  cases h : (c.bank b).turn with
  | none =>
    rw [Core.settleBank_of_none h, Bank.settled_of_none h]
    split <;> simp_all
  | some t =>
    have hbank : (c.settleBank b).bank k = (c.setBank b { mode := t.1, gen := (c.bank b).gen + 1 }).bank k := by
      simp only [Core.settleBank, h]
      rfl
    rw [hbank, Bank.settled, h]
    split
    case isTrue hk => rw [hk, Core.bank_setBank]
    case isFalse hk => rw [Core.bank_setBank_other _ _ _ hk]

theorem Core.settleBank_byte (c : Core) (b a : Nat) :
    (c.settleBank b).mem.byte a = if a / 65536 = b ∧ (c.bank b).turn ≠ none then 0 else c.mem.byte a := by
  cases h : (c.bank b).turn with
  | none => simp [Core.settleBank_of_none h]
  | some t =>
    have hmem : (c.settleBank b).mem = c.mem.clear (b * 65536) 65536 := by simp only [Core.settleBank, h]
    have hrange : (b * 65536 ≤ a ∧ a < b * 65536 + 65536) ↔ (a / 65536 = b ∧ some t ≠ none) := by
      simp only [ne_eq, reduceCtorEq, not_false_eq_true, and_true]
      omega
    rw [hmem, Memory.byte_clear]
    simp only [hrange]
    rfl

theorem Core.settleBank_regs (c : Core) (b : Nat) : (c.settleBank b).regs = c.regs := by
  simp only [Core.settleBank]
  split <;> rfl

theorem Core.settleBanks_bank (c : Core) (l : List Nat) (k : Nat) :
    (l.foldl Core.settleBank c).bank k = if k ∈ l then (c.bank k).settled else c.bank k := by
  induction l generalizing c with
  | nil => simp
  | cons b l ih =>
    rw [List.foldl_cons, ih, Core.settleBank_bank]
    by_cases hk : k = b
    · subst hk
      simp [Bank.settled_of_none (Bank.settled_turn _)]
    · simp [hk]

theorem Core.settleBanks_byte (c : Core) (l : List Nat) (a : Nat) :
    (l.foldl Core.settleBank c).mem.byte a =
      if a / 65536 ∈ l ∧ (c.bank (a / 65536)).turn ≠ none then 0 else c.mem.byte a := by
  induction l generalizing c with
  | nil => simp
  | cons b l ih =>
    rw [List.foldl_cons, ih, Core.settleBank_byte, Core.settleBank_bank]
    by_cases hb : a / 65536 = b
    · subst hb
      simp [Bank.settled_turn]
    · simp [hb]

theorem Core.settleBanks_regs (c : Core) (l : List Nat) : (l.foldl Core.settleBank c).regs = c.regs := by
  induction l generalizing c with
  | nil => rfl
  | cons b l ih => rw [List.foldl_cons, ih, Core.settleBank_regs]

theorem Core.settleBanks_of_none {c : Core} (h : ∀ b, (c.bank b).turn = none) (l : List Nat) :
    l.foldl Core.settleBank c = c := by
  induction l with
  | nil => rfl
  | cons b l ih => rw [List.foldl_cons, Core.settleBank_of_none (h b), ih]

/-- Settling takes the sixteen banks in turn, whether or not one of them turns. -/
theorem Core.settle_eq_settleBanks (c : Core) : c.settle = (List.range 16).foldl Core.settleBank c := by
  rw [Core.settle]
  split
  · rfl
  · next h =>
    have hnone : ∀ b, (c.bank b).turn = none :=
      Tab.look_all (P := fun x : Bank => x.turn = none) (d := {}) rfl fun e he =>
        Option.not_isSome_iff_eq_none.mp fun hturn => h (List.any_eq_true.mpr ⟨e, he, hturn⟩)
    exact (Core.settleBanks_of_none hnone _).symm

section
variable {c : Core} {compute : Bool} {id : Nat} {l : List Nat} (hl : ∀ b ∈ l, b < 16)
include hl

theorem Core.settle_markTurn_bank {b : Nat} (hb : b ∈ l) :
    (c.markTurn (some (compute, id)) l).settle.bank b = { mode := compute, gen := (c.bank b).gen + 1 } := by
  rw [Core.settle_eq_settleBanks, Core.settleBanks_bank, if_pos (List.mem_range.mpr (hl b hb)), Core.markTurn_bank,
    if_pos hb]
  rfl

theorem Core.settle_markTurn_byte {a : Nat} (ha : a / 65536 ∈ l) :
    (c.markTurn (some (compute, id)) l).settle.mem.byte a = 0 := by
  rw [Core.settle_eq_settleBanks, Core.settleBanks_byte, Core.markTurn_bank, if_pos ha]
  exact if_pos ⟨List.mem_range.mpr (hl _ ha), by simp⟩

omit hl

variable (hstill : ∀ b, (c.bank b).turn = none)
include hstill

theorem Core.settle_markTurn_bank_other {b : Nat} (hb : b ∉ l) :
    (c.markTurn (some (compute, id)) l).settle.bank b = c.bank b := by
  rw [Core.settle_eq_settleBanks, Core.settleBanks_bank, Core.markTurn_bank, if_neg hb,
    Bank.settled_of_none (hstill b), ite_self]

theorem Core.settle_markTurn_byte_other {a : Nat} (ha : a / 65536 ∉ l) :
    (c.markTurn (some (compute, id)) l).settle.mem.byte a = c.mem.byte a := by
  obtain ⟨banks, hmark⟩ := c.markTurn_core (some (compute, id)) l
  rw [Core.settle_eq_settleBanks, Core.settleBanks_byte, Core.markTurn_bank, if_neg ha, if_neg fun h => h.2 (hstill _),
    hmark]

end

theorem Core.settle_markTurn_regs (c : Core) (turn : Option (Bool × Nat)) (l : List Nat) :
    (c.markTurn turn l).settle.regs = c.regs := by
  obtain ⟨banks, hmark⟩ := c.markTurn_core turn l
  rw [Core.settle_eq_settleBanks, Core.settleBanks_regs, hmark]

/-! BMODE (R269). -/

/-- The banks of a BMODE's mask that are in the other mode. -/
def Core.otherMode (c : Core) (compute : Bool) (m : Nat) : List Nat :=
  (maskBanks m).filter fun b => (c.bank b).mode != compute

theorem Core.mem_otherMode {c : Core} {compute : Bool} {m b : Nat} :
    b ∈ c.otherMode compute m ↔ b < 16 ∧ m.testBit b = true ∧ (c.bank b).mode ≠ compute := by
  simp [Core.otherMode, mem_maskBanks, and_assoc]

theorem exec_bmode (compute : Bool) (f : MF) (s : State) :
    exec (if compute then .bmodeCompute f else .bmodeScratch f) s = s.runSlot fun fo s => bmode compute fo f s := by
  cases compute <;> rfl

theorem exec_bmode_zero {s : State} (hn : s.onACore) (compute : Bool) {f : MF} (hm : f.imm.toNat = 0) :
    exec (if compute then .bmodeCompute f else .bmodeScratch f) s = .next (s.traps 0x02 0) := by
  rw [exec_bmode]
  refine State.runSlot_trap hn ?_
  simp only [bmode, mMask, hm]
  rfl

theorem exec_bmode_marks {s : State} (hn : s.onACore) {compute : Bool} {f : MF} (hm : f.imm.toNat ≠ 0)
    (hexport : ∀ b ∈ s.hereCore.otherMode compute f.imm.toNat,
      compute = true → s.hereCore.exportHit (b * 65536) 65536 true = none)
    (hroom : s.mRoom none (maskExtent f.imm.toNat)) :
    exec (if compute then .bmodeCompute f else .bmodeScratch f) s = .next (s.changesHere fun _ =>
      let e := s.engaged (.bmode f.imm.toNat)
        ((maskBanks f.imm.toNat).map fun b => (List.range 4).map (setKey b)).flatten none (maskExtent f.imm.toNat)
      e.markTurn (some (compute, e.eng.nextId - 1)) (s.hereCore.otherMode compute f.imm.toNat)) := by
  rw [exec_bmode]
  refine State.runSlot_mIssue (op := fun fo s => bmode compute fo f s) hn rfl ?_ hroom
  have hhit : (if compute then (s.hereCore.otherMode compute f.imm.toNat).findSome? fun b =>
      s.hereCore.exportHit (b * 65536) 65536 true else none) = none := by
    split
    · next hc => exact List.findSome?_eq_none_iff.mpr fun b hb => hexport b hb hc
    · rfl
  simp only [List.forall_mem_cons]
  refine ⟨illegalIf_eq_none (by simpa [mMask] using hm), ?_, by simp⟩
  exact (congrArg (Option.map _) hhit).trans rfl

/-- Settles O29: the banks marked at issue are those that the settling turns, empty of bytes and row sets. -/
theorem modeChangesEmptyTheirBanks : Obligations.ModeChangesEmptyTheirBanks := by
  unfold Obligations.ModeChangesEmptyTheirBanks
  intro s f compute hn n c m i turns
  refine ⟨fun hm => exec_bmode_zero hn compute hm, fun hm hexport hstill hroom => ?_⟩
  have hturns (b : Nat) : b ∈ c.otherMode compute m ↔ turns b := Core.mem_otherMode
  have hl : ∀ b ∈ c.otherMode compute m, b < 16 := fun b hb => ((hturns b).mp hb).1
  let e := s.engaged (.bmode m) ((maskBanks m).map fun b => (List.range 4).map (setKey b)).flatten none (maskExtent m)
  obtain ⟨ctl, sb, mq, he⟩ : ∃ ctl sb mq, e =
      { c with ctl := ctl, eng := { c.eng with nextId := c.eng.nextId + 1, mq := mq, sb := sb } } := c.mPush_core ..
  have hbank (b : Nat) : e.bank b = c.bank b := by rw [he]; rfl
  have hmem : e.mem = c.mem := by rw [he]
  have hregs : e.regs = c.regs := by rw [he]
  have hstillE (b : Nat) : (e.bank b).turn = none := by rw [hbank, hstill]
  let marked := e.markTurn (some (compute, e.eng.nextId - 1)) (c.otherMode compute m)
  obtain ⟨banks, hmark⟩ : ∃ banks, marked = { e with eng := { e.eng with banks := banks } } := e.markTurn_core ..
  refine ⟨s.changesHere fun _ => marked, exec_bmode_marks hn hm (fun b hb => hexport b ((hturns b).mp hb)) hroom, ?_⟩
  rw [show (s.changesHere fun _ => marked).core n = marked from State.core_setCore ..]
  refine ⟨?queue, ?mem, ?regs, fun b hb => ?turned, fun b hb => ?other, fun a ⟨b, hb, ha⟩ => ?emptied, fun a ha => ?kept,
    ?settledRegs⟩
  case queue => exact congrArg (·.eng.mq) hmark
  case mem => exact (congrArg (·.mem) hmark).trans hmem
  case regs => exact (congrArg (·.regs) hmark).trans hregs
  case turned => exact (Core.settle_markTurn_bank hl ((hturns b).mpr hb)).trans (by rw [hbank])
  case other => exact (Core.settle_markTurn_bank_other hstillE (mt (hturns b).mp hb)).trans (hbank b)
  case emptied => exact Core.settle_markTurn_byte hl ((hturns _).mpr (ha ▸ hb))
  case kept =>
    exact (Core.settle_markTurn_byte_other hstillE fun hb => ha _ ((hturns _).mp hb) rfl).trans (by rw [hmem])
  case settledRegs => exact (Core.settle_markTurn_regs ..).trans hregs

end Sys2Proof.Machine
end

section
/-! Settles O30. The checks of a pass (R276, R286), each from the hypothesis that it tests, and the pass they leave. -/

namespace Sys2Proof.Machine

theorem exec_pass (onto : Bool) (f : MF) (s : State) :
    exec (if onto then .bacc f else .brun f) s = s.runSlot fun fo s => runPass onto fo f s := by
  cases onto <;> rfl

theorem passTokens_eq (x : Nat) : passTokens x = x % 64 := by simp [passTokens, bits]

theorem passSource_eq {x : Nat} (h : x < 2 ^ 16) : passSource x = x / 256 := by
  simp only [passSource, bits]
  omega

/-- An operand register within its layout (R276, check 1). -/
theorem passLayoutBad_eq_false {f : MF} {x : Nat} (hx : x < 2 ^ 16) (hzero : x / 64 % 4 = 0) (hpos : 1 ≤ x % 64)
    (hmost : x % 64 ≤ 32) (hsrc : f.fn.getLsbD 0 = false → x / 256 = 0) : passLayoutBad f x = false := by
  have hfield : bits x 7 6 = x / 64 % 4 := rfl
  have hlocal : (!f.fn.getLsbD 0 && x / 256 != 0) = false := by
    cases hr : f.fn.getLsbD 0
    · simp [hsrc hr]
    · rfl
  simp only [passLayoutBad, passTokens_eq, passSource_eq hx, hfield, hzero, hlocal, Bool.or_false, bne_self_eq_false,
    Bool.or_eq_false_iff, beq_eq_false_iff_ne, decide_eq_false_iff_not]
  omega

/-- A pass whose plan stands enters the engine where there is room, and lowers H of its rows (R276, R286). -/
theorem exec_pass_plan {s : State} (hn : s.onACore) {onto : Bool} {f : MF} {p : Pass} {rows : List (Nat × Nat × Nat)}
    (hplan : s.passPlan s.hereCore s.here onto f (s.hereCore.sreg f.sa.toNat) (s.hereCore.sreg f.sb.toNat) =
      .inr (p, rows)) (hroom : s.mRoom p.extent none) :
    exec (if onto then .bacc f else .brun f) s = .next (s.changesHere fun _ =>
      (s.engaged (.pass p) (p.uses rows) p.extent none).lowerH rows) := by
  have hrun : runPass onto s.here f s =
      s.mIssue s.here (.pass p) (p.uses rows) p.extent none fun c => c.lowerH rows := by
    have hplan : s.passPlan (s.core s.here.core) s.here onto f ((s.core s.here.core).sreg f.sa.toNat)
      ((s.core s.here.core).sreg f.sb.toNat) = .inr (p, rows) := hplan
    simp only [runPass, hplan]
  rw [exec_pass]
  exact State.runSlot_ok hn (hrun.trans (State.mIssue_room hroom _ _ _))

/-- Settles O30: each check of R276 passes by its hypothesis, and the plan's pass is the one stated. -/
theorem passesIssueUnderTheirChecks : Obligations.PassesIssueUnderTheirChecks := by
  unfold Obligations.PassesIssueUnderTheirChecks
  intro s f onto hn c i m x count src remote banks act set first ab ar q n tag rows p rd
    hm hx hzero hpos hmost hlocal hremote hbanks hab har hregion halloc hheadroom hbands hroom
  have hne : banks ≠ [] := maskBanks_ne_nil hm f.imm.isLt
  have hfirst : (banks.map set).headD {} = first := by
    show (banks.map set).headD {} = set (banks.headD 0)
    cases hb : banks with
    | nil => exact absurd hb hne
    | cons b l => rfl
  have hextent : p.extent = rd := by
    show (if (if remote then some src else none).isSome then none else extent q.toNat n) = _
    cases hr : remote <;> simp [rd, hr]
  have hplan : s.passPlan c s.here onto f (c.sreg f.sa.toNat) (c.sreg f.sb.toNat) = .inr (p, rows) := by
    unfold State.passPlan
    extract_lets banks' src' grp t sets r0 rows' q' n' pair checks
    have ht : t = count := passTokens_eq x
    have hsrc : src' = src := passSource_eq hx
    have hr0 : r0 = first := hfirst
    have hrows : rows' = rows := congrArg (passRows onto ab ar · (banks.map set)) ht
    have hlength : n' = n := by
      show t * tokenBytes r0.storage r0.planes = n
      rw [ht, hr0]
    have hpair : ∀ r ∈ pair, ∃ k, (r.1, r.2, k) ∈ rows := by
      rintro r hr
      obtain ⟨y, hy, rfl⟩ := List.mem_map.mp hr
      exact ⟨y.2.2, hrows ▸ hy⟩
    have hchecks : firstTrap checks = none := by
      refine firstTrap_eq_none ?_
      simp only [checks, List.forall_mem_cons]
      refine ⟨illegalIf_eq_none ?layout, ?mode, ?full, ?same, illegalIf_eq_none ?range, ?region, ?read, ?tags, ?alloc,
        ?headroom, ?bands, fun x hx => absurd hx List.not_mem_nil⟩
      case layout =>
        have hmask : mMask f ≠ 0 := hm
        have hbad : passLayoutBad f x = false := passLayoutBad_eq_false hx hzero hpos hmost hlocal
        rw [hbad, hsrc]
        cases hr : remote
        · simp [hmask]
        · obtain ⟨hpod, hgroup, hmember⟩ := hremote hr
          simp [hmask, hpod, hgroup, hmember, grp]
      case mode =>
        exact List.findSome?_eq_none_iff.mpr fun k hk => Core.computeTrap_eq_none (hbanks k hk).1
      case full => exact find?_map_eq_none _ fun k hk => by simpa using (hbanks k hk).2.1
      case same =>
        refine find?_map_eq_none _ fun k hk => ?_
        obtain ⟨-, -, hafmt, hplanes, hstorage⟩ := hbanks k hk
        simpa [hr0] using ⟨⟨hafmt, hplanes⟩, hstorage⟩
      case range =>
        have hsame : banks'.length = banks.length := rfl
        have hlen : 0 < banks.length := List.length_pos_iff.mpr hne
        rw [Bool.or_eq_false_iff, decide_eq_false_iff_not, List.any_eq_false]
        refine ⟨by omega, fun r hr => ?_⟩
        obtain ⟨k, hk⟩ := hpair r hr
        simpa using har _ hk
      case region =>
        split
        · rfl
        · next hr => exact hlength ▸ Core.regionTrap_eq_none (hregion (by simpa using hr)).1
      case read =>
        split
        · rfl
        · next hr => exact hlength ▸ Core.readTrap_eq_none (hregion (by simpa using hr)).2.1
      case tags =>
        split
        · rfl
        · next hr => exact hlength ▸ Core.tagTrap_eq_none (hregion (by simpa using hr)).2.2
      case alloc =>
        refine Core.unallocTrap_eq_none fun b hb => ?_
        obtain ⟨j, hj, rfl⟩ := List.mem_map.mp hb
        exact halloc j (List.mem_range.mp hj)
      case headroom =>
        split
        · next hon => exact find?_map_eq_none _ fun r hr => by simpa using hheadroom hon r (hrows ▸ hr)
        · rfl
      case bands =>
        refine Core.bandTrap_eq_none fun r hr => ?_
        obtain ⟨k, hk⟩ := hpair r hr
        exact hbands _ hk
    rw [hchecks, hrows, ht, hsrc, hr0]
    rfl
  exact hextent ▸ exec_pass_plan hn hplan (hextent ▸ hroom)

end Sys2Proof.Machine
end

section
/-! Refutes O40. A command that needs no port asks for none as it starts, and that request clears the ports that earlier
cycles have used (R305), which the statement leaves as they were. -/

namespace Sys2Proof.Machine

/-- A request for no port is served, and drops the uses of earlier cycles. -/
theorem Core.enginePorts_nil (c : Core) (now req : Nat) : c.enginePorts now req [] =
    (true, { c with eng := { c.eng with used := c.eng.used.filter fun u => u.2.2 == now } }) := by
  simp [Core.enginePorts]

theorem exec_mCommandStart {s : State} (hn : s.onACore) :
    exec .mCommandStart s = .next (s.mStart s.focus.core s.focus.idx) :=
  State.runCore_next hn fun s n => s.mStart n s.focus.idx

/-- The start of a BPREC (R263, R272). -/
theorem State.mStart_bprec {s : State} {n id w a k : Nat} {m : MCmd} {b : PassBank} (hm : (s.core n).mCmd id = some m)
    (hbegun : m.begun = false) (hstart : (s.core n).canStart m = true) (hwork : m.work = .bprec b w a k) :
    s.mStart n id = s.setCore n ((((s.core n).enginePorts s.now reqM []).2.onSet b fun r =>
      { r with wfmt := w, afmt := a, planes := k }).endM m.id) := by
  simp [State.mStart, hm, hbegun, hstart, hwork, MWork.ports, Core.enginePorts_nil, Core.startWork]

/-- A BPREC that may start. -/
def precisionCmd : MCmd :=
  { id := 0, bundle := 0, scyc := 0, at_ := 0, work := .bprec ⟨0, 0, 0⟩ 0 0 8, uses := [] }

/-- A module in cycle 1 whose core 0 has that command, and an engine use of port 0 in cycle 0. -/
def staleUseState : State := {
  now := 1, cores := [(0, { num := 0, eng := { mq := [precisionCmd], nextId := 1, used := [(0, false, 0)] } })] }

/-- Refutes O40: a BPREC that starts in cycle 1 clears a port's use of cycle 0, and the core that the statement gives
still holds it. -/
theorem not_engineCommandsAndCarriedOperations : ¬ Obligations.EngineCommandsAndCarriedOperations := by
  unfold Obligations.EngineCommandsAndCarriedOperations
  rintro ⟨h, -⟩
  have hn : staleUseState.onACore := by decide
  have hm : staleUseState.hereCore.mCmd 0 = some precisionCmd := by decide
  have hstart : staleUseState.hereCore.canStart precisionCmd = true := by decide
  obtain ⟨-, hstarts, -⟩ := h staleUseState precisionCmd hn hm
  obtain ⟨-, hprec, -⟩ := hstarts rfl hstart
  have hstates := Host.Outcome.next.inj ((exec_mCommandStart hn).symm.trans (hprec _ _ _ _ rfl))
  exact absurd (congrArg (fun t : State => (t.core 0).eng.used)
    ((State.mStart_bprec hm rfl hstart rfl).symm.trans hstates)) (by decide)

end Sys2Proof.Machine
end

section
/-! Refutes O43. A delivery of no bytes leaves local memory as it is (R340); the statement writes the empty run into it,
which also puts the cells of a memory out of its canonical form in order. -/

namespace Sys2Proof.Machine

theorem exec_delivery (s : State) : exec .delivery s = .next (s.delivery s.focus.idx) := rfl

/-- Multicast data without bytes that the holder does not refuse leaves its local memory as it is. -/
theorem State.delivery_empty_mem {s : State} {no cmd ch grp : Nat} {a : Int} {tag : Option Nat} {x : Msg}
    (hx : s.msg no = some x) (hne : x.src ≠ x.dst) (hbody : x.body = .data cmd ch a [] tag grp)
    (hbehind : s.behind x = false)
    (hrefused : s.refusal (s.core x.dst) 2 Cause.unexportedWrite grp a 0 (s.core x.src).lcore = none) :
    ((s.delivery no).core x.dst).mem = (s.core x.dst).mem := by
  have hports : portsOf a.toNat (rowPart a 0) true = [] := by simp [portsOf, rowPart]
  have hdelivered (t : State) : ((t.delivered no x ch cmd).core x.dst).mem = (t.core x.dst).mem :=
    congrArg (·.mem) (State.core_onCore_other _ _ _ hne.symm)
  simp [State.delivery, hx, hbody, hbehind, hrefused, hports, Core.enginePorts_nil, hdelivered, Core.deliverRow,
    Core.writeLocal]

/-- A message of no bytes from core 0 to core 1. -/
def emptyData : Msg := { no := 0, at_ := 0, src := 0, dst := 1, body := .data 0 0 1 [] none 0 }

/-- A module with that message under way, whose core 1 has a receive region for group 0 and two bytes of local memory,
the one at the higher address first. -/
def unorderedState : State := {
  cores := [(0, { num := 0, part := 0 }), (1, {
    num := 1, part := 0, mem := [(1, 7), (0, 7)]
    eng := { exports := [{ addr := 0, len := 256, grp := 0, kind := 2, id := 0, from_ := 0, live := true }] } })]
  parts := [(0, { tt := some { groups := [(0, 1)] } })]
  msgs := [emptyData] }

/-- Refutes O43: a delivery of no bytes to a memory that is not in canonical form leaves its cells in their order, where
a write of no bytes sorts them. -/
theorem not_peersAnswerAndTakeDeliveries : ¬ Obligations.PeersAnswerAndTakeDeliveries := by
  unfold Obligations.PeersAnswerAndTakeDeliveries
  intro h
  have hx : unorderedState.msg 0 = some emptyData := by decide
  have hne : emptyData.src ≠ emptyData.dst := by decide
  have hbehind : unorderedState.behind emptyData = false := by decide
  have hrefused : unorderedState.refusal (unorderedState.core 1) 2 0x47 0 1 0 (unorderedState.core 0).lcore = none := by
    decide
  obtain ⟨-, hevents⟩ := h unorderedState emptyData
  obtain ⟨-, -, hdata, -⟩ := hevents hx hne
  obtain ⟨-, hserved⟩ := hdata 0 0 1 [] none 0 rfl hbehind
  obtain ⟨t, ht, hmem, -⟩ := hserved hrefused (by decide)
  have hkept := State.delivery_empty_mem hx hne rfl hbehind hrefused
  rw [← Host.Outcome.next.inj ((exec_delivery _).symm.trans ht)] at hmem
  exact absurd (hkept.symm.trans hmem) (by decide)

end Sys2Proof.Machine
end

section
/-! Settles O31. The checks of the accumulator instructions (R284, R293 to R300), each from the hypothesis that it
tests. -/

namespace Sys2Proof.Machine

/-! What the issue changes beside the command. -/

/-- Setting H of rows allocates no bank. -/
theorem Core.foldl_setH_alloc (c : Core) (h : Nat) (rows : List (Nat × Nat)) :
    (rows.foldl (fun d r => d.setH r.1 r.2 h) c).eng.alloc = c.eng.alloc := by
  induction rows generalizing c with
  | nil => rfl
  | cons r rows ih => exact ih _

/-- What ACCEXPORT changes at issue beside its command: a band that is exported already keeps its group (R293). -/
def Core.exportsBand (c : Core) (band grp : Nat) : Core :=
  if Tab.has c.eng.bandExports band then c
  else { c with eng := { c.eng with bandExports := Tab.store c.eng.bandExports band grp } }

theorem Core.exportsBand_eq (c : Core) (band grp : Nat) :
    c.exportsBand band grp = { c with eng := { c.eng with
      bandExports := if Tab.has c.eng.bandExports band then c.eng.bandExports
        else Tab.store c.eng.bandExports band grp } } := by
  unfold Core.exportsBand
  cases Tab.has c.eng.bandExports band <;> rfl

/-! Checks. -/

/-- The low bits of a number. -/
theorem bits_zero (x hi : Nat) : bits x hi 0 = x % 2 ^ (hi + 1) := by
  rw [bits, Nat.pow_zero, Nat.div_one, Nat.sub_zero]

theorem badSetting_eq_false {x : Nat} (hlayout : x < 2 ^ 24) (hcode : x % 2 ^ 16 ≠ 0x8000) : badSetting x = false := by
  rw [badSetting, bits_zero, decide_eq_false (Nat.not_le.mpr hlayout), Bool.false_or]
  exact beq_false_of_ne hcode

theorem Core.unallocTrap_one {c : Core} {b : Nat} (h : c.allocated b = true) : c.unallocTrap [b] = none :=
  Core.unallocTrap_eq_none (List.forall_mem_singleton.mpr h)

theorem Core.bandTrap_one {c : Core} {b row : Nat} (h : Tab.has c.eng.bandExports (b * 4 + row / 8) = false) :
    c.bandTrap [(b, row)] = none :=
  Core.bandTrap_eq_none (List.forall_mem_singleton.mpr h)

/-- A drain that clears writes its row, and must find the band unexported (R293). -/
theorem Core.clearTrap_eq_none {c : Core} {clr : Bool} {b row : Nat}
    (h : clr = true → Tab.has c.eng.bandExports (b * 4 + row / 8) = false) :
    (if clr then c.bandTrap [(b, row)] else none) = none := by
  split
  · next hclr => exact Core.bandTrap_one (h hclr)
  · rfl

/-- The rows of a mask are rows 0 to 31 of its banks (R281). -/
theorem mem_maskRows {m : Nat} {r : Nat × Nat} (h : r ∈ maskRows m) : r.1 ∈ maskBanks m ∧ r.2 < 32 := by
  obtain ⟨l, hl, hr⟩ := List.mem_flatten.mp h
  obtain ⟨b, hb, rfl⟩ := List.mem_map.mp hl
  obtain ⟨row, hrow, rfl⟩ := List.mem_map.mp hr
  exact ⟨hb, List.mem_range.mp hrow⟩

/-- The rows of the banks of a mask lie in the four bands of those banks (R291). -/
theorem Core.bandTrap_maskRows {c : Core} {m : Nat}
    (h : ∀ b ∈ maskBanks m, ∀ k, k < 4 → Tab.has c.eng.bandExports (b * 4 + k) = false) :
    c.bandTrap (maskRows m) = none := by
  refine Core.bandTrap_eq_none fun r hr => ?_
  obtain ⟨hbank, hrow⟩ := mem_maskRows hr
  exact h r.1 hbank (r.2 / 8) (by omega)

/-- The holder drains a band that is local, or whose owner it is a member of (R292). -/
theorem State.drainTrap_eq_none {s : State} {c : Core} {b row : Nat}
    (h : Tab.has c.eng.owners (b * 4 + row / 8) = true →
      s.isMember c (Tab.look 0 c.eng.owners (b * 4 + row / 8)) c.lcore = true) : s.drainTrap c b row = none :=
  if_neg fun ⟨howned, hother⟩ => hother (h howned)

theorem State.remoteTrap_eq_none {s : State} {c : Core} {x grp : Nat} (hx : x < 256) (hpod : s.inPod c x = true)
    (hgroup : s.groupOk c grp = true) (hmember : s.isMember c grp c.lcore = true) : s.remoteTrap c x grp = none :=
  illegalIf_eq_none (by simp [hx, hpod, hgroup, hmember])

theorem Core.accexpTrap_eq_none {c : Core} {q : Int} {n : Nat} (hregion : c.regionOpen q 256 n)
    (hexport : c.exportHit q.toNat n true = none) : c.accexpTrap q n = none := by
  simp [Core.accexpTrap, firstTrap, Core.regionTrap_eq_none hregion, hexport]

theorem Core.roomTrap_eq_none {c : Core} {q : Nat} (h : c.visibleUnits q + c.pendingUnits q + 1 ≤ queueDepth q) :
    c.roomTrap q = none := if_neg (Nat.not_lt.mpr h)

/-! ACCHEAD gives the engine no command (R300). -/

/-- An M instruction without a command of its own, whose checks pass, where the engine's queue has room. -/
theorem State.runSlot_mDirect {s : State} {op : Focus → State → Res State} {checks : List (Option (Nat × Nat))}
    {k : Core → Core} (hn : s.onACore) (hop : op s.here s = s.here.checked checks (s.mDirect s.here k))
    (hchecks : ∀ x ∈ checks, x = none) (hroom : s.mRoom none none) : s.runSlot op = .next (s.changesHere k) := by
  have hnotFull : ¬ s.mFull s.hereCore = true := by
    rw [State.mFull, decide_eq_true_eq]
    exact Nat.not_le.mpr hroom.1
  have hdirect : s.mDirect s.here k = .ok (s.changesHere k) := if_neg hnotFull
  exact State.runSlot_ok hn (hop.trans ((s.here.checked_pass hchecks _).trans hdirect))

/-- Settles O31: each instruction's checks pass by its hypotheses, and its effect at issue is on the engaged core. -/
theorem accumulatorInstructionsIssue : Obligations.AccumulatorInstructionsIssue := by
  unfold Obligations.AccumulatorInstructionsIssue
  intro s f hn c m x ab row ar band grp open_ unexported drainable good h noExport n rows holder remoteOk q fmt ext
    target setsH frees owns given goes
  refine ⟨?alloc, ?free, ?band, ?bandLocal, ?norm, ?clr, ?rd, ?rdRemote, ?exp, ?expRemote, ?head, ?exported⟩
  case alloc =>
    intro hm ⟨hlayout, hcode⟩ hfree hroom
    have hillegal : (m == 0 || badSetting x || m &&& c.eng.alloc != 0) = false := by
      simp [hm, badSetting_eq_false hlayout hcode, hfree]
    have halloc : (setsH (maskRows m) h (given (.accalloc m (signExt x 16)) (keysOf (maskRows m)) none)).eng.alloc =
        c.eng.alloc := Core.foldl_setH_alloc ..
    rw [← halloc]
    exact State.runSlot_mIssue (op := fun fo s => opAccalloc fo f s) hn rfl
      (List.forall_mem_singleton.mpr (illegalIf_eq_none hillegal)) hroom
  case free =>
    intro hm hbanks hroom
    refine State.runSlot_mIssue (op := fun fo s => opAccfree fo f s) hn rfl ?_ hroom
    simp only [List.forall_mem_cons]
    exact ⟨illegalIf_eq_none (beq_false_of_ne hm), Core.unallocTrap_eq_none fun b hb => (hbanks b hb).1,
      Core.bandTrap_maskRows fun b hb => (hbanks b hb).2, List.forall_mem_nil _⟩
  case band =>
    intro hopen hfirst hgroup hband hroom
    have hillegal : (ar % 8 != 0 || !s.groupOk c grp) = false := by simp [hfirst, hgroup]
    refine State.runSlot_mIssue (op := fun fo s => opAccband fo f s) hn rfl ?_ hroom
    simp only [List.forall_mem_cons]
    exact ⟨Core.unallocTrap_one hopen, illegalIf_eq_none hillegal, Core.bandTrap_one hband, List.forall_mem_nil _⟩
  case bandLocal =>
    intro hopen hfirst hband hroom
    have hillegal : (ar % 8 != 0 || false) = false := by simp [hfirst]
    refine State.runSlot_mIssue (op := fun fo s => opAccbandLocal fo f s) hn rfl ?_ hroom
    simp only [List.forall_mem_cons]
    exact ⟨Core.unallocTrap_one hopen, illegalIf_eq_none hillegal, Core.bandTrap_one hband, List.forall_mem_nil _⟩
  case norm =>
    intro hopen hband hroom
    have hvalue : bits m 7 0 = m % 256 := bits_zero m 7
    rw [← hvalue]
    refine State.runSlot_mIssue (op := fun fo s => opAccnorm fo f s) hn rfl ?_ hroom
    simp only [List.forall_mem_cons]
    exact ⟨Core.unallocTrap_one hopen, Core.bandTrap_one hband, List.forall_mem_nil _⟩
  case clr =>
    intro hopen hlast ⟨hlayout, hcode⟩ hbands hroom
    have hop : opAccclr s.here f s = s.here.checked
        [c.unallocTrap [ab], illegalIf (decide (31 < row + n - 1) || badSetting x), c.bandTrap rows]
        (s.mIssue s.here (.accclr ab row n (signExt x 16)) (keysOf rows) none none (setsH rows h)) := by
      simp only [opAccclr, bits_zero]
      rfl
    have hrange : ¬ 31 < row + n - 1 := by omega
    have hillegal : (decide (31 < row + n - 1) || badSetting x) = false := by
      rw [decide_eq_false hrange, badSetting_eq_false hlayout hcode, Bool.false_or]
    refine State.runSlot_mIssue (op := fun fo s => opAccclr fo f s) hn hop ?_ hroom
    simp only [List.forall_mem_cons]
    exact ⟨Core.unallocTrap_one hopen, illegalIf_eq_none hillegal, Core.bandTrap_eq_none hbands, List.forall_mem_nil _⟩
  case rd =>
    intro hopen hdrain hclr hspace hroom
    refine State.runSlot_mIssue (op := fun fo s => opAccrd fo f s) hn rfl ?_ hroom
    simp only [List.forall_mem_cons]
    exact ⟨Core.unallocTrap_one hopen, State.drainTrap_eq_none hdrain, Core.clearTrap_eq_none hclr,
      Core.roomTrap_eq_none hspace, List.forall_mem_nil _⟩
  case rdRemote =>
    intro ⟨hholder, hpod, hgroup, hmember⟩ hspace hroom
    refine State.runSlot_mIssue (op := fun fo s => opAccrdRemote fo f s) hn rfl ?_ hroom
    simp only [List.forall_mem_cons]
    exact ⟨State.remoteTrap_eq_none hholder hpod hgroup hmember, Core.roomTrap_eq_none hspace, List.forall_mem_nil _⟩
  case exp =>
    intro hopen hdrain hclr ⟨hregion, hexport⟩ hroom
    refine State.runSlot_mIssue (op := fun fo s => opAccexp fo f s) hn rfl ?_ hroom
    simp only [List.forall_mem_cons]
    exact ⟨Core.unallocTrap_one hopen, State.drainTrap_eq_none hdrain, Core.clearTrap_eq_none hclr,
      Core.accexpTrap_eq_none hregion hexport, List.forall_mem_nil _⟩
  case expRemote =>
    intro ⟨hholder, hpod, hgroup, hmember⟩ ⟨hregion, hexport⟩ hroom
    refine State.runSlot_mIssue (op := fun fo s => opAccexpRemote fo f s) hn rfl ?_ hroom
    simp only [List.forall_mem_cons]
    exact ⟨State.remoteTrap_eq_none hholder hpod hgroup hmember, Core.accexpTrap_eq_none hregion hexport,
      List.forall_mem_nil _⟩
  case head =>
    intro hopen hspace hroom
    refine State.runSlot_mDirect (op := fun fo s => opAcchead fo f s) hn rfl ?_ hroom
    simp only [List.forall_mem_cons]
    exact ⟨Core.unallocTrap_one hopen, Core.roomTrap_eq_none hspace, List.forall_mem_nil _⟩
  case exported =>
    intro hopen hfirst hgroup howned howner hroom d l l'
    have hissue : exec (.accexport f) s = .next (s.changesHere fun _ => d.exportsBand band grp) := by
      have hillegal : (ar % 8 != 0 || !s.groupOk c grp) = false := by simp [hfirst, hgroup]
      have hnotOwner : (!(Tab.has c.eng.owners band && Tab.look 0 c.eng.owners band == grp)) = false := by
        simp [howned, howner]
      refine State.runSlot_mIssue (op := fun fo s => opAccexport fo f s) hn rfl ?_ hroom
      simp only [List.forall_mem_cons]
      exact ⟨Core.unallocTrap_one hopen, illegalIf_eq_none hillegal, illegalIf_eq_none hnotOwner, List.forall_mem_nil _⟩
    rw [Core.exportsBand_eq] at hissue
    exact hissue

end Sys2Proof.Machine
end

section
/-! Settles O32. One addend at an element (R285), and what ACCPOP sends and reports of the image it takes (R290). -/

namespace Sys2Proof.Machine

/-! The addend (R285). -/

/-- The range of X as a clamp (R282). -/
theorem sat_acc (x : Int) : sat x accLo accHi = max (-2 ^ 63) (min (2 ^ 63 - 1) x) :=
  sat_eq_max_min x (by decide)

/-- The elements of a row with X of element `i` set: a zero is not listed. -/
def setElem (t : Tab Int) (i : Nat) (x : Int) : Tab Int := if x = 0 then Tab.drop t i else Tab.store t i x

@[simp] theorem look_setElem_same (t : Tab Int) (i : Nat) (x : Int) : Tab.look 0 (setElem t i x) i = x := by
  unfold setElem
  split
  · next h => rw [Tab.look_drop_same, h]
  · exact Tab.look_store_same ..

theorem look_setElem_other (t : Tab Int) {i j : Nat} (x : Int) (h : j ≠ i) :
    Tab.look 0 (setElem t i x) j = Tab.look 0 t j := by
  unfold setElem
  split
  · exact Tab.look_drop_other _ _ h
  · exact Tab.look_store_other _ _ _ h

section
variable {r : AccRow} {i : Nat} {a : Addend}

theorem AccRow.add_marked (h : r.nan.testBit i = true) : r.add i a = r := if_pos h

theorem AccRow.add_nan (h : r.nan.testBit i = false) (ha : a.nan = true) :
    r.add i a = { r with elems := Tab.store r.elems i 3, nan := r.nan ||| 2 ^ i } := by
  simp [AccRow.add, h, ha]

/-- A number is rounded to the unit of the row, clamped, added and clamped again. -/
theorem AccRow.add_number (h : r.nan.testBit i = false) (ha : a.nan = false) :
    let x := roundRNE a.s (a.e - r.e + 16) 0
    let y := Tab.look 0 r.elems i + sat x accLo accHi
    r.add i a = { r with
      elems := setElem r.elems i (sat y accLo accHi)
      ovf := r.ovf || sat x accLo accHi != x || sat y accLo accHi != y } := by
  simp [AccRow.add, h, ha, setElem]

end

/-- An addend reaches one element of the row, and neither E nor H. -/
theorem AccRow.add_keeps (r : AccRow) (i : Nat) (a : Addend) :
    (r.add i a).e = r.e ∧ (r.add i a).h = r.h ∧
      ∀ j, j ≠ i → Tab.look 0 (r.add i a).elems j = Tab.look 0 r.elems j := by
  cases hmark : r.nan.testBit i with
  | true =>
    rw [AccRow.add_marked hmark]
    exact ⟨rfl, rfl, fun _ _ => rfl⟩
  | false =>
    cases hnan : a.nan with
    | true =>
      rw [AccRow.add_nan hmark hnan]
      exact ⟨rfl, rfl, fun j hj => Tab.look_store_other _ _ _ hj⟩
    | false =>
      rw [AccRow.add_number hmark hnan]
      exact ⟨rfl, rfl, fun j hj => look_setElem_other _ _ hj⟩

/-! ACCPOP (R290). -/

/-- A lane's report counts when the lane is active (R173, R290). -/
theorem any_active_lanes {α : Type} (x : Nat → α) (on : Nat → Bool) (p : α → Bool) (n : Nat) :
    (((((List.range n).map x).mapIdx fun i y => (on i, y)).filter (·.1)).map (·.2)).any p =
      (List.range n).any fun i => on i && p (x i) := by
  have hlanes : (((List.range n).map x).mapIdx fun i y => (on i, y)) = (List.range n).map fun i => (on i, x i) :=
    List.ext_getElem (by simp) fun i _ _ => by simp
  rw [hlanes, List.any_map, List.any_filter, List.any_map]
  rfl

/-- ACCPOP takes the front image and sends its lanes. -/
theorem opAccpop_front {fo : Focus} {f : VR} {c : Core} {r : AccRow} {rest : List AccRow} (hq : c.q.rows = r :: rest) :
    let x := r.convert (tyOf f) f.vc.toInt
    let on (p : Rounded → Bool) : Bool := (List.range 64).any fun i => active c f.pg 32 i && p (x i)
    opAccpop fo f c = .ok ((putElts { c with q := { c.q with rows := rest } } 6 f.vd.toNat 1 f.pg f.pz 32
      ((List.range 64).map fun i => (x i).code)).putNumstat 6 (on (·.sat)) (on (·.nan)) 0) := by
  intro x on
  simp only [opAccpop, hq, signExt_toNat, AccRow.lanes, roundedSat, roundedNan, any_active_lanes, List.map_map]
  rfl

theorem opAccpop_underflow {fo : Focus} {f : VR} {c : Core} (hq : c.q.rows = []) (hpend : c.pendingUnits 6 = 0) :
    opAccpop fo f c = .trap (fo.trap Cause.queueUnderflow 6) := by
  have hempty : opAccpop fo f c = c.emptyQueue fo 6 false := by simp only [opAccpop, hq]
  exact hempty.trans (Core.emptyQueue_underflow rfl hpend)

/-- Settles O32: an addend by the mark of its element and its own, ACCPOP by what q6 holds. -/
theorem accumulatorsAddAndConvert : Obligations.AccumulatorsAddAndConvert := by
  unfold Obligations.AccumulatorsAddAndConvert
  refine ⟨fun r i a => ?addend, fun s f hn => ?pop⟩
  case addend =>
    intro r' lim x sum
    obtain ⟨hE, hH, hother⟩ := r.add_keeps i a
    refine ⟨hE, hH, hother, AccRow.add_marked, fun hmark hnan => ?mark, fun hmark hnan => ?number⟩
    case mark =>
      have hadd : r' = _ := AccRow.add_nan hmark hnan
      rw [hadd]
      exact ⟨rfl, Tab.look_store_same .., rfl⟩
    case number =>
      have hadd : r' = _ := AccRow.add_number hmark hnan
      simp only [sat_acc] at hadd
      rw [hadd]
      refine ⟨rfl, look_setElem_same .., ?_⟩
      simp only [Bool.or_eq_true, bne_iff_ne, or_assoc]
      rfl
  case pop =>
    exact ⟨fun r rest hq => State.runSlot_core (op := fun fo => opAccpop fo f) hn (opAccpop_front hq),
      fun hq hpend => State.runSlot_core_trap (op := fun fo => opAccpop fo f) hn (opAccpop_underflow hq hpend)⟩

end Sys2Proof.Machine
end

section
/-! Settles O52. How a request of a host runs (R470, R476), and what a reset leaves of the module (R477, R489). -/

namespace Sys2Proof.Machine

/-! Requests of the hosts. -/

theorem State.runHost_next {s : State} (h : HostFn.exists_ s.focus.fn = true) (ev : State → State) :
    s.runHost ev = .next (ev s) := if_pos h

theorem State.runHostPart_next {s : State} (h : HostFn.exists_ s.focus.fn = true) (hidx : s.focus.idx < 40)
    (ev : State → Nat → State) : s.runHostPart ev = .next (ev s s.focus.idx) :=
  if_pos (by simp only [h, hidx, decide_true, Bool.and_self])

theorem State.runHostCtx_next {s : State} (h : HostFn.exists_ s.focus.fn = true) (hidx : s.focus.idx < 64)
    (ev : State → Nat → State) : s.runHostCtx ev = .next (ev s s.focus.idx) :=
  if_pos (by simp only [h, hidx, decide_true, Bool.and_self])

/-- The PF of each of the two ports is a function (R470). -/
theorem HostFn.exists_pf {f : HostFn} (hport : f.port < 2) (hvf : f.vf = none) : HostFn.exists_ f = true := by
  simp only [HostFn.exists_, hport, hvf, decide_true, Bool.and_self]

theorem HostFn.exists_vf {f : HostFn} {v : Nat} (hport : f.port < 2) (hvf : f.vf = some v) (hv : v < 512) :
    HostFn.exists_ f = true := by
  simp only [HostFn.exists_, hport, hvf, hv, decide_true, Bool.and_self]

theorem State.throughOwner.exists_ {s : State} (h : s.throughOwner) : HostFn.exists_ s.focus.fn = true := by
  obtain ⟨hvf, hport, howner⟩ := h
  exact HostFn.exists_pf (hport ▸ howner) hvf

/-! Resets. -/

/-- What a restart keeps of a core is its number and its free values. -/
theorem State.core_restarted (s : State) (up0 up1 box : Bool) (n : Nat) :
    (s.restarted up0 up1 box).core n = { num := n, free := (s.core n).free } := by
  change Tab.look { num := n } (s.cores.map fun e => (e.1, ({ num := e.1, free := e.2.free } : Core))) n =
    { num := n, free := (Tab.look { num := n } s.cores n).free }
  induction s.cores with
  | nil => rfl
  | cons e t ih =>
    obtain ⟨j, c⟩ := e
    rw [List.map_cons, Tab.look_cons, Tab.look_cons]
    by_cases hj : j = n
    · rw [if_pos hj, if_pos hj, hj]
    · rw [if_neg hj, if_neg hj, ih]

/-- The module after a reset of `s` (R477, R485, R489): what the statement of O52 says of it, whichever links it has. -/
def State.clearedFrom (s u : State) : Prop :=
  u.ready = s.firmware.accepted s.fused ∧ u.off = false ∧ u.dev = [] ∧ u.slots = [] ∧ u.parts = [] ∧
  u.ctxs = [] ∧ u.msgs = [] ∧ u.memStacks = [] ∧ u.vfmap = [] ∧ u.tdisp = [] ∧ u.spdm = [] ∧ u.ide = [] ∧
  u.urLog = [] ∧ u.intake = [] ∧ u.adrop = 0 ∧ u.epoch = 1 ∧ u.lremain = 100000 ∧ u.llen = 100000 ∧
  u.mpwr = 850 ∧ u.pool = 0 ∧ u.pmask = 0 ∧ u.now = 0 ∧ u.host0 = s.host0 ∧ u.host1 = s.host1 ∧
  u.fused = s.fused ∧
  ∀ n, (u.core n).regs = {} ∧ (u.core n).mem = [] ∧ (u.core n).seq.run = .idle ∧ (u.core n).part = 63 ∧
    (u.core n).ctl = []

theorem State.clearedFrom_boot (s : State) (up0 up1 box : Bool) : s.clearedFrom (s.boot up0 up1 box) := by
  rw [State.boot_eq_restarted]
  refine ⟨rfl, rfl, rfl, rfl, rfl, rfl, rfl, rfl, rfl, rfl, rfl, rfl, rfl, rfl, rfl, rfl, rfl, rfl, rfl, rfl, rfl, rfl,
    rfl, rfl, rfl, fun n => ?_⟩
  change ((s.restarted up0 up1 box).core n).regs = {} ∧ ((s.restarted up0 up1 box).core n).mem = [] ∧
    ((s.restarted up0 up1 box).core n).seq.run = .idle ∧ ((s.restarted up0 up1 box).core n).part = 63 ∧
    ((s.restarted up0 up1 box).core n).ctl = []
  rw [State.core_restarted]
  exact ⟨rfl, rfl, rfl, rfl, rfl⟩

theorem exec_pfFunctionLevelReset {s : State} (h : HostFn.exists_ s.focus.fn = true) :
    exec .pfFunctionLevelReset s = .next s.pfReset := State.runHost_next h _

theorem State.pfReset_owner {s : State} (h : s.throughOwner) : s.pfReset = s.boot s.link0 s.link1 s.boxUp := by
  obtain ⟨hvf, hport, -⟩ := h
  simp only [State.pfReset, hvf, hport, if_true]

theorem State.pfReset_other {s : State} (hvf : s.focus.fn.vf = none) (hport : s.focus.fn.port ≠ s.owner) :
    s.pfReset = s := by
  simp only [State.pfReset, hvf, hport, if_false]

/-- Settles O52: both resets are boots, with the links that train or with those that are up. -/
theorem resetsClearTheModule : Obligations.ResetsClearTheModule := by
  intro s
  refine ⟨⟨s.coldReset, exec_coldReset s, s.clearedFrom_boot .., ?cold⟩,
    fun h => ⟨s.boot s.link0 s.link1 s.boxUp, ?run, s.clearedFrom_boot .., ?flr⟩,
    fun hvf hport hother => ?other, rfl⟩
  case cold =>
    rw [State.coldReset_eq_restarted]
    exact ⟨rfl, rfl, rfl, rfl⟩
  case run => rw [exec_pfFunctionLevelReset h.exists_, State.pfReset_owner h]
  case flr =>
    rw [State.boot_eq_restarted]
    exact ⟨rfl, rfl, rfl⟩
  case other => rw [exec_pfFunctionLevelReset (HostFn.exists_pf hport hvf), State.pfReset_other hvf hother]

end Sys2Proof.Machine
end

section
/-! Settles O50. What an offset of a PF's BAR0 names (R470, R473), the requests of the owner's PF and of another's (R476),
and the bits that a write of STKSUM clears (R413). -/

namespace Sys2Proof.Machine

/-! The lease rule (R476). -/

section
variable {s : State} (f : State → State)

theorem State.moduleDo_owner (h : s.throughOwner) : s.moduleDo f = f s := by
  obtain ⟨hvf, hport, -⟩ := h
  simp only [State.moduleDo, hvf, hport, if_true]

theorem State.moduleDo_other (hvf : s.focus.fn.vf = none) (hport : s.focus.fn.port ≠ s.owner) :
    s.moduleDo f = s.countStale := by
  simp only [State.moduleDo, hvf, hport, if_false]

theorem Partition.exists_iff (x : Partition) : x.exists_ = true ↔ x.pairs ≠ 0 := bne_iff_ne

/-- A write through a PF that the lease rule lets act on a partition that exists (R471, R476). -/
theorem State.windowDo_pf {p : Nat} {pfOnly : Bool} (hvf : s.focus.fn.vf = none)
    (hlease : pfOnly = true → s.focus.fn.port = s.owner) (hpairs : (s.part p).pairs ≠ 0) :
    s.windowDo p pfOnly f = f s := by
  have hgo : (pfOnly && s.focus.fn.port != s.owner) = false := by
    cases pfOnly with
    | false => rfl
    | true => simp only [hlease rfl, bne_self_eq_false, Bool.and_false]
  simp only [State.windowDo, hvf, hgo, Bool.false_eq_true, if_false, (Partition.exists_iff _).mpr hpairs, if_true]

theorem State.tornHere_pf (hvf : s.focus.fn.vf = none) : s.tornHere = false := by simp only [State.tornHere, hvf]

theorem State.fnTorn_pf (hvf : s.focus.fn.vf = none) : s.fnTorn = false := by simp only [State.fnTorn, hvf]

end

/-! What an offset names (R470). -/

/-- An access without the width and alignment of 8 bytes (R471). -/
theorem HostReg.wide_module_eq_false {off size : Nat} (h : size ≠ 8 ∨ off % 8 ≠ 0) :
    (HostReg.module off).wide size = false := by
  simpa only [HostReg.wide, Bool.and_eq_false_iff, beq_eq_false_iff_ne] using h

theorem HostReg.wide_module {off : Nat} (h : off % 8 = 0) : (HostReg.module off).wide 8 = true := by
  simp only [HostReg.wide, h, beq_self_eq_true, Bool.and_self]

theorem HostReg.wide_window {p o : Nat} (h : o % 8 = 0) : (HostReg.window p o).wide 8 = true := by
  simp only [HostReg.wide, h, beq_self_eq_true, Bool.and_self]

section
variable {s : State} (hvf : s.focus.fn.vf = none)
include hvf

theorem State.hostReg_module {off : Nat} (hoff : off < 0x1000000) : s.hostReg off = .module off := by
  simp only [State.hostReg, hvf, hoff, if_true]

theorem State.hostReg_window {p o : Nat} (hp : p < 40) (ho : o < 0x80000) :
    s.hostReg (0x1000000 + 0x100000 * p + o) = .window p o := by
  have hoff : ¬ 0x1000000 + 0x100000 * p + o < 0x1000000 := by omega
  have hpart : (0x1000000 + 0x100000 * p + o - 0x1000000) / 0x100000 = p := by omega
  have hrest : (0x1000000 + 0x100000 * p + o - 0x1000000) % 0x100000 = o := by omega
  have hctx : ¬ 0x80000 ≤ o := by omega
  simp only [State.hostReg, hvf, hoff, hpart, hrest, hp, HostReg.inWindow, hctx, if_true, if_false]

/-! Reads and writes by offset. -/

theorem State.hostRegRead_narrow {off size : Nat} (hoff : off < 0x1000000) (h : size ≠ 8 ∨ off % 8 ≠ 0) :
    s.hostRegRead off size = s.emitOut (.unsupported s.focus.fn) := by
  simp only [State.hostRegRead, State.hostReg_module hvf hoff, HostReg.wide_module_eq_false h, Bool.not_false,
    Bool.true_or, if_true]

theorem State.hostRegWrite_narrow {off size : Nat} (v : Word) (hoff : off < 0x1000000) (h : size ≠ 8 ∨ off % 8 ≠ 0) :
    s.hostRegWrite off size v = s.refuseWrite none := by
  simp only [State.hostRegWrite, State.hostReg_module hvf hoff, HostReg.wide_module_eq_false h, Bool.not_false,
    Bool.true_or, if_true, HostReg.part]

/-- A read of a module register through either PF. -/
theorem State.hostRegRead_module {off : Nat} (hoff : off < 0x1000000) (h : off % 8 = 0) :
    s.hostRegRead off 8 = (s.moduleRead off).2.emitOut (.data s.focus.fn (leBytes 8 (s.moduleRead off).1)) := by
  simp only [State.hostRegRead, State.hostReg_module hvf hoff, HostReg.wide_module h, State.fnTorn_pf hvf, Bool.not_true,
    Bool.or_self, Bool.false_eq_true, if_false, State.hostRegValue]

/-- A read of a register of a partition's window, but for EMEAS, which takes a meter reading (R424). -/
theorem State.hostRegRead_window {p o : Nat} (hp : p < 40) (ho : o < 0x80000) (h : o % 8 = 0) (hmeter : o ≠ 0x228)
    (hpairs : (s.part p).pairs ≠ 0) :
    s.hostRegRead (0x1000000 + 0x100000 * p + o) 8 = (s.setPart p ((s.part p).readReg o).2).emitOut
      (.data s.focus.fn (leBytes 8 ((s.part p).readReg o).1)) := by
  simp only [State.hostRegRead, State.hostReg_window hvf hp ho, HostReg.wide_window h, State.fnTorn_pf hvf,
    Bool.not_true, Bool.or_self, Bool.false_eq_true, if_false, State.hostRegValue, (Partition.exists_iff _).mpr hpairs,
    if_true, hmeter]

/-- LRENEW and RESYNC aside, a listed module register is written under the lease rule. -/
theorem State.hostRegWrite_module {off : Nat} (v : Word) (hoff : off < 0x1000000) (h : off % 8 = 0)
    (hrenew : off ≠ 0x110) (hresync : off ≠ 0x300) (hlisted : moduleListed off = true) :
    s.hostRegWrite off 8 v = s.moduleDo fun s => s.moduleWrite off v := by
  simp only [State.hostRegWrite, State.hostReg_module hvf hoff, HostReg.wide_module h, State.tornHere_pf hvf,
    Bool.not_true, Bool.or_self, Bool.false_eq_true, if_false, hlisted, if_true]

theorem State.hostRegWrite_window {p o : Nat} (v : Word) (hp : p < 40) (ho : o < 0x80000) (h : o % 8 = 0)
    (hlease : s.focus.fn.port = s.owner) (hpairs : (s.part p).pairs ≠ 0) :
    s.hostRegWrite (0x1000000 + 0x100000 * p + o) 8 v = s.windowReg p o v := by
  simp only [State.hostRegWrite, State.hostReg_window hvf hp ho, HostReg.wide_window h, State.tornHere_pf hvf,
    Bool.not_true, Bool.or_self, Bool.false_eq_true, if_false, State.windowDo_pf _ hvf (fun _ => hlease) hpairs]

end

/-! The registers of a stack (R413). -/

theorem and_mod_two_eq_one_iff (x v : Nat) : (x &&& v) % 2 = 1 ↔ x % 2 = 1 ∧ v % 2 = 1 := by
  have h := Nat.testBit_and x v 0
  simpa only [Nat.testBit_zero, ← Bool.decide_and, decide_eq_decide] using h

theorem clearBits_div_two (x v : Nat) : clearBits x v / 2 = clearBits (x / 2) (v / 2) := by
  have hle : x &&& v ≤ x := Nat.and_le_left
  have hodd := and_mod_two_eq_one_iff x v
  have hdiv : (x &&& v) / 2 = x / 2 &&& v / 2 := Nat.and_div_two
  simp only [clearBits, ← hdiv]
  omega

theorem testBit_clearBits (x v i : Nat) : (clearBits x v).testBit i = (x.testBit i && !v.testBit i) := by
  induction i generalizing x v with
  | zero =>
    have hle : x &&& v ≤ x := Nat.and_le_left
    have hodd := and_mod_two_eq_one_iff x v
    rw [Bool.eq_iff_iff]
    simp only [Nat.testBit_zero, clearBits, Bool.and_eq_true, Bool.not_eq_true', decide_eq_true_eq, decide_eq_false_iff_not]
    omega
  | succ i ih => simp only [Nat.testBit_succ, clearBits_div_two, ih]

/-- Only the low eight bits of STKSUM are cleared by a 1. -/
theorem testBit_clearBits_byte (x : Nat) (v : Word) (i : Nat) :
    (clearBits x (v.toNat % 256)).testBit i = (x.testBit i && !(decide (i < 8) && v.getLsbD i)) := by
  rw [testBit_clearBits, show (256 : Nat) = 2 ^ 8 from rfl, Nat.testBit_mod_two_pow]
  rfl

/-- The offsets of the stacks' registers are the last of BAR0 (R473). -/
theorem State.moduleWrite_stack (s : State) {off : Nat} (v : Word) (hlo : 0x4000 ≤ off) (hhi : off < 0x6000) :
    s.moduleWrite off v = s.stackWrite ((off - 0x4000) / 0x200) ((off - 0x4000) % 0x200) v.toNat := by
  unfold State.moduleWrite
  split <;> try omega
  rw [if_neg (by omega), if_neg (by omega), if_neg (by omega), if_pos ⟨hlo, hhi⟩]

theorem State.moduleRead_stack (s : State) {off : Nat} (hlo : 0x4000 ≤ off) (hhi : off < 0x6000) :
    s.moduleRead off = s.stackRead ((off - 0x4000) / 0x200) ((off - 0x4000) % 0x200) := by
  unfold State.moduleRead
  split <;> try omega
  rw [if_neg (by omega), if_neg (by omega), if_neg (by omega), if_neg (by omega), if_neg (by omega), if_pos ⟨hlo, hhi⟩]

theorem moduleListed_stksum {k : Nat} (hk : k < 16) : moduleListed (0x4000 + 0x200 * k) = true := by
  have hoff : (0x4000 + 0x200 * k) % 0x200 = 0 := by omega
  have hlo : 0x4000 ≤ 0x4000 + 0x200 * k := by omega
  have hhi : 0x4000 + 0x200 * k < 0x6000 := by omega
  simp only [moduleListed, hoff, hlo, hhi, decide_true, List.contains_cons, beq_self_eq_true, Bool.true_or, Bool.and_self,
    Bool.or_true]

theorem exec_hostRegisterRead {s : State} (h : HostFn.exists_ s.focus.fn = true) (off size : Nat) :
    exec (.hostRegisterRead off size) s = .next (s.hostRegRead off size) :=
  State.runHost_next h fun s => s.hostRegRead off size

theorem exec_hostRegisterWrite {s : State} (h : HostFn.exists_ s.focus.fn = true) (off size : Nat) (v : Word) :
    exec (.hostRegisterWrite off size v) s = .next (s.hostRegWrite off size v) :=
  State.runHost_next h fun s => s.hostRegWrite off size v

/-- A write of a module register, through the owner's PF or through another's (R476). -/
theorem exec_write_module {s : State} (h : s.throughOwner) {off : Nat} (v : Word) (hoff : off < 0x1000000)
    (h8 : off % 8 = 0) (hrenew : off ≠ 0x110) (hresync : off ≠ 0x300) (hlisted : moduleListed off = true) :
    exec (.hostRegisterWrite off 8 v) s = .next (s.moduleWrite off v) := by
  rw [exec_hostRegisterWrite h.exists_, State.hostRegWrite_module h.1 v hoff h8 hrenew hresync hlisted,
    State.moduleDo_owner _ h]

theorem exec_write_window {s : State} (h : s.throughOwner) {p o : Nat} (v : Word) (hp : p < 40) (ho : o < 0x80000)
    (h8 : o % 8 = 0) (hpairs : (s.part p).pairs ≠ 0) :
    exec (.hostRegisterWrite (0x1000000 + 0x100000 * p + o) 8 v) s = .next (s.windowReg p o v) := by
  rw [exec_hostRegisterWrite h.exists_, State.hostRegWrite_window h.1 v hp ho h8 h.2.1 hpairs]

/-- Settles O50: by what the offset names, reads through either PF, then writes through the owner's. -/
theorem hostRegistersAnswerByOffset : Obligations.HostRegistersAnswerByOffset := by
  intro s off size v
  refine ⟨fun hfn hnarrow hvf hoff => ?narrow, fun hport hvf => ?reads, fun howner => ?writes,
    fun hport hvf hother => ?stale⟩
  case narrow =>
    rw [exec_hostRegisterRead hfn, exec_hostRegisterWrite hfn, State.hostRegRead_narrow hvf hoff hnarrow,
      State.hostRegWrite_narrow hvf v hoff hnarrow]
    exact ⟨rfl, rfl⟩
  case reads =>
    have module {o : Nat} (ho : o < 0x1000000) (h8 : o % 8 = 0) : exec (.hostRegisterRead o 8) s =
        .next ((s.moduleRead o).2.emitOut (.data s.focus.fn (leBytes 8 (s.moduleRead o).1))) := by
      rw [exec_hostRegisterRead (HostFn.exists_pf hport hvf), State.hostRegRead_module hvf ho h8]
    refine ⟨module (by omega) rfl, module (by omega) rfl, module (by omega) rfl, module (by omega) rfl,
      module (by omega) rfl, fun k hk => ?cycles, fun p hp hpairs => ?window⟩
    case cycles =>
      refine (module (by omega) (by omega)).trans ?_
      rw [State.moduleRead_stack s (by omega) (by omega),
        show (0x4008 + 0x200 * k - 0x4000) / 0x200 = k by omega, show (0x4008 + 0x200 * k - 0x4000) % 0x200 = 0x08 by omega]
      rfl
    case window =>
      have window {o : Nat} (ho : o < 0x80000) (h8 : o % 8 = 0) (hmeter : o ≠ 0x228) :
          exec (.hostRegisterRead (0x1000000 + 0x100000 * p + o) 8) s = _ :=
        (exec_hostRegisterRead (HostFn.exists_pf hport hvf) ..).trans
          (congrArg _ (State.hostRegRead_window hvf hp ho h8 hmeter hpairs))
      exact ⟨window (by omega) rfl (by omega), window (by omega) rfl (by omega)⟩
  case writes =>
    have listed {o : Nat} (ho : o < 0x1000000) (h8 : o % 8 = 0) (hrenew : o ≠ 0x110) (hresync : o ≠ 0x300)
        (h : moduleListed o = true) := exec_write_module howner v ho h8 hrenew hresync h
    have window {p o : Nat} (hp : p < 40) (hpairs : (s.part p).pairs ≠ 0) (ho : o < 0x80000) (h8 : o % 8 = 0) :=
      exec_write_window howner v hp ho h8 hpairs
    refine ⟨fun hlo hhi => ?llen, ?pmask, ?rsaddr, ?ready, fun k hk =>
        ⟨s.onStack k fun x => { x with sum := clearBits x.sum (v.toNat % 256) }, ?stack, fun i => ?sum⟩,
      fun p hp hpairs => ⟨fun halign => ?limg, ?cap, ?prio⟩⟩
    case llen =>
      refine (listed (o := 0x0118) (by omega) rfl (by omega) (by omega) rfl).trans (congrArg _ ?_)
      change (if 1000 ≤ bits v.toNat 31 0 ∧ bits v.toNat 31 0 ≤ 10000000 then { s with llen := bits v.toNat 31 0 } else s) = _
      rw [bits_zero, if_pos ⟨hlo, hhi⟩]
    case pmask => exact listed (o := 0x0208) (by omega) rfl (by omega) (by omega) rfl
    case rsaddr => exact listed (o := 0x0308) (by omega) rfl (by omega) (by omega) rfl
    case ready => exact listed (o := 0x0000) (by omega) rfl (by omega) (by omega) rfl
    case stack =>
      refine (listed (by omega) (by omega) (by omega) (by omega) (moduleListed_stksum hk)).trans ?_
      rw [State.moduleWrite_stack s v (by omega) (by omega), show (0x4000 + 0x200 * k - 0x4000) / 0x200 = k by omega,
        show (0x4000 + 0x200 * k - 0x4000) % 0x200 = 0x00 by omega]
      rfl
    case sum =>
      rw [State.stack_onStack]
      exact testBit_clearBits_byte _ v i
    case limg =>
      refine (window (o := 0) hp hpairs (by omega) rfl).trans (congrArg _ ?_)
      change (s.onPart p fun x => if bits v.toNat 56 0 % 4096 = 0 then { x with limg := bits v.toNat 56 0 } else x) = _
      simp only [bits_zero, halign, if_true]
    case cap =>
      refine (window (o := 0x208) hp hpairs (by omega) rfl).trans (congrArg _ ?_)
      change (s.onPart p fun x => { x with cap := bits v.toNat 47 0 }) = _
      simp only [bits_zero]
    case prio =>
      refine (window (o := 0x218) hp hpairs (by omega) rfl).trans (congrArg _ ?_)
      change (s.onPart p fun x => { x with prio := bits v.toNat 1 0 }) = _
      rw [show bits v.toNat 1 0 = v.toNat % 4 from bits_zero ..]
  case stale =>
    rw [exec_hostRegisterWrite (HostFn.exists_pf hport hvf),
      State.hostRegWrite_module hvf v (by omega) rfl (by omega) (by omega) rfl, State.moduleDo_other _ hvf hother]
    rfl

end Sys2Proof.Machine
end

section
/-! What accesses to memory leave alone: the reads and writes of device memory (R132 to R135, R401 to R403), the walks and
translations (R386, R391) and the accesses of the module's own units (R396) change memories, stacks and translation units, and
send the events and signals of R413 to R415; nothing else of the module. -/

namespace Sys2Proof.Machine

/-- The module with the memories, the stacks, the translation units and what these report as they are in `t`. -/
def State.withMemory (s t : State) : State := { s with
  units := t.units, memStacks := t.memStacks, dev := t.dev, slots := t.slots, bad := t.bad, weak := t.weak
  lineErr := t.lineErr, poison := t.poison, host0 := t.host0, host1 := t.host1, events := t.events, out := t.out }

/-- `t` differs from `s` in its memories, their units and what these report alone. -/
structure State.OnlyMemory (s t : State) : Prop where
  eq : t = s.withMemory t

namespace State.OnlyMemory

variable {s t u : State}

theorem refl (s : State) : s.OnlyMemory s := ⟨rfl⟩

theorem trans (h : s.OnlyMemory t) (g : t.OnlyMemory u) : s.OnlyMemory u :=
  ⟨g.eq.trans (congrArg (fun x => x.withMemory u) h.eq)⟩

theorem core (h : s.OnlyMemory t) (n : Nat) : t.core n = s.core n :=
  (congrArg (fun x => x.core n) h.eq).trans rfl
theorem cores (h : s.OnlyMemory t) : t.cores = s.cores :=
  (congrArg State.cores h.eq).trans rfl
theorem part (h : s.OnlyMemory t) (p : Nat) : t.part p = s.part p :=
  (congrArg (fun x => x.part p) h.eq).trans rfl
theorem parts (h : s.OnlyMemory t) : t.parts = s.parts :=
  (congrArg State.parts h.eq).trans rfl
theorem ctxs (h : s.OnlyMemory t) : t.ctxs = s.ctxs :=
  (congrArg State.ctxs h.eq).trans rfl
theorem ctx (h : s.OnlyMemory t) (k : Nat) : t.ctx k = s.ctx k :=
  (congrArg (fun x => x.ctx k) h.eq).trans rfl
theorem now (h : s.OnlyMemory t) : t.now = s.now :=
  (congrArg State.now h.eq).trans rfl
theorem focus (h : s.OnlyMemory t) : t.focus = s.focus :=
  (congrArg State.focus h.eq).trans rfl
theorem owner (h : s.OnlyMemory t) : t.owner = s.owner :=
  (congrArg State.owner h.eq).trans rfl
theorem msgs (h : s.OnlyMemory t) : t.msgs = s.msgs :=
  (congrArg State.msgs h.eq).trans rfl
theorem params (h : s.OnlyMemory t) : t.params = s.params :=
  (congrArg State.params h.eq).trans rfl
theorem tdisp (h : s.OnlyMemory t) : t.tdisp = s.tdisp :=
  (congrArg State.tdisp h.eq).trans rfl
theorem vfmap (h : s.OnlyMemory t) : t.vfmap = s.vfmap :=
  (congrArg State.vfmap h.eq).trans rfl

/-- A fold whose every step changes memory alone. -/
theorem foldl {σ α : Type} (get : σ → State) {f : σ → α → σ} (hstep : ∀ a x, (get a).OnlyMemory (get (f a x)))
    (l : List α) (a : σ) : (get a).OnlyMemory (get (l.foldl f a)) := by
  induction l generalizing a with
  | nil => exact refl _
  | cons x l ih => exact (hstep a x).trans (ih _)

end State.OnlyMemory

/-! The stacks. -/

theorem State.onlyMemory_onStack (s : State) (k : Nat) (f : Stack → Stack) : s.OnlyMemory (s.onStack k f) := ⟨rfl⟩

theorem State.onlyMemory_onUnit (s : State) (k : Nat) (f : TransUnit → TransUnit) : s.OnlyMemory (s.onUnit k f) := ⟨rfl⟩

theorem State.onlyMemory_hostWrite (s : State) (port a : Nat) (bs : List Byte) : s.OnlyMemory (s.hostWrite port a bs) := by
  simp only [State.hostWrite]
  split <;> exact ⟨rfl⟩

theorem State.onlyMemory_stick (s : State) (k b : Nat) : s.OnlyMemory (s.stick k b) := by
  simp only [State.stick]
  split <;> exact ⟨rfl⟩

theorem State.onlyMemory_bankStatus (s : State) (dpa : Nat) : s.OnlyMemory (s.bankStatus dpa) := ⟨rfl⟩

theorem State.onlyMemory_corrected (s : State) (dpa bit : Nat) : s.OnlyMemory (s.corrected dpa bit) :=
  (s.onlyMemory_onStack ..).trans ((State.onlyMemory_stick ..).trans (State.onlyMemory_bankStatus ..))

theorem State.onlyMemory_meetLine (s : State) (u : Nat) : s.OnlyMemory (s.meetLine u) := by
  have hdrop : s.OnlyMemory { s with lineErr := Tab.drop s.lineErr u } := ⟨rfl⟩
  simp only [State.meetLine]
  split
  · exact hdrop
  · split
    · exact hdrop.trans ((State.onlyMemory_onStack ..).trans (State.onlyMemory_stick ..))
    · split
      · refine hdrop.trans ((State.onlyMemory_stick _ (stackOf (64 * u)) 4).trans ?_)
        split
        · exact ⟨rfl⟩
        · exact State.onlyMemory_onStack ..
      · exact hdrop

/-- The end of a read that fails (R135). -/
theorem State.onlyMemory_readFails (s : State) (k dpa : Nat) (f : Stack → Stack) :
    s.OnlyMemory (((s.stick k 2).bankStatus dpa).onStack k f) :=
  (s.onlyMemory_stick k 2).trans ((State.onlyMemory_bankStatus ..).trans (State.onlyMemory_onStack ..))

theorem State.onlyMemory_readBurst (s : State) (u : Nat) : s.OnlyMemory (s.readBurst u).2 := by
  unfold State.readBurst
  extract_lets dpa k failed met cleared eccCorrected rereadCorrected weak
  have hfailed (t : State) : t.OnlyMemory (failed t).2 := by
    exact t.onlyMemory_readFails k dpa fun x => { x with erraddr := dpa }
  have hmet : s.OnlyMemory met := by
    dsimp only [met]
    split
    · exact s.onlyMemory_meetLine u
    · exact .refl s
  have hweak : met.OnlyMemory weak := by
    refine .trans (t := cleared) ⟨rfl⟩ ?_
    dsimp only [weak]
    split
    · exact (cleared.onlyMemory_corrected ..).trans ⟨rfl⟩
    · exact (cleared.onlyMemory_corrected ..).trans ⟨rfl⟩
    · exact .refl cleared
  refine hmet.trans ?_
  split
  · exact hfailed met
  · refine hweak.trans ?_
    split
    · exact .refl weak
    · exact hfailed weak

theorem State.onlyMemory_touchLines (s : State) (dpa n : Nat) (cache dirty : Bool) :
    s.OnlyMemory (s.touchLines dpa n cache dirty) := by
  unfold State.touchLines
  split
  · exact .refl s
  · exact .foldl id (fun t u => ⟨rfl⟩) _ s

theorem State.onlyMemory_devRead (s : State) (dpa n : Nat) (cache : Bool) : s.OnlyMemory (s.devRead dpa n cache).2 := by
  unfold State.devRead
  extract_lets go
  have hgo : s.OnlyMemory go.2 := by
    refine (s.onlyMemory_touchLines dpa n cache false).trans ?_
    refine State.OnlyMemory.foldl (σ := Option Nat × State) Prod.snd (fun acc u => ?_) _ (none, _)
    dsimp only
    split
    · exact .refl _
    · exact State.onlyMemory_readBurst ..
  split <;> exact hgo

theorem State.onlyMemory_devWrite (s : State) (dpa : Nat) (bs : List Byte) (mx cache : Bool) :
    s.OnlyMemory (s.devWrite dpa bs mx cache) :=
  (s.onlyMemory_touchLines dpa bs.length cache true).trans ⟨rfl⟩

theorem State.onlyMemory_writePages (s : State) (l : List (Nat × Nat × Page)) (bs : List Byte) :
    s.OnlyMemory (s.writePages l bs) := by
  induction l generalizing s bs with
  | nil => exact .refl s
  | cons x r ih =>
    unfold State.writePages
    extract_lets now t
    refine .trans (t := t) ?_ (ih ..)
    dsimp only [t]
    split
    · exact s.onlyMemory_devWrite ..
    · exact s.onlyMemory_hostWrite ..

theorem State.onlyMemory_readPages (s : State) (l : List (Nat × Nat × Page)) : s.OnlyMemory (s.readPages l).2 := by
  induction l generalizing s with
  | nil => exact .refl s
  | cons x r ih =>
    unfold State.readPages
    extract_lets one
    have hone : s.OnlyMemory one.2 := by
      dsimp only [one]
      split
      · exact s.onlyMemory_devRead ..
      · exact .refl s
    clear_value one
    obtain ⟨bs | d, t⟩ := one
    · have hrest := ih t
      dsimp only
      split
      case h_1 h => exact hone.trans ((congrArg Prod.snd h) ▸ hrest)
      case h_2 => exact hone.trans hrest
    · exact hone

/-! Walks and translations. -/

theorem leafPage_onlyMemory (s : State) (a t i l x : Nat) : s.OnlyMemory (leafPage s a t i l x).2 := by
  unfold leafPage
  split
  · exact .refl s
  · extract_lets check
    split
    · exact .refl s
    · have hread := s.onlyMemory_devRead
      split <;> rename_i h
      · exact (congrArg Prod.snd h) ▸ hread ..
      · exact (congrArg Prod.snd h) ▸ hread ..

theorem walkFrom_onlyMemory (pod part fuel : Nat) (s : State) (a t : Nat) :
    s.OnlyMemory (walkFrom pod part fuel s a t).2 := by
  induction fuel generalizing s t with
  | zero => exact .refl s
  | succ l ih =>
    unfold walkFrom
    extract_lets i
    have hread := s.onlyMemory_devRead (t + 8 * i) 8 true
    split <;> rename_i h
    · exact (congrArg Prod.snd h) ▸ hread
    · refine .trans ((congrArg Prod.snd h) ▸ hread) ?_
      dsimp only
      split
      · exact .refl _
      · split
        · exact .refl _
        · split
          · split
            · exact .refl _
            · split
              · exact .refl _
              · exact (State.onlyMemory_onUnit ..).trans (ih ..)
          · exact leafPage_onlyMemory ..

theorem State.onlyMemory_walk (s : State) (pod part a : Nat) : s.OnlyMemory (s.walk pod part a).2 := by
  unfold State.walk
  extract_lets p
  split
  · exact .refl s
  · split <;> exact walkFrom_onlyMemory ..

theorem State.onlyMemory_translate (s : State) (pod part a : Nat) (write : Bool) :
    s.OnlyMemory (s.translate pod part a write).2 := by
  unfold State.translate
  split
  · exact .refl s
  · split
    · split
      · exact .refl s
      · dsimp only
        split
        · exact .refl s
        · exact s.onlyMemory_onUnit ..
    · split
      · exact .refl s
      · exact ⟨rfl⟩

theorem State.onlyMemory_resolve (s : State) (pod part a : Nat) (write hold : Bool) :
    s.OnlyMemory (s.resolve pod part a write hold).2 := by
  unfold State.resolve
  split
  · exact .refl s
  · split
    · exact .refl s
    · have hwalk := s.onlyMemory_walk pod part a
      split
      case h_1 p t h =>
        refine .trans ((congrArg Prod.snd h) ▸ hwalk) ?_
        split
        · exact .refl _
        · exact ⟨rfl⟩
      case h_2 t h =>
        refine .trans ((congrArg Prod.snd h) ▸ hwalk) ?_
        dsimp only
        split
        · exact State.onlyMemory_onUnit ..
        · exact .refl _
      case h_3 => exact hwalk

theorem State.onlyMemory_ownPage (s : State) (pod part a : Nat) (write : Bool) (how : Walker) :
    s.OnlyMemory (s.ownPage pod part a write how).2 := by
  unfold State.ownPage
  extract_lets reached
  split
  · have h := s.onlyMemory_translate pod part a write
    split <;> rename_i heq <;> exact (congrArg Prod.snd heq) ▸ h
  · have h := s.onlyMemory_resolve pod part a write (how == .hold)
    split <;> rename_i heq <;> exact (congrArg Prod.snd heq) ▸ h

/-! Accesses of the module's own units. -/

theorem State.onlyMemory_writeVirtual (s : State) (pod part a : Nat) (bs : List Byte) (how : Walker) :
    s.OnlyMemory (s.writeVirtual pod part a bs how).2 := by
  unfold State.writeVirtual
  extract_lets chunks found
  have hfound : s.OnlyMemory found.2.2 := by
    refine State.OnlyMemory.foldl (σ := Option MemErr × List (Nat × Nat × Page) × State) (fun x => x.2.2)
      (fun acc ch => ?_) chunks (none, [], s)
    split
    · exact .refl _
    case h_2 l t =>
      have h := t.onlyMemory_ownPage pod part ch.1 true how
      split <;> rename_i heq <;> exact (congrArg Prod.snd heq) ▸ h
  clear_value found
  obtain ⟨_ | e, l, t⟩ := found
  · refine hfound.trans (.foldl id (fun u x => ?_) l t)
    dsimp only [id]
    split
    · exact State.onlyMemory_devWrite ..
    · exact State.onlyMemory_hostWrite ..
  · exact hfound

theorem State.onlyMemory_of_writeVirtual {s t : State} {pod part a : Nat} {bs : List Byte} {how : Walker}
    {e : Option MemErr} (h : s.writeVirtual pod part a bs how = (e, t)) : s.OnlyMemory t := by
  have hkeeps := s.onlyMemory_writeVirtual pod part a bs how
  rwa [h] at hkeeps

theorem State.onlyMemory_readVirtual (s : State) (pod part a n : Nat) (how : Walker) :
    s.OnlyMemory (s.readVirtual pod part a n how).2 := by
  unfold State.readVirtual
  refine State.OnlyMemory.foldl (σ := (List Byte ⊕ MemErr) × State) Prod.snd (fun acc ch => ?_) _ (.inl [], s)
  split
  · exact .refl _
  case h_2 bs t =>
    have hpage := t.onlyMemory_ownPage pod part ch.1 false how
    split <;> rename_i heq
    · exact (congrArg Prod.snd heq) ▸ hpage
    · refine .trans ((congrArg Prod.snd heq) ▸ hpage) ?_
      split
      · have hread := State.onlyMemory_devRead
        split <;> rename_i hr <;> exact (congrArg Prod.snd hr) ▸ hread ..
      · exact .refl _

end Sys2Proof.Machine
end

section
/-! Settles O37. The intake, the dispatch and the start of a run (R428, R433 to R435). -/

namespace Sys2Proof.Machine

theorem State.runCtx_next {s : State} (h : s.focus.idx < 64) (ev : State → Nat → State) :
    s.runCtx ev = .next (ev s s.focus.idx) := if_pos h

/-! Intake (R428). -/

/-- An event that is on its way has left the module, or the core that sent it. -/
def State.withoutEvent (s : State) (ev : AbEvent) : State :=
  if ev.nocore then { s with events := dropEvent ev s.events }
  else s.onCore ev.pcore.toNat fun c => { c with events := dropEvent ev c.events }

theorem State.withoutEvent_keeps (s : State) (ev : AbEvent) :
    (s.withoutEvent ev).ctxs = s.ctxs ∧ (s.withoutEvent ev).parts = s.parts ∧
      (s.withoutEvent ev).intake = s.intake ∧ (s.withoutEvent ev).adrop = s.adrop := by
  unfold State.withoutEvent
  split <;> exact ⟨rfl, rfl, rfl, rfl⟩

theorem State.eventIntake_eq (s : State) (ev : AbEvent) : s.eventIntake ev =
    let t := s.withoutEvent ev
    if t.intake.length < 1024 then { t with intake := t.intake ++ [ev] } else { t with adrop := satAdd32 t.adrop 1 } :=
  rfl

theorem State.eventIntake_room {s : State} {ev : AbEvent} (h : s.intake.length < 1024) :
    s.eventIntake ev = { s.withoutEvent ev with intake := s.intake ++ [ev] } := by
  obtain ⟨-, -, hintake, -⟩ := s.withoutEvent_keeps ev
  simp only [State.eventIntake_eq, hintake, h, if_true]

theorem State.eventIntake_full {s : State} {ev : AbEvent} (h : 1024 ≤ s.intake.length) :
    s.eventIntake ev = { s.withoutEvent ev with adrop := satAdd32 s.adrop 1 } := by
  obtain ⟨-, -, hintake, hadrop⟩ := s.withoutEvent_keeps ev
  simp only [State.eventIntake_eq, hintake, hadrop, Nat.not_lt.mpr h, if_false]

/-! Dispatch (R433, R434). -/

theorem Context.reached_iff {c : Context} {ev : AbEvent} : c.reached ev = true ↔
    c.en = true ∧ c.cls = ev.cls.toNat ∧ (∃ p, c.owner = some p ∧ (ev.part.toNat = p ∨ ev.part = 63)) ∧
      (c.cmatch = true → ev.nocore = false ∧ ev.pcore.toNat = c.mcore) := by
  have howner : (c.owner == some ev.part.toNat || (ev.part == 63#6 && c.owner.isSome)) = true ↔
      ∃ p, c.owner = some p ∧ (ev.part.toNat = p ∨ ev.part = 63) := by
    cases c.owner with
    | none => simp
    | some p => simp [eq_comm (a := p)]
  have hmatch : (!c.cmatch || (!ev.nocore && c.mcore == ev.pcore.toNat)) = true ↔
      (c.cmatch = true → ev.nocore = false ∧ ev.pcore.toNat = c.mcore) := by
    cases c.cmatch <;> simp [eq_comm (a := c.mcore)]
  simp only [Context.reached, Bool.and_eq_true, howner, hmatch, beq_iff_eq, and_assoc]

theorem Context.take_room {c : Context} {ev : AbEvent} (hsusp : c.susp = false) (h : c.queue.length < 64) :
    c.take ev = { c with queue := c.queue ++ [ev] } := by
  simp only [Context.take, hsusp, Nat.not_le.mpr h, decide_false, Bool.or_self, Bool.false_eq_true, if_false]

theorem Context.take_drops {c : Context} {ev : AbEvent} (h : c.susp = true ∨ 64 ≤ c.queue.length) :
    c.take ev = { c with drop := sat16 c.drop 1 } :=
  if_pos (by simpa only [Bool.or_eq_true, decide_eq_true_eq] using h)

/-- A table whose entries are all changed by the same function, which the default does not notice. -/
theorem Tab.look_map {α : Type} {d : α} {f : α → α} (hd : f d = d) (t : Tab α) (k : Nat) :
    Tab.look d (t.map fun x => (x.1, f x.2)) k = f (Tab.look d t k) := by
  induction t with
  | nil => exact hd.symm
  | cons e t ih =>
    obtain ⟨j, x⟩ := e
    rw [List.map_cons, Tab.look_cons, Tab.look_cons, ih]
    split <;> rfl

theorem State.ctx_eventDispatch {s : State} {ev : AbEvent} {rest : List AbEvent} (h : s.intake = ev :: rest) (k : Nat) :
    s.eventDispatch.ctx k = if (s.ctx k).reached ev then (s.ctx k).take ev else s.ctx k := by
  simp only [State.eventDispatch, h]
  exact Tab.look_map (d := {}) (f := fun c => if c.reached ev then c.take ev else c) rfl s.ctxs k

theorem State.eventDispatch_keeps {s : State} {ev : AbEvent} {rest : List AbEvent} (h : s.intake = ev :: rest) :
    s.eventDispatch.intake = rest ∧ s.eventDispatch.cores = s.cores ∧ s.eventDispatch.parts = s.parts := by
  simp only [State.eventDispatch, h, and_self]

theorem State.eventDispatch_idle {s : State} (h : s.intake = []) : s.eventDispatch = s := by
  simp only [State.eventDispatch, h]

/-! The start of a run (R434, R435). -/

section
variable {s : State} {k p : Nat} {ev : AbEvent} {rest : List AbEvent} (hrun : (s.ctx k).run = none)
  (hqueue : (s.ctx k).queue = ev :: rest) (howner : (s.ctx k).owner = some p) (hen : (s.ctx k).en = true)
  (hsusp : (s.ctx k).susp = false)
include hrun hqueue howner hen hsusp

theorem State.filterRun_starts (h : (s.ctx k).len + (s.part p).bused ≤ (s.part p).budget) :
    s.filterRun k = (s.onPart p fun x => { x with bused := x.bused + (s.ctx k).len }).onCtx k fun c =>
      { c with queue := rest, runs := sat16 c.runs 1, run := some { pc := 0, ev := ev } } := by
  have hbudget : ¬ (s.part p).budget < (s.part p).bused + (s.ctx k).len := by omega
  simp only [State.filterRun, hrun, hqueue, howner, hen, hsusp, hbudget, Bool.not_true, Bool.or_self, Bool.false_eq_true,
    if_false]

theorem State.filterRun_suspends (h : (s.part p).budget < (s.ctx k).len + (s.part p).bused) :
    s.filterRun k = s.onCtx k fun c =>
      { c with susp := true, drop := sat16 c.drop c.queue.length, queue := [] } := by
  have hbudget : (s.part p).budget < (s.part p).bused + (s.ctx k).len := by omega
  simp only [State.filterRun, hrun, hqueue, howner, hen, hsusp, hbudget, Bool.not_true, Bool.or_self, Bool.false_eq_true,
    if_false, if_true]

end

/-- Settles O37: intake by its room, dispatch context by context, a run by what its budget has left. -/
theorem eventsAreTakenDispatchedAndRun : Obligations.EventsAreTakenDispatchedAndRun := by
  intro s ev
  refine ⟨⟨s.eventIntake ev, rfl, ?ctxs, ?parts, fun h => ?room, fun h => ?full⟩, fun h => ?idle, fun rest h => ?dispatch,
    fun rest p hidx hrun hqueue howner hen hsusp => ⟨fun h => ?starts, fun h => ?suspends⟩⟩
  case ctxs | parts =>
    obtain ⟨hctxs, hparts, -, -⟩ := s.withoutEvent_keeps ev
    rcases Nat.lt_or_ge s.intake.length 1024 with h | h
    · rw [State.eventIntake_room h]; assumption
    · rw [State.eventIntake_full h]; assumption
  case room =>
    rw [State.eventIntake_room h]
    exact ⟨rfl, (s.withoutEvent_keeps ev).2.2.2⟩
  case full =>
    rw [State.eventIntake_full h]
    exact ⟨(s.withoutEvent_keeps ev).2.2.1, rfl⟩
  case idle => exact congrArg _ (State.eventDispatch_idle h)
  case dispatch =>
    obtain ⟨hintake, hcores, hparts⟩ := State.eventDispatch_keeps h
    refine ⟨s.eventDispatch, rfl, hintake, hcores, hparts, fun k => ?_⟩
    rw [State.ctx_eventDispatch h]
    refine ⟨fun hreached => ?_, fun hreached hsusp hroom => ?_, fun hreached hdrops => ?_⟩
    · rw [if_neg (mt Context.reached_iff.mp hreached)]
    · rw [if_pos (Context.reached_iff.mpr hreached), Context.take_room hsusp hroom]
    · rw [if_pos (Context.reached_iff.mpr hreached), Context.take_drops hdrops]
      rfl
  case starts =>
    exact (State.runCtx_next hidx _).trans (congrArg _ (State.filterRun_starts hrun hqueue howner hen hsusp h))
  case suspends =>
    exact (State.runCtx_next hidx _).trans (congrArg _ (State.filterRun_suspends hrun hqueue howner hen hsusp h))

end Sys2Proof.Machine
end

section
/-! Settles O36. The steps that a filter instruction shares with others (R430, R436, R438), the values of the register
forms (R440), and where a trigger's notice goes (R441, R469, R472). -/

namespace Sys2Proof.Machine

/-! Changes of one context. -/

theorem State.onCtx_congr {s : State} {k : Nat} {f g : Context → Context} (h : f (s.ctx k) = g (s.ctx k)) :
    s.onCtx k f = s.onCtx k g := by rw [State.onCtx, State.onCtx, h]

theorem State.onCtx_onCtx (s : State) (k : Nat) (f g : Context → Context) :
    (s.onCtx k f).onCtx k g = s.onCtx k fun c => g (f c) := by
  rw [State.onCtx, State.ctx_onCtx]
  simp only [State.onCtx, Tab.store_store]

theorem ofInt_sub {w : Nat} (x y : Int) : BitVec.ofInt w (x - y) = BitVec.ofInt w x - BitVec.ofInt w y := by
  rw [Int.sub_eq_add_neg, BitVec.ofInt_add, BitVec.ofInt_neg, BitVec.sub_eq_add_neg]

section
variable {s : State} {k : Nat} {r : FilterRun} (hrun : (s.ctx k).run = some r)
include hrun

theorem State.onRun_eq (f : Context → FilterRun → Context) : s.onRun k f = s.onCtx k fun _ => f (s.ctx k) r := by
  simp only [State.onRun, hrun]
  exact State.onCtx_congr rfl

/-- An instruction that writes `fd` and goes on (R436, R440). -/
theorem State.filterSet_eq (fd : BitVec 4) {v : Context → FilterRun → Word32} {x : Int}
    (hv : v (s.ctx k) r = BitVec.ofInt 32 x) :
    s.filterSet k fd v = s.onCtx k fun c => { c with
      regs := if fd = 0 then (s.ctx k).regs else Tab.store (s.ctx k).regs fd.toNat (BitVec.ofInt 32 x)
      run := if r.pc + 1 < (s.ctx k).len then some { r with pc := r.pc + 1 } else none } := by
  rw [State.filterSet, State.onRun_eq hrun, hv]
  refine State.onCtx_congr ?_
  simp only [Context.setF]
  split <;> rfl

/-- A table instruction at an index of the table, and at one beyond it (R438). -/
theorem State.filterTable_within {f : FI} {g : Context → Nat → Context} (h : tableIndex (s.ctx k) f < 1024) :
    s.filterTable k f g = s.onCtx k fun _ => (g (s.ctx k) (tableIndex (s.ctx k) f)).goOn r 1 := by
  simp only [State.filterTable, State.onRun_eq hrun, h, if_true]

theorem State.filterTable_beyond {f : FI} {g : Context → Nat → Context} (h : 1024 ≤ tableIndex (s.ctx k) f) :
    s.filterTable k f g =
      s.onCtx k fun _ => { s.ctx k with run := none, faults := min ((s.ctx k).faults + 1) 0xFF } := by
  simp only [State.filterTable, State.onRun_eq hrun, Nat.not_lt.mpr h, if_false]

end

/-! Values of the register forms (R440). -/

/-- The words of an event, as R426 places its fields. -/
def eventNum (e : AbEvent) : Nat :=
  e.cls.toNat + e.part.toNat * 2 ^ 3 + e.pcore.toNat * 2 ^ 9 + (if e.nocore then 1 else 0) * 2 ^ 16 +
    e.time.toNat * 2 ^ 32 + e.payload.toNat * 2 ^ 64

theorem eventWord_toNat (e : AbEvent) (i : Nat) : (eventWord e i).toNat = eventNum e / 2 ^ (32 * i) % 2 ^ 32 := by
  have hcls := e.cls.isLt
  have hpart := e.part.isLt
  have hpcore := e.pcore.isLt
  have htime := e.time.isLt
  have hflag : (if e.nocore then 1 else 0) ≤ 1 := by split <;> omega
  have hword : (if e.nocore then 2 ^ 16 else 0) = (if e.nocore then 1 else 0) * 2 ^ 16 := by split <;> rfl
  match i with
  | 0 =>
    simp only [eventWord, eventNum, hword, BitVec.toNat_ofNat]
    omega
  | 1 =>
    simp only [eventWord, eventNum]
    omega
  | n + 2 =>
    have hhigh : eventNum e / 2 ^ 64 = e.payload.toNat := by
      simp only [eventNum]
      omega
    simp only [eventWord, BitVec.extractLsb'_toNat, Nat.shiftRight_eq_div_pow]
    rw [show 32 * (n + 2) = 64 + 32 * n by omega, Nat.pow_add, ← Nat.div_div_eq_div_mul, hhigh, Nat.add_sub_cancel]

theorem append_low_eq_ofInt (imm : BitVec 16) (a : Word32) :
    imm ++ a.extractLsb' 0 16 = BitVec.ofInt 32 ((a.toNat % 2 ^ 16 + imm.toNat * 2 ^ 16 : Nat) : Int) := by
  have himm := imm.isLt
  rw [BitVec.ofInt_natCast]
  apply BitVec.eq_of_toNat_eq
  rw [toNat_append_eq, BitVec.extractLsb'_toNat, BitVec.toNat_ofNat, Nat.shiftRight_zero]
  omega

theorem min_eq_ofInt (a b : Word32) : (if a.slt b then a else b) = BitVec.ofInt 32 (min a.toInt b.toInt) := by
  by_cases h : a.toInt < b.toInt
  · rw [if_pos (BitVec.slt_iff_toInt_lt.mpr h), Int.min_eq_left (Int.le_of_lt h), BitVec.ofInt_toInt]
  · rw [if_neg (mt BitVec.slt_iff_toInt_lt.mp h), Int.min_eq_right (Int.not_lt.mp h), BitVec.ofInt_toInt]

theorem max_eq_ofInt (a b : Word32) : (if a.slt b then b else a) = BitVec.ofInt 32 (max a.toInt b.toInt) := by
  by_cases h : a.toInt < b.toInt
  · rw [if_pos (BitVec.slt_iff_toInt_lt.mpr h), Int.max_eq_right (Int.le_of_lt h), BitVec.ofInt_toInt]
  · rw [if_neg (mt BitVec.slt_iff_toInt_lt.mp h), Int.max_eq_left (Int.not_lt.mp h), BitVec.ofInt_toInt]

theorem filterShift_eq (f : FI) : filterShift f = f.imm.toNat % 32 := bits_zero ..

theorem shiftLeft_eq_ofInt (a : Word32) (n : Nat) : a <<< n = BitVec.ofInt 32 ((a.toNat * 2 ^ n : Nat) : Int) := by
  rw [BitVec.ofInt_natCast]
  apply BitVec.eq_of_toNat_eq
  rw [BitVec.toNat_shiftLeft, BitVec.toNat_ofNat, Nat.shiftLeft_eq]

theorem shiftRight_eq_ofInt (a : Word32) (n : Nat) : a >>> n = BitVec.ofInt 32 ((a.toNat / 2 ^ n : Nat) : Int) := by
  rw [BitVec.ofInt_natCast]
  apply BitVec.eq_of_toNat_eq
  rw [BitVec.toNat_ushiftRight, BitVec.toNat_ofNat, Nat.shiftRight_eq_div_pow,
    Nat.mod_eq_of_lt (Nat.lt_of_le_of_lt (Nat.div_le_self ..) a.isLt)]

theorem sshiftRight_eq_ofInt (a : Word32) (n : Nat) : a.sshiftRight n = BitVec.ofInt 32 (a.toInt / 2 ^ n) := by
  rw [BitVec.sshiftRight, Int.shiftRight_eq_div_pow]
  norm_cast

theorem hashMul_eq {sub : BitVec 3} {m : Nat} (h0 : sub = 0 → m = 0x9E3779B1) (h1 : sub = 1 → m = 0x85EBCA77)
    (h2 : sub = 2 → m = 0xC2B2AE3D) (h3 : sub = 3 → m = 0x27D4EB2F) (hlt : sub.toNat < 4) : hashMul sub.toNat = m := by
  obtain h | h | h | h : sub.toNat = 0 ∨ sub.toNat = 1 ∨ sub.toNat = 2 ∨ sub.toNat = 3 := by omega
  · rw [h0 (BitVec.eq_of_toNat_eq h), h]; rfl
  · rw [h1 (BitVec.eq_of_toNat_eq h), h]; rfl
  · rw [h2 (BitVec.eq_of_toNat_eq h), h]; rfl
  · rw [h3 (BitVec.eq_of_toNat_eq h), h]; rfl

/-! Branches (R440). -/

theorem filterCond_eq (cond : BitVec 4) (a b : Word32) : filterCond cond a b = (match cond.toNat with
    | 0 => decide (a = b)
    | 1 => decide (a ≠ b)
    | 2 => decide (a.toInt < b.toInt)
    | 3 => decide (b.toInt ≤ a.toInt)
    | 4 => decide (a.toNat < b.toNat)
    | 5 => decide (b.toNat ≤ a.toNat)
    | _ => true) := by
  have hge : (!a.slt b) = decide (b.toInt ≤ a.toInt) := by simp [BitVec.slt, decide_not.symm]
  have huge : (!a.ult b) = decide (b.toNat ≤ a.toNat) := by simp [BitVec.ult, decide_not.symm]
  unfold filterCond
  generalize cond.toNat = x
  match x with
  | 0 => rfl
  | 1 => exact (decide_not).symm
  | 2 => rfl
  | 3 => exact hge
  | 4 => rfl
  | 5 => exact huge
  | n + 6 => rfl

/-! Triggers (R441). -/

/-- The notice of a trigger. -/
def trigNote (s : State) (k : Nat) (r : FilterRun) (f : FI) : Nat :=
  triggerNotice k r.ev.cls.toNat (f.imm.toNat % 256) ((s.ctx k).freg f.fa)

/-- A trigger whose notice has gone its way in `t`, which keeps the context: the run goes on (R441). -/
theorem State.onRun_goOn_of_kept {t : State} {k : Nat} {r : FilterRun} {c : Context} (hctx : t.ctx k = c) (hc : c.run = some r) :
    (t.onRun k fun c r => c.goOn r 1) = t.onCtx k fun _ => c.goOn r 1 := by
  rw [State.onRun_eq (hctx ▸ hc), hctx]

section
variable {s : State} {k p : Nat} {r : FilterRun} (f : FI) (hrun : (s.ctx k).run = some r)
  (howner : (s.ctx k).owner = some p)
include hrun howner

theorem opFilterTrig_core (h : (s.ctx k).tdest = 0) : opFilterTrig f k s =
    (s.triggerCore k p (s.ctx k).tcore (trigNote s k r f)).onRun k fun c r => c.goOn r 1 := by
  simp only [opFilterTrig, hrun, howner, h, trigNote, bits_zero, Nat.reduceAdd, Nat.reducePow]

theorem opFilterTrig_host (h : (s.ctx k).tdest = 1) : opFilterTrig f k s =
    (s.triggerHost k p (trigNote s k r f)).onRun k fun c r => c.goOn r 1 := by
  simp only [opFilterTrig, hrun, howner, h, trigNote, bits_zero, Nat.reduceAdd, Nat.reducePow]

theorem opFilterTrig_trace (h : (s.ctx k).tdest = 2) : opFilterTrig f k s =
    (s.triggerTrace p r.ev (trigNote s k r f)).onRun k fun c r => c.goOn r 1 := by
  simp only [opFilterTrig, hrun, howner, h, trigNote, bits_zero, Nat.reduceAdd, Nat.reducePow]

end

theorem State.lostTrigger_goOn {s : State} {k : Nat} {r : FilterRun} (hrun : (s.ctx k).run = some r) :
    ((s.lostTrigger k).onRun k fun c r => c.goOn r 1) =
      s.onCtx k fun _ => ({ s.ctx k with tdrop := sat16 (s.ctx k).tdrop 1 } : Context).goOn r 1 :=
  (State.onRun_goOn_of_kept (c := { s.ctx k with tdrop := sat16 (s.ctx k).tdrop 1 }) (State.ctx_onCtx ..) hrun).trans
    (State.onCtx_onCtx ..)

theorem State.hostMem_hostWrite (s : State) (port a : Nat) (bs : List Byte) :
    (s.hostWrite port a bs).hostMem port = (s.hostMem port).write a bs := by
  by_cases h : port = 0 <;> simp only [State.hostWrite, State.hostMem, h, if_true, if_false]

theorem State.hostWrite_dev (s : State) (port a : Nat) (bs : List Byte) : (s.hostWrite port a bs).dev = s.dev := by
  simp only [State.hostWrite]
  split <;> rfl

theorem Core.notice_room {c : Core} {q : Nat} {v : Word} (h : (c.queue q).length < queueDepth q) :
    c.notice q v = c.setQueue q (c.queue q ++ [v]) := if_pos h

theorem Core.notice_full_queue {c : Core} {q : Nat} {v : Word} (h : queueDepth q ≤ (c.queue q).length) :
    (c.notice q v).queue q = c.queue q := by
  simp only [Core.notice, Nat.not_lt.mpr h, if_false]
  rfl

/-- Settles O36: register forms by their values, table forms by their index, triggers by where TDEST sends the notice. -/
theorem filterInstructionResults : Obligations.FilterInstructionResults := by
  refine ⟨fun s r g f hidx hrun => ?registers, fun s r g f hidx hrun => ?others⟩
  case registers =>
    have puts {fd : BitVec 4} {v : Context → FilterRun → Word32} {x : Int}
        (hv : v (s.ctx s.focus.idx) r = BitVec.ofInt 32 x) :
        s.runCtx (fun s k => s.filterSet k fd v) = .next (s.onCtx s.focus.idx fun c => { c with
          regs := if fd = 0 then (s.ctx s.focus.idx).regs
            else Tab.store (s.ctx s.focus.idx).regs fd.toNat (BitVec.ofInt 32 x)
          run := if r.pc + 1 < (s.ctx s.focus.idx).len then some { r with pc := r.pc + 1 } else none }) :=
      (State.runCtx_next hidx _).trans (congrArg _ (State.filterSet_eq hrun fd hv))
    refine ⟨fun hsub => puts ?lde, puts rfl, puts (append_low_eq_ofInt ..), puts ?addi, puts ?add, puts ?sub,
      puts (BitVec.ofInt_toInt).symm, puts (BitVec.ofInt_toInt).symm, puts (BitVec.ofInt_toInt).symm,
      puts (min_eq_ofInt ..), puts (max_eq_ofInt ..), puts (BitVec.ofInt_natCast ..).symm, puts ?shl, puts ?shr, puts ?sha,
      fun hzero => puts ?logZero, fun v hlo hhi => puts ?log, fun b hb hb1 hb10 m h0 h1 h2 h3 hlt => puts ?hash,
      fun himm => puts ?ewma⟩
    case lde =>
      have hindex : bits g.sub.toNat 3 0 = g.sub.toNat := by
        rw [bits_zero]
        omega
      rw [hindex, BitVec.ofInt_natCast]
      apply BitVec.eq_of_toNat_eq
      rw [eventWord_toNat, BitVec.toNat_ofNat, Nat.mod_mod]
      rfl
    case addi => rw [BitVec.ofInt_add, BitVec.ofInt_toInt]; rfl
    case add => rw [BitVec.ofInt_add, BitVec.ofInt_toInt, BitVec.ofInt_toInt]; rfl
    case sub => rw [ofInt_sub, BitVec.ofInt_toInt, BitVec.ofInt_toInt]; rfl
    case shl => rw [filterShift_eq]; exact shiftLeft_eq_ofInt ..
    case shr => rw [filterShift_eq]; exact shiftRight_eq_ofInt ..
    case sha => rw [filterShift_eq]; exact sshiftRight_eq_ofInt ..
    case logZero => exact if_pos (congrArg BitVec.toNat hzero)
    case log =>
      have hpos : ((s.ctx s.focus.idx).freg g.fa).toNat ≠ 0 := Nat.ne_of_gt (Nat.lt_of_lt_of_le (Nat.two_pow_pos v) hlo)
      refine (if_neg hpos).trans ?_
      rw [(Nat.log2_eq_iff hpos).mpr ⟨hlo, hhi⟩, BitVec.ofInt_natCast]
    case hash =>
      have hbits : bits f.imm.toNat 3 0 = b := by
        rw [bits_zero]
        omega
      rw [hbits, hashMul_eq h0 h1 h2 h3 hlt, BitVec.ofInt_natCast]
      rfl
    case ewma =>
      have hbits : bits f.imm.toNat 3 0 = f.imm.toNat := by
        rw [bits_zero]
        omega
      rw [hbits, Nat.cast_pow]
      rfl
  case others =>
    have runs {op : Nat → State → State} {d : Context} (h : op s.focus.idx s = s.onCtx s.focus.idx fun _ => d) :
        s.runCtx (fun s k => op k s) = .next (s.onCtx s.focus.idx fun _ => d) :=
      (State.runCtx_next hidx _).trans (congrArg _ h)
    have trig : exec (.filterTrig f) s = .next (opFilterTrig f s.focus.idx s) :=
      State.runCtx_next hidx fun s k => opFilterTrig f k s
    refine ⟨runs (State.onRun_eq hrun _), fun hsub => runs ?br, fun h => runs ?tld, fun h => runs ?tst, fun h => runs ?tadd,
      fun h x hx => ?beyond, fun p howner hdest => ⟨fun hnone => runs ?noTable, fun t ht hfree => runs ?unbound,
        fun t ht hbound => ?core⟩, fun p howner hdest => ⟨fun hfull => runs ?ringFull, fun hslots hroom => ?ring⟩,
      fun p howner hdest => ⟨fun hlen => runs ?off, fun v hlen hwrite => ?trace⟩⟩
    case br =>
      have hsub : bits g.sub.toNat 5 0 = g.sub.toNat := by
        rw [bits_zero]
        omega
      rw [opFilterBr, State.onRun_eq hrun, filterCond_eq, hsub]
      rfl
    case tld =>
      refine (State.filterTable_within hrun h).trans (State.onCtx_congr ?_)
      simp only [Context.setF]
      split <;> rfl
    case tst => exact State.filterTable_within hrun h
    case tadd => exact State.filterTable_within hrun h
    case beyond =>
      simp only [List.mem_cons, List.not_mem_nil, or_false] at hx
      obtain rfl | rfl | rfl := hx
      · exact runs (op := fun k s => opFilterTld f k s) (State.filterTable_beyond hrun h)
      · exact runs (op := fun k s => opFilterTst f k s) (State.filterTable_beyond hrun h)
      · exact runs (op := fun k s => opFilterTadd f k s) (State.filterTable_beyond hrun h)
    case noTable =>
      rw [opFilterTrig_core f hrun howner hdest, State.triggerCore]
      simp only [hnone]
      exact State.lostTrigger_goOn hrun
    case unbound =>
      rw [opFilterTrig_core f hrun howner hdest, State.triggerCore]
      simp only [ht, hfree, Bool.false_eq_true, if_false]
      exact State.lostTrigger_goOn hrun
    case core =>
      let c := s.ctx s.focus.idx
      let n := Tab.look 0 t.binding c.tcore
      let v : Word := BitVec.ofNat 64 (trigNote s s.focus.idx r f)
      let sent := s.onCore n fun c => c.notice 5 v
      have hsent : sent.core n = (s.core n).notice 5 v := State.core_onCore ..
      refine ⟨sent.onCtx s.focus.idx fun _ => c.goOn r 1, trig.trans (congrArg _ ?_), State.ctx_onCtx .., rfl, fun m hm => ?_,
        fun hroom => hsent.trans (Core.notice_room hroom),
        fun hfull => (congrArg (Core.queue · 5) hsent).trans (Core.notice_full_queue hfull)⟩
      · rw [opFilterTrig_core f hrun howner hdest, State.triggerCore]
        simp only [ht, hbound, if_true]
        exact State.onRun_goOn_of_kept (t := sent) rfl hrun
      · exact State.core_onCore_other s n (fun c => c.notice 5 v) hm
    case ringFull =>
      rw [opFilterTrig_host f hrun howner hdest, State.triggerHost]
      simp only [hfull, if_true]
      exact State.lostTrigger_goOn hrun
    case ring =>
      let x := s.part p
      let written := s.hostWrite s.owner (x.arbase + 8 * x.artail) (leBytes 8 (trigNote s s.focus.idx r f))
      have hkeeps : s.OnlyMemory written := s.onlyMemory_hostWrite ..
      let taken := written.onPart p fun x => { x with artail := (x.artail + 1) % x.arslots }
      let sent := taken.notify p
      refine ⟨sent.onCtx s.focus.idx fun _ => (s.ctx s.focus.idx).goOn r 1,
        trig.trans (congrArg _ ?_), State.ctx_onCtx .., ?_, s.hostMem_hostWrite .., s.hostWrite_dev ..,
        hkeeps.cores, ?_⟩
      · rw [opFilterTrig_host f hrun howner hdest, State.triggerHost]
        simp only [hslots, hroom, false_or, if_false]
        exact State.onRun_goOn_of_kept (t := sent) (hkeeps.ctx _) hrun
      · have hpart : taken.part p = { written.part p with
            artail := ((written.part p).artail + 1) % (written.part p).arslots } := State.part_onPart ..
        rw [hkeeps.part] at hpart
        exact congrArg Partition.artail hpart
      · exact List.mem_append_right _ (List.mem_singleton.mpr (by rw [← hkeeps.owner]; rfl))
    case off =>
      rw [opFilterTrig_trace f hrun howner hdest, State.triggerTrace]
      simp only [hlen, if_true]
      exact State.onRun_eq hrun _
    case trace =>
      have hkeeps : s.OnlyMemory v := State.onlyMemory_of_writeVirtual hwrite
      refine trig.trans (congrArg _ ?_)
      rw [opFilterTrig_trace f hrun howner hdest, State.triggerTrace]
      simp only [hlen, if_false]
      have hrecord : s.writeVirtual (podOf ((s.part p).cores.headD 0)) p ((s.part p).trbase + 32 * (s.part p).trnext)
          (leBytes 32 (4 + r.ev.pcore.toNat * 2 ^ 4 + trigNote s s.focus.idx r f * 2 ^ 192)) .pass = (none, v) := by
        exact hwrite
      rw [hrecord]
      exact State.onRun_goOn_of_kept (t := v.onPart p _) (hkeeps.ctx _) hrun

end Sys2Proof.Machine
end

section
/-! A change made to each of a list of cores, one after the other: it leaves the rest of the module, and each core of the list
ends with the change. The cores of a partition are listed once (R478). -/

namespace Sys2Proof.Machine

/-- `t` differs from `s` in its cores alone. -/
structure State.OnlyCores (s t : State) : Prop where
  eq : t = { s with cores := t.cores }

namespace State.OnlyCores

variable {s t u : State}

theorem refl (s : State) : s.OnlyCores s := ⟨rfl⟩

theorem trans (h : s.OnlyCores t) (g : t.OnlyCores u) : s.OnlyCores u :=
  ⟨g.eq.trans (congrArg (fun x : State => { x with cores := u.cores }) h.eq)⟩

theorem now (h : s.OnlyCores t) : t.now = s.now := (congrArg State.now h.eq).trans rfl
theorem parts (h : s.OnlyCores t) : t.parts = s.parts := (congrArg State.parts h.eq).trans rfl
theorem part (h : s.OnlyCores t) (p : Nat) : t.part p = s.part p := (congrArg (fun x => x.part p) h.eq).trans rfl
theorem dev (h : s.OnlyCores t) : t.dev = s.dev := (congrArg State.dev h.eq).trans rfl
theorem host0 (h : s.OnlyCores t) : t.host0 = s.host0 := (congrArg State.host0 h.eq).trans rfl
theorem host1 (h : s.OnlyCores t) : t.host1 = s.host1 := (congrArg State.host1 h.eq).trans rfl
theorem owner (h : s.OnlyCores t) : t.owner = s.owner := (congrArg State.owner h.eq).trans rfl
theorem out (h : s.OnlyCores t) : t.out = s.out := (congrArg State.out h.eq).trans rfl
theorem pctlErr (h : s.OnlyCores t) : t.pctlErr = s.pctlErr := (congrArg State.pctlErr h.eq).trans rfl

end State.OnlyCores

/-- Each core of a list changed in turn, by a change that may look at the cycle. -/
def State.onCores (s : State) (l : List Nat) (g : Nat → Core → Core) : State :=
  l.foldl (fun s n => s.onCore n (g s.now)) s

section
variable (s : State) (g : Nat → Core → Core)

theorem State.onlyCores_onCore (n : Nat) (f : Core → Core) : s.OnlyCores (s.onCore n f) := ⟨rfl⟩

theorem State.onlyCores_setCore (n : Nat) (c : Core) : s.OnlyCores (s.setCore n c) := ⟨rfl⟩

theorem State.onlyCores_onCores (l : List Nat) : s.OnlyCores (s.onCores l g) := by
  induction l generalizing s with
  | nil => exact .refl s
  | cons m l ih => exact (s.onlyCores_onCore m _).trans (ih _)

theorem State.core_onCores_other {l : List Nat} {n : Nat} (h : n ∉ l) : (s.onCores l g).core n = s.core n := by
  induction l generalizing s with
  | nil => rfl
  | cons m l ih =>
    rw [List.mem_cons, not_or] at h
    exact (ih _ h.2).trans (State.core_onCore_other _ _ _ h.1)

/-- A core that is listed, perhaps more than once, has had the change made to it last. -/
theorem State.core_onCores_mem {l : List Nat} {n : Nat} (h : n ∈ l) : ∃ c, (s.onCores l g).core n = g s.now c := by
  induction l generalizing s with
  | nil => cases h
  | cons m l ih =>
    by_cases hl : n ∈ l
    · exact ih (s.onCore m (g s.now)) hl
    · have hm : n = m := (List.mem_cons.mp h).resolve_right hl
      exact ⟨s.core m, (State.core_onCores_other _ g hl).trans (hm ▸ State.core_onCore ..)⟩

/-- A core that is listed once. -/
theorem State.core_onCores_nodup {l : List Nat} (hl : l.Nodup) {n : Nat} (h : n ∈ l) :
    (s.onCores l g).core n = g s.now (s.core n) := by
  induction l generalizing s with
  | nil => cases h
  | cons m l ih =>
    obtain ⟨hm, hl⟩ := List.nodup_cons.mp hl
    obtain rfl | hn := List.mem_cons.mp h
    · exact (State.core_onCores_other _ g hm).trans (State.core_onCore ..)
    · have hne : n ≠ m := fun heq => hm (heq ▸ hn)
      exact (ih (s.onCore m (g s.now)) hl hn).trans (congrArg _ (State.core_onCore_other _ _ _ hne))

end

/-! The cores of a partition (R478). -/

theorem Partition.mem_cores {x : Partition} {n : Nat} : n ∈ x.cores ↔ n < 128 ∧ x.pairs.testBit (n / 2) = true := by
  simp only [Partition.cores, List.mem_filter, List.mem_range]

theorem Partition.nodup_cores (x : Partition) : x.cores.Nodup := List.nodup_range.filter _

end Sys2Proof.Machine
end

section
/-! Settles O49. The module's registers and requests under the lease rule (R476, R478, R486), and the debug core
(R466 to R468). -/

namespace Sys2Proof.Machine

theorem State.runHost_owner {s : State} (h : s.throughOwner) (f : State → State) :
    s.runHost (fun s => s.moduleDo f) = .next (f s) :=
  (State.runHost_next h.exists_ _).trans (congrArg _ (State.moduleDo_owner f h))

theorem State.runHost_other {s : State} (hport : s.focus.fn.port < 2) (hvf : s.focus.fn.vf = none)
    (hother : s.focus.fn.port ≠ s.owner) (f : State → State) :
    s.runHost (fun s => s.moduleDo f) = .next s.countStale :=
  (State.runHost_next (HostFn.exists_pf hport hvf) _).trans (congrArg _ (State.moduleDo_other f hvf hother))

/-! Limits, functions and contexts (R430, R478, R486). -/

theorem State.setLimit_accepts {s : State} {v : Word} (hlo : 450 ≤ v.toNat % 2 ^ 10) (hhi : v.toNat % 2 ^ 10 ≤ 850)
    (hsum : s.sumWatts ≤ v.toNat % 2 ^ 10) : s.setLimit v = { s with mpwr := v.toNat % 2 ^ 10 } := by
  simp only [State.setLimit, bits_zero, Nat.reduceAdd]
  rw [if_neg (by omega)]

theorem State.setLimit_refuses {s : State} {v : Word}
    (h : v.toNat % 2 ^ 10 < 450 ∨ 850 < v.toNat % 2 ^ 10 ∨ v.toNat % 2 ^ 10 < s.sumWatts) :
    s.setLimit v = { s with parts := s.parts.map fun x => (x.1, { x.2 with refused := true }) } := by
  simp only [State.setLimit, bits_zero, Nat.reduceAdd]
  rw [if_pos h]

theorem State.mapVf_unlocked {s : State} {f : Nat} {v : Word} (hf : f < 512) (h0 : s.iface 0 f = 0) (h1 : s.iface 1 f = 0) :
    s.mapVf f v = { s with vfmap := Tab.store s.vfmap f (v.toNat % 2 ^ 7) } := by
  simp only [State.mapVf, bits_zero, Nat.reduceAdd]
  rw [if_neg (by omega)]

theorem State.aownWrite_eq (s : State) (k : Nat) (v : Word) : s.aownWrite k v =
    s.onCtx k fun c =>
      if (if v.getLsbD 6 then some (v.toNat % 2 ^ 6) else none) = c.owner then { c with apart := v.toNat % 2 ^ 6 }
      else { owner := if v.getLsbD 6 then some (v.toNat % 2 ^ 6) else none, apart := v.toNat % 2 ^ 6 } := by
  simp only [State.aownWrite, bits_zero, Nat.reduceAdd]
  rfl

/-! The lease (R477). -/

theorem State.renew_current {s : State} (h : s.throughOwner) {e : Nat} (he : e = s.epoch) (yield : Bool) :
    s.renew e yield = { s with lremain := s.llen, yield := s.yield || yield } := by
  obtain ⟨hvf, hport, -⟩ := h
  simp only [State.renew, hvf, hport, he, ne_eq, not_true_eq_false, or_self, if_false]

theorem State.renew_past {s : State} (h : s.throughOwner) {e : Nat} (he : e ≠ s.epoch) (yield : Bool) :
    s.renew e yield = s.countStale := by
  obtain ⟨hvf, hport, -⟩ := h
  simp only [State.renew, hvf, he, ne_eq, not_false_eq_true, or_true, if_true]

/-! Partitions (R478). -/

theorem Partition.exists_eq_false {x : Partition} (h : x.pairs = 0) : x.exists_ = false := by
  simp only [Partition.exists_, h, bne_self_eq_false]

theorem State.create_eq {s : State} {k : Nat} (hk : k < 40) (hpairs : (s.part k).pairs = 0) (hmask : s.pmask ≠ 0)
    (hfree : ∀ y ∈ s.parts, y.2.pairs &&& s.pmask = 0) :
    s.create k = ({ s with pctlErr := false }.setPart k { pairs := s.pmask }).onCores
      (Partition.cores { pairs := s.pmask }) fun _ c => { c with part := k } := by
  have hany : (s.parts.any fun e => e.2.pairs &&& s.pmask != 0) = false := List.any_eq_false.mpr fun y hy => by
    simp only [hfree y hy, bne_self_eq_false, Bool.false_eq_true, not_false_eq_true]
  simp only [State.create, Nat.not_le.mpr hk, Partition.exists_eq_false hpairs, hmask, hany, Bool.false_eq_true, or_self,
    if_false]
  rfl

theorem State.create_refused {s : State} {k : Nat} (h : 40 ≤ k ∨ (s.part k).pairs ≠ 0 ∨ s.pmask = 0) :
    s.create k = { s with pctlErr := true } := by
  refine if_pos ?_
  obtain h | h | h := h
  · exact .inl h
  · exact .inr (.inl ((Partition.exists_iff _).mpr h))
  · exact .inr (.inr (.inl h))

/-- The cores of a partition that is destroyed are as a launch leaves them, and belong to none. -/
def State.freedCores (s : State) (k : Nat) : State := s.onCores (s.part k).cores fun _ c => c.launched 63

theorem State.destroy_keeps {s : State} {k : Nat} (hpairs : (s.part k).pairs ≠ 0)
    (hstate : (s.part k).state = 0 ∨ (s.part k).state = 4) :
    (s.destroy k).parts = Tab.drop (s.freedCores k).parts k ∧ (s.destroy k).pctlErr = false ∧
      (s.destroy k).cores = (s.freedCores k).cores := by
  have hidle : ((s.part k).state == 0 || (s.part k).state == 4) = true := by
    simpa only [Bool.or_eq_true, beq_iff_eq] using hstate
  have hmay : ¬ (!(s.part k).exists_ || !((s.part k).state == 0 || (s.part k).state == 4)) = true := by
    simp only [(Partition.exists_iff _).mpr hpairs, hidle, Bool.not_true, Bool.or_self, Bool.false_eq_true, not_false_eq_true]
  unfold State.destroy
  rw [if_neg hmay]
  exact ⟨rfl, rfl, rfl⟩

theorem State.destroy_absent {s : State} {k : Nat} (h : (s.part k).pairs = 0) :
    s.destroy k = { s with pctlErr := true } := by
  simp only [State.destroy, Partition.exists_eq_false h, Bool.not_false, Bool.true_or, if_true]

theorem Tab.has_drop {α : Type} (t : Tab α) (k : Nat) : Tab.has (Tab.drop t k) k = false :=
  List.any_eq_false.mpr fun e he => by simpa [Tab.drop] using (List.mem_filter.mp he).2

/-! The debug core (R466, R467). -/

/-- A core when the debug module is deactivated. -/
def Core.letGo (c : Core) : Core := { c.resumed with seq := { c.resumed.seq with brkHalt := false } }

/-- A core listed in a table whose entries are all changed. -/
theorem Tab.look_map_of_has {α : Type} {d : α} (f : α → α) {t : Tab α} {k : Nat} (h : Tab.has t k = true) :
    Tab.look d (t.map fun x => (x.1, f x.2)) k = f (Tab.look d t k) := by
  induction t with
  | nil => cases h
  | cons e t ih =>
    obtain ⟨j, x⟩ := e
    rw [List.map_cons, Tab.look_cons, Tab.look_cons]
    by_cases hj : j = k
    · rw [if_pos hj, if_pos hj]
    · rw [if_neg hj, if_neg hj]
      refine ih ?_
      simpa [Tab.has, hj] using h

/-- A trace record changes no core (R469). -/
theorem State.core_traceAt (s : State) (n : Nat) (addr : Word) (type datum m : Nat) :
    (s.traceAt n addr type datum).core m = s.core m := by
  unfold State.traceAt
  extract_lets c x rec_
  split
  · rfl
  · split <;> rename_i h <;> exact (State.onlyMemory_of_writeVirtual h).core m

theorem State.halted_debugStop {s : State} {n : Nat} (hreq : (s.core n).seq.haltReq = true)
    (hhalted : (s.core n).seq.halted = false) : ((s.debugStop n).core n).seq.halted = true := by
  simp only [State.debugStop, hreq, hhalted, Bool.not_true, Bool.or_self, Bool.false_eq_true, if_false, State.trace]
  rw [State.core_traceAt, State.core_onCore]

/-- The core that asks for a debug stop. -/
def Core.asksHalt (c : Core) : Core := { c with seq := { c.seq with haltReq := true } }

theorem State.dmctlHaltreq_active {s : State} (h : s.dmActive = true) : s.dmctlHaltreq =
    let t := s.setCore s.dmCore (s.core s.dmCore).asksHalt
    if (s.core s.dmCore).seq.run == .running then t else t.debugStop s.dmCore := by
  have hrun : ((s.setCore s.dmCore (s.core s.dmCore).asksHalt).core s.dmCore).seq.run = (s.core s.dmCore).seq.run := by
    rw [State.core_setCore]
    rfl
  simp only [State.dmctlHaltreq, h, Bool.not_true, Bool.false_eq_true, if_false, ← hrun]
  rfl

theorem State.dmctlHaltreq_inactive {s : State} (h : s.dmActive = false) : s.dmctlHaltreq = s := by
  simp only [State.dmctlHaltreq, h, Bool.not_false, if_true]

theorem State.dmctlResumereq_halted {s : State} (h : s.dmActive = true) (hh : (s.core s.dmCore).seq.halted = true) :
    s.dmctlResumereq = s.setCore s.dmCore (s.core s.dmCore).resumed := by
  simp only [State.dmctlResumereq, h, hh, Bool.and_self, if_true]
  rfl

theorem State.dmctlResumereq_inactive {s : State} (h : s.dmActive = false) : s.dmctlResumereq = s := by
  simp only [State.dmctlResumereq, h, Bool.false_and, Bool.false_eq_true, if_false]

theorem debugReg_scalar {r : Nat} (hr : r < 32) : debugReg (0x1000 + r) = some (.sreg r) := by
  simp only [debugReg, Nat.add_sub_cancel_left]
  rw [if_neg (by omega), if_pos (by omega)]

/-- The word that DATA0 and DATA1 give a write (R467). -/
theorem State.adataValue_two (s : State) : s.adataValue 2 =
    (Tab.look (0 : Word32) s.adata 0).toNat + (Tab.look (0 : Word32) s.adata 1).toNat * 2 ^ 32 := by
  simp only [State.adataValue, List.range, List.range.loop, List.foldr_cons, List.foldr_nil]
  omega

section
variable {s : State} {v : Word} (hbusy : s.dmBusy = false)
include hbusy

theorem State.abstractCommand_running (h : (s.core s.dmCore).seq.halted = false) :
    s.abstractCommand v = { s with dmErr := 4 } := by
  simp only [State.abstractCommand, hbusy, h, Bool.false_eq_true, if_false, Bool.not_false, if_true]

variable (hhalted : (s.core s.dmCore).seq.halted = true)
include hhalted

theorem State.abstractCommand_unknown (h : debugReg (v.toNat % 2 ^ 16) = none) :
    s.abstractCommand v = { s with dmErr := 2 } := by
  simp only [State.abstractCommand, hbusy, hhalted, bits_zero, Nat.reduceAdd, h, Bool.not_true, Bool.false_eq_true, if_false]

theorem State.abstractCommand_read {r : Nat} (h : debugReg (v.toNat % 2 ^ 16) = some (.sreg r)) (hread : v.getLsbD 16 = false) :
    s.abstractCommand v = (s.setCore s.dmCore (s.core s.dmCore)).setAdata 2 ((s.core s.dmCore).sreg r).toNat := by
  simp only [State.abstractCommand, hbusy, hhalted, bits_zero, Nat.reduceAdd, h, hread, Bool.not_true, Bool.false_eq_true,
    if_false]
  rfl

theorem State.abstractCommand_write {r : Nat} (h : debugReg (v.toNat % 2 ^ 16) = some (.sreg r)) (hwrite : v.getLsbD 16 = true) :
    s.abstractCommand v = s.setCore s.dmCore
      ((s.core s.dmCore).apply ctlInfo (.scalar r (BitVec.ofNat 64 (s.adataValue 2)))) := by
  simp only [State.abstractCommand, hbusy, hhalted, bits_zero, Nat.reduceAdd, h, hwrite, Bool.not_true, Bool.false_eq_true,
    if_false, if_true]
  rfl

end

/-- The data words after a read of 64 bits. -/
theorem State.setAdata_two (s : State) (x : Word) :
    Tab.look 0 (s.setAdata 2 x.toNat).adata 0 = x.setWidth 32 ∧
      Tab.look 0 (s.setAdata 2 x.toNat).adata 1 = x.extractLsb' 32 32 := by
  have hadata : (s.setAdata 2 x.toNat).adata = Tab.store (Tab.store s.adata 0 (BitVec.ofNat 32 (x.toNat / 2 ^ (32 * 0))))
      1 (BitVec.ofNat 32 (x.toNat / 2 ^ (32 * 1))) := rfl
  rw [hadata, Tab.look_store_same, Tab.look_store_other _ _ _ (by omega), Tab.look_store_same]
  refine ⟨?_, ?_⟩ <;> apply BitVec.eq_of_toNat_eq
  · rw [BitVec.toNat_ofNat, BitVec.toNat_setWidth, Nat.mul_zero, Nat.pow_zero, Nat.div_one]
  · rw [BitVec.toNat_ofNat, BitVec.extractLsb'_toNat, Nat.shiftRight_eq_div_pow, Nat.mul_one]

/-- Settles O49: the lease rule decides whether a request acts, and each acts by the lemma of its case. -/
theorem moduleRequestsActThroughTheOwner : Obligations.ModuleRequestsActThroughTheOwner := by
  intro s v e
  refine ⟨fun hport hvf hother i hi => ?other, fun howner => ?owner, fun hport hvf hfree halign => ?resync⟩
  case other =>
    simp only [List.mem_cons, List.not_mem_nil, or_false] at hi
    obtain rfl | rfl | rfl | rfl | rfl | rfl | rfl | rfl | rfl := hi <;> exact State.runHost_other hport hvf hother _
  case resync =>
    refine (State.runHost_next (HostFn.exists_pf hport hvf) State.resyncGo).trans (congrArg _ ?_)
    simp only [State.resyncGo, hvf, hfree]
  case owner =>
    have owner (f : State → State) := State.runHost_owner howner f
    refine ⟨fun hlo hhi hsum => ?accepts, fun hbad => ?refuses, fun f hf h0 h1 => ?vfmap, fun hk c hc => ?aown,
      fun he => ?current, fun he => ?past, fun hk hpairs hmask hfree => ?create, fun hbad => ?refused,
      fun hpairs hstate => ?destroy, fun hpairs => ?absent, owner _, ?inactive, fun hoff => ?off, fun hon => ?on,
      fun hbusy => ?command⟩
    case accepts => exact (owner _).trans (congrArg _ (State.setLimit_accepts hlo hhi hsum))
    case refuses => exact (owner _).trans (congrArg _ (State.setLimit_refuses hbad))
    case vfmap => exact (owner _).trans (congrArg _ (State.mapVf_unlocked hf h0 h1))
    case aown =>
      have haown : exec (.aownWrite v) s = .next (s.aownWrite s.focus.idx v) :=
        (State.runHostCtx_next howner.exists_ hk fun s k => s.moduleDo fun s => s.aownWrite k v).trans
          (congrArg _ (State.moduleDo_owner _ howner))
      subst hc
      refine ⟨fun hsame => haown.trans (congrArg _ ?_), fun hnew => haown.trans (congrArg _ ?_)⟩ <;>
        rw [State.aownWrite_eq] <;> apply State.onCtx_congr
      · exact if_pos hsame
      · exact if_neg hnew
    case current =>
      refine ⟨(State.runHost_next howner.exists_ fun s => s.renew e.toNat false).trans (congrArg _ ?_),
        (State.runHost_next howner.exists_ fun s => s.renew e.toNat true).trans (congrArg _ ?_)⟩
      · exact (State.renew_current howner he false).trans (by rw [Bool.or_false])
      · exact (State.renew_current howner he true).trans (by rw [Bool.or_true])
    case past =>
      exact ⟨(State.runHost_next howner.exists_ fun s => s.renew e.toNat false).trans
          (congrArg _ (State.renew_past howner he false)),
        (State.runHost_next howner.exists_ fun s => s.renew e.toNat true).trans (congrArg _ (State.renew_past howner he true))⟩
    case create =>
      have hcreate := State.create_eq hk hpairs hmask hfree
      have hkeeps := State.onlyCores_onCores ({ s with pctlErr := false }.setPart s.focus.idx { pairs := s.pmask })
        (fun _ c => { c with part := s.focus.idx }) (Partition.cores { pairs := s.pmask })
      refine ⟨s.create s.focus.idx, owner _, ?_, ?_, fun n hn hbit => ?_, fun n hbit => ?_⟩ <;> rw [hcreate]
      · exact (hkeeps.part _).trans (State.part_setPart ..)
      · exact hkeeps.pctlErr
      · rw [State.core_onCores_nodup _ _ (Partition.nodup_cores _) (Partition.mem_cores.mpr ⟨hn, hbit⟩)]
      · refine State.core_onCores_other _ _ fun hmem => ?_
        rw [(Partition.mem_cores.mp hmem).2] at hbit
        cases hbit
    case refused => exact (owner _).trans (congrArg _ (State.create_refused hbad))
    case destroy =>
      obtain ⟨hparts, herr, hcores⟩ := State.destroy_keeps hpairs hstate
      refine ⟨s.destroy s.focus.idx, owner _, hparts ▸ Tab.has_drop .., herr, fun n hn => ?_⟩
      obtain ⟨c, hc⟩ := s.core_onCores_mem (fun _ c => c.launched 63) hn
      have hcore : (s.destroy s.focus.idx).core n = c.launched 63 :=
        (congrArg (Tab.look ({ num := n } : Core) · n) hcores).trans hc
      rw [hcore]
      exact ⟨rfl, rfl, rfl⟩
    case absent => exact (owner _).trans (congrArg _ (State.destroy_absent hpairs))
    case inactive =>
      refine ⟨s.dmctlActive false, owner _, rfl, fun n hn => ?_⟩
      have hcore : (s.dmctlActive false).core n = (s.core n).letGo := Tab.look_map_of_has Core.letGo hn
      rw [hcore]
      exact ⟨rfl, rfl⟩
    case off =>
      exact ⟨(owner _).trans (congrArg _ (State.dmctlHaltreq_inactive hoff)),
        (owner _).trans (congrArg _ (State.dmctlResumereq_inactive hoff))⟩
    case on =>
      refine ⟨fun hrun => (owner _).trans (congrArg _ ?_), fun hidle hhalted => ⟨s.dmctlHaltreq, owner _, ?_⟩,
        fun hhalted => (owner _).trans (congrArg _ (State.dmctlResumereq_halted hon hhalted))⟩
      · rw [State.dmctlHaltreq_active hon, hrun]
        rfl
      · rw [State.dmctlHaltreq_active hon, hidle]
        exact State.halted_debugStop (by rw [State.core_setCore]; rfl) (by rw [State.core_setCore]; exact hhalted)
    case command =>
      refine ⟨fun hrun => (owner _).trans (congrArg _ (State.abstractCommand_running hbusy hrun)),
        fun r hhalted hr hno => ?_, fun hhalted hno => (owner _).trans (congrArg _ ?_)⟩
      · have hreg : debugReg (v.toNat % 2 ^ 16) = some (.sreg r) := by
          rw [hno]
          exact debugReg_scalar hr
        refine ⟨fun hread => ⟨_, (owner _).trans (congrArg _ (State.abstractCommand_read hbusy hhalted hreg hread)), ?_, ?_, ?_⟩,
          fun hwrite hpos => ⟨_, (owner _).trans (congrArg _ (State.abstractCommand_write hbusy hhalted hreg hwrite)), ?_,
            fun q hq => ?_⟩⟩
        · exact (State.setAdata_two ..).1
        · exact (State.setAdata_two ..).2
        · exact State.core_setCore ..
        · rw [State.core_setCore, Core.sreg_apply_scalar_same _ _ _ hpos, State.adataValue_two]
        · rw [State.core_setCore, Core.sreg_apply_scalar_other _ _ _ hq]
      · exact State.abstractCommand_unknown hbusy hhalted (by rw [hno]; rfl)

end Sys2Proof.Machine
end

section
/-! Settles O48. A request that may write a partition's window (R470, R471); what aborting a phase does (R56), and the steps
of a pre-emption, a resume and an invalidation (R394, R457, R464, R481). -/

namespace Sys2Proof.Machine

/-! Requests through a window. -/

section
variable {s : State} {p : Nat} {pfOnly : Bool}

theorem State.throughWindow.exists_ (h : s.throughWindow p pfOnly) : HostFn.exists_ s.focus.fn = true := by
  obtain ⟨-, -, hport, ⟨hvf, -⟩ | ⟨-, v, hvf, hv, -⟩⟩ := h
  · exact HostFn.exists_pf hport hvf
  · exact HostFn.exists_vf hport hvf hv

theorem State.windowDo_through (h : s.throughWindow p pfOnly) (f : State → State) : s.windowDo p pfOnly f = f s := by
  obtain ⟨-, hpairs, -, ⟨hvf, hlease⟩ | ⟨rfl, v, hvf, -, hiface, hpart⟩⟩ := h
  · exact State.windowDo_pf f hvf hlease hpairs
  · have htorn : s.tornHere = false := by simpa only [State.tornHere, hvf, beq_eq_false_iff_ne] using hiface
    simp only [State.windowDo, hvf, htorn, hpart, (Partition.exists_iff _).mpr hpairs, ne_eq, not_true_eq_false, decide_false,
      Bool.or_self, Bool.false_eq_true, if_false, if_true]

theorem State.runHostPart_through (h : s.throughWindow s.focus.idx pfOnly) (f : State → Nat → State) :
    s.runHostPart (fun s p => s.windowDo p pfOnly fun s => f s p) = .next (f s s.focus.idx) :=
  (State.runHostPart_next h.exists_ h.1 _).trans (congrArg _ (State.windowDo_through h _))

theorem State.runHostCtx_through (h : s.throughContext s.focus.idx) (f : State → Nat → State) :
    s.runHostCtx (fun s k => s.contextDo k fun s => f s k) = .next (f s s.focus.idx) := by
  obtain ⟨hk, p, howner, hw⟩ := h
  refine (State.runHostCtx_next hw.exists_ hk _).trans (congrArg _ ?_)
  simp only [State.contextDo, howner]
  exact State.windowDo_through hw _

end

/-! Energy, trace and budgets (R393, R418, R435, R474). -/

section
variable {s : State} {p : Nat} {v : Word}

theorem State.setShare_accepts (h : s.sumWatts - (s.part p).watts + v.toNat % 2 ^ 10 ≤ s.mpwr) :
    s.setShare p v = s.onPart p fun x => { x with watts := v.toNat % 2 ^ 10 } := by
  simp only [State.setShare, bits_zero, Nat.reduceAdd]
  rw [if_neg (by omega)]

theorem State.setShare_refuses (h : s.mpwr < s.sumWatts - (s.part p).watts + v.toNat % 2 ^ 10) :
    s.setShare p v = s.refuseEnergy p := by
  simp only [State.setShare, bits_zero, Nat.reduceAdd]
  rw [if_pos h]

/-- The filter budgets of the other partitions. -/
def State.otherBudgets (s : State) (p : Nat) : Nat := (s.parts.map fun e => if e.1 = p then 0 else e.2.budget).sum

theorem State.abudgetWrite_accepts (hkeep : v.toNat.testBit 32 = false) (h : s.otherBudgets p + v.toNat % 2 ^ 16 ≤ 36800) :
    s.abudgetWrite p v = s.onPart p fun x => { x with budget := v.toNat % 2 ^ 16 } := by
  simp only [State.abudgetWrite, hkeep, bits_zero, Nat.reduceAdd, Bool.false_eq_true, if_false]
  exact if_neg (Nat.not_lt.mpr h)

theorem State.abudgetWrite_refuses (hkeep : v.toNat.testBit 32 = false) (h : 36800 < s.otherBudgets p + v.toNat % 2 ^ 16) :
    s.abudgetWrite p v = s.onPart p fun x => { x with brefused := true } := by
  simp only [State.abudgetWrite, hkeep, bits_zero, Nat.reduceAdd, Bool.false_eq_true, if_false]
  exact if_pos h

theorem State.setTctl_free (h : (s.part p).tt = none) : s.setTctl p v =
    s.setPart p { s.part p with tcen := v.getLsbD 0, tcroot := v.toNat / 2 ^ 12 % 2 ^ 28 } := by
  simp only [State.setTctl, State.onPart, h, Option.isSome_none, Bool.false_eq_true, if_false]
  rfl

theorem State.setTctl_held (h : (s.part p).tt ≠ none) : s.setTctl p v = s.setPart p (s.part p) := by
  simp only [State.setTctl, State.onPart, Option.isSome_iff_ne_none.mpr h, if_true]

theorem State.setTrace_length : s.setTrace p false v =
    s.setPart p { s.part p with trlen := v.toNat % 2 ^ 32, trnext := 0 } := by
  simp only [State.setTrace, State.onPart, bits_zero, Nat.reduceAdd, Bool.false_eq_true, if_false]

theorem State.setTrace_base (h : v.toNat % 2 ^ 57 % 4096 = 0) : s.setTrace p true v =
    s.setPart p { s.part p with trbase := v.toNat % 2 ^ 57, trnext := 0 } := by
  simp only [State.setTrace, State.onPart, bits_zero, Nat.reduceAdd, h, ne_eq, not_true_eq_false, if_false, if_true]

end

/-! Changes of cores that keep what is asked of each. -/

theorem State.core_onCores_keeps {α : Type} (s : State) (l : List Nat) {g : Nat → Core → Core} (f : Core → α)
    (hg : ∀ now c, f (g now c) = f c) (n : Nat) : f ((s.onCores l g).core n) = f (s.core n) := by
  induction l generalizing s with
  | nil => rfl
  | cons m l ih =>
    refine (ih (s.onCore m (g s.now))).trans ?_
    by_cases hm : n = m
    · subst hm
      rw [State.core_onCore, hg]
    · rw [State.core_onCore_other _ _ _ hm]

/-! Invalidation (R394, R395). -/

theorem State.invreqGo_busy {s : State} {p : Nat} (h : (s.part p).inval.isSome = true) :
    s.invreqGo p = s.setPart p { s.part p with invDrop := true } := if_pos h

/-- The translations of a unit without those that an INVREQ of partition `p` drops. -/
def TransUnit.without (u : TransUnit) (p : Nat) (x : Partition) : TransUnit :=
  { u.forgetWalks p with cache := u.cache.filter fun e => e.1 != p || !e.2.meets x.invAll x.invBase x.invLen }

/-- The module of an INVREQ whose request is noted and whose caches have dropped the range. -/
def State.invalidating (s : State) (p : Nat) : State :=
  let x := s.part p
  let t := s.setPart p { x with
    inval := some { all := x.invAll, base := x.invBase, units := x.invLen, no := x.invDone + 1, at_ := s.now } }
  { t with units := t.units.map fun u => (u.1, u.2.without p x) }

/-- A core whose channels hold the marker of invalidation `no` (R353). -/
def Core.marked (no : Nat) (c : Core) : Core :=
  { c with eng := { c.eng with chans := c.eng.chans.map fun q => (q.1, { q.2 with
      queue := markLast no (q.2.queue.map CopyCmd.keepProbe) }) } }

theorem State.invreqGo_onlyCores {s : State} {p : Nat} (hidle : (s.part p).inval = none)
    (h : (s.part p).invLen ≠ 0 ∨ (s.part p).invAll = true) : (s.invalidating p).OnlyCores (s.invreqGo p) := by
  have hsome : ¬ (s.part p).inval.isSome = true := by simp only [hidle, Option.isSome_none, Bool.false_eq_true, not_false_eq_true]
  have hrange : ¬ ((s.part p).invLen = 0 ∧ (!(s.part p).invAll) = true) := by
    rintro ⟨hlen, hall⟩
    obtain h | h := h
    · exact h hlen
    · rw [h] at hall
      cases hall
  unfold State.invreqGo
  extract_lets x no t keep u
  rw [if_neg hsome, if_neg hrange]
  by_cases hsaved : x.state = 7
  · rw [if_pos hsaved]
    exact .refl _
  · rw [if_neg hsaved]
    exact (s.invalidating p).onlyCores_onCores (fun _ => Core.marked no) x.cores

theorem State.cache_invalidating (s : State) (p j : Nat) {e : Nat × Page} (he : e ∈ ((s.invalidating p).unit j).cache)
    (hp : e.1 = p) : e.2.meets (s.part p).invAll (s.part p).invBase (s.part p).invLen = false := by
  have hunit : (s.invalidating p).unit j = (s.unit j).without p (s.part p) :=
    Tab.look_map (f := fun u : TransUnit => u.without p (s.part p)) rfl s.units j
  rw [hunit] at he
  simpa [hp] using (List.mem_filter.mp he).2

/-! The abort of a phase (R56). -/

theorem State.cores_reconcile (s : State) (p : Nat) (abort save : Bool) : (s.reconcile p abort save).cores = s.cores := by
  unfold State.reconcile
  extract_lets x
  clear_value x
  split <;> rfl

theorem State.now_reconcile (s : State) (p : Nat) (abort save : Bool) : (s.reconcile p abort save).now = s.now := by
  unfold State.reconcile
  extract_lets x
  clear_value x
  split <;> rfl

theorem State.core_reconcile (s : State) (p : Nat) (abort save : Bool) (n : Nat) :
    (s.reconcile p abort save).core n = s.core n :=
  congrArg (Tab.look ({ num := n } : Core) · n) (s.cores_reconcile p abort save)

/-- The module of an abort, with the phase reconciled and its cores stopped. -/
def State.stoppedCores (s : State) (p : Nat) : State :=
  (s.reconcile p true false).onCores (s.participants p) fun now c => c.abort now

theorem State.cores_abortPhase (s : State) (p : Nat) : (s.abortPhase p).cores = (s.stoppedCores p).cores := by
  unfold State.abortPhase
  extract_lets cores s₁ s₂ s₃ two s₄ s₅
  have h5 : s₅.cores = s₄.cores := by
    unfold s₅
    split <;> rfl
  exact h5

theorem State.core_abortPhase (s : State) (p n : Nat) : (s.abortPhase p).core n = (s.stoppedCores p).core n :=
  congrArg (Tab.look ({ num := n } : Core) · n) (s.cores_abortPhase p)

theorem State.run_abortPhase {s : State} {p n : Nat} (h : n ∈ s.participants p) :
    ((s.abortPhase p).core n).seq.run = .aborted := by
  obtain ⟨c, hc⟩ := (s.reconcile p true false).core_onCores_mem (fun now c => c.abort now) h
  rw [State.core_abortPhase, State.stoppedCores, hc]
  rfl

theorem State.core_abortPhase_other {s : State} {p n : Nat} (h : n ∉ s.participants p) :
    (s.abortPhase p).core n = s.core n := by
  rw [State.core_abortPhase, State.stoppedCores, State.core_onCores_other _ _ h, State.core_reconcile]

theorem State.part_abortPhase (s : State) (p : Nat) : (s.abortPhase p).part p = { (s.stoppedCores p).part p with
    state := 5, run := none, ready := none, preemptAt := none, waiting := false } := by
  unfold State.abortPhase
  extract_lets cores s₁ s₂ s₃ two s₄ s₅
  have h5 : s₅.part p = s₄.part p := by
    unfold s₅
    split <;> rfl
  exact h5.trans (State.part_onPart ..)

/-! Pre-emption (R457, R481). -/

/-- A core that is asked to stop for a pre-emption. -/
def Core.asksPreempt (c : Core) : Core := { c with seq := { c.seq with preempt := true } }

/-- The module with every participating core asked to stop. -/
def State.preempting (s : State) (p : Nat) : State := s.onCores (s.participants p) fun _ => Core.asksPreempt

theorem State.cores_tellFar (s : State) (p : Nat) (op : FarControl) : (s.tellFar p op).cores = s.cores := by
  unfold State.tellFar
  split <;> rfl

theorem State.part_tellFar (s : State) (p : Nat) (op : FarControl) (q : Nat) : (s.tellFar p op).part q = s.part q := by
  unfold State.tellFar
  split <;> rfl

theorem State.core_tellFar (s : State) (p : Nat) (op : FarControl) (n : Nat) : (s.tellFar p op).core n = s.core n :=
  congrArg (Tab.look ({ num := n } : Core) · n) (s.cores_tellFar p op)

section
variable {s : State} {p : Nat} (h : (s.part p).state = 2)
include h

theorem State.lctlPreempt_running : s.lctlPreempt p = (s.requestPreempt p).tellFar p .preempt :=
  if_neg (not_not_intro h)

theorem State.core_requestPreempt (n : Nat) : (s.requestPreempt p).core n = (s.preempting p).core n := by
  unfold State.requestPreempt
  rw [if_neg (not_not_intro h)]
  rfl

theorem State.part_requestPreempt :
    ((s.requestPreempt p).part p).state = 6 ∧ ((s.requestPreempt p).part p).preemptAt = some s.now := by
  unfold State.requestPreempt
  rw [if_neg (not_not_intro h)]
  extract_lets cores t
  rw [State.part_onPart]
  exact ⟨rfl, congrArg some (s.onlyCores_onCores (fun _ => Core.asksPreempt) (s.participants p)).now⟩

end

/-! Resume (R461, R464, R481). -/

/-- The partition of a resume that begins. -/
def State.resuming (s : State) (p : Nat) : State := s.onPart p fun x => { x with resumeAt := s.now + 1, farTold := false }

/-- The cores that take the records of a list back, by physical number (R464). -/
def Timetable.restored (t : Timetable) (l : List SavedCore) : List (Nat × Core) :=
  l.filterMap fun r => if Tab.has t.binding r.lcore then some (Tab.look 0 t.binding r.lcore, r.core) else none

theorem Timetable.mem_restored {t : Timetable} {l : List SavedCore} {e : Nat × Core} :
    e ∈ t.restored l ↔
      ∃ r ∈ l, Tab.has t.binding r.lcore = true ∧ e = (Tab.look 0 t.binding r.lcore, r.core) := by
  simp only [Timetable.restored, List.mem_filterMap, Option.ite_none_right_eq_some, Option.some.injEq, eq_comm (a := e)]

/-- A core that takes a saved state back; `kind`: the kind of stop of the save. -/
def Core.takesBack (kind : Nat) (saved old : Core) : Core :=
  let c := restoredCore old saved
  if kind = 1 then { c with seq := { c.seq with run := .idle, ended := false } } else c

/-- What a core has after it took a saved state back. -/
theorem Core.takesBack_keeps (kind : Nat) (saved old : Core) :
    let d := Core.takesBack kind saved old
    d.regs = saved.regs ∧ d.mem = saved.mem ∧ d.seq.preempt = false ∧
      (kind = 1 → d.seq.run = .idle ∧ d.seq.ended = false) ∧
      (kind ≠ 1 → d.seq.run = saved.seq.run ∧ d.seq.ended = saved.seq.ended) := by
  intro d
  by_cases h : kind = 1
  · have hd : d = { restoredCore old saved with seq := { (restoredCore old saved).seq with run := .idle, ended := false } } :=
      if_pos h
    rw [hd]
    exact ⟨rfl, rfl, rfl, fun _ => ⟨rfl, rfl⟩, fun hno => absurd h hno⟩
  · have hd : d = restoredCore old saved := if_neg h
    rw [hd]
    exact ⟨rfl, rfl, rfl, fun hyes => absurd hyes h, fun _ => ⟨rfl, rfl⟩⟩

/-- The module with the cores of a list taken back, one after the other. -/
def State.takingBack (s : State) (kind : Nat) (l : List (Nat × Core)) : State :=
  l.foldl (fun s e => s.onCore e.1 (Core.takesBack kind e.2)) s

theorem State.onlyCores_takingBack (s : State) (kind : Nat) (l : List (Nat × Core)) : s.OnlyCores (s.takingBack kind l) := by
  induction l generalizing s with
  | nil => exact .refl s
  | cons e l ih => exact (s.onlyCores_onCore e.1 _).trans (ih _)

theorem State.core_takingBack_other (s : State) (kind : Nat) {l : List (Nat × Core)} {n : Nat} (h : ∀ e ∈ l, e.1 ≠ n) :
    (s.takingBack kind l).core n = s.core n := by
  induction l generalizing s with
  | nil => rfl
  | cons e l ih =>
    refine (ih _ fun x hx => h x (List.mem_cons_of_mem _ hx)).trans (State.core_onCore_other _ _ _ ?_)
    exact (h e List.mem_cons_self).symm

/-- A core that a list names with one saved state alone takes that state back. -/
theorem State.core_takingBack (s : State) (kind : Nat) {l : List (Nat × Core)} {n : Nat} {c : Core} (hmem : (n, c) ∈ l)
    (hone : ∀ e ∈ l, e.1 = n → e.2 = c) : ∃ old, (s.takingBack kind l).core n = Core.takesBack kind c old := by
  induction l generalizing s with
  | nil => cases hmem
  | cons e l ih =>
    by_cases hlater : ∃ x ∈ l, x.1 = n
    · obtain ⟨x, hx, rfl⟩ := hlater
      have hc : x.2 = c := hone x (List.mem_cons_of_mem _ hx) rfl
      exact ih _ (hc ▸ hx) fun y hy => hone y (List.mem_cons_of_mem _ hy)
    · have hno : ∀ x ∈ l, x.1 ≠ n := fun x hx heq => hlater ⟨x, hx, heq⟩
      have he : e = (n, c) := ((List.mem_cons.mp hmem).resolve_right fun hx => hno _ hx rfl).symm
      subst he
      exact ⟨s.core n, (State.core_takingBack_other _ kind hno).trans (State.core_onCore ..)⟩

theorem State.core_restoreCores (s : State) (p : Nat) (l : List SavedCore) (n : Nat) :
    (s.restoreCores p l).core n =
      (s.takingBack (s.part p).saveKind (((s.part p).tt.getD {}).restored l)).core n := rfl

theorem State.part_restoreCores (s : State) (p : Nat) (l : List SavedCore) :
    ((s.restoreCores p l).part p).state = 2 ∧ ((s.restoreCores p l).part p).resumeAt = 0 ∧
      ((s.restoreCores p l).part p).ready = some {
        idx := (s.part p).resumeIdx, resume := some (s.part p).saveKind
        only := if (s.part p).saveKind = 1 then none else (s.part p).savedRun.map (·.grade) } := by
  unfold State.restoreCores
  extract_lets x t phys s₁ s₂ s₃
  have hpart : ((s₃.notify p).soon p .resumeRestart).part p = s₃.part p := rfl
  have hkept : s₂.part p = s.part p := (s.onlyCores_takingBack x.saveKind phys).part p
  rw [hpart, State.part_onPart, hkept]
  exact ⟨rfl, rfl, rfl⟩

theorem checkEach_onlyMemory {f : State → Nat → (SavedCore ⊕ Bool) × State}
    (hf : ∀ (s : State) (l : Nat) r, f s l = r → s.OnlyMemory r.2)
    (s : State) (l : List Nat) : s.OnlyMemory (checkEach f s l).2 := by
  induction l generalizing s with
  | nil => exact .refl s
  | cons n l ih =>
    have hn := hf s n _ rfl
    rw [checkEach]
    split <;> rename_i h <;> rw [h] at hn
    · exact hn
    · refine hn.trans ?_
      have hl := ih ‹State›
      split
      · rename_i h
        rw [h] at hl
        exact hl
      · exact hl

theorem Partition.recordFound_onlyMemory {s : State} (x : Partition) (l : Nat) {r : (List Byte ⊕ MemErr) × State}
    (h : s.OnlyMemory r.2) : s.OnlyMemory (x.recordFound l r).2 := by
  unfold Partition.recordFound
  split
  · exact h
  · exact h
  · extract_lets m
    split <;> exact h

theorem State.onlyMemory_checkRecord (s : State) (p l : Nat) : s.OnlyMemory (s.checkRecord p l).2 := by
  unfold State.checkRecord
  exact (s.part p).recordFound_onlyMemory l (s.onlyMemory_readVirtual ..)

theorem State.onlyMemory_checkRecords (s : State) (p : Nat) (l : List Nat) : s.OnlyMemory (s.checkRecords p l).2 := by
  unfold State.checkRecords
  refine checkEach_onlyMemory (fun s n r (h : s.checkRecord p n = r) => ?_) s l
  exact h ▸ s.onlyMemory_checkRecord p n

/-- What the answer of the check of its records makes of a partition of one box (R461): it waits, fails or restarts. -/
def State.answered (s : State) (p : Nat) : List SavedCore ⊕ Bool → State
  | .inr true => s
  | .inr false => s.resumeFails p 0x0A
  | .inl l => s.restoreCores p l

/-- One attempt at a resume of a partition of one box. -/
theorem State.tryResume_one {s : State} {p : Nat} (hat : (s.part p).resumeAt ≠ 0) (hstate : (s.part p).state = 7)
    (hone : (s.part p).twoBox = false) :
    s.tryResume p = (s.checkRecords p (s.part p).saveSet).2.answered p (s.checkRecords p (s.part p).saveSet).1 := by
  have hdue : ¬ ((s.part p).resumeAt = 0 ∨ (s.part p).state ≠ 7) := by
    rintro (h | h)
    · exact hat h
    · exact h hstate
  unfold State.tryResume
  extract_lets x two
  have htwo : two = false := hone
  clear_value two
  subst htwo
  rw [if_neg hdue, Bool.false_and, if_neg Bool.false_ne_true]
  split <;> rename_i h <;> rw [h] <;> rfl

/-- The check of the records of a resume that begins. -/
def State.resumeCheck (s : State) (p : Nat) : (List SavedCore ⊕ Bool) × State :=
  (s.resuming p).checkRecords p (s.part p).saveSet

theorem State.part_resuming (s : State) (p : Nat) :
    (s.resuming p).part p = { s.part p with resumeAt := s.now + 1, farTold := false } := State.part_onPart ..

/-- The check of its records changes nothing of a partition. -/
theorem State.part_resumeCheck (s : State) (p : Nat) :
    (s.resumeCheck p).2.part p = { s.part p with resumeAt := s.now + 1, farTold := false } :=
  ((s.resuming p).onlyMemory_checkRecords p _).part p |>.trans (s.part_resuming p)

/-- A resume that begins makes one attempt (R481). -/
theorem State.lctlResume_eq {s : State} {p : Nat} {t : Timetable} (hstate : (s.part p).state = 7)
    (htt : (s.part p).tt = some t) (htwo : t.twobox = false) :
    s.lctlResume p = ((s.resumeCheck p).2.answered p (s.resumeCheck p).1).tellFar p .resume := by
  have htry : (s.resuming p).tryResume p = (s.resumeCheck p).2.answered p (s.resumeCheck p).1 := by
    have hsaved : ((s.resuming p).part p).saveSet = (s.part p).saveSet := by rw [State.part_resuming]
    have hone : ((s.resuming p).part p).twoBox = false := by
      rw [State.part_resuming]
      change (s.part p).tt.any (·.twobox) = false
      rw [htt]
      exact htwo
    rw [State.tryResume_one (by rw [State.part_resuming]; exact Nat.succ_ne_zero _) (by rw [State.part_resuming]; exact hstate)
      hone, hsaved]
    rfl
  unfold State.lctlResume State.requestResume
  rw [if_neg (not_not_intro hstate), if_neg (not_not_intro hstate)]
  exact congrArg (State.tellFar · p .resume) htry

/-! Loads, launches and the unload (R479, R480). -/

theorem State.part_notify_onPart (s : State) (p : Nat) (f : Partition → Partition) :
    ((s.onPart p f).notify p).part p = f (s.part p) := State.part_onPart ..

theorem State.part_loadFails (s : State) (p code : Nat) :
    ((s.loadFails p code).part p).state = 4 ∧ ((s.loadFails p code).part p).code = code := by
  unfold State.loadFails
  rw [State.part_notify_onPart]
  exact ⟨rfl, rfl⟩

theorem State.part_resumeFails (s : State) (p code : Nat) :
    ((s.resumeFails p code).part p).state = 4 ∧ ((s.resumeFails p code).part p).code = code := by
  unfold State.resumeFails
  rw [State.part_notify_onPart]
  exact ⟨rfl, rfl⟩

theorem State.lctlStop_loading {s : State} {p : Nat} (h : (s.part p).state = 1) :
    ((s.lctlStop p).part p).state = 4 ∧ ((s.lctlStop p).part p).code = 0x0C := by
  unfold State.lctlStop
  extract_lets x
  rw [if_neg (by rw [h]; decide), if_pos h]
  exact State.part_loadFails ..

theorem State.lctlUnload_ended {s : State} {p : Nat}
    (h : (s.part p).state = 3 ∨ (s.part p).state = 4 ∨ (s.part p).state = 5 ∨ (s.part p).state = 7) :
    ((s.lctlUnload p).part p).state = 0 ∧ ((s.lctlUnload p).part p).tt = none ∧ (s.lctlUnload p).cores = s.cores := by
  unfold State.lctlUnload
  extract_lets x
  rw [if_pos h]
  have hpart (y : Partition) : ((s.setPart p y).notify p).part p = y := State.part_setPart ..
  rw [hpart]
  exact ⟨rfl, rfl, rfl⟩

/-! A write of ACTL (R431, R439). -/

section
variable {c : Context} {v : Nat}

theorem Context.actl_enabled_off (hen : c.en = true) (h : v.testBit 0 = false) : c.actl v = { c with en := false } := by
  simp only [Context.actl, hen, h, Bool.false_eq_true, if_false, if_true]

theorem Context.actl_enabled_on (hen : c.en = true) (h : v.testBit 0 = true) : c.actl v = c := by
  simp only [Context.actl, hen, h, if_true]

/-- A disabled context with the fields of a write of ACTL. -/
def Context.described (c : Context) (v : Nat) : Context := { c with
  en := false, cls := bits v 3 1, len := bits v 10 4, tdest := bits v 12 11, tcore := bits v 20 13
  cmatch := v.testBit 21, mcore := bits v 28 22 }

variable (hen : c.en = false) (h : v.testBit 0 = true) (hlen : 1 ≤ bits v 10 4) (hmax : bits v 10 4 ≤ 64)
  (hcls : bits v 3 1 ≠ 7) (htdest : bits v 12 11 ≠ 3)
include hen h hlen hmax hcls htdest

theorem Context.actl_cases : c.actl v = match (c.described v).firstInvalid (bits v 10 4) with
    | some i => { c.described v with badprog := true, badpc := i }
    | none => { c.described v with en := true, regs := [], queue := [] } := by
  have hok : ¬ (bits v 10 4 = 0 ∨ 64 < bits v 10 4 ∨ bits v 3 1 = 7 ∨ bits v 12 11 = 3) := by omega
  unfold Context.actl
  rw [hen, h, if_neg Bool.false_ne_true]
  extract_lets d
  rw [if_neg (by decide), if_neg hok]
  rfl

theorem Context.actl_starts (hvalid : c.firstInvalid (bits v 10 4) = none) :
    c.actl v = { c.described v with en := true, regs := [], queue := [] } := by
  rw [Context.actl_cases hen h hlen hmax hcls htdest, show (c.described v).firstInvalid (bits v 10 4) = none from hvalid]

theorem Context.actl_fails {i : Nat} (hno : c.firstInvalid (bits v 10 4) = some i) :
    c.actl v = { c.described v with badprog := true, badpc := i } := by
  rw [Context.actl_cases hen h hlen hmax hcls htdest, show (c.described v).firstInvalid (bits v 10 4) = some i from hno]

end

theorem Context.firstInvalid_none {c : Context} {len : Nat} (h : ∀ i, i < len → decodeFilter (Tab.look 0 c.prog i) ≠ none) :
    c.firstInvalid len = none :=
  List.find?_eq_none.mpr fun i hi => by
    simpa only [Option.isNone_iff_eq_none] using h i (List.mem_range.mp hi)

theorem Context.firstInvalid_some {c : Context} {len i : Nat} (hi : i < len)
    (hno : decodeFilter (Tab.look 0 c.prog i) = none) (hbefore : ∀ j, j < i → decodeFilter (Tab.look 0 c.prog j) ≠ none) :
    c.firstInvalid len = some i :=
  List.find?_range_eq_some.mpr ⟨by simpa only [Option.isNone_iff_eq_none] using hno, List.mem_range.mpr hi, fun j hj => by
    simpa only [Bool.not_eq_true', Option.isNone_eq_false_iff, Option.isSome_iff_ne_none] using hbefore j hj⟩

/-! What the requests leave. -/

theorem State.invreqGo_starts {s : State} {p : Nat} (hidle : (s.part p).inval = none)
    (h : (s.part p).invLen ≠ 0 ∨ (s.part p).invAll = true) :
    ∃ i, ((s.invreqGo p).part p).inval = some i ∧ i.at_ = s.now ∧
      (∀ j, ∀ e ∈ ((s.invreqGo p).unit j).cache, e.1 = p →
        e.2.meets (s.part p).invAll (s.part p).invBase (s.part p).invLen = false) ∧
      (s.invreqGo p).dev = s.dev := by
  have hkeeps := State.invreqGo_onlyCores hidle h
  have hunit (j : Nat) : (s.invreqGo p).unit j = (s.invalidating p).unit j :=
    (congrArg (fun x => x.unit j) hkeeps.eq).trans rfl
  have hpart : ((s.invalidating p).part p).inval = some {
      all := (s.part p).invAll, base := (s.part p).invBase, units := (s.part p).invLen
      no := (s.part p).invDone + 1, at_ := s.now } := congrArg Partition.inval (State.part_setPart ..)
  refine ⟨_, (congrArg Partition.inval (hkeeps.part p)).trans hpart, rfl, fun j e he hp => ?_, hkeeps.dev⟩
  rw [hunit] at he
  exact State.cache_invalidating s p j he hp

theorem State.lctlPreempt_stops {s : State} {p : Nat} (h : (s.part p).state = 2) :
    ((s.lctlPreempt p).part p).state = 6 ∧ ((s.lctlPreempt p).part p).preemptAt = some s.now ∧
      (∀ n ∈ s.participants p, ((s.lctlPreempt p).core n).seq.preempt = true ∧
        ((s.lctlPreempt p).core n).regs = (s.core n).regs) ∧
      ∀ n, n ∉ s.participants p → (s.lctlPreempt p).core n = s.core n := by
  obtain ⟨hstate, hat⟩ := State.part_requestPreempt h
  have hcore (n : Nat) : (s.lctlPreempt p).core n = (s.preempting p).core n := by
    rw [State.lctlPreempt_running h, State.core_tellFar, State.core_requestPreempt h]
  rw [State.lctlPreempt_running h, State.part_tellFar, ← State.lctlPreempt_running h]
  refine ⟨hstate, hat, fun n hn => ?_, fun n hn => ?_⟩ <;> rw [hcore]
  · obtain ⟨c, hc⟩ := s.core_onCores_mem (fun _ => Core.asksPreempt) hn
    exact ⟨congrArg (·.seq.preempt) hc, s.core_onCores_keeps (g := fun _ => Core.asksPreempt) _ Core.regs (fun _ _ => rfl) n⟩
  · exact State.core_onCores_other _ _ hn

/-- A core that one record of the list alone names has that record's state back after a resume. -/
theorem State.core_resumed {s : State} {p : Nat} {t : Timetable} (htt : (s.part p).tt = some t) {l : List SavedCore}
    {r : SavedCore} (hr : r ∈ l) (hbound : Tab.has t.binding r.lcore = true)
    (hone : ∀ y ∈ l, y ≠ r → Tab.look 0 t.binding y.lcore ≠ Tab.look 0 t.binding r.lcore) :
    ∃ old, (s.restoreCores p l).core (Tab.look 0 t.binding r.lcore) =
      Core.takesBack (s.part p).saveKind r.core old := by
  rw [State.core_restoreCores, htt]
  refine State.core_takingBack s _ (Timetable.mem_restored.mpr ⟨r, hr, hbound, rfl⟩) fun e he heq => ?_
  obtain ⟨y, hy, -, rfl⟩ := Timetable.mem_restored.mp he
  exact Decidable.byContradiction fun hne => hone y hy (fun h => hne (h ▸ rfl)) heq

/-- Settles O48: a request that may write the window acts by the lemma of its register. -/
theorem windowRegistersActOnTheirPartition : Obligations.WindowRegistersActOnTheirPartition := by
  intro s v p x becomes w b others
  refine ⟨fun hw => ?energy, fun hw => ?window, fun hw => ?context⟩
  case energy =>
    have act (f : State → Nat → State) := State.runHostPart_through hw f
    exact ⟨fun h => (act fun s p => s.setShare p v).trans (congrArg _ (State.setShare_accepts h)),
      fun h => (act fun s p => s.setShare p v).trans (congrArg _ (State.setShare_refuses h)),
      fun hkeep => ⟨fun h => (act fun s p => s.abudgetWrite p v).trans (congrArg _ (State.abudgetWrite_accepts hkeep h)),
        fun h => (act fun s p => s.abudgetWrite p v).trans (congrArg _ (State.abudgetWrite_refuses hkeep h))⟩,
      fun h => (act fun s p => s.setTctl p v).trans (congrArg _ (State.setTctl_free h)),
      fun h => (act fun s p => s.setTctl p v).trans (congrArg _ (State.setTctl_held h))⟩
  case window =>
    have act (f : State → Nat → State) := State.runHostPart_through hw f
    refine ⟨(act fun s p => s.setTrace p false v).trans (congrArg _ State.setTrace_length),
      fun h => (act fun s p => s.setTrace p true v).trans (congrArg _ (State.setTrace_base h)),
      fun h => (act State.invreqGo).trans (congrArg _ (State.invreqGo_busy h)), fun hidle h => ?invalidate,
      fun h => (act State.lctlGo).trans (congrArg _ (if_pos h)),
      fun h => (act State.lctlGo).trans (congrArg _ (if_neg (Nat.not_lt.mpr h))), fun h => ?stop, fun h => ?stopLoad,
      fun h => ?preempt, fun t hstate htt htwo => ?resume, fun h => ⟨s.lctlUnload p, act State.lctlUnload, ?_⟩⟩
    case invalidate =>
      obtain ⟨i, hi⟩ := State.invreqGo_starts hidle h
      exact ⟨s.invreqGo p, i, act State.invreqGo, hi⟩
    case stop =>
      refine ⟨s.abortPhase p, (act State.lctlStop).trans (congrArg _ (if_pos h)), ?_, ?_, fun n hn => State.run_abortPhase hn⟩ <;>
        rw [State.part_abortPhase]
    case stopLoad => exact ⟨s.lctlStop p, act State.lctlStop, State.lctlStop_loading h⟩
    case preempt => exact ⟨s.lctlPreempt p, act State.lctlPreempt, State.lctlPreempt_stops h⟩
    case resume =>
      have hpart := s.part_resumeCheck p
      refine ⟨s.lctlResume p, act State.lctlResume, fun h => ?_, fun h => ?_, fun l h => ?_⟩ <;>
        rw [State.lctlResume_eq hstate htt htwo, show (s.resumeCheck p).1 = _ from h]
      · rw [State.part_tellFar]
        exact (congrArg Partition.state hpart).trans hstate
      · rw [State.part_tellFar]
        exact State.part_resumeFails ..
      · obtain ⟨hrun, hat, hready⟩ := (s.resumeCheck p).2.part_restoreCores p l
        rw [State.part_tellFar]
        refine ⟨hrun, hat, hready.trans (by rw [hpart]), fun r hr hbound hone => ?_⟩
        rw [State.core_tellFar]
        obtain ⟨old, hold⟩ := State.core_resumed (s := (s.resumeCheck p).2) (p := p) (by rw [hpart]; exact htt) hr hbound hone
        rw [State.answered, hold, hpart]
        exact Core.takesBack_keeps ..
    case _ => exact State.lctlUnload_ended h
  case context =>
    have act := State.runHostCtx_through hw fun s k => s.actlWrite k v
    intro c len cls tdest
    refine ⟨fun hen hoff => act.trans (congrArg _ (State.onCtx_congr (Context.actl_enabled_off hen hoff))),
      fun hen hon => act.trans (congrArg _ (State.onCtx_congr (Context.actl_enabled_on hen hon))),
      fun hen hon hmin hmax hcls htdest hvalid => ⟨s.actlWrite p v, act, ?_⟩,
      fun i hen hon hmax hcls htdest hi hno hbefore => ⟨s.actlWrite p v, act, ?_⟩⟩
    · rw [State.actlWrite, State.ctx_onCtx, Context.actl_starts hen hon hmin hmax hcls htdest
        (Context.firstInvalid_none hvalid)]
      exact ⟨rfl, rfl, rfl, rfl, rfl, rfl, rfl⟩
    · have hmin : 1 ≤ bits v.toNat 10 4 := Nat.lt_of_le_of_lt (Nat.zero_le i) hi
      rw [State.actlWrite, State.ctx_onCtx, Context.actl_fails hen hon hmin hmax hcls htdest
        (Context.firstInvalid_some hi hno hbefore)]
      exact ⟨rfl, rfl, rfl⟩

end Sys2Proof.Machine
end

section
/-! Settles O47. What a host reaches through the memory window (R373 to R376), by the partition whose traffic the function
passes, and the program and table words of a context (R431, R437). -/

namespace Sys2Proof.Machine

section
variable {s : State} {p off n : Nat} {bs : List Byte}

theorem State.windowAddr_none (h : s.trafficPart = none) (off n : Nat) : s.windowAddr off n = none := by
  rw [State.windowAddr, h]

theorem State.windowAddr_some (h : s.trafficPart = some p) (hn : off + n ≤ 2 ^ 36) :
    s.windowAddr off n = some (p, (s.part p).mwbase + off) := by
  rw [State.windowAddr, h]
  exact if_pos hn

/-- A refused write is logged, and changes nothing but the partition's count (R475). -/
theorem State.refuseWrite_keeps (s : State) (p : Option Nat) :
    (s.refuseWrite p).dev = s.dev ∧ (s.refuseWrite p).host0 = s.host0 ∧ (s.refuseWrite p).host1 = s.host1 ∧
      (s.refuseWrite p).cores = s.cores ∧ .aer s.focus.fn ∈ (s.refuseWrite p).out := by
  cases p <;> exact ⟨rfl, rfl, rfl, rfl, List.mem_append_right _ List.mem_cons_self⟩

theorem State.hostMemWrite_refused (h : s.trafficPart = none) : ∃ p, s.hostMemWrite off bs = s.refuseWrite p := by
  simp only [State.hostMemWrite, State.windowAddr_none h]
  exact ⟨_, rfl⟩

theorem State.hostMemRead_refused (h : s.trafficPart = none) : s.hostMemRead off n = s.emitOut (.unsupported s.focus.fn) := by
  simp only [State.hostMemRead, State.windowAddr_none h]

section
variable (h : s.trafficPart = some p) {l : List (Nat × Nat × Page)} {u : State}
include h

/-- A write whose pages its partition may reach: granted bytes are left as they are, and counted (R373, log 57). -/
theorem State.hostMemWrite_eq (hn : off + bs.length ≤ 2 ^ 36)
    (hcode : s.hitsCode p ((s.part p).mwbase + off) bs.length = false)
    (hpages : s.hostPages p ((s.part p).mwbase + off) bs.length true = (some l, u)) :
    s.hostMemWrite off bs = if u.granted p ((s.part p).mwbase + off) bs.length then
      u.onPart p fun x => { x with refwr := satAdd32 x.refwr 1 } else u.writePages l bs := by
  simp only [State.hostMemWrite, State.windowAddr_some h hn, hcode, hpages, Bool.false_eq_true, if_false]

theorem State.hostMemRead_eq {v : State} {got : List Byte} (hn : off + n ≤ 2 ^ 36)
    (hpages : s.hostPages p ((s.part p).mwbase + off) n false = (some l, u)) (hread : u.readPages l = (.inl got, v)) :
    s.hostMemRead off n = v.emitOut (.data v.focus.fn got) := by
  simp only [State.hostMemRead, State.windowAddr_some h hn, hpages, hread]

end

theorem atomicSize_of {op : HostAtomicOp} (hn : n = 4 ∨ n = 8 ∨ (op = .cas ∧ n = 16)) : atomicSize op n = true := by
  obtain rfl | rfl | ⟨rfl, rfl⟩ := hn <;> rfl

/-- An atomic on a device page that the host reaches (R376). -/
theorem State.hostMemAtomic_eq (h : s.trafficPart = some p) {op : HostAtomicOp} {a b : BitVec 128} {g : Page} {u v : State}
    {got : List Byte} (hsize : atomicSize op n = true) (hn : off + n ≤ 2 ^ 36)
    (halign : ((s.part p).mwbase + off) % n = 0) (hcode : s.hitsCode p ((s.part p).mwbase + off) n = false)
    (hpage : s.resolve (s.part p).pod p ((s.part p).mwbase + off) true false = (.page g, u)) (hloc : g.loc = 0)
    (hhost : g.host = true) (hfree : u.granted p ((s.part p).mwbase + off) n = false)
    (hread : u.devRead (g.at ((s.part p).mwbase + off)) n g.cache = (.inl got, v)) :
    s.hostMemAtomic off op n a b =
      (v.devWrite (g.at ((s.part p).mwbase + off)) (leBytes n (atomicValue op n (leNat got) a.toNat b.toNat)) g.mx
        g.cache).emitOut (.data v.focus.fn got) := by
  simp only [State.hostMemAtomic, State.windowAddr_some h hn, hsize, halign, hcode, hpage, hloc, hhost, hfree, hread,
    Bool.not_true, Bool.false_eq_true, ne_eq, not_true_eq_false, if_false]

theorem State.hostMemAtomic_misaligned (h : s.trafficPart = some p) (op : HostAtomicOp) (a b : BitVec 128)
    (hn : off + 4 ≤ 2 ^ 36) (halign : ((s.part p).mwbase + off) % 4 ≠ 0) :
    s.hostMemAtomic off op 4 a b = s.emitOut (.aborted s.focus.fn) := by
  simp only [State.hostMemAtomic, State.windowAddr_some h hn, atomicSize_of (op := op) (.inl rfl), Bool.not_true,
    Bool.false_eq_true, if_false]
  exact if_pos halign

/-- The pages of a host access are found without a change of the focus. -/
theorem State.onlyMemory_hostPages (s : State) (p a n : Nat) (write : Bool) :
    s.OnlyMemory (s.hostPages p a n write).2 := by
  unfold State.hostPages
  refine State.OnlyMemory.foldl (σ := Option (List (Nat × Nat × Page)) × State) Prod.snd (fun acc ch => ?_) _ (some [], s)
  obtain ⟨_ | l, t⟩ := acc
  · exact .refl _
  · have hres := t.onlyMemory_resolve (t.part p).pod p ch.1 write false
    split
    · rename_i h
      cases h
    · rename_i h
      cases h
      split <;> rename_i h <;> rw [h] at hres <;> exact hres

end

/-! Program and table words (R431, R437). -/

theorem Context.hostWord_program {c : Context} {i : Nat} (v : Word32) (hen : c.en = false) (hi : i < 64) :
    c.hostWord .program i v = { c with prog := Tab.store c.prog i v } :=
  if_neg (by simp only [hen, Nat.not_le.mpr hi, decide_false, Bool.or_self, Bool.false_eq_true, not_false_eq_true])

theorem Context.hostWord_enabled {c : Context} (hen : c.en = true) (i : Nat) (v : Word32) : c.hostWord .program i v = c :=
  if_pos (by rw [hen, Bool.true_or])

theorem Context.hostWord_table (c : Context) {i : Nat} (v : Word32) (hi : i < 1024) :
    c.hostWord .table i v = { c with table := Tab.store c.table i v } := if_neg (Nat.not_le.mpr hi)

/-- Settles O47: each access by the lemma of its case. -/
theorem hostsReachMemoryThroughTheWindow : Obligations.HostsReachMemoryThroughTheWindow := by
  intro s off n bs op a b w fn hfn
  have act (f : State → State) := State.runHost_next hfn f
  refine ⟨fun hnone => ⟨(act fun s => s.hostMemRead off n).trans (congrArg _ (State.hostMemRead_refused hnone)), ?_⟩,
    fun p hp => ⟨fun l u hn hcode hpages => ⟨fun hfree => ?_, fun hheld => ?_⟩, fun l u v got hn hpages hread => ?_,
      fun g u v got hsize hn halign hcode hpage hloc hhost hfree hread => ?_, fun halign hn => ?_⟩, fun hctx => ?_⟩
  · obtain ⟨p, hrefused⟩ := State.hostMemWrite_refused (off := off) (bs := bs) hnone
    exact ⟨s.refuseWrite p, (act fun s => s.hostMemWrite off bs).trans (congrArg _ hrefused), s.refuseWrite_keeps p⟩
  · refine (act fun s => s.hostMemWrite off bs).trans (congrArg _ ?_)
    rw [State.hostMemWrite_eq hp hn hcode hpages, hfree, if_neg Bool.false_ne_true]
  · refine (act fun s => s.hostMemWrite off bs).trans (congrArg _ ?_)
    rw [State.hostMemWrite_eq hp hn hcode hpages, hheld, if_pos rfl]
    rfl
  · have hfocus : v.focus = s.focus := by
      have hfound := s.onlyMemory_hostPages p ((s.part p).mwbase + off) n false
      have hgot := u.onlyMemory_readPages l
      rw [hpages] at hfound
      rw [hread] at hgot
      exact hgot.focus.trans hfound.focus
    refine (act fun s => s.hostMemRead off n).trans (congrArg _ ?_)
    rw [State.hostMemRead_eq hp hn hpages hread, hfocus]
  · have hfocus : v.focus = s.focus := by
      have hfound := s.onlyMemory_resolve (s.part p).pod p ((s.part p).mwbase + off) true false
      have hgot := u.onlyMemory_devRead (g.at ((s.part p).mwbase + off)) n g.cache
      rw [hpage] at hfound
      rw [hread] at hgot
      exact hgot.focus.trans hfound.focus
    refine (act fun s => s.hostMemAtomic off op n a b).trans (congrArg _ ?_)
    rw [State.hostMemAtomic_eq hp (atomicSize_of hsize) hn halign hcode hpage hloc hhost hfree hread, hfocus]
    cases op <;> rfl
  · exact (act fun s => s.hostMemAtomic off op 4 a b).trans
      (congrArg _ (State.hostMemAtomic_misaligned hp op a b hn halign))
  · have act (target : AbTarget) := State.runHostCtx_through hctx fun s k => s.onCtx k fun c => c.hostWord target off w
    exact ⟨fun hoff hen => (act .program).trans (congrArg _ (State.onCtx_congr (Context.hostWord_program w hen hoff))),
      fun hen => (act .program).trans (congrArg _ (State.onCtx_congr (Context.hostWord_enabled hen off w))),
      fun hoff => (act .table).trans (congrArg _ (State.onCtx_congr (Context.hostWord_table _ w hoff)))⟩

end Sys2Proof.Machine
end

section
/-! What the transfers of one core leave alone (R326, R360): other cores, partitions and interfaces. The tear of an interface
ends the commands of a partition's cores that move bytes over it (R484). -/

namespace Sys2Proof.Machine

/-- `t` differs from `s` in core `n`, in memory and in the messages on their way alone. -/
structure State.AtCore (n : Nat) (s t : State) : Prop where
  core : ∀ m, m ≠ n → t.core m = s.core m
  parts : t.parts = s.parts
  tdisp : t.tdisp = s.tdisp
  spdm : t.spdm = s.spdm
  vfmap : t.vfmap = s.vfmap
  ide : t.ide = s.ide

namespace State.AtCore

variable {n : Nat} {s t u : State}

theorem refl (s : State) : AtCore n s s := ⟨fun _ _ => rfl, rfl, rfl, rfl, rfl, rfl⟩

theorem trans (h : AtCore n s t) (g : AtCore n t u) : AtCore n s u where
  core m hm := (g.core m hm).trans (h.core m hm)
  parts := g.parts.trans h.parts
  tdisp := g.tdisp.trans h.tdisp
  spdm := g.spdm.trans h.spdm
  vfmap := g.vfmap.trans h.vfmap
  ide := g.ide.trans h.ide

theorem part (h : AtCore n s t) (p : Nat) : t.part p = s.part p := congrArg (Tab.look ({} : Partition) · p) h.parts

/-- A fold whose every step changes the core alone. -/
theorem foldl {α : Type} {f : State → α → State} (hstep : ∀ s x, AtCore n s (f s x)) (l : List α) (s : State) :
    AtCore n s (l.foldl f s) := by
  induction l generalizing s with
  | nil => exact refl s
  | cons x l ih => exact (hstep s x).trans (ih _)

end State.AtCore

theorem State.OnlyMemory.atCore {s t : State} (n : Nat) (h : s.OnlyMemory t) : State.AtCore n s t where
  core m _ := h.core m
  parts := h.parts
  tdisp := h.tdisp
  spdm := (congrArg State.spdm h.eq).trans rfl
  vfmap := h.vfmap
  ide := (congrArg State.ide h.eq).trans rfl

section
variable (s : State) (n ch : Nat)

theorem State.atCore_onCore (f : Core → Core) : State.AtCore n s (s.onCore n f) where
  core _ hm := State.core_onCore_other _ _ _ hm
  parts := rfl
  tdisp := rfl
  spdm := rfl
  vfmap := rfl
  ide := rfl

theorem State.atCore_send (src dst : Nat) (body : MsgBody) : State.AtCore n s (s.send src dst body) :=
  ⟨fun _ _ => rfl, rfl, rfl, rfl, rfl, rfl⟩

/-! The accesses of a copy command (R326, R329). -/

theorem State.onlyMemory_cmdPage (pages : List Page) (a : Nat) (write : Bool) :
    s.OnlyMemory (s.cmdPage n pages a write).2 := by
  unfold State.cmdPage
  split
  · exact .refl s
  · exact s.onlyMemory_translate ..

theorem State.onlyMemory_cmdRead (x : Cap) (pages : List Page) (off : Int) (len : Nat) :
    s.OnlyMemory (s.cmdRead n x pages off len).2 := by
  have hpage := s.onlyMemory_cmdPage n pages (x.base.toNat + off.toNat) false
  unfold State.cmdRead
  extract_lets a
  split <;> rename_i h <;> rw [h] at hpage
  · exact hpage
  · exact hpage
  · rename_i p t
    split
    · have hread := t.onlyMemory_devRead (p.at a) len p.cache
      split <;> rename_i h <;> rw [h] at hread <;> exact hpage.trans hread
    · exact hpage

theorem State.onlyMemory_cmdWrite (x : Cap) (pages : List Page) (off : Int) (bs : List Byte) :
    s.OnlyMemory (s.cmdWrite n x pages off bs).2 := by
  have hpage := s.onlyMemory_cmdPage n pages (x.base.toNat + off.toNat) true
  unfold State.cmdWrite
  extract_lets a
  split <;> rename_i h <;> rw [h] at hpage
  · exact hpage
  · exact hpage
  · rename_i p t
    split
    · exact hpage.trans (t.onlyMemory_devWrite ..)
    · exact hpage.trans (t.onlyMemory_hostWrite ..)

theorem State.onlyMemory_writeSlots (m : CopyCmd) (page : Page) (at_ len : Nat) :
    s.OnlyMemory (s.writeSlots m page at_ len) := by
  unfold State.writeSlots
  extract_lets dpa us t
  split
  · exact (⟨rfl⟩ : s.OnlyMemory t).trans (State.OnlyMemory.foldl id (fun _ _ => ⟨rfl⟩) _ t)
  · split
    · exact State.OnlyMemory.foldl id (fun _ _ => ⟨rfl⟩) _ s
    · exact .refl s

theorem State.atCore_readPiece (m : CopyCmd) (p : Piece) : State.AtCore n s (s.readPiece n ch m p).2 := by
  unfold State.readPiece
  extract_lets c put
  have hput (t : State) (bs scales : List Byte) (slots : List (Nat × BitVec 32)) :
      State.AtCore n t (put t bs scales slots) := t.atCore_onCore n _
  clear_value put
  split
  · have hread := (s.onlyMemory_cmdRead n m.sc m.spages p.at_ p.len).atCore n
    split <;> rename_i h <;> rw [h] at hread
    · exact hread.trans (hput ..)
    · exact hread
    · exact hread
  · split
    · exact .refl s
    · exact hput ..

theorem State.atCore_castPiece (m : CopyCmd) (p : Piece) (bs : List Byte) :
    State.AtCore n s (s.castPiece n ch m p bs) := by
  unfold State.castPiece
  extract_lets c row tag ms t
  have hsent : State.AtCore n s t := State.AtCore.foldl (fun s l => by
    split
    · exact s.atCore_send ..
    · exact .refl s) ms s
  exact hsent.trans (t.atCore_onCore n _)

theorem State.atCore_writePiece (m : CopyCmd) (p : Piece) (bs : List Byte) :
    State.AtCore n s (s.writePiece n ch m p bs).2 := by
  unfold State.writePiece
  extract_lets moved
  have hmoved (t : State) (f : CopyCmd → CopyCmd) : State.AtCore n t (moved t f) := t.atCore_onCore n _
  clear_value moved
  split
  · exact (s.atCore_castPiece ..).trans (hmoved ..)
  · exact hmoved ..
  · split
    · split
      · exact .refl s
      · exact (s.atCore_onCore n _).trans (hmoved ..)
    · have hwrite := (s.onlyMemory_cmdWrite n m.dc m.dpages p.at_ bs).atCore n
      split <;> rename_i h <;> rw [h] at hwrite
      · exact hwrite
      · exact hwrite
      · exact (hwrite.trans ((State.onlyMemory_writeSlots ..).atCore n)).trans (hmoved ..)
    · split
      · exact (s.atCore_onCore n _).trans (hmoved ..)
      · exact hmoved ..
    · exact hmoved ..

/-! The tear (R360, R484). -/

theorem State.atCore_finishTransfer (id port fuel : Nat) : State.AtCore n s (State.finishTransfer n ch id port fuel s) := by
  induction fuel generalizing s with
  | zero => exact .refl s
  | succ fuel ih =>
    unfold State.finishTransfer
    split
    · exact .refl s
    · rename_i m _
      extract_lets go p
      have hgo (x : Xfer Unit × State) (hx : State.AtCore n s x.2) : State.AtCore n s (go x) := by
        unfold go
        split
        · exact hx.trans (ih _)
        · exact .refl s
      split
      · exact .refl s
      · split
        · exact hgo _ (s.atCore_readPiece ..)
        · split
          · split
            · exact hgo _ (s.atCore_readPiece ..)
            · exact hgo _ (s.atCore_writePiece ..)
          · split
            · exact .refl s
            · exact hgo _ (s.atCore_writePiece ..)

theorem State.atCore_tearCore (port : Nat) : State.AtCore n s (s.tearCore port n) := by
  unfold State.tearCore
  extract_lets hit t mask
  have ht : State.AtCore n s t := State.AtCore.foldl (fun s x => by
    dsimp only
    split
    · exact (s.atCore_finishTransfer ..).trans (State.atCore_onCore ..)
    · exact s.atCore_onCore ..) hit s
  clear_value t mask hit
  split
  · exact .refl s
  · exact ht.trans (t.atCore_onCore n _)

end

end Sys2Proof.Machine
end

section
/-! Settles O51. Interfaces and their tear (R483, R484), the SPDM requests (R485) and the notices of the box link (R380, R465,
R487, R488). -/

namespace Sys2Proof.Machine

/-! Interfaces (R483, R484). -/

theorem State.iface_setIface (s : State) (port f st : Nat) : (s.setIface port f st).iface port f = st :=
  Tab.look_store_same ..

theorem State.iface_setIface_of (s : State) (port f q g : Nat) (h : s.iface q g = 3) : (s.setIface port f 3).iface q g = 3 := by
  by_cases hkey : q * 512 + g = port * 512 + f
  · exact (congrArg (Tab.look 0 (s.setIface port f 3).tdisp) hkey).trans (Tab.look_store_same ..)
  · exact (Tab.look_store_other _ _ _ hkey).trans h

/-- The partition of a tear: its interface behind the port is torn, and it needs a scrub. -/
def Partition.tornAt (x : Partition) (port : Nat) : Partition :=
  { x with torn := x.torn ||| 2 ^ port, needScrub := true, scrubbing := false }

/-- The cores whose commands a tear ends are those of a list; the rest of them, the interfaces and the sessions stay. -/
theorem State.tearCores_keeps (port : Nat) (l : List Nat) (s : State) :
    let t := l.foldl (fun s n => s.tearCore port n) s
    t.tdisp = s.tdisp ∧ t.spdm = s.spdm ∧ t.vfmap = s.vfmap ∧ t.parts = s.parts ∧ ∀ n, n ∉ l → t.core n = s.core n := by
  induction l generalizing s with
  | nil => exact ⟨rfl, rfl, rfl, rfl, fun _ _ => rfl⟩
  | cons m l ih =>
    have hm := s.atCore_tearCore m port
    obtain ⟨htdisp, hspdm, hvfmap, hparts, hcore⟩ := ih (s.tearCore port m)
    refine ⟨htdisp.trans hm.tdisp, hspdm.trans hm.spdm, hvfmap.trans hm.vfmap, hparts.trans hm.parts, fun n hn => ?_⟩
    rw [List.mem_cons, not_or] at hn
    exact (hcore n hn.2).trans (hm.core n hn.1)

/-- What a tear leaves: the interface in ERROR, its partition marked, and other cores, interfaces and sessions as they were. -/
theorem State.tear_keeps (s : State) (port f : Nat) :
    (s.tear port f).tdisp = (s.setIface port f 3).tdisp ∧ (s.tear port f).spdm = s.spdm ∧
      ∀ p, s.vfPart f = some p → (s.tear port f).part p = (s.part p).tornAt port ∧
        ∀ n, n ∉ (s.part p).cores → (s.tear port f).core n = s.core n := by
  have hpart : (s.setIface port f 3).vfPart f = s.vfPart f := rfl
  unfold State.tear
  extract_lets t
  rw [hpart]
  split
  · rename_i hnone
    exact ⟨rfl, rfl, fun p hp => by rw [hnone] at hp; cases hp⟩
  · rename_i p hp
    extract_lets u
    have hu : u.part p = (s.part p).tornAt port := State.part_onPart ..
    obtain ⟨htdisp, hspdm, -, hparts, hcore⟩ := State.tearCores_keeps port (u.part p).cores u
    refine ⟨htdisp, hspdm, fun q hq => ?_⟩
    obtain rfl : p = q := Option.some.inj (hp.symm.trans hq)
    refine ⟨(congrArg (Tab.look ({} : Partition) · p) hparts).trans hu, fun n hn => hcore n ?_⟩
    rw [hu]
    exact hn

theorem State.iface_tear (s : State) (port f : Nat) : (s.tear port f).iface port f = 3 :=
  (congrArg (Tab.look 0 · _) (s.tear_keeps port f).1).trans (State.iface_setIface ..)

/-- An interface in ERROR stays there when another is torn. -/
theorem State.iface_tear_of (s : State) (port f q g : Nat) (h : s.iface q g = 3) : (s.tear port f).iface q g = 3 :=
  (congrArg (Tab.look 0 · _) (s.tear_keeps port f).1).trans (s.iface_setIface_of port f q g h)

/-- The tear of an interface that serves a partition, as O51 says it. -/
theorem State.tear_marks {s : State} {f p : Nat} (port : Nat) (hp : s.vfPart f = some p) :
    (s.tear port f).iface port f = 3 ∧ ((s.tear port f).part p).torn.testBit port = true ∧
      ((s.tear port f).part p).needScrub = true ∧
      ∀ n, n ∉ (s.part p).cores → (s.tear port f).core n = s.core n := by
  obtain ⟨hpart, hcore⟩ := (s.tear_keeps port f).2.2 p hp
  rw [hpart]
  refine ⟨s.iface_tear port f, ?_, rfl, hcore⟩
  change ((s.part p).torn ||| 2 ^ port).testBit port = true
  rw [Nat.testBit_or, Nat.testBit_two_pow_self, Bool.or_true]

section
variable {s : State} {f : Nat} (hvf : s.focus.fn.vf = some f)
include hvf

theorem State.tearHere_vf : s.tearHere = s.tearInterface s.focus.fn.port f := by rw [State.tearHere, hvf]

theorem State.vfReset_vf : s.vfReset =
    if s.iface s.focus.fn.port f = 3 || (s.iface s.focus.fn.port f = 0 && (s.vfPart f).isNone) then s
    else s.tear s.focus.fn.port f := by rw [State.vfReset, hvf]

theorem State.vfReset_idle
    (h : s.iface s.focus.fn.port f = 3 ∨ (s.iface s.focus.fn.port f = 0 ∧ s.vfPart f = none)) : s.vfReset = s := by
  rw [State.vfReset_vf hvf]
  obtain h | ⟨h0, hnone⟩ := h
  · exact if_pos (by rw [h]; rfl)
  · exact if_pos (by rw [h0, hnone]; rfl)

theorem State.vfReset_tears {p : Nat} (hp : s.vfPart f = some p) (h : s.iface s.focus.fn.port f ≠ 3) :
    s.vfReset = s.tear s.focus.fn.port f := by
  rw [State.vfReset_vf hvf, hp]
  exact if_neg (by simp only [h, Option.isNone_some, Bool.and_false, decide_false, Bool.or_self, Bool.false_eq_true, not_false_eq_true])

theorem State.lockInterface_dead (hdead : Tab.look false s.spdm s.focus.fn.port = false) : s.lockInterface = s := by
  unfold State.lockInterface
  simp only [hvf, hdead]
  split
  · rfl
  · exact if_pos rfl

section
variable {p : Nat} (hp : s.vfPart f = some p) (hlive : Tab.look false s.spdm s.focus.fn.port = true)
include hp hlive

theorem State.lockInterface_live : s.lockInterface =
    if (s.part p).needScrub then
      (if (s.part p).tt.isSome then s else s.onPart p fun x => { x with scrubbing := true })
    else if s.iface s.focus.fn.port f = 0 then s.setIface s.focus.fn.port f 1 else s := by
  simp only [State.lockInterface, hvf, hp, hlive, Bool.not_true, Bool.false_eq_true, if_false]
  rfl

theorem State.lockInterface_scrubs (hneed : (s.part p).needScrub = true) (htt : (s.part p).tt = none) :
    s.lockInterface = s.onPart p fun x => { x with scrubbing := true } := by
  have hidle : ¬ (s.part p).tt.isSome = true := by simp only [htt, Option.isSome_none, Bool.false_eq_true, not_false_eq_true]
  rw [State.lockInterface_live hvf hp hlive, if_pos hneed, if_neg hidle]

theorem State.lockInterface_locks (hneed : (s.part p).needScrub = false) (h : s.iface s.focus.fn.port f = 0) :
    s.lockInterface = s.setIface s.focus.fn.port f 1 := by
  rw [State.lockInterface_live hvf hp hlive, hneed, if_neg Bool.false_ne_true, if_pos h]

omit hvf in
theorem State.startInterface_starts (h : s.iface s.focus.fn.port f = 1) : s.startInterface s.focus.fn.port f =
    (s.setIface s.focus.fn.port f 2).onPart p fun x => { x with
      torn := if x.torn.testBit s.focus.fn.port then x.torn - 2 ^ s.focus.fn.port else x.torn } := by
  have hpart : (s.setIface s.focus.fn.port f 2).vfPart f = some p := hp
  unfold State.startInterface
  rw [if_pos (by rw [h, hlive]; rfl)]
  extract_lets t
  rw [hpart]

end

end

/-- A bit that is cleared is 0. -/
theorem testBit_clear_bit (x i : Nat) : (if x.testBit i then x - 2 ^ i else x).testBit i = false := by
  by_cases h : x.testBit i = true
  · rw [if_pos h]
    have hx : 2 ^ i + (x - 2 ^ i) = x := Nat.add_sub_cancel' (Nat.ge_two_pow_of_testBit h)
    have hbit := Nat.testBit_two_pow_add_eq (x - 2 ^ i) i
    rw [hx, h] at hbit
    exact (Bool.not_eq_true' _).mp hbit.symm
  · rw [if_neg h]
    exact Bool.eq_false_iff.mpr h

/-! Sessions (R483, R484). -/

/-- An entry that a table answers with, other than its default, stands in it. -/
theorem Tab.mem_of_look {α : Type} {d : α} {t : Tab α} {k : Nat} {v : α} (h : Tab.look d t k = v) (hv : v ≠ d) :
    (k, v) ∈ t := by
  induction t with
  | nil => exact absurd h.symm hv
  | cons e t ih =>
    obtain ⟨j, w⟩ := e
    rw [Tab.look_cons] at h
    by_cases hj : j = k
    · rw [if_pos hj] at h
      rw [← hj, ← h]
      exact List.mem_cons_self
    · rw [if_neg hj] at h
      exact List.mem_cons_of_mem _ (ih h)

theorem State.tearAll_keeps (port : Nat) (l : List (Nat × Nat)) (s : State) :
    let t := l.foldl (fun s e => s.tear port (e.1 % 512)) s
    t.spdm = s.spdm ∧ (∀ g, s.iface port g = 3 → t.iface port g = 3) ∧ ∀ e ∈ l, t.iface port (e.1 % 512) = 3 := by
  induction l generalizing s with
  | nil => exact ⟨rfl, fun _ h => h, fun e he => by cases he⟩
  | cons e l ih =>
    obtain ⟨hspdm, hkeep, htorn⟩ := ih (s.tear port (e.1 % 512))
    refine ⟨hspdm.trans (s.tear_keeps port _).2.1, fun g hg => hkeep g (s.iface_tear_of port _ port g hg), fun x hx => ?_⟩
    obtain rfl | hx := List.mem_cons.mp hx
    · exact hkeep _ (s.iface_tear port _)
    · exact htorn x hx

theorem State.endSession_keeps (s : State) (port : Nat) :
    Tab.look false (s.endSession port).spdm port = false ∧
      ∀ f, f < 512 → (s.iface port f = 1 ∨ s.iface port f = 2) → (s.endSession port).iface port f = 3 := by
  unfold State.endSession
  extract_lets t
  obtain ⟨hspdm, -, htorn⟩ := State.tearAll_keeps port
    (t.tdisp.filter fun e => e.1 / 512 == port && (e.2 == 1 || e.2 == 2)) t
  refine ⟨(congrArg (Tab.look false · port) hspdm).trans (Tab.look_store_same ..), fun f hf h => ?_⟩
  have hmem : (port * 512 + f, s.iface port f) ∈ s.tdisp := Tab.mem_of_look rfl (by omega)
  have hdiv : (port * 512 + f) / 512 = port := by omega
  have hmod : (port * 512 + f) % 512 = f := by omega
  have he := htorn (port * 512 + f, s.iface port f) (List.mem_filter.mpr ⟨hmem, by
    simpa only [hdiv, beq_self_eq_true, Bool.true_and, Bool.or_eq_true, beq_iff_eq] using h⟩)
  rwa [hmod] at he

/-! The box link (R380, R465, R488). -/

/-- What the steps of one partition leave of the module. -/
def State.common (s : State) : Bool × Nat × Nat × Nat × Tab Context := (s.boxUp, s.tf, s.ticks, s.lremain, s.ctxs)

/-- `t` is `s` but for what concerns partition `q`, as far as other partitions and the common registers show. -/
structure State.OnlyPart (q : Nat) (s t : State) : Prop where
  part : ∀ p, p ≠ q → t.part p = s.part p
  common : t.common = s.common

namespace State.OnlyPart

variable {q : Nat} {s t u : State}

theorem refl (s : State) : OnlyPart q s s := ⟨fun _ _ => rfl, rfl⟩

theorem trans (h : OnlyPart q s t) (g : OnlyPart q t u) : OnlyPart q s u :=
  ⟨fun p hp => (g.part p hp).trans (h.part p hp), g.common.trans h.common⟩

theorem boxUp (h : OnlyPart q s t) : t.boxUp = s.boxUp := congrArg (·.1) h.common

/-- A change of the partition alone, as the table of partitions shows it. -/
theorem of_store {x : Partition} (hparts : t.parts = Tab.store s.parts q x) (hcommon : t.common = s.common) :
    OnlyPart q s t :=
  ⟨fun p hp => (congrArg (Tab.look ({} : Partition) · p) hparts).trans (Tab.look_store_other _ _ _ hp), hcommon⟩

end State.OnlyPart

/-- A partition's account, and the filter budget it has used (R417, R435). -/
def Partition.account (x : Partition) : Int × Nat × Nat := (x.bal, x.rho, x.bused)

/-- The same, and the account of partition `q` stays. -/
structure State.Steady (q : Nat) (s t : State) : Prop extends State.OnlyPart q s t where
  account : (t.part q).account = (s.part q).account

namespace State.Steady

variable {q : Nat} {s t u : State}

theorem refl (s : State) : Steady q s s := ⟨.refl s, rfl⟩

theorem trans (h : Steady q s t) (g : Steady q t u) : Steady q s u :=
  ⟨h.toOnlyPart.trans g.toOnlyPart, g.account.trans h.account⟩

theorem of_store {x : Partition} (hparts : t.parts = Tab.store s.parts q x) (hcommon : t.common = s.common)
    (hx : x.account = (s.part q).account) : Steady q s t := by
  refine ⟨.of_store hparts hcommon, ?_⟩
  have hpart : t.part q = x := (congrArg (Tab.look ({} : Partition) · q) hparts).trans (Tab.look_store_same ..)
  rw [hpart]
  exact hx

theorem of_parts (hparts : t.parts = s.parts) (hcommon : t.common = s.common) : Steady q s t := by
  have hpart (p : Nat) : t.part p = s.part p := congrArg (Tab.look ({} : Partition) · p) hparts
  exact ⟨⟨fun p _ => hpart p, hcommon⟩, congrArg Partition.account (hpart q)⟩

end State.Steady

theorem State.OnlyCores.steady {s t : State} (q : Nat) (h : s.OnlyCores t) : State.Steady q s t :=
  .of_parts h.parts ((congrArg State.common h.eq).trans rfl)

theorem State.OnlyMemory.steady {s t : State} (q : Nat) (h : s.OnlyMemory t) : State.Steady q s t :=
  .of_parts h.parts ((congrArg State.common h.eq).trans rfl)

section
variable (s : State) (q : Nat)

theorem State.onlyPart_reconcile (abort save : Bool) : State.OnlyPart q s (s.reconcile q abort save) := by
  unfold State.reconcile
  extract_lets x
  clear_value x
  split
  · exact .refl s
  · exact .of_store rfl rfl

theorem State.onlyPart_abortPhase : State.OnlyPart q s (s.abortPhase q) := by
  have hcores : State.OnlyPart q s (s.stoppedCores q) :=
    (s.onlyPart_reconcile q true false).trans ((State.onlyCores_onCores _ _ _).steady q).toOnlyPart
  unfold State.abortPhase
  extract_lets cores s₁ s₂ s₃ two s₄ s₅
  have h4 : State.OnlyPart q s s₄ := hcores.trans (.of_store rfl rfl)
  have h5 : State.OnlyPart q s₄ s₅ := by
    unfold s₅
    split <;> exact ⟨fun _ _ => rfl, rfl⟩
  exact (h4.trans h5).trans ⟨fun _ _ => rfl, rfl⟩

theorem State.steady_loadFails (code : Nat) : State.Steady q s (s.loadFails q code) := .of_store rfl rfl rfl

theorem State.steady_resumeFails (code : Nat) : State.Steady q s (s.resumeFails q code) := .of_store rfl rfl rfl

theorem State.steady_saveLost : State.Steady q s (s.saveLost q) := .of_store rfl rfl rfl

theorem State.steady_restoreCores (l : List SavedCore) : State.Steady q s (s.restoreCores q l) :=
  ((s.onlyCores_takingBack _ _).steady q).trans (.of_store rfl rfl rfl)

theorem State.steady_tryResume : State.Steady q s (s.tryResume q) := by
  have hcheck := (s.onlyMemory_checkRecords q (s.part q).saveSet).steady q
  unfold State.tryResume
  extract_lets x two
  clear_value two
  split
  · exact .refl s
  · split
    · exact s.steady_resumeFails q _
    · split <;> rename_i h <;> rw [h] at hcheck
      · exact hcheck
      · extract_lets t
        have ht : State.Steady q s t := by
          unfold t
          split
          · exact hcheck.trans (.of_parts rfl rfl)
          · exact hcheck
        exact ht.trans (t.steady_resumeFails q _)
      · split
        · exact hcheck.trans (State.steady_restoreCores ..)
        · extract_lets t
          have ht : State.Steady q s t := by
            unfold t
            split
            · exact hcheck
            · exact hcheck.trans (.of_store rfl rfl rfl)
          split
          · exact ht
          · exact ht.trans (t.steady_resumeFails q _)
          · exact ht.trans (t.steady_restoreCores q _)

theorem State.onlyPart_linkLost : State.OnlyPart q s (s.linkLost q) := by
  unfold State.linkLost
  extract_lets x two
  split
  · exact (s.steady_loadFails q _).toOnlyPart
  · split
    · exact .refl s
    · split
      · exact (s.onlyPart_abortPhase q).trans (.of_store rfl rfl)
      · split
        · exact (s.steady_saveLost q).toOnlyPart
        · split
          · exact .of_store rfl rfl
          · exact (s.steady_tryResume q).toOnlyPart

end

/-- A list of partitions that each lose the link in turn. -/
theorem State.linksLost_keeps (s : State) {l : List Nat} (hl : l.Nodup) :
    (l.foldl State.linkLost s).boxUp = s.boxUp ∧ (∀ p, p ∉ l → (l.foldl State.linkLost s).part p = s.part p) ∧
      ∀ p ∈ l, ∃ t : State, t.part p = s.part p ∧ (l.foldl State.linkLost s).part p = (t.linkLost p).part p := by
  induction l generalizing s with
  | nil => exact ⟨rfl, fun _ _ => rfl, fun p hp => by cases hp⟩
  | cons q l ih =>
    obtain ⟨hq, hl⟩ := List.nodup_cons.mp hl
    have hstep := s.onlyPart_linkLost q
    obtain ⟨hbox, hother, hmem⟩ := ih (s.linkLost q) hl
    refine ⟨hbox.trans hstep.boxUp, fun p hp => ?_, fun p hp => ?_⟩
    · rw [List.mem_cons, not_or] at hp
      exact (hother p hp.2).trans (hstep.part p hp.1)
    · by_cases heq : p = q
      · subst heq
        exact ⟨s, rfl, hother p hq⟩
      · obtain ⟨t, ht, hlost⟩ := hmem p ((List.mem_cons.mp hp).resolve_left heq)
        exact ⟨t, ht.trans (hstep.part p heq), hlost⟩

/-- A running two-box phase aborts when the link is lost (R488). -/
theorem State.linkLost_running {s : State} {p : Nat} {t : Timetable} (htt : (s.part p).tt = some t)
    (htwo : t.twobox = true) (hstate : (s.part p).state = 2) (hload : (s.part p).loading = none) :
    ((s.linkLost p).part p).state = 5 ∧ ((s.linkLost p).part p).code = 0x0B := by
  have hbox : (s.part p).twoBox = true := by
    change (s.part p).tt.any (·.twobox) = true
    rw [htt]
    exact htwo
  have hlost : s.linkLost p = (s.abortPhase p).onPart p fun x => { x with code := 0x0B } := by
    unfold State.linkLost
    simp only [hload, hbox, hstate, Option.isSome_none, Bool.false_and, Bool.not_true, Bool.false_eq_true, if_false, if_true]
  rw [hlost, State.part_onPart, State.part_abortPhase]
  exact ⟨rfl, rfl⟩

section
variable {s : State} {p : Nat} {crossing : Bool}

theorem State.farBoundary_plain (h : (s.part p).state ≠ 6) :
    s.farBoundary p crossing = s.onPart p fun x => { x with farBoundary := x.farBoundary + 1 } := by
  simp only [State.farBoundary, h, decide_false, Bool.false_and, Bool.or_false, Bool.false_eq_true, if_false]
  rfl

/-- The partition of a far boundary that a request to pre-empt was crossing. -/
def Partition.crossedBy (x : Partition) : Partition := { x with farBoundary := x.farBoundary + 1, crossed := true }

theorem State.farBoundary_crossing (hstate : (s.part p).state = 6) (htwo : (s.part p).twoBox = true)
    (hkind : (s.part p).saveKind ≠ 1) (hcross : (s.part p).farAsked = false ∨ crossing = true) :
    s.farBoundary p crossing =
      (s.setPart p (s.part p).crossedBy).onCores (s.participants p) fun _ => Core.toBoundary := by
  have hasked : (!(s.part p).farAsked || crossing) = true := by
    obtain h | h := hcross
    · rw [h]
      rfl
    · rw [h, Bool.or_true]
  have hsaves : (s.part p).savesBoundary = false := by
    simp only [Partition.savesBoundary, beq_eq_false_iff_ne.mpr hkind, Bool.and_false]
  have hparts : (s.setPart p (s.part p).crossedBy).participants p = s.participants p := by
    unfold State.participants
    rw [State.part_setPart]
    rfl
  unfold State.farBoundary
  extract_lets x cross t
  have hcrossed : cross = true := by
    change (decide ((s.part p).state = 6) && (s.part p).twoBox && (!(s.part p).farAsked || crossing) &&
      !(s.part p).savesBoundary) = true
    rw [hstate, htwo, hasked, hsaves]
    rfl
  have ht : t = s.setPart p (s.part p).crossedBy := by
    change s.setPart p { x with farBoundary := x.farBoundary + 1, crossed := x.crossed || cross } = _
    rw [hcrossed, Bool.or_true]
    rfl
  rw [if_pos hcrossed, ht, hparts]
  rfl

end

theorem Core.toBoundary_goes (c : Core) : c.toBoundary.seq.preempt = false ∧ c.toBoundary.isStopped = false := by
  refine ⟨rfl, ?_⟩
  have hrun : c.toBoundary.seq.run = match c.seq.run with
      | .stopped _ => if c.seq.ended then .atPhase else .running
      | r => r := rfl
  unfold Core.isStopped
  rw [hrun]
  split <;> rename_i h
  · split at h
    · split at h <;> cases h
    · rename_i hno
      exact absurd h (hno _)
  · rfl

theorem State.farNotice_crossing {s : State} {p : Nat} {crossing : Bool} (hstate : (s.part p).state = 6)
    (htwo : (s.part p).twoBox = true) (hkind : (s.part p).saveKind ≠ 1)
    (hcross : (s.part p).farAsked = false ∨ crossing = true) :
    ((s.farBoundary p crossing).part p).crossed = true ∧
      ((s.farBoundary p crossing).part p).farBoundary = (s.part p).farBoundary + 1 ∧
      ∀ n ∈ s.participants p, ((s.farBoundary p crossing).core n).seq.preempt = false ∧
        ((s.farBoundary p crossing).core n).isStopped = false := by
  rw [State.farBoundary_crossing hstate htwo hkind hcross, (State.onlyCores_onCores _ _ _).part, State.part_setPart]
  refine ⟨rfl, rfl, fun n hn => ?_⟩
  obtain ⟨c, hc⟩ := State.core_onCores_mem (s.setPart p (s.part p).crossedBy) (fun _ => Core.toBoundary) hn
  rw [hc]
  exact c.toBoundary_goes

theorem State.farNotice_launch {s : State} {p : Nat} (hidle : (s.part p).loading = none) (d : BitVec 512) (ok : Bool) :
    s.farNotice (.launch p d ok) = s.farLaunches p d ok := by
  have hpart : ((s.farLaunches p d ok).part p).loading = none := by
    have hstored : (s.farLaunches p d ok).part p = _ := Tab.look_store_same ({} : Partition) _ s.parts p
    rw [hstored]
    exact hidle
  change (s.farLaunches p d ok).tryLoad p = _
  rw [State.tryLoad, hpart]

/-- Settles O51: each request, notice and change of a link by the lemma of its case. -/
theorem interfacesAndLinksChangeState : Obligations.InterfacesAndLinksChangeState := by
  intro s vf port st live
  refine ⟨fun up hfn => ?links, fun hport hvf hfocus => ?interface, fun hfn => ?session,
    fun p g l k b ok crossing d => ?notices, rfl, ?down⟩
  case links =>
    have act := State.runHost_next hfn fun s => s.linkChange s.focus.fn.port up
    exact ⟨fun h => act.trans (congrArg _ (if_pos h)), fun h => act.trans (congrArg _ (if_neg (h.trans_ne Nat.one_ne_zero)))⟩
  case interface =>
    have act (f : State → State) := State.runHost_next (HostFn.exists_vf hport hfocus hvf) f
    have htear := State.tearHere_vf hfocus
    refine ⟨fun h => (act State.tearHere).trans (congrArg _ (htear.trans (if_pos h))),
      fun h => (act State.vfReset).trans (congrArg _ (State.vfReset_idle hfocus h)), fun p i hp hi => ?_,
      fun p hp hlive => ⟨fun hneed htt => (act State.lockInterface).trans
          (congrArg _ (State.lockInterface_scrubs hfocus hp hlive hneed htt)), fun hneed h => ?_⟩,
      fun hdead => (act State.lockInterface).trans (congrArg _ (State.lockInterface_dead hfocus hdead)),
      fun p hp hlive h => ?_⟩
    · refine ⟨s.tear port vf, ?_, State.tear_marks port hp⟩
      obtain ⟨rfl, h⟩ | ⟨rfl, h⟩ := hi
      · exact (act State.tearHere).trans (congrArg _ (htear.trans (if_neg (not_not_intro h))))
      · exact (act State.vfReset).trans (congrArg _ (State.vfReset_tears hfocus hp h))
    · exact ⟨s.setIface port vf 1, (act State.lockInterface).trans
        (congrArg _ (State.lockInterface_locks hfocus hp hlive hneed h)), State.iface_setIface .., rfl⟩
    · refine ⟨(s.startInterface port vf).emitOut (.spdm .startInterface [] none), ?_, ?_⟩
      · refine (act fun s => s.spdmRequest .startInterface).trans (congrArg _ ?_)
        simp only [State.spdmRequest, State.onInterface, hfocus]
        rfl
      · rw [State.startInterface_starts hp hlive h, State.part_emitOut, State.part_onPart]
        exact ⟨State.iface_setIface .., testBit_clear_bit _ _⟩
  case session =>
    have act (r : SpdmReq) := State.runHost_next hfn fun s => s.spdmRequest r
    refine ⟨⟨_, act .startSession, Tab.look_store_same .., rfl⟩, ⟨_, act .endSession, s.endSession_keeps port⟩,
      fun nonce => act (.getMeasurement 2 nonce), fun p nonce hp => ?_, fun k key => ⟨fun hlive => ?_, fun hlive hhas => ?_,
        fun hlive => ?_, fun hdead => ?_⟩⟩
    · refine (act (.getMeasurement (16 + p) nonce)).trans (congrArg _ ?_)
      have hanswer : s.measurementOf (16 + p) = leBytes 64 (s.part p).digest.toNat := by
        unfold State.measurementOf
        rw [if_neg (by omega), if_neg (by omega), if_pos (by omega), Nat.add_sub_cancel_left]
      simp only [State.spdmRequest, hanswer]
    · refine ⟨_, act (.keyProgram k key), ?_⟩
      simp only [State.spdmRequest, State.onStream, show Tab.look false s.spdm s.focus.fn.port = true from hlive, if_true]
      exact ⟨Tab.look_store_same .., rfl⟩
    · refine ⟨_, act (.keyGo k), ?_⟩
      simp only [State.spdmRequest, State.onStream, show Tab.look false s.spdm s.focus.fn.port = true from hlive,
        show Tab.has s.ide (s.focus.fn.port * 256 + k.toNat) = true from hhas, if_true]
      exact Tab.look_store_same ..
    · refine ⟨_, act (.keyStop k), ?_⟩
      simp only [State.spdmRequest, State.onStream, show Tab.look false s.spdm s.focus.fn.port = true from hlive, if_true]
      exact Tab.has_drop ..
    · refine ⟨_, act (.keyProgram k key), ?_⟩
      simp only [State.spdmRequest, State.onStream, show Tab.look false s.spdm s.focus.fn.port = false from hdead,
        Bool.false_eq_true, if_false]
      rfl
  case notices =>
    exact ⟨rfl, rfl, rfl, rfl, rfl, fun h => congrArg Host.Outcome.next (State.farNotice_launch h d ok),
      fun h => congrArg Host.Outcome.next (State.farBoundary_plain h),
      fun hstate htwo hkind hcross => ⟨_, rfl, State.farNotice_crossing hstate htwo hkind hcross⟩⟩
  case down =>
    obtain ⟨hbox, -, hlost⟩ := State.linksLost_keeps { s with boxUp := false } (List.nodup_range (n := 40))
    refine ⟨s.boxDown, rfl, hbox, fun p t hp htt htwo hstate hload => ?_⟩
    obtain ⟨u, hu, hdown⟩ := hlost p (List.mem_range.mpr hp)
    have hpart : u.part p = s.part p := hu
    have hend := State.linkLost_running (s := u) (p := p) (t := t) (by rw [hpart]; exact htt) htwo (by rw [hpart]; exact hstate)
      (by rw [hpart]; exact hload)
    rw [← hdown] at hend
    exact hend

end Sys2Proof.Machine
end

section
/-! The tick (R417, R420, R435, R480): each step is one partition's, so the accounts of the others stay; a partition without a
phase that waits is left alone by the starting rules. -/

namespace Sys2Proof.Machine

/-! One partition after another. -/

theorem State.OnlyCores.foldl {α : Type} {f : State → α → State} (hstep : ∀ (s : State) x, s.OnlyCores (f s x)) (l : List α)
    (s : State) : s.OnlyCores (l.foldl f s) := by
  induction l generalizing s with
  | nil => exact .refl s
  | cons x l ih => exact (hstep s x).trans (ih _)

/-- A step made for each of a list of partitions: each is changed by its own step alone. -/
theorem State.OnlyPart.foldl {f : State → Nat → State} (hf : ∀ s q, State.OnlyPart q s (f s q)) {l : List Nat}
    (hl : l.Nodup) (s : State) :
    (l.foldl f s).common = s.common ∧ (∀ p, p ∉ l → (l.foldl f s).part p = s.part p) ∧
      ∀ p ∈ l, ∃ t : State, t.common = s.common ∧ t.part p = s.part p ∧ (l.foldl f s).part p = (f t p).part p := by
  induction l generalizing s with
  | nil => exact ⟨rfl, fun _ _ => rfl, fun p hp => by cases hp⟩
  | cons q l ih =>
    obtain ⟨hq, hl⟩ := List.nodup_cons.mp hl
    have hstep := hf s q
    obtain ⟨hcommon, hother, hmem⟩ := ih hl (f s q)
    refine ⟨hcommon.trans hstep.common, fun p hp => ?_, fun p hp => ?_⟩
    · rw [List.mem_cons, not_or] at hp
      exact (hother p hp.2).trans (hstep.part p hp.1)
    · by_cases heq : p = q
      · subst heq
        exact ⟨s, rfl, rfl, hother p hq⟩
      · obtain ⟨t, htc, ht, hlast⟩ := hmem p ((List.mem_cons.mp hp).resolve_left heq)
        exact ⟨t, htc.trans hstep.common, ht.trans (hstep.part p heq), hlast⟩

/-- Every partition's account stays. -/
theorem State.Steady.foldl {f : State → Nat → State} (hf : ∀ s q, State.Steady q s (f s q)) (l : List Nat) (s : State) :
    (l.foldl f s).common = s.common ∧ ∀ p, ((l.foldl f s).part p).account = (s.part p).account := by
  induction l generalizing s with
  | nil => exact ⟨rfl, fun _ => rfl⟩
  | cons q l ih =>
    have hstep := hf s q
    obtain ⟨hcommon, haccount⟩ := ih (f s q)
    refine ⟨hcommon.trans hstep.common, fun p => (haccount p).trans ?_⟩
    by_cases heq : p = q
    · subst heq
      exact hstep.account
    · exact congrArg Partition.account (hstep.part p heq)

/-! The start of a phase (R49, R420). -/

/-- A step that leaves every partition without a waiting phase as it is. -/
structure State.SparesIdle (s t : State) : Prop where
  common : t.common = s.common
  part : ∀ p, (s.part p).ready = none → t.part p = s.part p

namespace State.SparesIdle

variable {s t u : State}

theorem refl (s : State) : s.SparesIdle s := ⟨rfl, fun _ _ => rfl⟩

theorem trans (h : s.SparesIdle t) (g : t.SparesIdle u) : s.SparesIdle u :=
  ⟨g.common.trans h.common, fun p hp => (g.part p (by rw [h.part p hp]; exact hp)).trans (h.part p hp)⟩

/-- A step of one partition that does nothing without a phase that may start. -/
theorem of_onlyPart {q : Nat} (h : State.OnlyPart q s t) (hidle : s.startable q = none → t = s) : s.SparesIdle t := by
  refine ⟨h.common, fun p hp => ?_⟩
  by_cases heq : p = q
  · subst heq
    rw [hidle]
    unfold State.startable
    extract_lets x
    have hready : x.ready = none := hp
    rw [hready]
    split
    · rename_i hsome
      cases hsome
    · rfl
  · exact h.part p heq

theorem foldl {α : Type} {f : State → α → State} (hstep : ∀ (s : State) x, s.SparesIdle (f s x)) (l : List α) (s : State) :
    s.SparesIdle (l.foldl f s) := by
  induction l generalizing s with
  | nil => exact refl s
  | cons x l ih => exact (hstep s x).trans (ih _)

end State.SparesIdle

section
variable (s : State) (p : Nat)

theorem State.onlyCores_firstLines (n entry : Nat) : s.OnlyCores (s.firstLines n entry) := by
  unfold State.firstLines
  refine State.OnlyCores.foldl (fun s k => ?_) _ s
  split
  · exact s.onlyCores_onCore n _
  · exact .refl s

theorem State.onlyPart_meterNow : State.OnlyPart p s (s.meterNow p) := .of_store rfl rfl

theorem State.onlyPart_startPhase (g : Nat) (credit : Bool) : State.OnlyPart p s (s.startPhase p g credit) := by
  unfold State.startPhase
  extract_lets s₁ x
  have h1 : State.OnlyPart p s s₁ := by
    unfold s₁
    split
    · exact s.onlyPart_meterNow p
    · exact .refl s
  clear_value s₁
  split
  · rename_i t r _ _
    extract_lets ph e mid starts elapsed y s₂ note cores s₃
    have h2 : State.OnlyPart p s₁ s₂ := .of_store rfl rfl
    have h3 : s₂.OnlyCores s₃ := State.OnlyCores.foldl (fun u n => by
      refine State.OnlyCores.trans ?_ (State.onlyCores_onCore _ n _)
      dsimp only
      split
      · exact u.onlyCores_onCore n _
      · exact (u.onlyCores_onCore n _).trans (State.onlyCores_firstLines ..)) cores s₂
    exact (h1.trans h2).trans ((h3.steady p).toOnlyPart.trans ⟨fun _ _ => rfl, rfl⟩)
  · exact h1

theorem State.evaluate_idle (h : s.startable p = none) : s.evaluate p = s := by rw [State.evaluate, h]

theorem State.fairStart_idle (h : s.startable p = none) : s.fairStart p = s := by rw [State.fairStart, h]

theorem State.lend_idle (cls : Nat) (h : s.startable p = none) : s.lend cls p = s := by rw [State.lend, h]

theorem State.onlyPart_evaluate : State.OnlyPart p s (s.evaluate p) := by
  unfold State.evaluate
  split
  · exact .refl s
  · split
    · split
      · exact .refl s
      · exact s.onlyPart_startPhase ..
    · exact .of_store rfl rfl

theorem State.onlyPart_lend (cls : Nat) : State.OnlyPart p s (s.lend cls p) := by
  unfold State.lend
  extract_lets x
  split
  · exact .refl s
  · extract_lets ph g short t
    split
    · exact .refl s
    · split
      · refine State.OnlyPart.trans (t := t.onPart p fun x => { x with bal := x.bal + short }) ?_ (State.onlyPart_startPhase ..)
        exact .of_store rfl rfl
      · exact .refl s

theorem State.onlyPart_fairStart : State.OnlyPart p s (s.fairStart p) := by
  unfold State.fairStart
  extract_lets x
  split
  · exact .refl s
  · extract_lets ph g
    split
    · exact .refl s
    · split
      · exact s.onlyPart_startPhase ..
      · exact .of_store rfl rfl

/-- The module with one more tick counted for every phase that waits. -/
def State.waitedMore (s : State) : State := { s with parts := s.parts.map fun x =>
    (x.1, { x.2 with ready := x.2.ready.map fun r => { r with waited := r.waited + 1 } }) }

theorem State.sparesIdle_waitedMore : s.SparesIdle s.waitedMore := by
  refine ⟨rfl, fun p hp => ?_⟩
  have hpart : s.waitedMore.part p =
      { s.part p with ready := (s.part p).ready.map fun r => { r with waited := r.waited + 1 } } :=
    Tab.look_map (f := fun x : Partition => { x with ready := x.ready.map fun r => { r with waited := r.waited + 1 } })
      rfl s.parts p
  rw [hpart, hp]
  change { s.part p with ready := none } = s.part p
  rw [← hp]

/-- The starting rules leave a partition without a waiting phase as it is (R420). -/
theorem State.sparesIdle_evaluateAll : s.SparesIdle s.evaluateAll := by
  unfold State.evaluateAll
  extract_lets parts t u v
  have hu : s.SparesIdle u := s.sparesIdle_waitedMore.trans
    (State.SparesIdle.foldl (fun s p => .of_onlyPart (s.onlyPart_evaluate p) (s.evaluate_idle p)) parts t)
  have hv : u.SparesIdle v := State.SparesIdle.foldl (fun s cls =>
    State.SparesIdle.foldl (fun s p => .of_onlyPart (s.onlyPart_lend p cls) (s.lend_idle p cls)) _ s) _ u
  exact (hu.trans hv).trans
    (State.SparesIdle.foldl (fun s p => .of_onlyPart (s.onlyPart_fairStart p) (s.fairStart_idle p)) parts v)

end

/-! The loader (R42, R480). -/

/-- A step of a load that keeps the accounts. -/
structure Load.Keeps {α : Type} (p : Nat) (m : Load α) : Prop where
  steady : ∀ s, State.Steady p s (m s).2

namespace Load.Keeps

variable {α β : Type} {p : Nat}

theorem andThen {m : Load α} {k : α → Load β} (hm : m.Keeps p) (hk : ∀ a, (k a).Keeps p) : (m.andThen k).Keeps p := by
  refine ⟨fun s => ?_⟩
  have hstep := hm.steady s
  unfold Load.andThen
  split <;> rename_i h <;> rw [h] at hstep
  · exact hstep.trans ((hk _).steady _)
  · exact hstep

theorem done (a : α) : (Load.done a).Keeps p := ⟨fun s => .refl s⟩

theorem need {ok : Bool} {code : Nat} {k : Load β} (hk : k.Keeps p) : (Load.need ok code k).Keeps p := by
  refine ⟨fun s => ?_⟩
  unfold Load.need
  split
  · exact hk.steady s
  · exact .refl s

theorem loadEach {m : α → Load β} (hm : ∀ a, (m a).Keeps p) (l : List α) : (loadEach m l).Keeps p := by
  induction l with
  | nil => exact done []
  | cons a l ih => exact (hm a).andThen fun b => ih.andThen fun l => done (b :: l)

theorem loadBytes (dva off n : Nat) : (loadBytes p dva off n).Keeps p := by
  refine ⟨fun s => ?_⟩
  have hread := (s.onlyMemory_readVirtual (s.part p).pod p (dva + off) n .hold).steady p
  unfold Machine.loadBytes
  split <;> rename_i h <;> rw [h] at hread <;> exact hread

theorem loadNum (dva off n : Nat) : (loadNum p dva off n).Keeps p :=
  (loadBytes dva off n).andThen fun _ => done _

theorem farAnswer (digest : BitVec 512) (side : Nat) : (farAnswer p digest side).Keeps p := by
  refine ⟨fun s => ?_⟩
  unfold Machine.farAnswer
  extract_lets x t
  have ht : State.Steady p s t := by
    unfold t
    split
    · exact .of_store rfl rfl rfl
    · exact .refl s
  clear_value t
  split
  · exact .refl s
  · split
    · exact ht
    · split
      · exact ht.trans (.of_store rfl rfl rfl)
      · split <;> exact ht

theorem loadImage (dva : Nat) : (loadImage p dva).Keeps p := by
  unfold Machine.loadImage
  refine (loadNum ..).andThen fun h => need ?_
  extract_lets size nphase phoff groff capoff balcap two balcount codeoff codelen dataoff datalen
  refine need ((loadNum ..).andThen fun tail => need ((loadEach (fun i => loadNum ..) _).andThen fun recs =>
    need (need ((loadNum ..).andThen fun ch => ?_))))
  extract_lets caplen segs ranges length
  refine need ((loadEach (fun x => (loadEach (fun k => loadNum ..) _).andThen fun offs => done _) _).andThen fun entries =>
    need (need ((loadEach (fun k => (loadNum ..).andThen fun g => done _) _).andThen fun groups => need ⟨fun s => ?_⟩)))
  extract_lets side used
  split
  · exact .refl s
  · rename_i binding _
    have hlast : Load.Keeps p ((if two then
        Load.need s.boxUp 0x07 <| (Machine.loadBytes p dva 0 length).andThen fun bs =>
          Machine.farAnswer p (BitVec.ofNat 512 (leNat (sha512 bs))) side
      else Load.done ()) : Load Unit) := by
      split
      · exact need ((loadBytes ..).andThen fun bs => farAnswer ..)
      · exact done ()
    refine (hlast.andThen fun _ => (loadEach (fun i => loadNum ..) _).andThen fun raw => ?_).steady s
    exact need ((loadBytes ..).andThen fun bs => done _)

end Load.Keeps

section
variable (s : State) (p : Nat)

theorem State.onlyCores_bindCores (t : Timetable) (tvec : Nat) : s.OnlyCores (s.bindCores p t tvec) := by
  unfold State.bindCores
  exact State.OnlyCores.foldl (fun s n => s.onlyCores_onCore n _) _ s

theorem State.steady_tryLoad : State.Steady p s (s.tryLoad p) := by
  unfold State.tryLoad
  split
  · exact .refl s
  · rename_i dva _
    have hload := (Load.Keeps.loadImage (p := p) dva).steady s
    split <;> rename_i h <;> rw [h] at hload
    · exact hload
    · exact hload.trans (State.steady_loadFails ..)
    · rename_i t digest u
      extract_lets t' u' v w
      have hbind := (u'.onlyCores_bindCores p t' (u'.part p).tvec).steady p
      have hstart : State.Steady p v w := .of_store rfl rfl rfl
      have hcount : State.Steady p u u' := .of_parts rfl rfl
      exact ((hload.trans hcount).trans hbind).trans (hstart.trans (.of_parts rfl rfl))

theorem State.steady_loaderTick : State.Steady p s (s.loaderTick p) := by
  unfold State.loaderTick
  extract_lets x
  split
  · exact s.steady_tryLoad p
  · split
    · split
      · refine State.Steady.trans ?_ (State.steady_tryLoad _ p)
        exact .of_store rfl rfl rfl
      · exact .refl s
    · exact .refl s

theorem State.steady_savedTick : State.Steady p s (s.savedTick p) := by
  unfold State.savedTick
  extract_lets x
  split
  · exact .of_store rfl rfl rfl
  · exact .refl s

/-! The parts of a tick. -/

theorem State.onlyPart_refill : State.OnlyPart p s (s.refill p) := by
  unfold State.refill
  extract_lets x v b
  split
  · exact .refl s
  · exact .of_store rfl rfl

/-- The gain of an account: its watts at the thermal factor, with what the last tick left (R417). -/
def Partition.gain (x : Partition) (tf : Nat) : Nat := x.watts * tf + x.rho

theorem State.part_refill (h : (s.part p).pairs ≠ 0) :
    ((s.refill p).part p).bal =
        (capBalance ((s.part p).bal + ((s.part p).gain s.tf / 256 : Nat)) (s.part p).cap).1 ∧
      ((s.refill p).part p).rho = (s.part p).gain s.tf % 256 ∧ ((s.refill p).part p).ready = (s.part p).ready := by
  have hexists : ¬ (!(s.part p).exists_) = true := by
    simp only [(Partition.exists_iff _).mpr h, Bool.not_true, Bool.false_eq_true, not_false_eq_true]
  unfold State.refill
  extract_lets x v b
  rw [if_neg hexists]
  have hpart (y : Partition) (k : Int) : ({ s.setPart p y with pool := k } : State).part p = y := State.part_setPart ..
  rw [hpart]
  exact ⟨rfl, rfl, rfl⟩

theorem State.part_resetBudgets : s.resetBudgets.part p = { s.part p with bused := 0 } :=
  Tab.look_map (f := fun x : Partition => { x with bused := 0 }) rfl s.parts p

theorem State.susp_resetBudgets (k : Nat) : (s.resetBudgets.ctx k).susp = false :=
  congrArg Context.susp (Tab.look_map (f := fun x : Context => { x with susp := false }) rfl s.ctxs k)

theorem State.resyncTick_keeps : s.resyncTick.common = s.common ∧ ∀ p, s.resyncTick.part p = s.part p := by
  unfold State.resyncTick
  split
  · exact ⟨rfl, fun _ => rfl⟩
  · rename_i port _
    have hmem := s.onlyMemory_hostWrite port s.rsaddr s.summary
    exact ⟨(congrArg State.common hmem.eq).trans rfl, hmem.part⟩

end

/-! The whole tick. -/

theorem State.common_eq_iff {t : State} {a : Bool} {b c d : Nat} {e : Tab Context} :
    t.common = (a, b, c, d, e) ↔ t.boxUp = a ∧ t.tf = b ∧ t.ticks = c ∧ t.lremain = d ∧ t.ctxs = e := by
  simp only [State.common, Prod.mk.injEq]

/-- The module when a tick has given the accounts their watts and started what may start. -/
def State.tickStarted (s : State) : State :=
  ((List.range 40).foldl State.refill
    { s with tf := thermalFactor (Config.hottest s.ticks), ticks := s.ticks + 1 }).refillPool.evaluateAll

/-- The module at the end of what the reckoner does in a tick. -/
def State.tickCounted (s : State) : State :=
  let t := (List.range 40).foldl State.loaderTick s.tickStarted.resetBudgets
  ({ t with lremain := t.lremain - 1 } : State).resyncTick

theorem State.reckonerTick_hot {s : State} (h : 115 < Config.hottest s.ticks) :
    s.reckonerTick = { s with off := true, ready := false, agenda := [], ticks := s.ticks + 1 } := if_pos h

theorem State.reckonerTick_cool {s : State} (h : Config.hottest s.ticks ≤ 115) : s.reckonerTick = s.tickCounted :=
  if_neg (Nat.not_lt.mpr h)

theorem State.tick_hot {s : State} (h : 115 < Config.hottest s.ticks) :
    s.tick = { s with off := true, ready := false, agenda := [], ticks := s.ticks + 1 } := by
  unfold State.tick
  rw [State.reckonerTick_hot h]
  exact if_pos rfl

/-- Saves that two modules report, and resumes that wait, keep the accounts. -/
theorem State.tick_cool {s : State} (h : Config.hottest s.ticks ≤ 115) :
    s.tick.common = s.tickCounted.common ∧ ∀ p, (s.tick.part p).account = (s.tickCounted.part p).account := by
  unfold State.tick
  rw [State.reckonerTick_cool h]
  extract_lets t
  split
  · exact ⟨rfl, fun _ => rfl⟩
  · obtain ⟨hc, ha⟩ := State.Steady.foldl (fun s p => s.steady_savedTick p) (List.range 40) t
    obtain ⟨hc', ha'⟩ := State.Steady.foldl (fun s p => s.steady_tryResume p) (List.range 40)
      ((List.range 40).foldl State.savedTick t)
    exact ⟨hc'.trans hc, fun p => (ha' p).trans (ha p)⟩

theorem State.tickCounted_keeps (s : State) :
    s.tickCounted.common = (s.tickStarted.boxUp, s.tickStarted.tf, s.tickStarted.ticks, s.tickStarted.lremain - 1,
        s.tickStarted.resetBudgets.ctxs) ∧
      ∀ p, (s.tickCounted.part p).account = ((s.tickStarted.part p).bal, (s.tickStarted.part p).rho, 0) := by
  unfold State.tickCounted
  generalize s.tickStarted = u
  extract_lets t
  have hload : t.common = u.resetBudgets.common ∧ ∀ p, (t.part p).account = (u.resetBudgets.part p).account :=
    State.Steady.foldl (fun s p => s.steady_loaderTick p) (List.range 40) u.resetBudgets
  clear_value t
  obtain ⟨hc, ha⟩ := hload
  obtain ⟨hbox, htf, hticks, hleft, hctxs⟩ := State.common_eq_iff.mp hc
  obtain ⟨hrc, hrp⟩ := State.resyncTick_keeps { t with lremain := t.lremain - 1 }
  refine ⟨hrc.trans (State.common_eq_iff.mpr ⟨hbox, htf, hticks, congrArg (· - 1) hleft, hctxs⟩), fun p => ?_⟩
  have hpart := u.part_resetBudgets p
  rw [hrp]
  exact (ha p).trans (congrArg Partition.account hpart)

theorem State.tickStarted_keeps (s : State) :
    s.tickStarted.common =
        (s.boxUp, thermalFactor (Config.hottest s.ticks), s.ticks + 1, s.lremain, s.ctxs) ∧
      ∀ p, p < 40 → (s.part p).pairs ≠ 0 → (s.part p).ready = none →
        (s.tickStarted.part p).bal = (capBalance ((s.part p).bal +
          ((s.part p).gain (thermalFactor (Config.hottest s.ticks)) / 256 : Nat)) (s.part p).cap).1 ∧
        (s.tickStarted.part p).rho = (s.part p).gain (thermalFactor (Config.hottest s.ticks)) % 256 := by
  unfold State.tickStarted
  obtain ⟨hc, -, hfill⟩ := State.OnlyPart.foldl (fun s p => s.onlyPart_refill p) (List.nodup_range (n := 40))
    { s with tf := thermalFactor (Config.hottest s.ticks), ticks := s.ticks + 1 }
  generalize hu : (List.range 40).foldl State.refill
    { s with tf := thermalFactor (Config.hottest s.ticks), ticks := s.ticks + 1 } = u at hc hfill
  have hstart := u.refillPool.sparesIdle_evaluateAll
  refine ⟨hstart.common.trans hc, fun p hp hpairs hready => ?_⟩
  obtain ⟨t, htc, htp, htl⟩ := hfill p (List.mem_range.mpr hp)
  have hpart : t.part p = s.part p := htp
  have htf : t.tf = thermalFactor (Config.hottest s.ticks) := congrArg (·.2.1) htc
  obtain ⟨hbal, hrho, hkept⟩ := t.part_refill p (by rw [hpart]; exact hpairs)
  rw [← htl, hpart] at hbal hrho hkept
  rw [htf] at hbal hrho
  have hsame : u.refillPool.evaluateAll.part p = u.part p := hstart.part p (hkept.trans hready)
  rw [hsame]
  exact ⟨hbal, hrho⟩

/-- What a tick below the limit of R489 does, as O46 says it. -/
theorem State.tick_counts {s : State} (h : Config.hottest s.ticks ≤ 115) :
    s.tick.ticks = s.ticks + 1 ∧ s.tick.lremain = s.lremain - 1 ∧ s.tick.tf = thermalFactor (Config.hottest s.ticks) ∧
      (∀ k, (s.tick.ctx k).susp = false) ∧
      ∀ p, p < 40 → (s.tick.part p).bused = 0 ∧
        ((s.part p).pairs ≠ 0 → (s.part p).ready = none →
          (s.tick.part p).bal = (capBalance ((s.part p).bal +
            ((s.part p).gain (thermalFactor (Config.hottest s.ticks)) / 256 : Nat)) (s.part p).cap).1 ∧
          (s.tick.part p).rho = (s.part p).gain (thermalFactor (Config.hottest s.ticks)) % 256) := by
  obtain ⟨hcool, haccount⟩ := State.tick_cool h
  obtain ⟨hcounted, hreset⟩ := s.tickCounted_keeps
  obtain ⟨hstarted, hgain⟩ := s.tickStarted_keeps
  have hall (p : Nat) := (haccount p).trans (hreset p)
  have hcommon := hcool.trans hcounted
  clear hcool hcounted haccount hreset
  generalize s.tick = v at hcommon hall
  generalize s.tickStarted = u at hcommon hall hstarted hgain
  obtain ⟨-, htf, hticks, hleft, hctxs⟩ := State.common_eq_iff.mp hcommon
  obtain ⟨-, htf', hticks', hleft', -⟩ := State.common_eq_iff.mp hstarted
  refine ⟨hticks.trans hticks', hleft.trans (congrArg (· - 1) hleft'), htf.trans htf', fun k => ?_, fun p hp => ?_⟩
  · exact (congrArg (fun t => (Tab.look ({} : Context) t k).susp) hctxs).trans (u.susp_resetBudgets k)
  · refine ⟨congrArg (·.2.2) (hall p), fun hpairs hready => ?_⟩
    obtain ⟨hbal, hrho⟩ := hgain p hp hpairs hready
    exact ⟨(congrArg (·.1) (hall p)).trans hbal, (congrArg (·.2.1) (hall p)).trans hrho⟩

/-! The lease (R477). -/

section
variable {s : State}

theorem State.leaseExpiry_runs (hleft : s.lremain ≠ 0) (hkeep : s.yield = false) : s.leaseExpiry = s := by
  unfold State.leaseExpiry
  rw [if_pos (by simp only [bne_iff_ne.mpr hleft, hkeep, Bool.not_false, Bool.and_self])]

variable (h : s.lremain = 0 ∨ s.yield = true)
include h

theorem State.leaseExpiry_ends : s.leaseExpiry =
    if !s.linkUp (1 - s.owner) then { s with yield := false }
    else ({ s with owner := 1 - s.owner, epoch := (s.epoch + 1) % 2 ^ 16, lremain := s.llen, yield := false } : State).emitOut
      (.msix (1 - s.owner) 0) := by
  have hends : ¬ (s.lremain != 0 && !s.yield) = true := by
    obtain h | h := h
    · simp only [h, bne_self_eq_false, Bool.false_and, Bool.false_eq_true, not_false_eq_true]
    · simp only [h, Bool.not_true, Bool.and_false, Bool.false_eq_true, not_false_eq_true]
  unfold State.leaseExpiry
  rw [if_neg hends]

theorem State.leaseExpiry_alone (hlink : s.linkUp (1 - s.owner) = false) : s.leaseExpiry = { s with yield := false } := by
  rw [State.leaseExpiry_ends h, hlink]
  rfl

theorem State.leaseExpiry_passes (hlink : s.linkUp (1 - s.owner) = true) : s.leaseExpiry = { s with
    owner := 1 - s.owner, epoch := (s.epoch + 1) % 2 ^ 16, lremain := s.llen, yield := false
    out := s.out ++ [.msix (1 - s.owner) 0] } := by
  rw [State.leaseExpiry_ends h, hlink]
  rfl

end

end Sys2Proof.Machine
end

section
/-! What a context record holds at its head (R461), and the save of a partition: its cores' records, written one after the
other, and kept beside them (log 19). -/

namespace Sys2Proof.Machine

/-! Runs of bytes written one after the other. -/

theorem Memory.bytes_write_other {m : Memory} {a b n : Nat} {bs : List Byte} (h : a + bs.length ≤ b ∨ b + n ≤ a) :
    Memory.bytes (m.write a bs) b n = Memory.bytes m b n :=
  List.map_congr_left fun i hi => Memory.byte_write_outside (by have := List.mem_range.mp hi; omega)

theorem bytes_writeAll_other (m : Memory) {l : List (Nat × List Byte)} {a n : Nat}
    (h : ∀ x ∈ l, x.1 + x.2.length ≤ a ∨ a + n ≤ x.1) : Memory.bytes (writeAll m l) a n = Memory.bytes m a n := by
  induction l generalizing m with
  | nil => rfl
  | cons x l ih =>
    exact (ih (m.write x.1 x.2) fun y hy => h y (List.mem_cons_of_mem _ hy)).trans
      (Memory.bytes_write_other (h x List.mem_cons_self))

/-- A run whose bytes no other run meets is there in the end. -/
theorem bytes_writeAll (m : Memory) {l : List (Nat × List Byte)} {x : Nat × List Byte} (hx : x ∈ l)
    (h : ∀ y ∈ l, y = x ∨ y.1 + y.2.length ≤ x.1 ∨ x.1 + x.2.length ≤ y.1) :
    Memory.bytes (writeAll m l) x.1 x.2.length = x.2 := by
  induction l generalizing m with
  | nil => cases hx
  | cons y l ih =>
    by_cases hlater : x ∈ l
    · exact ih (m.write y.1 y.2) hlater fun z hz => h z (List.mem_cons_of_mem _ hz)
    · have hy : x = y := (List.mem_cons.mp hx).resolve_right hlater
      subst hy
      refine (bytes_writeAll_other (m.write x.1 x.2) (l := l) fun z hz => ?_).trans (Memory.bytes_write ..)
      exact (h z (List.mem_cons_of_mem _ hz)).resolve_left fun heq => hlater (heq ▸ hz)

/-! The context record (R461). -/

/-- The header of a context record. -/
def Core.recordHeader (c : Core) (kind grade : Nat) : Nat :=
  1 + 0x0040 * 2 ^ 16 + c.lcore * 2 ^ 32 + c.pidx * 2 ^ 48 + c.starts * 2 ^ 64 + c.scycle * 2 ^ 96 +
    c.seq.pc.toNat * 2 ^ 128 + kind * 2 ^ 192 + grade * 2 ^ 194

/-- Every run of the first part is the header, a scalar register, or lies above them. -/
theorem Core.mem_recordParts {c : Core} {kind grade : Nat} {x : Nat × List Byte} (hx : x ∈ c.recordParts kind grade) :
    x = (0x0, leBytes 32 (c.recordHeader kind grade)) ∨
      (∃ r, r < 32 ∧ x = (0x100 + 8 * r, leBytes 8 (c.sreg r).toNat)) ∨ 0x200 ≤ x.1 := by
  simp only [Core.recordParts, List.mem_append, List.mem_map, List.mem_mapIdx, List.mem_singleton, List.mem_range, or_assoc]
    at hx
  obtain rfl | ⟨r, hr, rfl⟩ | hrest := hx
  · exact .inl rfl
  · exact .inr (.inl ⟨r, hr, rfl⟩)
  · refine .inr (.inr ?_)
    obtain ⟨i, -, rfl⟩ | ⟨i, -, rfl⟩ | ⟨i, -, rfl⟩ | rfl | ⟨i, -, rfl⟩ | ⟨i, -, rfl⟩ | ⟨i, -, rfl⟩ | ⟨i, -, rfl⟩ | ⟨i, -, rfl⟩ |
      ⟨i, -, rfl⟩ | ⟨i, -, rfl⟩ | ⟨i, -, rfl⟩ | ⟨i, -, rfl⟩ | ⟨i, -, rfl⟩ | rfl := hrest <;> dsimp only <;> omega

theorem Core.le_recordBulk {c : Core} {x : Nat × List Byte} (hx : x ∈ c.recordBulk) : 0x200 ≤ x.1 := by
  simp only [Core.recordBulk, List.mem_append, List.mem_map, List.mem_singleton, or_assoc] at hx
  obtain ⟨i, -, rfl⟩ | rfl | ⟨i, -, rfl⟩ | ⟨i, -, rfl⟩ | ⟨i, -, rfl⟩ | ⟨i, -, rfl⟩ | rfl := hx <;> dsimp only <;> omega

theorem Core.le_deviceParts {c : Core} {free : Nat} {x : Nat × List Byte} (hx : x ∈ c.deviceParts free) : 0x200 ≤ x.1 := by
  simp only [Core.deviceParts, List.mem_cons, List.mem_map] at hx
  obtain rfl | ⟨i, -, rfl⟩ := hx <;> dsimp only <;> omega

/-- Every run of a context record is the header, a scalar register, or lies above them. -/
theorem Core.mem_recordRuns {c : Core} {free kind grade : Nat} {x : Nat × List Byte}
    (hx : x ∈ c.recordParts kind grade ++ c.recordBulk ++ c.deviceParts free) :
    x = (0x0, leBytes 32 (c.recordHeader kind grade)) ∨
      (∃ r, r < 32 ∧ x = (0x100 + 8 * r, leBytes 8 (c.sreg r).toNat)) ∨ 0x200 ≤ x.1 := by
  rw [List.mem_append, List.mem_append] at hx
  obtain (hx | hx) | hx := hx
  · exact Core.mem_recordParts hx
  · exact .inr (.inr (Core.le_recordBulk hx))
  · exact .inr (.inr (Core.le_deviceParts hx))

theorem Core.header_mem (c : Core) (free kind grade : Nat) : ((0x0 : Nat), leBytes 32 (c.recordHeader kind grade)) ∈
    c.recordParts kind grade ++ c.recordBulk ++ c.deviceParts free := by
  simp only [Core.recordParts, List.append_assoc, List.cons_append, List.mem_cons]
  exact .inl rfl

theorem Core.sreg_mem (c : Core) (free kind grade : Nat) {r : Nat} (hr : r < 32) :
    (0x100 + 8 * r, leBytes 8 (c.sreg r).toNat) ∈ c.recordParts kind grade ++ c.recordBulk ++ c.deviceParts free := by
  simp only [Core.recordParts, List.append_assoc, List.mem_append, List.mem_map, List.mem_range]
  exact .inr (.inl ⟨r, hr, rfl⟩)

/-- The seal of a record lies between its header and its registers. -/
theorem Core.bytes_record (c : Core) (launch free kind grade : Nat) {a n : Nat} (h : a + n ≤ 0x20 ∨ 0x2F ≤ a) :
    Memory.bytes (c.record launch free kind grade) a n = Memory.bytes (writeAll []
      (c.endZblk.recordParts kind grade ++ c.endZblk.recordBulk ++ c.endZblk.deviceParts free)) a n :=
  Memory.bytes_write_other (by rw [leBytes_length]; omega)

/-- The end of a cycle changes NUMSTAT alone of the control registers. -/
theorem Core.ctlBits_endZblk (c : Core) {n hi lo : Nat} (h : n ≠ Ctl.numstat) : c.endZblk.ctlBits n hi lo = c.ctlBits n hi lo := by
  unfold Core.endZblk
  split
  · rfl
  · exact c.ctlBits_setCtlBits_other h

theorem Core.endZblk_seq (c : Core) : c.endZblk.seq = c.seq := by
  unfold Core.endZblk
  split <;> rfl

theorem Core.endZblk_head (c : Core) (kind grade : Nat) :
    c.endZblk.recordHeader kind grade = c.recordHeader kind grade ∧ ∀ r, c.endZblk.sreg r = c.sreg r := by
  refine ⟨?_, fun r => by rw [Core.sreg, Core.sreg, Core.endZblk_regs]⟩
  simp only [Core.recordHeader, Core.lcore, Core.pidx, Core.starts, Core.scycle, Core.endZblk_seq,
    Core.ctlBits_endZblk c (n := Ctl.coreloc) (by decide), Core.ctlBits_endZblk c (n := Ctl.phaseinfo) (by decide),
    Core.ctlBits_endZblk c (n := Ctl.scyc) (by decide)]

/-- The header of a context record, and its scalar registers. -/
theorem Core.record_head (c : Core) (launch free kind grade : Nat) :
    Memory.bytes (c.record launch free kind grade) 0 32 = leBytes 32 (c.recordHeader kind grade) ∧
      ∀ r, r < 32 → Memory.bytes (c.record launch free kind grade) (0x100 + 8 * r) 8 = leBytes 8 (c.sreg r).toNat := by
  obtain ⟨hheader, hsreg⟩ := c.endZblk_head kind grade
  refine ⟨?_, fun r hr => ?_⟩
  · rw [Core.bytes_record _ _ _ _ _ (by omega)]
    have hread := bytes_writeAll [] (c.endZblk.header_mem free kind grade) fun y hy => ?_
    · rw [leBytes_length, hheader] at hread
      exact hread
    · obtain rfl | ⟨r, hr, rfl⟩ | hy := Core.mem_recordRuns hy
      · exact .inl rfl
      · refine .inr (.inr ?_)
        rw [leBytes_length]
        dsimp only
        omega
      · refine .inr (.inr ?_)
        rw [leBytes_length]
        dsimp only
        omega
  · rw [Core.bytes_record _ _ _ _ _ (by omega)]
    have hread := bytes_writeAll [] (c.endZblk.sreg_mem free kind grade hr) fun y hy => ?_
    · rw [leBytes_length, hsreg] at hread
      exact hread
    · rw [leBytes_length]
      obtain rfl | ⟨q, hq, rfl⟩ | hy := Core.mem_recordRuns hy
      · refine .inr (.inl ?_)
        rw [leBytes_length]
        dsimp only
        omega
      · by_cases hqr : q = r
        · exact .inl (by rw [hqr])
        · refine .inr ?_
          rw [leBytes_length]
          dsimp only
          omega
      · refine .inr (.inr ?_)
        dsimp only
        omega

/-! The save (R461). -/

theorem State.onlyMemory_canWrite (s : State) (p a n : Nat) : s.OnlyMemory (s.canWrite p a n).2 := by
  unfold State.canWrite
  refine State.OnlyMemory.foldl (σ := CanWrite × State) Prod.snd (fun acc ch => ?_) _ (.yes, s)
  split
  · have hpage := acc.2.onlyMemory_ownPage (acc.2.part p).pod p ch.1 true .hold
    split <;> rename_i h <;> rw [h] at hpage <;> exact hpage
  · exact .refl _

/-- An answer that comes with a module in which memory alone has changed. -/
def State.KeptBy {α : Type} (s : State) (r : α × State) : Prop := s.OnlyMemory r.2

theorem State.KeptBy.pair {α β : Type} {s : State} {r : α × State} (h : s.KeptBy r) (b : β) : s.KeptBy (b, r.2) := h

theorem State.OnlyMemory.fold {α : Type} {f : State → α → State} (hstep : ∀ (s : State) x, s.OnlyMemory (f s x)) (l : List α)
    (s : State) : s.OnlyMemory (l.foldl f s) := State.OnlyMemory.foldl id hstep l s

theorem State.KeptBy.foldl {α β : Type} {f : α × State → β → α × State} (hstep : ∀ a (t : State) x, t.KeptBy (f (a, t) x))
    (l : List β) (a : α) (s : State) : s.KeptBy (l.foldl f (a, s)) := by
  induction l generalizing a s with
  | nil => exact State.OnlyMemory.refl s
  | cons x l ih => exact State.OnlyMemory.trans (hstep a s x) (ih (f (a, s) x).1 (f (a, s) x).2)

theorem State.keptBy_recordPages (s : State) (p at_ : Nat) : s.KeptBy (s.recordPages p at_) := by
  unfold State.recordPages
  refine State.KeptBy.foldl (fun a t i => ?_) (List.range 1024) true s
  exact State.KeptBy.pair (t.onlyMemory_canWrite p (at_ + 4096 * i) 4096) _

theorem State.onlyMemory_writeRecord (s : State) (p at_ : Nat) (m : Memory) : s.OnlyMemory (s.writeRecord p at_ m) := by
  unfold State.writeRecord
  refine State.OnlyMemory.fold (fun t i => ?_) (List.range 1024) s
  exact t.onlyMemory_writeVirtual ..

/-- The pages of the records of a list of cores, each checked in turn. -/
def State.savePages (s : State) (p : Nat) (x : Partition) (l : List Nat) : Bool × State :=
  l.foldl (fun (acc : Bool × State) n =>
    let r := acc.2.recordPages p (x.recordAt (s.core n).lcore)
    (acc.1 && r.1, r.2)) (true, s)

theorem State.keptBy_savePages (s : State) (p : Nat) (x : Partition) (l : List Nat) : s.KeptBy (s.savePages p x l) := by
  unfold State.savePages
  refine State.KeptBy.foldl (fun a t n => ?_) l true s
  dsimp only
  exact (t.keptBy_recordPages p (x.recordAt (s.core n).lcore)).pair _

/-- The core that is kept beside a record: of a phase that runs, with its cycle relative to the save (R422). -/
def Partition.keptCore (x : Partition) (now : Nat) (c : Core) : Core :=
  if x.run.isNone then c else { c with bal := { c.bal with phaseAt := now - c.bal.phaseAt } }

/-- The record that a core writes. -/
def Partition.recordOf (x : Partition) (launch grade free : Nat) (c : Core) : Memory :=
  c.record launch free (match c.seq.run with
    | .stopped k => k
    | _ => x.saveKind) grade

/-- One core's part of a save. -/
def State.saveCore (x : Partition) (launch grade p : Nat) (s : State) (n : Nat) : State :=
  let c := s.core n
  let m := x.recordOf launch grade s.nFree c
  (({ s with nFree := s.nFree + 1 } : State).writeRecord p ((s.part p).recordAt c.lcore) m).onPart p fun y =>
    { y with saved := { lcore := c.lcore, core := x.keptCore s.now c, record := m } :: y.saved }

section
variable (x : Partition) (launch grade p : Nat)

/-- A core that is put in front of those kept before, once memory holds its record. -/
theorem State.keeps_of_record {s t : State} {free : Nat} (h : ({ s with nFree := free } : State).OnlyMemory t) (p : Nat)
    (r : SavedCore) : (t.onPart p fun y => { y with saved := r :: y.saved }).cores = s.cores ∧
      (t.onPart p fun y => { y with saved := r :: y.saved }).now = s.now ∧
      ((t.onPart p fun y => { y with saved := r :: y.saved }).part p).saved = r :: (s.part p).saved := by
  have hpart : t.part p = s.part p := h.part p
  rw [State.part_onPart, hpart]
  exact ⟨h.cores, h.now, rfl⟩

/-- One core's part of a save keeps the cores, and puts the core in front of those kept before. -/
theorem State.saveCore_keeps (s : State) (n : Nat) :
    (s.saveCore x launch grade p n).cores = s.cores ∧ (s.saveCore x launch grade p n).now = s.now ∧
      ((s.saveCore x launch grade p n).part p).saved =
        { lcore := (s.core n).lcore, core := x.keptCore s.now (s.core n)
          record := x.recordOf launch grade s.nFree (s.core n) } :: (s.part p).saved := by
  unfold State.saveCore
  exact State.keeps_of_record (State.onlyMemory_writeRecord ..) p _

/-- The save of a list of cores: each is kept. -/
theorem State.saveCores_keeps (l : List Nat) (s : State) :
    let t := l.foldl (State.saveCore x launch grade p) s
    t.cores = s.cores ∧ (∀ r ∈ (s.part p).saved, r ∈ (t.part p).saved) ∧
      ∀ n ∈ l, ∃ r ∈ (t.part p).saved, r.lcore = (s.core n).lcore ∧ r.core = x.keptCore s.now (s.core n) := by
  induction l generalizing s with
  | nil => exact ⟨rfl, fun _ h => h, fun n hn => by cases hn⟩
  | cons n l ih =>
    rw [List.foldl_cons]
    obtain ⟨hcores, hnow, hsaved⟩ := s.saveCore_keeps x launch grade p n
    generalize s.saveCore x launch grade p n = u at hcores hnow hsaved
    obtain ⟨hcores', hkept, hl⟩ := ih u
    generalize l.foldl (State.saveCore x launch grade p) u = t at hcores' hkept hl
    have hcore (j : Nat) : u.core j = s.core j := congrArg (Tab.look ({ num := j } : Core) · j) hcores
    rw [hsaved] at hkept
    refine ⟨hcores'.trans hcores, fun r hr => hkept r (List.mem_cons_of_mem _ hr), fun j hj => ?_⟩
    obtain rfl | hj := List.mem_cons.mp hj
    · exact ⟨_, hkept _ List.mem_cons_self, rfl, rfl⟩
    · obtain ⟨r, hr, hlcore, hrcore⟩ := hl j hj
      rw [hcore, hnow] at hrcore
      rw [hcore] at hlcore
      exact ⟨r, hr, hlcore, hrcore⟩

end

theorem State.tellHeld_one {s : State} {p : Nat} (hone : (s.part p).twoBox = false) : s.tellHeld p = s := by
  refine if_neg ?_
  rw [hone]
  exact Bool.false_ne_true

/-- `t` holds the memory, the cores and the saved cores of partition `p` that `s` holds. -/
structure State.KeepsSaved (p : Nat) (s t : State) : Prop where
  dev : t.dev = s.dev
  host0 : t.host0 = s.host0
  host1 : t.host1 = s.host1
  cores : t.cores = s.cores
  saved : (t.part p).saved = (s.part p).saved

theorem State.KeepsSaved.trans {p : Nat} {s t u : State} (h : State.KeepsSaved p s t) (g : State.KeepsSaved p t u) :
    State.KeepsSaved p s u :=
  ⟨g.dev.trans h.dev, g.host0.trans h.host0, g.host1.trans h.host1, g.cores.trans h.cores, g.saved.trans h.saved⟩

theorem State.keepsSaved_onPart {p : Nat} {s t : State} (h : State.KeepsSaved p s t) {f : Partition → Partition}
    (hf : ∀ x, (f x).saved = x.saved) : State.KeepsSaved p s (t.onPart p f) :=
  ⟨h.dev, h.host0, h.host1, h.cores, by rw [State.part_onPart, hf, h.saved]⟩

theorem State.keepsSaved_reconcile (s : State) (p : Nat) (abort save : Bool) :
    State.KeepsSaved p s (s.reconcile p abort save) := by
  unfold State.reconcile
  extract_lets x
  have hx : x.saved = (s.part p).saved := rfl
  clear_value x
  split
  · exact ⟨rfl, rfl, rfl, rfl, rfl⟩
  · refine ⟨rfl, rfl, rfl, rfl, ?_⟩
    have hpart (y : Partition) : Tab.look ({} : Partition) (Tab.store s.parts p y) p = y := Tab.look_store_same ..
    exact (congrArg Partition.saved (hpart _)).trans hx

/-- What a save needs before it writes (R458, R461). -/
structure State.MaySave (s : State) (p : Nat) (t : Timetable) : Prop where
  tt : (s.part p).tt = some t
  one : t.twobox = false
  state : (s.part p).state = 6
  unsaved : (s.part p).saveSet = []
  asked : (s.part p).preemptAt.isSome = true
  restored : (s.part p).restore = []
  settled : ∀ n ∈ s.savers p, (s.core n).isStopped = true ∧ (s.core n).settled = true ∧ s.unitsRest n = true

/-- The grade of the phase that a save keeps. -/
def Partition.savedGrade (x : Partition) : Nat := ((x.run.orElse fun _ => x.savedRun).map (·.grade)).getD 0

/-- The module once each core of a save has written its record. -/
def State.recordsWritten (s v : State) (p : Nat) (t : Timetable) : State :=
  (s.savers p).foldl (State.saveCore (s.part p) t.launch (s.part p).savedGrade p) v

/-- A save whose records may all be written leaves the partition SAVED, and tells the host. -/
theorem State.contextSave_saves {s v : State} {p : Nat} {t : Timetable} (h : s.MaySave p t)
    (hpages : s.savePages p (s.part p) (s.savers p) = (true, v)) :
    ∃ z : State, s.contextSave p = (z.onPart p fun x => { x with state := 7 }).notify p ∧
      State.KeepsSaved p (s.recordsWritten v p t) z ∧ (z.part p).run = none ∧ (z.part p).ready = none ∧
      (z.part p).preemptAt = none ∧
      (z.part p).saveSet = (s.savers p).map fun n => ((s.recordsWritten v p t).core n).lcore := by
  obtain ⟨htt, htwo, hstate, hset, hasked, hrest, hcores⟩ := h
  have hone : (s.part p).twoBox = false := by
    change (s.part p).tt.any (·.twobox) = false
    rw [htt]
    exact htwo
  unfold State.contextSave
  rw [State.tellHeld_one hone]
  extract_lets x cores s₁ ready pages s₂ t' grade kindOf written between s₃ s₄ s₅ idx lcs s₆
  have hready : ready = true := by
    have hall : (cores.all fun n => (s.core n).isStopped && (s.core n).settled && s.unitsRest n) = true :=
      List.all_eq_true.mpr fun n hn => by
        obtain ⟨h1, h2, h3⟩ := hcores n hn
        rw [h1, h2, h3]
        rfl
    change (x.state == 6 && x.saveSet.isEmpty && x.preemptAt.isSome && (!x.twoBox || x.farAsked || x.linkBroke || !s.boxUp) &&
      x.restore.isEmpty && (cores.all fun n => (s.core n).isStopped && (s.core n).settled && s.unitsRest n)) = true
    rw [hall, show x.state = 6 from hstate, show x.saveSet = [] from hset, show x.preemptAt.isSome = true from hasked,
      show x.twoBox = false from hone, show x.restore = [] from hrest]
    rfl
  have hpg : pages = (true, v) := hpages
  have ht : t' = t := by
    change x.tt.getD {} = t
    rw [show x.tt = some t from htt]
    rfl
  have hw : written = s.recordsWritten v p t := by
    change cores.foldl (State.saveCore x t'.launch grade p) pages.2 = _
    rw [hpg, ht]
    rfl
  have hkept : State.KeepsSaved p (s.recordsWritten v p t) s₆ := by
    have h4 : State.KeepsSaved p (s.recordsWritten v p t) s₄ := by
      rw [← hw]
      have h3 : State.KeepsSaved p written s₃ := State.keepsSaved_onPart ⟨rfl, rfl, rfl, rfl, rfl⟩ fun _ => rfl
      exact h3.trans ⟨rfl, rfl, rfl, rfl, rfl⟩
    have h5 : State.KeepsSaved p (s.recordsWritten v p t) s₅ := by
      unfold s₅
      split
      · exact h4
      · exact h4.trans (s₄.keepsSaved_reconcile p false true)
    exact State.keepsSaved_onPart h5 fun _ => rfl
  have hlcs : lcs = (s.savers p).map fun n => ((s.recordsWritten v p t).core n).lcore := by
    have hcores : s₅.cores = (s.recordsWritten v p t).cores := hkept.cores
    exact congrArg (fun cs => (s.savers p).map fun n => (Tab.look ({ num := n } : Core) cs n).lcore) hcores
  have hpart : (s₆.part p).run = none ∧ (s₆.part p).ready = none ∧ (s₆.part p).preemptAt = none ∧
      (s₆.part p).saveSet = lcs := by
    unfold s₆
    rw [State.part_onPart]
    exact ⟨rfl, rfl, rfl, rfl⟩
  obtain ⟨hrun, hwaits, hat, hsaved⟩ := hpart
  refine ⟨s₆, ?_, hkept, hrun, hwaits, hat, hsaved.trans hlcs⟩
  have hpass : ¬ (!pages.1) = true := by
    rw [hpg]
    exact Bool.false_ne_true
  rw [hready, if_neg (by decide), if_neg hpass, ht, htwo]
  exact if_pos rfl

/-- A partition that is not being saved writes nothing. -/
theorem State.contextSave_idle {s : State} {p : Nat} (h : (s.part p).state ≠ 6) : s.contextSave p = s.tellHeld p := by
  unfold State.contextSave
  extract_lets x cores s₁ ready
  have hready : ready = false := by
    have hstate : (x.state == 6) = false := beq_eq_false_iff_ne.mpr h
    unfold ready
    rw [hstate]
    simp only [Bool.false_and]
  rw [hready]
  rfl

end Sys2Proof.Machine
end

section
/-! Settles O46. The end of a scrub (R484), of an invalidation (R395) and of a walk (R386, R391), a load that the far module
does not answer (R488), and a stack that doubles its refresh (R400). -/

namespace Sys2Proof.Machine

theorem State.runPart_eq {s t : State} {ev : State → Nat → State} (h : s.focus.idx < 40) (hev : ev s s.focus.idx = t) :
    s.runPart ev = .next t := (if_pos h).trans (congrArg Host.Outcome.next hev)

theorem State.runPod_eq {s t : State} {ev : State → Nat → State} (h : s.focus.idx < 8) (hev : ev s s.focus.idx = t) :
    s.runPod ev = .next t := (if_pos h).trans (congrArg Host.Outcome.next hev)

theorem State.runStack_eq {s t : State} {ev : State → Nat → State} (h : s.focus.idx < 16) (hev : ev s s.focus.idx = t) :
    s.runStack ev = .next t := (if_pos h).trans (congrArg Host.Outcome.next hev)

/-! The far module's answer (R488). -/

section
variable {s : State} {p : Nat}

theorem State.farTimeout_idle (hload : (s.part p).loading = none)
    (hresume : (s.part p).twoBox = false ∨ (s.part p).resumeAt = 0) : s.farTimeout p = s := by
  unfold State.farTimeout
  extract_lets x late
  have hlate : (x.twoBox && late x.resumeAt) = false := by
    obtain h | h := hresume
    · rw [show x.twoBox = false from h, Bool.false_and]
    · change (x.twoBox && (x.resumeAt != 0 && _)) = false
      rw [show x.resumeAt = 0 from h, bne_self_eq_false, Bool.false_and, Bool.and_false]
  rw [show x.loading = none from hload, hlate]
  rfl

theorem State.farTimeout_late (hload : (s.part p).loading.isSome = true) (hasked : (s.part p).loadAt ≠ 0)
    (hlate : (s.part p).loadAt + oneSecond ≤ s.now + 1) : s.farTimeout p = s.loadFails p 7 := by
  unfold State.farTimeout
  extract_lets x late
  refine if_pos ?_
  change (x.loading.isSome && (x.loadAt != 0 && decide (x.loadAt + oneSecond ≤ s.now + 1))) = true
  rw [show x.loading.isSome = true from hload, bne_iff_ne.mpr hasked, decide_eq_true hlate]
  rfl

end

/-! The scrub (R484). -/

theorem keptBy_mappedRanges (l : Nat) (s : State) (t : Nat) : s.KeptBy (mappedRanges l s t) := by
  induction l generalizing s t with
  | zero => exact State.OnlyMemory.refl s
  | succ l ih =>
    rw [mappedRanges]
    refine State.KeptBy.foldl (fun a u i => ?_) _ [] s
    have hread : u.KeptBy (u.devRead (t + 8 * i) 8 true) := u.onlyMemory_devRead ..
    dsimp only
    split <;> rename_i h <;> rw [h] at hread
    · exact hread
    · rename_i bs v
      split
      · exact hread
      · split
        · split
          · exact hread
          · exact State.OnlyMemory.trans hread (ih v _)
        · have hleaf : v.KeptBy (leafPage v 0 t i l (leNat bs)) := leafPage_onlyMemory ..
          split <;> rename_i h <;> rw [h] at hleaf <;> exact State.OnlyMemory.trans hread hleaf

theorem State.onlyMemory_zeroDevice (s : State) (a n : Nat) : s.OnlyMemory (s.zeroDevice a n) := ⟨rfl⟩

/-- The ranges of a list are zero once each has been cleared. -/
theorem State.byte_zeroAll (l : List (Nat × Nat)) (s : State) (a : Nat) :
    (Memory.byte s.dev a = 0 → Memory.byte (l.foldl (fun s r => s.zeroDevice r.1 r.2) s).dev a = 0) ∧
      ∀ r ∈ l, r.1 ≤ a → a < r.1 + r.2 → Memory.byte (l.foldl (fun s r => s.zeroDevice r.1 r.2) s).dev a = 0 := by
  induction l generalizing s with
  | nil => exact ⟨id, fun r hr => by cases hr⟩
  | cons x l ih =>
    obtain ⟨hzero, hl⟩ := ih (s.zeroDevice x.1 x.2)
    have hbyte : Memory.byte (s.zeroDevice x.1 x.2).dev a = if x.1 ≤ a ∧ a < x.1 + x.2 then 0#8 else Memory.byte s.dev a :=
      Memory.byte_clear ..
    refine ⟨fun h => hzero (hbyte.trans ?_), fun r hr hlo hhi => ?_⟩
    · split
      · rfl
      · exact h
    · obtain rfl | hr := List.mem_cons.mp hr
      · exact hzero (hbyte.trans (if_pos ⟨hlo, hhi⟩))
      · exact hl r hr hlo hhi

/-- A table whose entries are changed by number and value. -/
theorem Tab.look_map_key {α : Type} {d : α} {f : Nat → α → α} (t : Tab α) {k : Nat} (hd : f k d = d) :
    Tab.look d (t.map fun e => (e.1, f e.1 e.2)) k = f k (Tab.look d t k) := by
  induction t with
  | nil => exact hd.symm
  | cons e t ih =>
    obtain ⟨j, x⟩ := e
    rw [List.map_cons, Tab.look_cons, Tab.look_cons]
    by_cases hj : j = k
    · rw [if_pos hj, if_pos hj, hj]
    · rw [if_neg hj, if_neg hj]
      exact ih

theorem State.scrubComplete_idle {s : State} {p : Nat} (h : (s.part p).scrubbing = false) : s.scrubComplete p = s := by
  unfold State.scrubComplete
  extract_lets x
  rw [show x.scrubbing = false from h]
  rfl

/-- A module whose listed ranges have been cleared, one after the other. -/
def State.zeroed (r : List (Nat × Nat) × State) : State := r.1.foldl (fun s r => s.zeroDevice r.1 r.2) r.2

theorem State.onlyMemory_zeroed {s : State} {r : List (Nat × Nat) × State} (h : s.KeptBy r) : s.OnlyMemory (State.zeroed r) := by
  unfold State.zeroed
  exact State.OnlyMemory.trans h (State.OnlyMemory.fold (fun s r => s.onlyMemory_zeroDevice r.1 r.2) r.1 r.2)

/-- The state of an interface after a scrub of partition `p`. -/
def State.unlocked (s : State) (p i st : Nat) : Nat := if st = 3 ∧ s.vfPart (i % 512) = some p then 0 else st

/-- The end of a scrub, once the ranges are cleared. -/
def State.scrubEnds (s t : State) (p : Nat) : State :=
  let u := t.setPart p { s.part p with needScrub := false, scrubbing := false }
  { u with tdisp := u.tdisp.map fun e => (e.1, u.unlocked p e.1 e.2) }

theorem State.scrubComplete_ends {s : State} {p : Nat} {r : List (Nat × Nat) × State} (h : (s.part p).scrubbing = true)
    (htc : (s.part p).tcen = true) (hr : mappedRanges 5 s ((s.part p).tcroot * 4096) = r) :
    s.scrubComplete p = s.scrubEnds (State.zeroed r) p := by
  unfold State.scrubComplete
  extract_lets x found t u
  have hfound : found = r := (if_pos htc).trans hr
  clear_value found
  subst hfound
  exact if_neg (by rw [show x.scrubbing = true from h]; exact Bool.false_ne_true)

theorem State.scrubEnds_keeps {s t : State} (h : s.OnlyMemory t) (p : Nat) :
    ((s.scrubEnds t p).part p).needScrub = false ∧ ((s.scrubEnds t p).part p).scrubbing = false ∧
      (∀ port v, v < 512 → s.vfPart v = some p → s.iface port v = 3 → (s.scrubEnds t p).iface port v = 0) ∧
      (s.scrubEnds t p).cores = s.cores := by
  have hpart : (s.scrubEnds t p).part p = { s.part p with needScrub := false, scrubbing := false } :=
    State.part_setPart t p _
  rw [hpart]
  refine ⟨rfl, rfl, fun port v hv hvf hst => ?_, h.cores⟩
  have hmap : (s.scrubEnds t p).iface port v = (s.scrubEnds t p).unlocked p (port * 512 + v) (t.iface port v) :=
    Tab.look_map_key t.tdisp (by
      unfold State.unlocked
      split <;> rfl)
  have hiface : t.iface port v = 3 := (congrArg (Tab.look 0 · (port * 512 + v)) h.tdisp).trans hst
  have hmod : (port * 512 + v) % 512 = v := by omega
  have hserves : (s.scrubEnds t p).vfPart v = some p := by
    have hvfmap : (s.scrubEnds t p).vfmap = s.vfmap := h.vfmap
    unfold State.vfPart at hvf ⊢
    rw [hvfmap]
    exact hvf
  rw [hmap, hiface, State.unlocked, hmod, hserves]
  exact if_pos ⟨rfl, rfl⟩

/-! The end of an invalidation (R395, R396). -/

section
variable {s : State} {p : Nat}

theorem State.invalidationComplete_idle (h : (s.part p).inval = none) : s.invalidationComplete p = s := by
  unfold State.invalidationComplete
  extract_lets x
  rw [show x.inval = none from h]

/-- A walk of partition `p` that an invalidation held goes on. -/
def Walk.released (p : Nat) (w : Walk) : Walk := if w.part = p && w.held then { w with held := false, due := none } else w

theorem Walk.held_released {p : Nat} {w : Walk} (h : (w.released p).part = p) : (w.released p).held = false := by
  unfold Walk.released at h ⊢
  split at h
  · rename_i hheld
    rw [if_pos hheld]
  · rename_i hfree
    rw [if_neg hfree]
    simpa [h] using hfree

/-- The module at the end of an invalidation. -/
def State.invalidated (s : State) (p : Nat) : State :=
  let t := s.setPart p { s.part p with inval := none, invDone := ((s.part p).invDone + 1) % 2 ^ 32 }
  { t with units := t.units.map fun u => (u.1, { u.2 with walks := u.2.walks.map (Walk.released p) }) }

theorem State.invalidationComplete_ends {i : Inval} (h : (s.part p).inval = some i)
    (hdone : ∀ n ∈ (s.part p).cores, (s.core n).markWaits i.no = false ∧ (s.core n).accessMeets i = false) :
    s.invalidationComplete p = s.invalidated p := by
  have hcores : ((s.part p).cores.any fun n => (s.core n).markWaits i.no || (s.core n).accessMeets i) = false :=
    List.any_eq_false.mpr fun n hn => by
      obtain ⟨hmark, haccess⟩ := hdone n hn
      rw [hmark, haccess]
      exact Bool.false_ne_true
  unfold State.invalidationComplete
  extract_lets x
  rw [show x.inval = some i from h]
  refine if_neg ?_
  rintro ⟨-, hany⟩
  rw [show (x.cores.any fun n => (s.core n).markWaits i.no || (s.core n).accessMeets i) = false from hcores] at hany
  cases hany

theorem State.invalidated_keeps (s : State) (p : Nat) :
    ((s.invalidated p).part p).inval = none ∧
      ((s.invalidated p).part p).invDone = ((s.part p).invDone + 1) % 2 ^ 32 ∧ (s.invalidated p).cores = s.cores ∧
      ∀ j, ∀ w ∈ ((s.invalidated p).unit j).walks, w.part = p → w.held = false := by
  have hpart : (s.invalidated p).part p =
      { s.part p with inval := none, invDone := ((s.part p).invDone + 1) % 2 ^ 32 } := State.part_setPart s p _
  rw [hpart]
  refine ⟨rfl, rfl, rfl, fun j w hw hp => ?_⟩
  have hunit : (s.invalidated p).unit j = { s.unit j with walks := (s.unit j).walks.map (Walk.released p) } :=
    Tab.look_map (f := fun u : TransUnit => { u with walks := u.walks.map (Walk.released p) }) rfl s.units j
  rw [hunit] at hw
  obtain ⟨y, -, rfl⟩ := List.mem_map.mp hw
  exact Walk.held_released hp

end

/-! The end of a walk (R386, R391). -/

section
variable {s : State} {k : Nat}

theorem State.translationStep_idle (h : ∀ w ∈ (s.unit k).serving, ∀ d, w.due = some d → s.now < d) :
    s.translationStep k = s := by
  have hnone : ((s.unit k).serving.find? fun w => w.due.any fun t => decide (t ≤ s.now)) = none :=
    List.find?_eq_none.mpr fun w hw => by
      rw [Bool.not_eq_true]
      cases hdue : w.due with
      | none => rfl
      | some d => exact decide_eq_false (Nat.not_le.mpr (h w hw d hdue))
  rw [State.translationStep, hnone]

variable {w : Walk} {v : State}

theorem State.translationStep_ends
    (h : ((s.unit k).serving.find? fun w => w.due.any fun d => decide (d ≤ s.now)) = some w) :
    s.translationStep k = s.endWalk k w := by rw [State.translationStep, h]

/-- The requests that a page answers. -/
def Walk.servedBy (w : Walk) (g : Page) (y : Walk) : Bool := y.part == w.part && g.covers (y.unit * 4096)

theorem State.endWalk_page {g : Page} (h : s.walk k w.part (w.unit * 4096) = (.page g, v)) :
    s.endWalk k w = v.onUnit k fun u =>
      if g.wr || u.walks.any fun y => w.servedBy g y && y.read then
        { u.keepPage w.part g with walks := u.walks.filter fun y => !w.servedBy g y }
      else { u with walks := u.walks.map fun y => if w.servedBy g y then { y with fail := some (g.level, 4) } else y } := by
  rw [State.endWalk, h]
  rfl

theorem State.onUnit_congr {f g : TransUnit → TransUnit} (h : f (v.unit k) = g (v.unit k)) : v.onUnit k f = v.onUnit k g := by
  rw [State.onUnit, State.onUnit, h]

theorem State.endWalk_keeps {g : Page} (h : s.walk k w.part (w.unit * 4096) = (.page g, v))
    (hread : g.wr = true ∨ ∃ y ∈ (v.unit k).walks, w.servedBy g y = true ∧ y.read = true) :
    s.endWalk k w = v.onUnit k fun u => { u with
      cache := ((w.part, g) :: u.cache).take 16384, walks := u.walks.filter fun y => !w.servedBy g y } := by
  rw [State.endWalk_page h]
  refine State.onUnit_congr (if_pos ?_)
  rw [Bool.or_eq_true]
  refine hread.imp id fun ⟨y, hy, hmine, hr⟩ => List.any_eq_true.mpr ⟨y, hy, ?_⟩
  rw [hmine, hr]
  rfl

theorem State.endWalk_readOnly {g : Page} (h : s.walk k w.part (w.unit * 4096) = (.page g, v)) (hwr : g.wr = false)
    (hwrites : ∀ y ∈ (v.unit k).walks, w.servedBy g y = true → y.read = false) :
    s.endWalk k w = v.onUnit k fun u => { u with
      walks := u.walks.map fun y => if w.servedBy g y then { y with fail := some (g.level, 4) } else y } := by
  rw [State.endWalk_page h]
  refine State.onUnit_congr (if_neg ?_)
  rw [hwr, Bool.false_or, List.any_eq_true]
  rintro ⟨y, hy, hmine⟩
  rw [Bool.and_eq_true] at hmine
  rw [hwrites y hy hmine.1] at hmine
  exact Bool.false_ne_true hmine.2

/-- The requests of the walk itself. -/
def Walk.same (w y : Walk) : Bool := y.part == w.part && y.unit == w.unit

theorem State.endWalk_fails {l r : Nat} (h : s.walk k w.part (w.unit * 4096) = (.fail l r, v)) :
    s.endWalk k w = v.onUnit k fun u => { u with
      walks := u.walks.map fun y => if w.same y then { y with fail := some (l, r) } else y } := by
  rw [State.endWalk, h]
  rfl

theorem State.endWalk_waits (h : s.walk k w.part (w.unit * 4096) = (.wait, v)) :
    s.endWalk k w = v.onUnit k fun u => { u with
      walks := u.walks.map fun y => if w.same y then { y with held := true } else y } := by
  rw [State.endWalk, h]
  rfl

end

/-! Refresh (R400). -/

/-- A sticky bit is set afterwards. -/
theorem State.stick_sets (s : State) (k b : Nat) :
    (s.stick k b).dev = s.dev ∧ (s.stick k b).cores = s.cores ∧ ((s.stick k b).stack k).doubled = (s.stack k).doubled ∧
      ((s.stick k b).stack k).sum.testBit b = true := by
  unfold State.stick
  split
  · rename_i h
    exact ⟨rfl, rfl, rfl, h⟩
  · rename_i h
    have hnew : (((s.onStack k fun x => { x with sum := x.sum + 2 ^ b }).event 4 63 (words32 [k + b * 16])).emitOut
        (.msix s.owner 0)).stack k = { s.stack k with sum := (s.stack k).sum + 2 ^ b } :=
      Tab.look_store_same ({} : Stack) _ s.memStacks k
    rw [hnew]
    refine ⟨rfl, rfl, rfl, ?_⟩
    change ((s.stack k).sum + 2 ^ b).testBit b = true
    rw [Nat.add_comm, Nat.testBit_two_pow_add_eq, Bool.not_eq_true _ |>.mp h]
    rfl

theorem State.doubledRefresh_keeps (s : State) (k : Nat) :
    ((s.doubledRefresh k).stack k).doubled = true ∧ ((s.doubledRefresh k).stack k).sum.testBit 6 = true ∧
      (s.doubledRefresh k).dev = s.dev ∧ (s.doubledRefresh k).cores = s.cores := by
  obtain ⟨hdev, hcores, hdoubled, hsum⟩ := (s.onStack k fun x => { x with doubled := true }).stick_sets k 6
  exact ⟨hdoubled.trans (congrArg Stack.doubled (State.stack_onStack ..)), hsum, hdev, hcores⟩

/-! The obligation. -/

theorem State.loadFails_tells (s : State) (p code : Nat) :
    ((s.loadFails p code).part p).state = 4 ∧ ((s.loadFails p code).part p).code = code ∧
      ((s.loadFails p code).part p).loading = none ∧ .msix s.owner (1 + p) ∈ (s.loadFails p code).out ∧
      (s.loadFails p code).cores = s.cores := by
  have hout : (s.loadFails p code).out = s.out ++ [.msix s.owner (1 + p)] := rfl
  rw [hout]
  unfold State.loadFails
  rw [State.part_notify_onPart]
  exact ⟨rfl, rfl, rfl, List.mem_append_right _ List.mem_cons_self, rfl⟩

/-- A tick of the reckoner powers a hot module off, and counts and refills in a cool one (R400, R461). -/
theorem State.tick_holds (s : State) :
    ∃ t, exec .reckonerTick s = .next t ∧ t.ticks = s.ticks + 1 ∧
      (115 < Config.hottest s.ticks → t = { s with off := true, ready := false, agenda := [], ticks := s.ticks + 1 }) ∧
      (Config.hottest s.ticks ≤ 115 → t.lremain = s.lremain - 1 ∧
        t.tf = thermalFactor (Config.hottest s.ticks) ∧ (∀ k, (t.ctx k).susp = false) ∧
        ∀ p, p < 40 → (t.part p).bused = 0 ∧
          ((s.part p).pairs ≠ 0 → (s.part p).ready = none →
            (t.part p).bal = (capBalance ((s.part p).bal + ((s.part p).gain t.tf / 256 : Nat)) (s.part p).cap).1 ∧
            (t.part p).rho = (s.part p).gain t.tf % 256)) := by
  by_cases hot : 115 < Config.hottest s.ticks
  · exact ⟨_, congrArg Host.Outcome.next (State.tick_hot hot), rfl, fun _ => rfl, fun h => absurd hot (Nat.not_lt.mpr h)⟩
  · obtain ⟨hticks, hlease, htf, hsusp, hparts⟩ := State.tick_counts (Nat.not_lt.mp hot)
    refine ⟨s.tick, rfl, hticks, fun h => absurd h hot, fun _ => ⟨hlease, htf, hsusp, ?_⟩⟩
    rw [htf]
    exact hparts

/-- A completed save: state, saved cores, and the notice. -/
theorem State.contextSave_completes {s v : State} {p : Nat} {t : Timetable} (h : s.MaySave p t)
    (hpages : s.savePages p (s.part p) (s.savers p) = (true, v)) :
    ((s.contextSave p).part p).state = 7 ∧ ((s.contextSave p).part p).run = none ∧
      ((s.contextSave p).part p).ready = none ∧ ((s.contextSave p).part p).preemptAt = none ∧
      (s.contextSave p).dev = (s.recordsWritten v p t).dev ∧ (s.contextSave p).host0 = (s.recordsWritten v p t).host0 ∧
      (s.contextSave p).host1 = (s.recordsWritten v p t).host1 ∧
      ((s.contextSave p).part p).saved = ((s.recordsWritten v p t).part p).saved ∧
      ((s.contextSave p).part p).saveSet = ((s.savers p).map fun n => (s.core n).lcore) ∧
      (∀ n ∈ s.savers p, ∃ r ∈ ((s.contextSave p).part p).saved,
        r.lcore = (s.core n).lcore ∧ r.core = (s.part p).keptCore s.now (s.core n)) ∧
      .msix (s.contextSave p).owner (1 + p) ∈ (s.contextSave p).out := by
  obtain ⟨z, hsave, hkeeps, hrun, hready, hasked, hset⟩ := State.contextSave_saves h hpages
  have hv : s.OnlyMemory v := by
    have hkept := s.keptBy_savePages p (s.part p) (s.savers p)
    rw [hpages] at hkept
    exact hkept
  obtain ⟨hcores, -, hkept⟩ := State.saveCores_keeps (s.part p) t.launch (s.part p).savedGrade p (s.savers p) v
  change (s.recordsWritten v p t).cores = v.cores at hcores
  have hcore (n : Nat) : v.core n = s.core n := by rw [State.core, State.core, hv.cores]
  have hcore' (n : Nat) : (s.recordsWritten v p t).core n = s.core n := by
    rw [State.core, hcores]
    exact hcore n
  have hpart : ((z.onPart p fun x => { x with state := 7 }).notify p).part p = { z.part p with state := 7 } :=
    State.part_notify_onPart ..
  rw [hsave, hpart]
  refine ⟨rfl, hrun, hready, hasked, hkeeps.dev, hkeeps.host0, hkeeps.host1, hkeeps.saved, hset.trans ?_, fun n hn => ?_,
    List.mem_append_right _ List.mem_cons_self⟩
  · exact List.map_congr_left fun n _ => by rw [hcore']
  · obtain ⟨r, hr, hlcore, hrcore⟩ := hkept n hn
    rw [hcore] at hlcore hrcore
    rw [hv.now] at hrcore
    exact ⟨r, (congrArg (r ∈ ·) hkeeps.saved).mpr hr, hlcore, hrcore⟩

/-- Settles O46, event by event. -/
theorem ticksSavesAndScrubs : Obligations.TicksSavesAndScrubs := by
  unfold Obligations.TicksSavesAndScrubs
  refine ⟨fun s => ⟨s.tick_holds, fun hleft hkeep => congrArg Host.Outcome.next (State.leaseExpiry_runs hleft hkeep),
      fun h => ⟨fun hlink => congrArg Host.Outcome.next (State.leaseExpiry_alone h hlink),
        fun hlink => congrArg Host.Outcome.next (State.leaseExpiry_passes h hlink)⟩⟩, fun s => ?_⟩
  refine ⟨fun hk hstate => ?_, fun t v hk htt hone hstate hset hasked hrest hcores hpages => ?_,
    fun c launch free kind grade => c.record_head launch free kind grade, fun hk hload hresume => ?_,
    fun hk hload hat hlate => ?_, fun hk hidle => ?_, fun hk hscrub htc => ?_, fun hk hidle => ?_,
    fun i hk hinval hdone => ?_, fun hk hidle => ?_, fun w hk hw => ⟨fun g v hwalk => ⟨fun hread => ?_, fun hwr hwrites => ?_⟩,
      fun l r v hwalk => ?_, fun v hwalk => ?_⟩, fun hk => ?_⟩
  · exact State.runPart_eq (ev := State.contextSave) hk (State.contextSave_idle hstate)
  · intro grade kept saves written
    have hsaves : saves = State.saveCore (s.part s.focus.idx) t.launch grade s.focus.idx := by
      funext a n
      unfold State.saveCore State.writeRecord
      rfl
    have hwritten : written = s.recordsWritten v s.focus.idx t := congrArg (fun f => (s.savers s.focus.idx).foldl f v) hsaves
    rw [hwritten]
    exact ⟨s.contextSave s.focus.idx, State.runPart_eq (ev := State.contextSave) hk rfl,
      State.contextSave_completes ⟨htt, hone, hstate, hset, hasked, hrest, hcores⟩ hpages⟩
  · exact State.runPart_eq (ev := State.farTimeout) hk (State.farTimeout_idle hload hresume)
  · exact ⟨s.loadFails s.focus.idx 7, State.runPart_eq (ev := State.farTimeout) hk (State.farTimeout_late hload hat hlate),
      s.loadFails_tells s.focus.idx 7⟩
  · exact State.runPart_eq (ev := State.scrubComplete) hk (State.scrubComplete_idle hidle)
  · have hkept := keptBy_mappedRanges 5 s ((s.part s.focus.idx).tcroot * 4096)
    generalize hr : mappedRanges 5 s ((s.part s.focus.idx).tcroot * 4096) = r at hkept
    obtain ⟨hneed, hscrubbing, hiface, hcores⟩ := s.scrubEnds_keeps (State.onlyMemory_zeroed hkept) s.focus.idx
    exact ⟨s.scrubEnds (State.zeroed r) s.focus.idx,
      State.runPart_eq (ev := State.scrubComplete) hk (State.scrubComplete_ends hscrub htc hr),
      hneed, hscrubbing, fun x hx a => (State.byte_zeroAll r.1 r.2 a).2 x hx, hiface, hcores⟩
  · exact State.runPart_eq (ev := State.invalidationComplete) hk (State.invalidationComplete_idle hidle)
  · exact ⟨s.invalidated s.focus.idx,
      State.runPart_eq (ev := State.invalidationComplete) hk (State.invalidationComplete_ends hinval hdone),
      s.invalidated_keeps s.focus.idx⟩
  · exact State.runPod_eq (ev := State.translationStep) hk (State.translationStep_idle hidle)
  · exact State.runPod_eq (ev := State.translationStep) hk
      ((State.translationStep_ends hw).trans (State.endWalk_keeps hwalk hread))
  · exact State.runPod_eq (ev := State.translationStep) hk
      ((State.translationStep_ends hw).trans (State.endWalk_readOnly hwalk hwr hwrites))
  · exact State.runPod_eq (ev := State.translationStep) hk
      ((State.translationStep_ends hw).trans (State.endWalk_fails hwalk))
  · exact State.runPod_eq (ev := State.translationStep) hk
      ((State.translationStep_ends hw).trans (State.endWalk_waits hwalk))
  · exact ⟨s.doubledRefresh s.focus.idx, State.runStack_eq (ev := State.doubledRefresh) hk rfl,
      s.doubledRefresh_keeps s.focus.idx⟩

end Sys2Proof.Machine
end

section
/-! The drain of R447 step 2: results that become visible neither read nor change the sequencer, and none is in flight
afterwards. -/

namespace Sys2Proof.Machine

/-- A core with another sequencer. -/
def Core.withSeq (c : Core) (q : Seq) : Core := { c with seq := q }

@[simp] theorem Core.seq_withSeq (c : Core) (q : Seq) : (c.withSeq q).seq = q := rfl

theorem Core.withSeq_self (c : Core) : c.withSeq c.seq = c := rfl

theorem Core.withSeq_withSeq (c : Core) (q r : Seq) : (c.withSeq q).withSeq r = c.withSeq r := rfl

theorem Core.ctlEffect_withSeq (info : Nat → Option CtlInfo) (c : Core) (q : Seq) (n : Nat) (v : Word) :
    (c.withSeq q).ctlEffect info n v = (c.ctlEffect info n v).withSeq q := by
  unfold Core.ctlEffect
  split
  · rfl
  · cases info n with
    | none => rfl
    | some i =>
      dsimp only
      split <;> rfl

/-- A result that becomes visible does not concern the sequencer. -/
theorem Core.apply_withSeq (info : Nat → Option CtlInfo) (c : Core) (q : Seq) (w : WriteBack) :
    (c.withSeq q).apply info w = (c.apply info w).withSeq q := by
  cases w with
  | scalar r v =>
    have happly (d : Core) : d.apply info (.scalar r v) =
        if r = 0 then d else { d with regs := { d.regs with s := Tab.store d.regs.s r v } } := rfl
    rw [happly, happly]
    split <;> rfl
  | ctlWrite n v => exact c.ctlEffect_withSeq info q n v
  | _ => rfl

theorem Core.applyAll_withSeq (info : Nat → Option CtlInfo) (l : List InFlight) (c : Core) (q : Seq) :
    l.foldl (fun c e => c.apply info e.wb) (c.withSeq q) = (l.foldl (fun c e => c.apply info e.wb) c).withSeq q := by
  induction l generalizing c with
  | nil => rfl
  | cons e l ih => rw [List.foldl_cons, List.foldl_cons, Core.apply_withSeq, ih]

/-- A sequencer without the results due at a cycle. -/
def Seq.without (q : Seq) (t : Nat) : Seq := { q with flight := q.flight.filter fun e => e.due != t }

theorem Core.commitAt_withSeq (info : Nat → Option CtlInfo) (c : Core) {q : Seq} (t : Nat) (h : q.flight = c.seq.flight) :
    (c.withSeq q).commitAt info t = (c.commitAt info t).withSeq (q.without t) := by
  have hcommit (d : Core) (r : Seq) (hr : r.flight = c.seq.flight) : (d.withSeq r).commitAt info t =
      ((cycleOrder (c.seq.flight.filter fun e => e.due == t)).foldl (fun c e => c.apply info e.wb) d).withSeq
        (r.without t) := by
    rw [← Core.applyAll_withSeq, ← hr]
    rfl
  rw [hcommit c q h, ← c.withSeq_self, hcommit c c.seq rfl, Core.withSeq_withSeq, Core.withSeq_self]

theorem Core.commitAll_withSeq (info : Nat → Option CtlInfo) (l : List Nat) (c : Core) {q : Seq}
    (h : q.flight = c.seq.flight) :
    l.foldl (fun c t => c.commitAt info t) (c.withSeq q) =
      (l.foldl (fun c t => c.commitAt info t) c).withSeq
        { q with flight := c.seq.flight.filter fun e => decide (e.due ∉ l) } := by
  induction l generalizing c q with
  | nil =>
    have hall : (c.seq.flight.filter fun e => decide (e.due ∉ [])) = q.flight := by simp [h]
    rw [hall]
    rfl
  | cons t l ih =>
    have hseq : (c.commitAt info t).seq = c.seq.without t := by
      rw [← c.withSeq_self, Core.commitAt_withSeq info c t rfl]
      rfl
    rw [List.foldl_cons, List.foldl_cons, Core.commitAt_withSeq info c t h, ih (c.commitAt info t) (by
      rw [hseq, Seq.without, Seq.without, h]), hseq]
    congr 2
    rw [Seq.without, List.filter_filter]
    refine List.filter_congr fun e _ => ?_
    rw [Bool.eq_iff_iff]
    simp only [List.mem_cons, not_or, Bool.and_eq_true, decide_eq_true_eq, bne_iff_ne, ne_eq]
    exact and_comm

/-- Once drained, no result is in flight. -/
theorem Core.drain_withSeq (info : Nat → Option CtlInfo) (c : Core) {q : Seq} (h : q.flight = c.seq.flight) :
    (c.withSeq q).drain info = (c.drain info).withSeq { q with flight := [] } := by
  have hnone : (c.seq.flight.filter fun e => decide (e.due ∉ dueCycles c.seq.flight)) = [] :=
    List.filter_eq_nil_iff.mpr fun e he => by
      rw [decide_eq_true_eq, not_not, dueCycles, List.mem_eraseDups, List.mem_mergeSort]
      exact List.mem_map_of_mem he
  have hdrain := Core.commitAll_withSeq info (dueCycles c.seq.flight) c h
  rw [hnone] at hdrain
  unfold Core.drain
  rw [Core.seq_withSeq, h]
  exact hdrain

theorem Core.land_withSeq (c : Core) (q : Seq) (p : Post) : (c.withSeq q).land p = (c.land p).withSeq q := by
  cases p <;> rfl

theorem Core.landAll_withSeq (l : List Post) (c : Core) (q : Seq) :
    l.foldl (fun c p => c.land p) (c.withSeq q) = (l.foldl (fun c p => c.land p) c).withSeq q := by
  induction l generalizing c with
  | nil => rfl
  | cons p l ih => rw [List.foldl_cons, List.foldl_cons, Core.land_withSeq, ih]

/-- The results of the M slot that have a time land. -/
def Core.landTimed (c : Core) : Core :=
  (c.eng.posts.filter fun p => match p.due with | some _ => true | none => false).foldl (fun c p => c.land p) c

theorem Core.drainAll_eq (c : Core) (now : Nat) :
    c.drainAll now = ((c.drain ctlInfo).landTimed.withSeq
      { (c.drain ctlInfo).landTimed.seq with passed := false }).landDue now := rfl

theorem Core.landTimed_withSeq (c : Core) (q : Seq) : (c.withSeq q).landTimed = c.landTimed.withSeq q :=
  Core.landAll_withSeq _ c q

theorem Core.landDue_withSeq (c : Core) (q : Seq) (now : Nat) : (c.withSeq q).landDue now = (c.landDue now).withSeq q :=
  Core.landAll_withSeq _ c q

/-- A drain depends on the sequencer's results in flight alone, and leaves it without them. -/
theorem Core.drainAll_withSeq (c : Core) {q : Seq} (now : Nat) (h : q.flight = c.seq.flight) :
    (c.withSeq q).drainAll now = (c.drainAll now).withSeq { q with flight := [], passed := false } := by
  rw [Core.drainAll_eq, Core.drainAll_eq, Core.drain_withSeq ctlInfo c h, Core.landTimed_withSeq, Core.withSeq_withSeq,
    Core.landDue_withSeq, Core.landDue_withSeq]
  rfl

theorem Core.seq_drainAll (c : Core) (now : Nat) :
    (c.drainAll now).seq = { c.seq with flight := [], passed := false } := by
  have h := c.drainAll_withSeq now (q := c.seq) rfl
  rw [Core.withSeq_self] at h
  rw [h, Core.seq_withSeq]

/-! What a drain of a core without results in flight leaves. -/

theorem Core.land_keeps (c : Core) (p : Post) :
    (c.land p).ctl = c.ctl ∧ (c.land p).regs = c.regs ∧ (c.land p).mem = c.mem ∧ (c.land p).num = c.num ∧
      (c.land p).part = c.part := by
  unfold Core.land
  extract_lets d
  split <;> exact ⟨rfl, rfl, rfl, rfl, rfl⟩

theorem Core.landAll_keeps (l : List Post) (c : Core) (d : Core) (h : l.foldl (fun c p => c.land p) c = d) :
    d.ctl = c.ctl ∧ d.regs = c.regs ∧ d.mem = c.mem ∧ d.num = c.num ∧ d.part = c.part := by
  induction l generalizing c with
  | nil =>
    cases h
    exact ⟨rfl, rfl, rfl, rfl, rfl⟩
  | cons p l ih =>
    obtain ⟨hctl, hregs, hmem, hnum, hpart⟩ := c.land_keeps p
    obtain ⟨gctl, gregs, gmem, gnum, gpart⟩ := ih (c.land p) h
    exact ⟨gctl.trans hctl, gregs.trans hregs, gmem.trans hmem, gnum.trans hnum, gpart.trans hpart⟩

theorem Core.ctl_drainAll {c : Core} (now : Nat) (h : c.seq.flight = []) : (c.drainAll now).ctl = c.ctl := by
  have hdrain : c.drain ctlInfo = c := by
    unfold Core.drain
    rw [h, show dueCycles [] = [] by simp [dueCycles]]
    rfl
  obtain ⟨hdue, -⟩ := Core.landAll_keeps _ (c.landTimed.withSeq { c.landTimed.seq with passed := false }) _ rfl
  obtain ⟨htimed, -⟩ := Core.landAll_keeps _ c c.landTimed rfl
  rw [Core.drainAll_eq, hdrain]
  exact hdue.trans htimed

end Sys2Proof.Machine
end

section
/-! Settles O6. The trap registers that a trap writes (R445), its trace record (R469), and the entry into service code
(R447). -/

namespace Sys2Proof.Machine

/-! Two fields of one register. -/

/-- A field above another keeps its value when that one is replaced. -/
theorem bits_setBits_above (x v : Nat) {hi lo hi' lo' : Nat} (h : hi + 1 ≤ lo') (hlo : lo ≤ hi) :
    bits (setBits x hi lo v) hi' lo' = bits x hi' lo' := by
  have hparts : 2 ^ lo' = 2 ^ lo * 2 ^ (hi + 1 - lo) * 2 ^ (lo' - (hi + 1)) := by
    rw [← Nat.pow_add, ← Nat.pow_add]
    congr 1
    omega
  have hfield : v % 2 ^ (hi + 1 - lo) < 2 ^ (hi + 1 - lo) := Nat.mod_lt _ (Nat.two_pow_pos _)
  have hlow : x % 2 ^ lo < 2 ^ lo := Nat.mod_lt _ (Nat.two_pow_pos _)
  have hstep : setBits x hi lo v / 2 ^ lo = x / 2 ^ lo / 2 ^ (hi + 1 - lo) * 2 ^ (hi + 1 - lo) + v % 2 ^ (hi + 1 - lo) := by
    rw [setBits_eq, Nat.add_comm, Nat.add_mul_div_right _ _ (Nat.two_pow_pos lo), Nat.div_eq_of_lt hlow, Nat.zero_add]
  rw [bits, bits, hparts, ← Nat.div_div_eq_div_mul, ← Nat.div_div_eq_div_mul, hstep, ← Nat.div_div_eq_div_mul,
    ← Nat.div_div_eq_div_mul, Nat.add_comm, Nat.add_mul_div_right _ _ (Nat.two_pow_pos _), Nat.div_eq_of_lt hfield,
    Nat.zero_add]

/-- A field below another keeps its value when that one is replaced. -/
theorem bits_setBits_below (x v : Nat) {hi lo hi' lo' : Nat} (h : hi' + 1 ≤ lo) (hlo : lo' ≤ hi') :
    bits (setBits x hi lo v) hi' lo' = bits x hi' lo' := by
  have hmod : setBits x hi lo v % 2 ^ (hi' + 1) = x % 2 ^ (hi' + 1) := by
    have hdvd : 2 ^ (hi' + 1) ∣ 2 ^ lo := Nat.pow_dvd_pow 2 h
    rw [setBits_eq, Nat.add_mod, Nat.mod_eq_zero_of_dvd (Dvd.dvd.mul_left hdvd _), Nat.zero_add, Nat.mod_mod,
      Nat.mod_mod_of_dvd _ hdvd]
  have hfield (y : Nat) : bits y hi' lo' = bits (y % 2 ^ (hi' + 1)) hi' lo' := (bits_mod_two_pow y hlo (Nat.lt_succ_self _)).symm
  rw [hfield, hmod, ← hfield]

section
variable (c : Core) {n hi lo hi' lo' v : Nat}

theorem Core.ctlBits_setCtlBits_above (h : hi + 1 ≤ lo') (hlo : lo ≤ hi) (hlo' : lo' ≤ hi') (hhi' : hi' < 64) :
    (c.setCtlBits n hi lo v).ctlBits n hi' lo' = c.ctlBits n hi' lo' := by
  simp only [Core.ctlBits, Core.ctlNat, Core.setCtlBits, Core.ctlOf_setCtl, BitVec.toNat_ofNat,
    bits_mod_two_pow _ hlo' hhi', bits_setBits_above _ _ h hlo]

theorem Core.ctlBits_setCtlBits_below (h : hi' + 1 ≤ lo) (hlo' : lo' ≤ hi') (hhi' : hi' < 64) :
    (c.setCtlBits n hi lo v).ctlBits n hi' lo' = c.ctlBits n hi' lo' := by
  simp only [Core.ctlBits, Core.ctlNat, Core.setCtlBits, Core.ctlOf_setCtl, BitVec.toNat_ofNat,
    bits_mod_two_pow _ hlo' hhi', bits_setBits_below _ _ h hlo']

end

/-! The trap registers (R445). -/

section
variable (c : Core) (t : Trap) (addr : Word) (rem idx cyc : Nat)

theorem Core.trapRegs_eq : c.trapRegs t none addr rem idx cyc =
    ((((((((c.setCtl 0x080 (BitVec.ofNat 64 t.cause)).setCtl 0x081 addr).setCtl 0x082 (BitVec.ofNat 64 cyc)).setCtl 0x083
      (BitVec.ofNat 64 (rem + idx * 2 ^ 8))).setCtl 0x084 (BitVec.ofNat 64 t.slot)).setCtl 0x085 t.det).setCtl 0x086
      0).setCtlBits 0x088 7 7 0) := rfl

/-- What a trap writes. -/
theorem Core.trapRegs_written :
    (c.trapRegs t none addr rem idx cyc).ctlOf 0x080 = BitVec.ofNat 64 t.cause ∧
      (c.trapRegs t none addr rem idx cyc).ctlOf 0x081 = addr ∧
      (c.trapRegs t none addr rem idx cyc).ctlOf 0x082 = BitVec.ofNat 64 cyc ∧
      (c.trapRegs t none addr rem idx cyc).ctlOf 0x083 = BitVec.ofNat 64 (rem + idx * 2 ^ 8) ∧
      (c.trapRegs t none addr rem idx cyc).ctlOf 0x084 = BitVec.ofNat 64 t.slot ∧
      (c.trapRegs t none addr rem idx cyc).ctlOf 0x085 = t.det ∧
      (c.trapRegs t none addr rem idx cyc).ctlOf 0x086 = 0 := by
  rw [Core.trapRegs_eq]
  refine ⟨?_, ?_, ?_, ?_, ?_, ?_, ?_⟩ <;>
    simp only [Core.ctlOf_setCtlBits_other, Core.ctlOf_setCtl_other, Core.ctlOf_setCtl, ne_eq, Nat.reduceEqDiff,
      not_false_eq_true]

/-- What a trap keeps: the other registers. -/
theorem Core.trapRegs_other {k : Nat} (h : k < 0x080 ∨ k = 0x087 ∨ 0x088 < k) :
    (c.trapRegs t none addr rem idx cyc).ctlOf k = c.ctlOf k := by
  rw [Core.trapRegs_eq, Core.ctlOf_setCtlBits_other _ _ _ _ _ (by omega)]
  repeat rw [Core.ctlOf_setCtl_other _ _ _ (by omega)]

theorem Core.trapRegs_ctlBits {k hi lo : Nat} (h : k < 0x080 ∨ k = 0x087 ∨ 0x088 < k) :
    (c.trapRegs t none addr rem idx cyc).ctlBits k hi lo = c.ctlBits k hi lo := by
  rw [Core.ctlBits, Core.ctlBits, Core.ctlNat, Core.ctlNat, c.trapRegs_other t addr rem idx cyc h]

theorem Core.trapRegs_moved : (c.trapRegs t none addr rem idx cyc).ctlBits 0x088 7 7 = 0 := by
  rw [Core.trapRegs_eq, Core.ctlBits_setCtlBits _ (by decide) (by decide)]
  rfl

theorem Core.trapRegs_svc : (c.trapRegs t none addr rem idx cyc).svc = c.svc := by
  have hbit : (c.trapRegs t none addr rem idx cyc).ctlBits 0x088 0 0 = c.ctlBits 0x088 0 0 := by
    rw [Core.trapRegs_eq, Core.ctlBits_setCtlBits_below _ (by decide) (by decide) (by decide)]
    simp only [Core.ctlBits, Core.ctlNat, Core.ctlOf_setCtl_other, ne_eq, Nat.reduceEqDiff, not_false_eq_true]
  exact congrArg (· == 1) hbit

end

/-! The trap event (R427) leaves all but the events. -/

theorem Core.ctlOf_trapEvent (c : Core) (now k : Nat) : (c.trapEvent now).ctlOf k = c.ctlOf k := rfl

theorem Core.svc_trapEvent (c : Core) (now : Nat) : (c.trapEvent now).svc = c.svc := rfl

theorem Core.part_trapEvent (c : Core) (now : Nat) : (c.trapEvent now).part = c.part := rfl

theorem Core.ctlBits_trapEvent (c : Core) (now k hi lo : Nat) : (c.trapEvent now).ctlBits k hi lo = c.ctlBits k hi lo := rfl

theorem Core.trapEvent_frame (c : Core) (now : Nat) : (c.trapEvent now).num = c.num ∧ (c.trapEvent now).seq = c.seq ∧
    (c.trapEvent now).regs = c.regs ∧ (c.trapEvent now).mem = c.mem := ⟨rfl, rfl, rfl, rfl⟩

/-! The trace record (R469). -/

/-- A trace record of 32 bytes. -/
def Core.traceRecord (c : Core) (addr : Word) (type datum : Nat) : Nat :=
  type + c.num * 2 ^ 4 + c.lcore * 2 ^ 16 + c.pidx * 2 ^ 48 + addr.toNat * 2 ^ 64 + c.scycle * 2 ^ 128 +
    datum % 2 ^ 64 * 2 ^ 192

/-- A partition after a trace write: its next record follows, or a drop is counted. -/
def Partition.recorded (r : Option MemErr) (x : Partition) : Partition :=
  if r = none then { x with trnext := (x.trnext + 1) % x.trlen } else { x with trdrop := min (x.trdrop + 1) (2 ^ 32 - 1) }

section
variable {s v : State} {n : Nat} {addr : Word} {type datum : Nat}

theorem State.traceAt_off (h : (s.part (s.core n).part).trlen = 0) : s.traceAt n addr type datum = s := by
  unfold State.traceAt
  extract_lets c x rec_
  exact if_pos h

variable (hon : (s.part (s.core n).part).trlen ≠ 0)
include hon

/-- The trace buffer takes a record when its page may be written, and counts a drop else. -/
theorem State.traceAt_on {r : Option MemErr}
    (h : s.writeVirtual (podOf n) (s.core n).part
      ((s.part (s.core n).part).trbase + 32 * (s.part (s.core n).part).trnext)
      (leBytes 32 ((s.core n).traceRecord addr type datum)) .pass = (r, v)) :
    s.traceAt n addr type datum = v.onPart (s.core n).part (Partition.recorded r) := by
  unfold State.traceAt
  extract_lets c x rec_
  rw [if_neg hon, show s.writeVirtual (podOf n) c.part (x.trbase + 32 * x.trnext) (leBytes 32 rec_) .pass = (r, v) from h]
  cases r <;> rfl

end

/-! The entry (R447). -/

/-- The module once a trap at core `n` has written its registers, its event and its trace record. -/
def State.marked (s : State) (n : Nat) (t : Trap) (addr : Word) (rem idx cyc : Nat) : State :=
  (s.onCore n fun c => ((c.drainAll s.now).trapRegs t none addr rem idx cyc).trapEvent s.now).traceAt n addr
    (if t.cause = Cause.breakpoint then 2 else 1) t.det.toNat

section
variable (s : State) (n : Nat) (t : Trap) (addr : Word) (rem idx cyc : Nat)

theorem State.core_marked : (s.marked n t addr rem idx cyc).core n =
    (((s.core n).drainAll s.now).trapRegs t none addr rem idx cyc).trapEvent s.now := by
  rw [State.marked, State.core_traceAt, State.core_onCore]

theorem State.core_marked_other {m : Nat} (h : m ≠ n) : (s.marked n t addr rem idx cyc).core m = s.core m := by
  rw [State.marked, State.core_traceAt, State.core_onCore_other _ _ _ h]

/-- The core whose phase a trap aborts. -/
def Core.givesUp (c : Core) : Core := { c with seq := { c.seq with run := .aborted, wait := none, access := none } }

/-- No service code serves a trap of class A, one without a service vector, or one inside service code. -/
def Core.unserved (c : Core) (t : Trap) : Bool := classA t.cause || c.ctlOf 0x087 == 0 || c.svc

theorem Core.unserved_marked (c : Core) (now : Nat) :
    ((c.trapRegs t none addr rem idx cyc).trapEvent now).unserved t = c.unserved t := by
  rw [Core.unserved, Core.unserved, Core.ctlOf_trapEvent, Core.svc_trapEvent, Core.trapRegs_svc,
    Core.trapRegs_other _ _ _ _ _ _ (.inr (.inl rfl))]

theorem Core.part_trapRegs (c : Core) : (c.trapRegs t none addr rem idx cyc).part = c.part := by
  rw [Core.trapRegs_eq]
  simp only [Core.setCtlBits_part, Core.setCtl_part]

theorem State.enterTrap_eq : s.enterTrap n t none addr rem idx cyc =
    if ((s.marked n t addr rem idx cyc).core n).unserved t then
      ((s.marked n t addr rem idx cyc).onCore n Core.givesUp).abortPhase ((s.marked n t addr rem idx cyc).core n).part
    else (s.marked n t addr rem idx cyc).onCore n Core.enterService := rfl

/-- A trap is served by its core's service code, or aborts the phase (R447). -/
theorem State.enterTrap_cases : s.enterTrap n t none addr rem idx cyc =
    if ((s.core n).drainAll s.now).unserved t then
      ((s.marked n t addr rem idx cyc).onCore n Core.givesUp).abortPhase ((s.core n).drainAll s.now).part
    else (s.marked n t addr rem idx cyc).onCore n Core.enterService := by
  rw [State.enterTrap_eq, State.core_marked, Core.unserved_marked, Core.part_trapEvent, Core.part_trapRegs]

end

theorem Core.unserved_eq_false {c : Core} {t : Trap} (hclass : t.cause ≠ 0x07 ∧ t.cause ≠ 0x51) (hvec : c.ctlOf 0x087 ≠ 0)
    (hsvc : c.svc = false) : c.unserved t = false := by
  have hA : classA t.cause = false := by
    rw [classA, Bool.or_eq_false_iff]
    exact ⟨beq_eq_false_iff_ne.mpr hclass.1, beq_eq_false_iff_ne.mpr hclass.2⟩
  rw [Core.unserved, hA, hsvc, beq_eq_false_iff_ne.mpr hvec]
  rfl

theorem Core.unserved_eq_true {c : Core} {t : Trap}
    (h : t.cause = 0x07 ∨ t.cause = 0x51 ∨ c.ctlOf 0x087 = 0 ∨ c.svc = true) : c.unserved t = true := by
  have hA : classA t.cause = true ↔ t.cause = 0x07 ∨ t.cause = 0x51 := by
    rw [classA, Bool.or_eq_true, beq_iff_eq, beq_iff_eq]
    rfl
  rw [Core.unserved, Bool.or_eq_true, Bool.or_eq_true, beq_iff_eq, hA, or_assoc, or_assoc]
  exact h

/-! The core in its service code. -/

theorem Core.enterService_ctl (c : Core) {k : Nat} (h : k ≠ 0x088) : c.enterService.ctlOf k = c.ctlOf k :=
  c.ctlOf_setCtlBits_other _ _ _ _ h

theorem Core.enterService_status (c : Core) :
    c.enterService.svc = true ∧ c.enterService.ctlBits 0x088 7 7 = c.ctlBits 0x088 7 7 := by
  have hsvc : c.enterService.ctlBits 0x088 0 0 = 1 := c.ctlBits_setCtlBits (by decide) (by decide)
  refine ⟨beq_iff_eq.mpr hsvc, c.ctlBits_setCtlBits_above (by decide) (by decide) (by decide) (by decide)⟩

theorem Core.enterService_seq (c : Core) : c.enterService.seq.pc = c.ctlOf 0x087 ∧ c.enterService.seq.flight = c.seq.flight ∧
    c.enterService.seq.sticky = c.seq.sticky := ⟨c.ctlOf_setCtlBits_other _ _ _ _ (by decide), rfl, rfl⟩

theorem Core.enterService_events (c : Core) : c.enterService.events = c.events := rfl

theorem Core.enterService_regs (c : Core) : c.enterService.regs = c.regs := rfl

theorem Core.enterService_mem (c : Core) : c.enterService.mem = c.mem := rfl

/-! What the trap registers leave of a core. -/

section
variable (c : Core) (t : Trap) (addr : Word) (rem idx cyc : Nat)

theorem Core.trapRegs_frame : (c.trapRegs t none addr rem idx cyc).num = c.num ∧
    (c.trapRegs t none addr rem idx cyc).seq = c.seq ∧ (c.trapRegs t none addr rem idx cyc).regs = c.regs ∧
    (c.trapRegs t none addr rem idx cyc).mem = c.mem ∧ (c.trapRegs t none addr rem idx cyc).events = c.events := by
  rw [Core.trapRegs_eq]
  simp only [Core.setCtlBits_num, Core.setCtl_num, Core.setCtlBits_seq, Core.setCtl_seq, Core.setCtlBits_regs,
    Core.setCtl_regs, Core.setCtlBits_mem, Core.setCtl_mem, Core.setCtlBits_events, Core.setCtl_events, and_self]

theorem Core.events_event {c d : Core} (now cls payload : Nat) (hnum : c.num = d.num) (hpart : c.part = d.part)
    (hevents : c.events = d.events) : (c.event now cls payload).events = (d.event now cls payload).events := by
  rw [Core.event, Core.event, hnum, hpart, hevents]

theorem Core.ctlNat_eq {c : Core} {k : Nat} {v : Word} (h : c.ctlOf k = v) : c.ctlNat k = v.toNat := congrArg BitVec.toNat h

theorem words32_congr {a b : Nat} {l m : List Nat} (h : a % 2 ^ 32 = b % 2 ^ 32) (hl : words32 l = words32 m) :
    words32 (a :: l) = words32 (b :: m) := by
  rw [words32, words32, h, hl]

/-- The event describes the trapped issue (R427). -/
theorem Core.trapEvent_events (now : Nat) (hcause : t.cause < 256) :
    ((c.trapRegs t none addr rem idx cyc).trapEvent now).events = (c.event now 6 (words32 [addr.toNat, addr.toNat / 2 ^ 32, cyc,
      t.cause + t.slot * 2 ^ 8 + (rem + 256 * idx) * 2 ^ 11, c.lcore + c.pidx * 2 ^ 16, c.starts, 0, 0])).events := by
  obtain ⟨hnum, -, -, -, hevents⟩ := c.trapRegs_frame t addr rem idx cyc
  obtain ⟨h0, h1, h2, h3, h4, -, -⟩ := c.trapRegs_written t addr rem idx cyc
  have hlcore : (c.trapRegs t none addr rem idx cyc).lcore = c.lcore := Core.trapRegs_ctlBits _ _ _ _ _ _ (by decide)
  have hpidx : (c.trapRegs t none addr rem idx cyc).pidx = c.pidx := Core.trapRegs_ctlBits _ _ _ _ _ _ (by decide)
  have hstarts : (c.trapRegs t none addr rem idx cyc).starts = c.starts := Core.trapRegs_ctlBits _ _ _ _ _ _ (by decide)
  have hc : (c.trapRegs t none addr rem idx cyc).ctlBits Ctl.trapcause 7 0 = t.cause := by
    rw [Core.ctlBits, bits_zero, Core.ctlNat_eq (k := Ctl.trapcause) h0, BitVec.toNat_ofNat]
    omega
  refine (Core.events_event now 6 _ hnum (c.part_trapRegs t addr rem idx cyc) hevents).trans ?_
  rw [hlcore, hpidx, hstarts, hc, Core.ctlNat_eq (k := Ctl.trapaddr) h1, Core.ctlNat_eq (k := Ctl.trapcyc) h2,
    Core.ctlNat_eq (k := Ctl.traprep) h3, Core.ctlNat_eq (k := Ctl.trapslot) h4]
  congr 2
  refine words32_congr rfl (words32_congr rfl (words32_congr ?_ (words32_congr ?_ rfl))) <;>
    rw [BitVec.toNat_ofNat]
  · omega
  · rw [BitVec.toNat_ofNat]
    omega

end

/-! The trap of the operation in the focus. -/

theorem Core.logDeviation_keeps (c : Core) (now : Nat) (trapped : Bool) :
    (c.logDeviation now trapped).seq = { c.seq with wait := none } ∧ (c.logDeviation now trapped).scycle = c.scycle := by
  unfold Core.logDeviation
  split
  · rename_i h
    exact ⟨by rw [← h], rfl⟩
  · exact ⟨rfl, Core.ctlBits_setCtlBits_other c (by decide)⟩

section
variable (s : State) (cause : Nat) (det : Word)

/-- The trap of the operation in the focus. -/
def State.trapOf : Trap := { cause := cause, det := det, slot := s.focus.slot }

theorem State.traps_eq : s.traps cause det =
    (s.onCore s.focus.core fun c => c.logDeviation s.now true).enterTrap s.focus.core (s.trapOf cause det) none
      s.hereCore.seq.pc s.hereCore.seq.rem s.hereCore.seq.idx s.hereCore.scycle := by
  obtain ⟨hseq, hscycle⟩ := s.hereCore.logDeviation_keeps s.now true
  unfold State.traps State.trapHere State.takeTrap
  rw [State.core_onCore]
  change State.enterTrap _ _ _ _ (s.hereCore.logDeviation s.now true).seq.pc (s.hereCore.logDeviation s.now true).seq.rem
    (s.hereCore.logDeviation s.now true).seq.idx (s.hereCore.logDeviation s.now true).scycle = _
  rw [hseq, hscycle]
  rfl

/-- The core in the focus with its trap registers and its event written. -/
def State.trapped : Core :=
  (s.drained.trapRegs (s.trapOf cause det) none s.hereCore.seq.pc s.hereCore.seq.rem s.hereCore.seq.idx
    s.hereCore.scycle).trapEvent s.now

/-- The module with the core in the focus trapped, before its trace record. -/
def State.trapping : State := s.changesHere fun _ => s.trapped cause det

/-- The module with the trap written down. -/
def State.traced : State := (s.trapping cause det).traceAt s.focus.core s.hereCore.seq.pc (if cause = 0x1A then 2 else 1)
  det.toNat

theorem State.marked_eq : (s.onCore s.focus.core fun c => c.logDeviation s.now true).marked s.focus.core (s.trapOf cause det)
    s.hereCore.seq.pc s.hereCore.seq.rem s.hereCore.seq.idx s.hereCore.scycle = s.traced cause det := by
  unfold State.marked
  rw [State.onCore_onCore]
  rfl

theorem State.traps_cases : s.traps cause det =
    if s.drained.unserved (s.trapOf cause det) then
      ((s.traced cause det).onCore s.focus.core Core.givesUp).abortPhase s.drained.part
    else (s.traced cause det).onCore s.focus.core Core.enterService := by
  rw [State.traps_eq, State.enterTrap_cases, State.marked_eq, State.core_onCore]
  rfl

theorem State.core_traced : (s.traced cause det).core s.focus.core = s.trapped cause det := by
  rw [State.traced, State.core_traceAt, State.trapping, State.changesHere, State.core_setCore]

theorem State.core_traced_other {m : Nat} (h : m ≠ s.focus.core) : (s.traced cause det).core m = s.core m := by
  rw [State.traced, State.core_traceAt, State.trapping, State.changesHere, State.core_setCore_other _ _ _ h]

theorem State.core_trapping : (s.trapping cause det).core s.focus.core = s.trapped cause det := State.core_setCore ..

theorem State.part_trapped : (s.trapped cause det).part = s.drained.part := by
  rw [State.trapped, Core.part_trapEvent, Core.part_trapRegs]

theorem State.trapped_frame : (s.trapped cause det).num = s.drained.num ∧ (s.trapped cause det).seq = s.drained.seq ∧
    (s.trapped cause det).regs = s.drained.regs ∧ (s.trapped cause det).mem = s.drained.mem := by
  obtain ⟨hnum, hseq, hregs, hmem, -⟩ := s.drained.trapRegs_frame (s.trapOf cause det) s.hereCore.seq.pc s.hereCore.seq.rem
    s.hereCore.seq.idx s.hereCore.scycle
  obtain ⟨gnum, gseq, gregs, gmem⟩ := (s.drained.trapRegs (s.trapOf cause det) none s.hereCore.seq.pc s.hereCore.seq.rem
    s.hereCore.seq.idx s.hereCore.scycle).trapEvent_frame s.now
  exact ⟨gnum.trans hnum, gseq.trans hseq, gregs.trans hregs, gmem.trans hmem⟩

/-- The trap registers of a trap of the operation in the focus. -/
theorem State.trapped_written :
    (s.trapped cause det).ctlOf 0x080 = BitVec.ofNat 64 cause ∧ (s.trapped cause det).ctlOf 0x081 = s.hereCore.seq.pc ∧
      (s.trapped cause det).ctlOf 0x082 = BitVec.ofNat 64 s.hereCore.scycle ∧
      (s.trapped cause det).ctlOf 0x083 = BitVec.ofNat 64 (s.hereCore.seq.rem + 256 * s.hereCore.seq.idx) ∧
      (s.trapped cause det).ctlOf 0x084 = BitVec.ofNat 64 s.focus.slot ∧ (s.trapped cause det).ctlOf 0x085 = det ∧
      (s.trapped cause det).ctlOf 0x086 = 0 := by
  unfold State.trapped
  simp only [Core.ctlOf_trapEvent]
  rw [Nat.mul_comm 256]
  exact s.drained.trapRegs_written (s.trapOf cause det) s.hereCore.seq.pc s.hereCore.seq.rem s.hereCore.seq.idx
    s.hereCore.scycle

theorem State.trapped_other {k : Nat} (h : k < 0x080 ∨ k = 0x087 ∨ 0x088 < k) :
    (s.trapped cause det).ctlOf k = s.drained.ctlOf k := by
  rw [State.trapped, Core.ctlOf_trapEvent, Core.trapRegs_other _ _ _ _ _ _ h]

theorem State.trapped_ctlBits {k hi lo : Nat} (h : k < 0x080 ∨ k = 0x087 ∨ 0x088 < k) :
    (s.trapped cause det).ctlBits k hi lo = s.drained.ctlBits k hi lo := by
  rw [State.trapped, Core.ctlBits_trapEvent, Core.trapRegs_ctlBits _ _ _ _ _ _ h]

theorem State.trapped_events (hcause : cause < 256) : (s.trapped cause det).events =
    (s.drained.event s.now 6 (words32 [s.hereCore.seq.pc.toNat, s.hereCore.seq.pc.toNat / 2 ^ 32, s.hereCore.scycle,
      cause + s.focus.slot * 2 ^ 8 + (s.hereCore.seq.rem + 256 * s.hereCore.seq.idx) * 2 ^ 11,
      s.drained.lcore + s.drained.pidx * 2 ^ 16, s.drained.starts, 0, 0])).events := by
  rw [State.trapped, Core.trapEvent_events _ (s.trapOf cause det) _ _ _ _ _ hcause]
  rfl

theorem State.trapped_moved : (s.trapped cause det).ctlBits 0x088 7 7 = 0 := by
  rw [State.trapped, Core.ctlBits_trapEvent, Core.trapRegs_moved]

/-- The trace record of a trap. -/
def State.trapRecord : Nat :=
  (if cause = 0x1A then 2 else 1) + s.drained.num * 2 ^ 4 + s.drained.lcore * 2 ^ 16 + s.drained.pidx * 2 ^ 48 +
    s.hereCore.seq.pc.toNat * 2 ^ 64 + s.drained.scycle * 2 ^ 128 + det.toNat * 2 ^ 192

theorem State.traceRecord_trapped : (s.trapped cause det).traceRecord s.hereCore.seq.pc (if cause = 0x1A then 2 else 1)
    det.toNat = s.trapRecord cause det := by
  obtain ⟨hnum, -⟩ := s.trapped_frame cause det
  have hlcore : (s.trapped cause det).lcore = s.drained.lcore := s.trapped_ctlBits cause det (by decide)
  have hpidx : (s.trapped cause det).pidx = s.drained.pidx := s.trapped_ctlBits cause det (by decide)
  have hscycle : (s.trapped cause det).scycle = s.drained.scycle := s.trapped_ctlBits cause det (by decide)
  rw [Core.traceRecord, hnum, hlcore, hpidx, hscycle, Nat.mod_eq_of_lt det.isLt]
  rfl

/-- The page of the trace buffer that takes the record. -/
def State.traceWrite : Option MemErr × State :=
  (s.trapping cause det).writeVirtual (podOf s.focus.core) s.drained.part
    ((s.part s.drained.part).trbase + 32 * (s.part s.drained.part).trnext) (leBytes 32 (s.trapRecord cause det)) .pass

variable {s cause det}

theorem State.traced_off (h : (s.part s.drained.part).trlen = 0) : s.traced cause det = s.trapping cause det := by
  refine State.traceAt_off ?_
  rw [State.core_trapping, State.part_trapped]
  exact h

theorem State.traced_on (h : (s.part s.drained.part).trlen ≠ 0) {r : Option MemErr} {v : State}
    (hw : s.traceWrite cause det = (r, v)) : s.traced cause det = v.onPart s.drained.part (Partition.recorded r) := by
  have hpart : ((s.trapping cause det).core s.focus.core).part = s.drained.part := by
    rw [State.core_trapping, State.part_trapped]
  rw [← hpart]
  refine State.traceAt_on (by rw [hpart]; exact h) ?_
  rw [hpart, State.core_trapping, State.traceRecord_trapped]
  exact hw

/-- What a trace write leaves: its memory, and its partition's next place or drops. -/
theorem State.traced_keeps (h : (s.part s.drained.part).trlen ≠ 0) {r : Option MemErr} {v : State}
    (hw : s.traceWrite cause det = (r, v)) :
    ((s.traced cause det).dev = v.dev ∧ (s.traced cause det).host0 = v.host0 ∧ (s.traced cause det).host1 = v.host1) ∧
      (s.traced cause det).part s.drained.part = (s.part s.drained.part).recorded r := by
  have hpart : v.part s.drained.part = s.part s.drained.part := (State.onlyMemory_of_writeVirtual hw).part s.drained.part
  rw [State.traced_on h hw, State.part_onPart, hpart]
  exact ⟨⟨rfl, rfl, rfl⟩, rfl⟩

end

theorem State.traps_serves {s : State} {cause : Nat} {det : Word} (hclass : cause ≠ 0x07 ∧ cause ≠ 0x51)
    (hvec : s.drained.ctlOf 0x087 ≠ 0) (hsvc : s.drained.svc = false) :
    s.traps cause det = (s.traced cause det).onCore s.focus.core Core.enterService := by
  rw [State.traps_cases, Core.unserved_eq_false hclass hvec hsvc]
  rfl

/-- Settles O6: the core in its service code, and the trace record of the trap. -/
theorem takingATrapEntersServiceCode : Obligations.TakingATrapEntersServiceCode := by
  unfold Obligations.TakingATrapEntersServiceCode
  intro s cause det hn n d t e hclass hcause hslot hvec hsvc
  have ht : t = (s.traced cause det).onCore n Core.enterService := State.traps_serves hclass hvec hsvc
  have he : e = (s.trapped cause det).enterService := by
    rw [show e = t.core n from rfl, ht, State.core_onCore, State.core_traced]
  obtain ⟨h0, h1, h2, h3, h4, h5, h6⟩ := s.trapped_written cause det
  obtain ⟨-, hseq, hregs, hmem⟩ := s.trapped_frame cause det
  have hctl {k : Nat} {v : Word} (h : k ≠ 0x088) (hk : (s.trapped cause det).ctlOf k = v) : e.ctlOf k = v := by
    rw [he, Core.enterService_ctl _ h]
    exact hk
  have hvector : (s.trapped cause det).ctlOf 0x087 = d.ctlOf 0x087 := s.trapped_other cause det (by decide)
  obtain ⟨hinside, hmoved⟩ := (s.trapped cause det).enterService_status
  obtain ⟨hpc, hflight, hsticky⟩ := (s.trapped cause det).enterService_seq
  refine ⟨hctl (by decide) h0, hctl (by decide) h1, hctl (by decide) h2, hctl (by decide) h3, hctl (by decide) h4,
    hctl (by decide) h5, hctl (by decide) h6, hctl (by decide) hvector, he ▸ hinside, ?_, ?_, ?_, ?_, ?_, ?_, ?_, ?_, ?_,
    fun k hk => hctl (by omega) (s.trapped_other cause det (by omega)), fun m hm => ?_, ?_, ?_, fun v hon hw => ?_,
    fun err v hon hw => ?_⟩
  · rw [he, hmoved, State.trapped_moved]
  · rw [he]
    rfl
  · rw [he, hpc, hvector]
  · rw [he]
    rfl
  · rw [he, hflight, hseq]
    exact congrArg Seq.flight (Core.seq_drainAll ..)
  · rw [he, hsticky, hseq]
  · rw [he]
    rfl
  · rw [he, Core.enterService_regs, hregs]
  · rw [he, Core.enterService_mem, hmem]
  · rw [ht, State.core_onCore_other _ _ _ hm, State.core_traced_other _ _ _ hm]
  · rw [he, Core.enterService_events, State.trapped_events _ _ _ hcause]
  · intro hoff
    rw [ht, State.traced_off hoff]
    exact ⟨⟨rfl, rfl, rfl⟩, rfl⟩
  · rw [ht]
    exact State.traced_keeps hon hw
  · rw [ht]
    exact State.traced_keeps hon hw

end Sys2Proof.Machine
end

section
/-! Settles O7. A trap that no service code serves aborts the phase (R447, R56); HALT (R453) and PHASE (R164). -/

namespace Sys2Proof.Machine

/-! A core of a list of changed cores. -/

theorem State.core_onCores_holds (s : State) {g : Nat → Core → Core} {P : Core → Prop} (hg : ∀ now c, P c → P (g now c))
    (l : List Nat) {n : Nat} (h : P (s.core n)) : P ((s.onCores l g).core n) := by
  induction l generalizing s with
  | nil => exact h
  | cons m l ih =>
    refine ih (s.onCore m (g s.now)) ?_
    by_cases hm : n = m
    · rw [hm, State.core_onCore, ← hm]
      exact hg _ _ h
    · rw [State.core_onCore_other _ _ _ hm]
      exact h

/-! The abort of a core (R56). -/

/-- A core that has given up its phase: no result is in flight, and its control registers are those given. -/
structure Core.GaveUp (x : Tab Word) (c : Core) : Prop where
  run : c.seq.run = .aborted
  flight : c.seq.flight = []
  ctl : c.ctl = x

theorem Core.abort_seq (c : Core) (now : Nat) : (c.abort now).seq.run = .aborted ∧ (c.abort now).seq.flight = [] ∧
    (c.abort now).seq.after = c.seq.after := by
  have hseq : ((c.drainAll now).cancelAll).seq = { c.seq with flight := [], passed := false } := c.seq_drainAll now
  have hafter : ((c.drainAll now).cancelAll).seq.after = c.seq.after := by rw [hseq]
  have hflight : ((c.drainAll now).cancelAll).seq.flight = [] := by rw [hseq]
  exact ⟨rfl, hflight, hafter⟩

theorem Core.GaveUp.abort {x : Tab Word} {c : Core} (h : c.GaveUp x) (now : Nat) : (c.abort now).GaveUp x := by
  obtain ⟨hrun, hflight, -⟩ := c.abort_seq now
  exact ⟨hrun, hflight, (Core.ctl_drainAll now h.flight).trans h.ctl⟩

theorem State.gaveUp_abortPhase {s : State} {n : Nat} {x : Tab Word} (h : (s.core n).GaveUp x) (p : Nat) :
    ((s.abortPhase p).core n).GaveUp x := by
  rw [State.core_abortPhase]
  refine State.core_onCores_holds (s.reconcile p true false) (P := Core.GaveUp x) (fun now _ hc => Core.GaveUp.abort hc now) (s.participants p) ?_
  rw [State.core_reconcile]
  exact h

theorem State.after_abortPhase (s : State) (p n : Nat) : ((s.abortPhase p).core n).seq.after = (s.core n).seq.after := by
  rw [State.core_abortPhase]
  refine State.core_onCores_holds (s.reconcile p true false) (P := fun c => c.seq.after = (s.core n).seq.after)
    (fun now c hc => ?_) (s.participants p) ?_
  · obtain ⟨-, -, hafter⟩ := c.abort_seq now
    exact hafter.trans hc
  · rw [State.core_reconcile]

theorem State.ended_abortPhase (s : State) (p : Nat) : ((s.abortPhase p).part p).state = 5 ∧
    ((s.abortPhase p).part p).run = none ∧ ((s.abortPhase p).part p).ready = none := by
  rw [State.part_abortPhase]
  exact ⟨rfl, rfl, rfl⟩

/-! An unserved trap. -/

section
variable {s : State} {cause : Nat} {det : Word}

theorem State.traps_aborts (h : cause = 0x07 ∨ cause = 0x51 ∨ s.drained.ctlOf 0x087 = 0 ∨ s.drained.svc = true) :
    s.traps cause det = ((s.traced cause det).onCore s.focus.core Core.givesUp).abortPhase s.drained.part := by
  rw [State.traps_cases, Core.unserved_eq_true h]
  rfl

theorem State.participants_congr {s t : State} {p : Nat} (htt : (t.part p).tt = (s.part p).tt)
    (hrun : (t.part p).run = (s.part p).run) : t.participants p = s.participants p := by
  unfold State.participants
  dsimp only
  rw [htt, hrun]

/-- A trace record changes neither the timetable nor the phase. -/
theorem State.participants_traced (s : State) (cause : Nat) (det : Word) :
    (s.traced cause det).participants s.drained.part = s.participants s.drained.part := by
  by_cases hon : (s.part s.drained.part).trlen = 0
  · rw [State.traced_off hon]
    rfl
  · obtain ⟨-, hpart⟩ := State.traced_keeps (cause := cause) (det := det) hon rfl
    refine State.participants_congr ?_ ?_ <;> rw [hpart, Partition.recorded] <;> split <;> rfl

theorem State.gaveUp_trapped (s : State) (cause : Nat) (det : Word) :
    (s.trapped cause det).givesUp.GaveUp (s.trapped cause det).ctl := by
  obtain ⟨-, hseq, -⟩ := s.trapped_frame cause det
  have hflight : (s.trapped cause det).seq.flight = [] := by
    rw [hseq]
    exact congrArg Seq.flight (Core.seq_drainAll ..)
  exact ⟨rfl, hflight, rfl⟩

end

/-! HALT and PHASE. -/

theorem State.runControl_ok {s : State} {op : Focus → Core → Res Core} {c : Core} (hn : s.onACore)
    (h : op s.here s.linkedCore = .ok c) {t : State} (hend : (s.setCore s.focus.core c).endBundle s.focus.core 0 = t) :
    s.runControl (fun fo s => s.liftCore fo (op fo)) = .next (match (t.core s.focus.core).seq.after with
      | some x => t.trapAfter s.focus.core x
      | none => t) := by
  have hn : s.focus.core < 128 := hn
  have hop : (s.findSuccessor s.focus.core).liftCore s.here (op s.here) = .ok (s.setCore s.focus.core c) := by
    rw [State.findSuccessor_eq, State.liftCore, State.here_core, State.core_setCore, h, Res.map, State.setCore_setCore]
  subst hend
  unfold State.runControl
  beta_reduce
  extract_lets n
  rw [if_pos hn, hop] <;> rfl

/-- A bundle that no trap follows. -/
theorem State.runControl_done {s : State} {op : Focus → Core → Res Core} {c : Core} (hn : s.onACore)
    (h : op s.here s.linkedCore = .ok c) {t : State} (hend : (s.setCore s.focus.core c).endBundle s.focus.core 0 = t)
    (hafter : (t.core s.focus.core).seq.after = none) :
    s.runControl (fun fo s => s.liftCore fo (op fo)) = .next t := by
  rw [State.runControl_ok hn h hend, hafter]

/-- A bundle whose operation traps. -/
theorem State.runControl_traps {s : State} {op : Focus → Core → Res Core} (cause : Nat) (hn : s.onACore)
    (h : op s.here s.linkedCore = .trap (s.here.trap cause)) :
    s.runControl (fun fo s => s.liftCore fo (op fo)) = .next (s.traps cause 0) := by
  have hn : s.focus.core < 128 := hn
  have hop : (s.findSuccessor s.focus.core).liftCore s.here (op s.here) = .trap (s.here.trap cause) := by
    rw [State.findSuccessor_eq, State.liftCore, State.here_core, State.core_setCore, h, Res.map]
  unfold State.runControl
  beta_reduce
  extract_lets n
  rw [if_pos hn, hop] <;> rfl

section
variable {s : State} {n stall : Nat}

theorem State.endBundle_halt (h : (s.core n).seq.haltOp = true) : s.endBundle n stall = s.abortPhase (s.core n).part :=
  if_pos h

theorem State.endBundle_tret (hhalt : (s.core n).seq.haltOp = false) (h : (s.core n).seq.tret = true) :
    s.endBundle n stall = s.returnFromService n :=
  (if_neg (Bool.eq_false_iff.mp hhalt)).trans (if_pos h)

theorem State.endBundle_phase (hhalt : (s.core n).seq.haltOp = false) (htret : (s.core n).seq.tret = false)
    (h : (s.core n).seq.ended = true) :
    s.endBundle n stall = s.onSeq n fun q => { q with run := .atPhase, stall := 0, made := [], begun := false } :=
  (if_neg (Bool.eq_false_iff.mp hhalt)).trans ((if_neg (Bool.eq_false_iff.mp htret)).trans (if_pos h))

end

theorem guardTrap_true {α : Type} {ok : Bool} (h : ok = true) (t : Trap) (k : Res α) : guardTrap ok t k = k := if_pos h

theorem guardTrap_false {α : Type} {ok : Bool} (h : ok = false) (t : Trap) (k : Res α) : guardTrap ok t k = .trap t := by
  rw [guardTrap, h]
  rfl

theorem State.svc_linkedCore (s : State) : s.linkedCore.svc = s.hereCore.svc := rfl

section
variable {s : State} (f : SRI) (hn : s.onACore)
include hn

theorem State.halt_outside (hsvc : s.hereCore.svc = false) : exec (.halt f) s = .next (s.traps 0x01 0) :=
  State.runControl_traps (op := fun fo => opHalt fo f) 0x01 hn (guardTrap_false hsvc _ _)

theorem State.phase_inside (hsvc : s.hereCore.svc = true) : exec (.phase f) s = .next (s.traps 0x01 0) :=
  State.runControl_traps (op := fun fo => opPhase fo f) 0x01 hn (guardTrap_false (by rw [State.svc_linkedCore, hsvc]; rfl) _ _)

/-- The core whose bundle holds HALT. -/
def State.haltingCore (s : State) : Core := s.linkedCore.withSeq { s.linkedCore.seq with haltOp := true }

theorem State.halt_inside (hsvc : s.hereCore.svc = true) (hplain : s.hereCore.plainEnd) :
    exec (.halt f) s = .next ((s.setCore s.focus.core s.haltingCore).abortPhase s.hereCore.part) := by
  obtain ⟨-, -, -, hafter, -⟩ := hplain
  refine State.runControl_done (op := fun fo => opHalt fo f) hn (guardTrap_true hsvc _ _) ?_ ?_
  · rw [State.endBundle_halt (by rw [State.core_setCore]), State.core_setCore]
    rfl
  · rw [State.after_abortPhase, State.core_setCore]
    exact hafter

/-- PHASE outside service code: the core waits at its successor. -/
theorem State.phase_outside (hsvc : s.hereCore.svc = false) (hplain : s.hereCore.plainEnd) :
    exec (.phase f) s = .next (s.changesHere fun c => { c with seq := { c.seq with
      succ := s.nextBundle.1, succNew := s.nextBundle.2, ended := true, run := .atPhase, stall := 0, made := []
      begun := false } }) := by
  obtain ⟨hhalt, htret, -, hafter, -⟩ := hplain
  refine State.runControl_done (op := fun fo => opPhase fo f) hn
    (guardTrap_true (by rw [State.svc_linkedCore, hsvc]; rfl) _ _) ?_ ?_
  · rw [State.endBundle_phase (by rw [State.core_setCore]; exact hhalt) (by rw [State.core_setCore]; exact htret)
      (by rw [State.core_setCore]), State.onSeq, State.onCore, State.core_setCore, State.setCore_setCore]
    rfl
  · rw [State.changesHere, State.core_setCore]
    exact hafter

end

/-- Settles O7: the abort of an unserved trap and of HALT, and the end of a segment at PHASE. -/
theorem abortsAndPhaseEnds : Obligations.AbortsAndPhaseEnds := by
  unfold Obligations.AbortsAndPhaseEnds
  refine ⟨fun s cause det hn => ?_, fun s f hn hplain =>
    ⟨fun hsvc => ?_, State.halt_outside f hn, fun hsvc => State.phase_outside f hn hsvc hplain, State.phase_inside f hn⟩⟩
  · intro n d t h hcause
    have ht : t = ((s.traced cause det).onCore n Core.givesUp).abortPhase d.part := State.traps_aborts h
    obtain ⟨hstate, hrun, hready⟩ := ((s.traced cause det).onCore n Core.givesUp).ended_abortPhase d.part
    obtain ⟨hstopped, -, hctl⟩ : (t.core n).GaveUp (s.trapped cause det).ctl := by
      rw [ht]
      refine State.gaveUp_abortPhase ?_ _
      rw [State.core_onCore, State.core_traced]
      exact s.gaveUp_trapped cause det
    obtain ⟨h0, -, -, -, -, h5, -⟩ := s.trapped_written cause det
    refine ⟨ht ▸ hstate, ht ▸ hrun, ht ▸ hready, hstopped, ?_, ?_, fun m hm => ?_⟩
    · rw [Core.ctlOf, hctl]
      exact h0
    · rw [Core.ctlOf, hctl]
      exact h5
    · rw [ht]
      refine State.run_abortPhase ?_
      rw [← State.participants_traced s cause det] at hm
      exact hm
  · obtain ⟨hstate, hrun, -⟩ := (s.setCore s.focus.core s.haltingCore).ended_abortPhase s.hereCore.part
    exact ⟨_, State.halt_inside f hn hsvc hplain, hstate, hrun, fun m hm => State.run_abortPhase hm⟩

end Sys2Proof.Machine
end

section
/-! Settles O8. The trap that follows a bundle (R454), the stop of DBGBRK (R468), and the return from service code
(R452). -/

namespace Sys2Proof.Machine

/-! The end of a bundle that a trap follows. -/

/-- The core in the focus at its successor, with what follows its bundle. -/
def State.atSuccessor (s : State) (x : Trap) : Core :=
  s.hereCore.withSeq { s.linkedCore.seq.goTo s.nextBundle.1 (if s.nextBundle.2 then .newLine else .sequential) with
    after := some x }

theorem State.endBundle_follows {s : State} {n : Nat} (hhalt : (s.core n).seq.haltOp = false)
    (htret : (s.core n).seq.tret = false) (hended : (s.core n).seq.ended = false)
    (hredirect : (s.core n).seq.redirect = none) :
    s.endBundle n 0 = s.onCore n fun c => c.withSeq { c.seq.goTo c.seq.succ
      (if c.seq.succNew then .newLine else .sequential) with after := c.seq.after } := by
  refine (if_neg (Bool.eq_false_iff.mp hhalt)).trans ((if_neg (Bool.eq_false_iff.mp htret)).trans
    ((if_neg (Bool.eq_false_iff.mp hended)).trans ?_))
  simp only [State.onSeq, State.onCore, hredirect]
  rfl

/-- An operation that notes the trap to follow. -/
theorem State.runControl_follows {s : State} {op : Focus → Core → Res Core} {x : Trap} (hn : s.onACore)
    (hplain : s.hereCore.plainEnd)
    (h : op s.here s.linkedCore = .ok (s.linkedCore.withSeq { s.linkedCore.seq with after := some x })) :
    s.runControl (fun fo s => s.liftCore fo (op fo)) =
      .next ((s.setCore s.focus.core (s.atSuccessor x)).trapAfter s.focus.core x) := by
  obtain ⟨hhalt, htret, hended, -, hredirect⟩ := hplain
  have hend : (s.setCore s.focus.core (s.linkedCore.withSeq { s.linkedCore.seq with after := some x })).endBundle
      s.focus.core 0 = s.setCore s.focus.core (s.atSuccessor x) := by
    rw [State.endBundle_follows (by rw [State.core_setCore]; exact hhalt) (by rw [State.core_setCore]; exact htret)
      (by rw [State.core_setCore]; exact hended) (by rw [State.core_setCore]; exact hredirect), State.onCore,
      State.core_setCore, State.setCore_setCore]
    rfl
  rw [State.runControl_ok hn h hend, State.core_setCore]
  rfl

/-! The trap that follows. -/

/-- The core of a trap that is served. -/
theorem State.core_enterTrap {s : State} {n : Nat} {t : Trap} {addr : Word} {rem idx cyc : Nat}
    (h : ((s.core n).drainAll s.now).unserved t = false) : (s.enterTrap n t none addr rem idx cyc).core n =
      ((((s.core n).drainAll s.now).trapRegs t none addr rem idx cyc).trapEvent s.now).enterService := by
  rw [State.enterTrap_cases, h, if_neg Bool.false_ne_true, State.core_onCore, State.core_marked]

theorem Core.unserved_withSeq (c : Core) (q : Seq) (t : Trap) : (c.withSeq q).unserved t = c.unserved t := rfl

/-- What a served trap leaves in its core. -/
theorem Core.enterService_trapRegs (c : Core) (now : Nat) (t : Trap) (addr : Word) (rem idx cyc : Nat) :
    let e := ((c.trapRegs t none addr rem idx cyc).trapEvent now).enterService
    e.ctlOf 0x080 = BitVec.ofNat 64 t.cause ∧ e.ctlOf 0x081 = addr ∧ e.ctlOf 0x083 = BitVec.ofNat 64 (rem + idx * 2 ^ 8) ∧
      e.ctlOf 0x085 = t.det ∧ e.svc = true ∧ e.seq.pc = c.ctlOf 0x087 ∧ e.seq.arrive = .branch := by
  intro e
  obtain ⟨h0, h1, -, h3, -, h5, -⟩ := c.trapRegs_written t addr rem idx cyc
  have hctl {k : Nat} (h : k ≠ 0x088) : e.ctlOf k = (c.trapRegs t none addr rem idx cyc).ctlOf k :=
    (Core.enterService_ctl _ h).trans (Core.ctlOf_trapEvent ..)
  obtain ⟨hsvc, -⟩ := ((c.trapRegs t none addr rem idx cyc).trapEvent now).enterService_status
  obtain ⟨hpc, -, -⟩ := ((c.trapRegs t none addr rem idx cyc).trapEvent now).enterService_seq
  refine ⟨(hctl (by decide)).trans h0, (hctl (by decide)).trans h1, (hctl (by decide)).trans h3,
    (hctl (by decide)).trans h5, hsvc, ?_, rfl⟩
  rw [hpc, Core.ctlOf_trapEvent, Core.trapRegs_other _ _ _ _ _ _ (.inr (.inl rfl))]

section
variable {s : State} {x : Trap}

theorem State.drainAll_atSuccessor (s : State) (x : Trap) : (s.atSuccessor x).drainAll s.now =
    (s.hereCore.drainAll s.now).withSeq { (s.atSuccessor x).seq with flight := [], passed := false } :=
  s.hereCore.drainAll_withSeq s.now rfl

theorem State.trapAfter_serves (hclass : x.cause ≠ 0x07 ∧ x.cause ≠ 0x51)
    (hvec : (s.hereCore.drainAll s.now).ctlOf 0x087 ≠ 0) (hsvc : (s.hereCore.drainAll s.now).svc = false)
    (hgoes : x.cause ≠ 0x1A ∨ s.hereCore.seq.brkHalt = false) :
    let e := ((s.setCore s.focus.core (s.atSuccessor x)).trapAfter s.focus.core x).core s.focus.core
    e.ctlOf 0x080 = BitVec.ofNat 64 x.cause ∧ e.ctlOf 0x081 = s.nextBundle.1 ∧ e.ctlOf 0x083 = 0 ∧
      e.ctlOf 0x085 = x.det ∧ e.svc = true ∧ e.seq.pc = (s.hereCore.drainAll s.now).ctlOf 0x087 ∧
      e.seq.arrive = .branch := by
  have hbrk : ¬ (decide (x.cause = Cause.breakpoint) && (s.atSuccessor x).seq.brkHalt) = true := by
    rw [Bool.and_eq_true, decide_eq_true_eq]
    rintro ⟨hcause, hhalt⟩
    obtain h | h := hgoes
    · exact h hcause
    · exact Bool.false_ne_true (h.symm.trans hhalt)
  have hafter : (s.setCore s.focus.core (s.atSuccessor x)).trapAfter s.focus.core x =
      (s.setCore s.focus.core (s.atSuccessor x)).enterTrap s.focus.core x none s.nextBundle.1 0 0
        (s.atSuccessor x).scycle := by
    unfold State.trapAfter
    rw [State.core_setCore]
    exact if_neg hbrk
  intro e
  have hserved : (((s.setCore s.focus.core (s.atSuccessor x)).core s.focus.core).drainAll s.now).unserved x = false := by
    rw [State.core_setCore, State.drainAll_atSuccessor, Core.unserved_withSeq, Core.unserved_eq_false hclass hvec hsvc]
  have he : e = ((((s.atSuccessor x).drainAll s.now).trapRegs x none s.nextBundle.1 0 0
      (s.atSuccessor x).scycle).trapEvent s.now).enterService := by
    rw [show e = _ from congrArg (fun t : State => t.core s.focus.core) hafter, State.core_enterTrap hserved,
      State.core_setCore]
    rfl
  obtain ⟨h0, h1, h3, h5, hin, hpc, harrive⟩ := ((s.atSuccessor x).drainAll s.now).enterService_trapRegs s.now x
    s.nextBundle.1 0 0 (s.atSuccessor x).scycle
  rw [he]
  refine ⟨h0, h1, h3, h5, hin, hpc.trans ?_, harrive⟩
  rw [State.drainAll_atSuccessor]
  rfl

/-- The core that halts at a bundle boundary. -/
def Core.halts (c : Core) (now : Nat) : Core := (c.drainAll now).withSeq { (c.drainAll now).seq with
  halted := true, haltReq := false, wait := none, access := none }

theorem State.core_debugStop {s : State} {n : Nat} (hreq : (s.core n).seq.haltReq = true)
    (hhalted : (s.core n).seq.halted = false) : (s.debugStop n).core n = (s.core n).halts s.now := by
  simp only [State.debugStop, hreq, hhalted, Bool.not_true, Bool.or_self, Bool.false_eq_true, if_false, State.trace]
  rw [State.core_traceAt, State.core_onCore]
  rfl

/-- DBGBRK with DMCTL.BRKHALT set stops the core at its successor. -/
theorem State.trapAfter_stops (hcause : x.cause = 0x1A) (hbrk : s.hereCore.seq.brkHalt = true)
    (hhalted : s.hereCore.seq.halted = false) :
    let e := ((s.setCore s.focus.core (s.atSuccessor x)).trapAfter s.focus.core x).core s.focus.core
    e.seq.halted = true ∧ e.seq.pc = s.nextBundle.1 ∧ e.svc = (s.hereCore.drainAll s.now).svc ∧
      e.regs = (s.hereCore.drainAll s.now).regs := by
  intro e
  have hhalts : (s.setCore s.focus.core (s.atSuccessor x)).trapAfter s.focus.core x =
      ((s.setCore s.focus.core (s.atSuccessor x)).onSeq s.focus.core fun q =>
        { q with after := none, haltReq := true }).debugStop s.focus.core := by
    unfold State.trapAfter
    rw [State.core_setCore]
    refine if_pos ?_
    rw [hcause, show (s.atSuccessor x).seq.brkHalt = true from hbrk]
    rfl
  have hcore : ((s.setCore s.focus.core (s.atSuccessor x)).onSeq s.focus.core fun q =>
      { q with after := none, haltReq := true }).core s.focus.core =
      s.hereCore.withSeq { (s.atSuccessor x).seq with after := none, haltReq := true } := by
    rw [State.onSeq, State.core_onCore, State.core_setCore]
    rfl
  have he : e = (s.hereCore.withSeq { (s.atSuccessor x).seq with after := none, haltReq := true }).halts s.now := by
    rw [show e = _ from congrArg (fun t : State => t.core s.focus.core) hhalts,
      State.core_debugStop (by rw [hcore]; rfl) (by rw [hcore]; exact hhalted), hcore]
    rfl
  rw [he, Core.halts, Core.drainAll_withSeq _ _ (by rfl)]
  exact ⟨rfl, rfl, rfl, rfl⟩

end

/-! The return from service code. -/

/-- The core that returns: SVC is cleared, SCYC is TRAPCYC, and the sequencer goes where the trap came from. -/
def Core.returns (c : Core) : Core :=
  let d := (c.setCtlBits Ctl.tstat 0 0 0).setCtlBits Ctl.scyc 31 0 ((c.setCtlBits Ctl.tstat 0 0 0).ctlBits Ctl.trapcyc 31 0)
  let e : Core := { d with seq := { d.seq with parked := false } }
  if c.ctlBits Ctl.tstat 7 7 == 1 then { e with seq := e.seq.goTo (c.ctlOf Ctl.trapaddr) .branch }
  else if c.seq.parked then
    { e with seq := { e.seq.goTo (c.ctlOf Ctl.trapaddr) .sequential with run := .atPhase, ended := true } }
  else { e with seq := { e.seq.goTo (c.ctlOf Ctl.trapaddr) (returnArrival (c.ctlOf Ctl.trapaddr) (c.ctlBits Ctl.traprep 7 0)) with
    begun := decide (c.ctlBits Ctl.traprep 7 0 ≠ 0), rem := c.ctlBits Ctl.traprep 7 0, idx := c.ctlBits Ctl.traprep 15 8 } }

theorem State.returnFromService_eq {s : State} {n : Nat} (h : ((s.core n).returns).seq.pending = []) :
    s.returnFromService n = s.onCore n Core.returns := by
  have hpending : ((s.onCore n Core.returns).core n).seq.pending = [] := by rw [State.core_onCore, h]
  unfold State.returnFromService
  extract_lets t c
  have ht : t = s.onCore n Core.returns := rfl
  clear_value t
  subst ht
  rw [show c.seq.pending = [] from hpending]

section
variable (c : Core)

/-- What every return does. -/
theorem Core.returns_keeps : c.returns.svc = false ∧ c.returns.scycle = c.ctlBits 0x082 31 0 ∧
    c.returns.seq.pc = c.ctlOf 0x081 ∧ c.returns.seq.sticky = c.seq.sticky ∧ c.returns.regs = c.regs ∧
    c.returns.mem = c.mem ∧ c.returns.seq.pending = c.seq.pending ∧ c.returns.seq.after = none := by
  have hctl : c.returns.ctl = ((c.setCtlBits Ctl.tstat 0 0 0).setCtlBits Ctl.scyc 31 0
      ((c.setCtlBits Ctl.tstat 0 0 0).ctlBits Ctl.trapcyc 31 0)).ctl := by
    unfold Core.returns
    extract_lets d e
    split
    · rfl
    · split <;> rfl
  have hsvc : c.returns.ctlBits 0x088 0 0 = 0 := by
    rw [Core.ctlBits_of_ctl hctl]
    exact (Core.ctlBits_setCtlBits_other _ (by decide)).trans (c.ctlBits_setCtlBits (by decide) (by decide))
  have hscycle : c.returns.ctlBits 0x012 31 0 = c.ctlBits 0x082 31 0 := by
    rw [Core.ctlBits_of_ctl hctl]
    refine (Core.ctlBits_setCtlBits _ (by decide) (by decide)).trans ?_
    rw [Core.ctlBits_setCtlBits_other _ (by decide)]
    exact Nat.mod_eq_of_lt (c.ctlBits_lt _ _ _)
  refine ⟨beq_eq_false_iff_ne.mpr (by rw [show c.returns.ctlBits Ctl.tstat 0 0 = 0 from hsvc]; decide), hscycle, ?_⟩
  unfold Core.returns
  extract_lets d e
  split
  · exact ⟨rfl, rfl, rfl, rfl, rfl, rfl⟩
  · split <;> exact ⟨rfl, rfl, rfl, rfl, rfl, rfl⟩

theorem Core.returns_moved (h : c.ctlBits 0x088 7 7 = 1) :
    c.returns.seq.arrive = .branch ∧ c.returns.seq.begun = false := by
  unfold Core.returns
  extract_lets d e
  have hmoved : (c.ctlBits Ctl.tstat 7 7 == 1) = true := beq_iff_eq.mpr h
  rw [if_pos hmoved]
  exact ⟨rfl, rfl⟩

theorem Core.returns_resumes (hmoved : c.ctlBits 0x088 7 7 ≠ 1) (hparked : c.seq.parked = false) :
    c.returns.seq.arrive = returnArrival (c.ctlOf 0x081) (c.ctlBits 0x083 7 0) ∧
      c.returns.seq.rem = c.ctlBits 0x083 7 0 ∧ c.returns.seq.idx = c.ctlBits 0x083 15 8 ∧
      c.returns.seq.run = c.seq.run := by
  unfold Core.returns
  extract_lets d e
  have hstays : ¬ (c.ctlBits Ctl.tstat 7 7 == 1) = true := fun h => hmoved (beq_iff_eq.mp h)
  rw [if_neg hstays, if_neg (Bool.eq_false_iff.mp hparked)]
  exact ⟨rfl, rfl, rfl, rfl⟩

theorem Core.returns_parked (hmoved : c.ctlBits 0x088 7 7 ≠ 1) (hparked : c.seq.parked = true) :
    c.returns.seq.run = .atPhase := by
  unfold Core.returns
  extract_lets d e
  have hstays : ¬ (c.ctlBits Ctl.tstat 7 7 == 1) = true := fun h => hmoved (beq_iff_eq.mp h)
  rw [if_neg hstays, if_pos hparked]

end

section
variable {s : State} (f : SRI) (hn : s.onACore)
include hn

theorem State.tret_outside (hsvc : s.hereCore.svc = false) : exec (.tret f) s = .next (s.traps 0x01 0) :=
  State.runControl_traps (op := fun fo => opTret fo f) 0x01 hn (guardTrap_false hsvc _ _)

/-- The core whose bundle holds TRET. -/
def State.tretCore (s : State) : Core := s.linkedCore.withSeq { s.linkedCore.seq with tret := true }

theorem State.tret_inside (hsvc : s.hereCore.svc = true) (hplain : s.hereCore.plainEnd)
    (hpending : s.hereCore.seq.pending = []) :
    exec (.tret f) s = .next (s.setCore s.focus.core s.tretCore.returns) := by
  obtain ⟨hhalt, -, -, -, -⟩ := hplain
  obtain ⟨-, -, -, -, -, -, hkeeps, hafter⟩ := s.tretCore.returns_keeps
  refine State.runControl_done (op := fun fo => opTret fo f) (c := s.tretCore) hn (guardTrap_true hsvc _ _) ?_ ?_
  · rw [State.endBundle_tret (by rw [State.core_setCore]; exact hhalt) (by rw [State.core_setCore]; rfl),
      State.returnFromService_eq (by rw [State.core_setCore, hkeeps]; exact hpending), State.onCore, State.core_setCore,
      State.setCore_setCore]
  · rw [State.core_setCore, hafter]

/-- TRAP and DBGBRK. -/
theorem State.trap_follows (hplain : s.hereCore.plainEnd) : exec (.trap f) s =
    let x : Trap := { cause := 0x19, det := trapCode f, slot := s.focus.slot }
    .next ((s.setCore s.focus.core (s.atSuccessor x)).trapAfter s.focus.core x) :=
  State.runControl_follows (op := fun fo => opTrap fo f) hn hplain rfl

theorem State.dbgbrk_follows (hplain : s.hereCore.plainEnd) : exec (.dbgbrk f) s =
    let x : Trap := { cause := 0x1A, det := trapCode f, slot := s.focus.slot }
    .next ((s.setCore s.focus.core (s.atSuccessor x)).trapAfter s.focus.core x) :=
  State.runControl_follows (op := fun fo => opDbgbrk fo f) hn hplain rfl

end

theorem trapCode_eq (f : SRI) : trapCode f = BitVec.ofNat 64 (f.imm.toNat % 256) := by
  rw [trapCode, bits_zero]
  rfl

/-- Settles O8: the trap after a bundle, the stop in its place, and each way of the return. -/
theorem trapInstructionsAndTret : Obligations.TrapInstructionsAndTret := by
  unfold Obligations.TrapInstructionsAndTret
  refine ⟨fun s f hn hplain => ?traps, fun s f hn => ⟨fun hsvc hplain hpending => ?returns, State.tret_outside f hn⟩⟩
  case traps =>
    intro n d code traps hvec hsvc
    have hcode : trapCode f = code := trapCode_eq f
    refine ⟨⟨_, State.trap_follows f hn hplain, ?_⟩, fun hbrk => ⟨_, State.dbgbrk_follows f hn hplain, ?_⟩,
      fun hbrk hhalted => ⟨_, State.dbgbrk_follows f hn hplain, ?_⟩⟩
    · obtain ⟨h0, h1, h3, h5, hin, hpc, harrive⟩ := State.trapAfter_serves (s := s)
        (x := { cause := 0x19, det := trapCode f, slot := s.focus.slot }) (by simp) hvec hsvc (.inl (by simp))
      exact ⟨h0, h1, h3, h5.trans hcode, hin, hpc, harrive⟩
    · obtain ⟨h0, h1, h3, h5, hin, hpc, harrive⟩ := State.trapAfter_serves (s := s)
        (x := { cause := 0x1A, det := trapCode f, slot := s.focus.slot }) (by simp) hvec hsvc (.inr hbrk)
      exact ⟨h0, h1, h3, h5.trans hcode, hin, hpc, harrive⟩
    · obtain ⟨hstop, hpc, hin, hregs⟩ := State.trapAfter_stops (s := s)
        (x := { cause := 0x1A, det := trapCode f, slot := s.focus.slot }) rfl hbrk hhalted
      exact ⟨hstop, hpc, hin.trans hsvc, hregs⟩
  case returns =>
    refine ⟨_, State.tret_inside f hn hsvc hplain hpending, ?_⟩
    obtain ⟨hout, hscycle, hpc, hsticky, hregs, hmem, -⟩ := s.tretCore.returns_keeps
    rw [State.core_setCore]
    exact ⟨hout, hscycle, hpc, hsticky, hregs, hmem, s.tretCore.returns_moved, s.tretCore.returns_resumes,
      s.tretCore.returns_parked⟩

end Sys2Proof.Machine
end

section
/-! Settles O35. A carry command whose checks pass enters the carry engine with its scoreboard entry (R313, R318 to
R321). -/

namespace Sys2Proof.Machine

/-! The scoreboard. -/

/-- A command that takes an entry of the scoreboard changes nothing else but a control register. -/
theorem Core.sbTake_keeps (c : Core) (id : Nat) (rd wr : Option (Nat × Nat)) :
    (c.sbTake id rd wr).eng = { c.eng with sb := c.eng.sb ++ [{ id := id, rd := rd, wr := wr }] } ∧
      (c.sbTake id rd wr).regs = c.regs ∧ (c.sbTake id rd wr).mem = c.mem ∧ (c.sbTake id rd wr).q = c.q ∧
      (c.sbTake id rd wr).colls = c.colls := by
  unfold Core.sbTake
  extract_lets sb d
  split <;> exact ⟨rfl, rfl, rfl, rfl, rfl⟩

/-- A command with its entry, where it has extents. -/
def Core.sbEnter (c : Core) (on : Bool) (id : Nat) (rd wr : Option (Nat × Nat)) : Core := if on then c.sbTake id rd wr else c

theorem Core.sbEnter_keeps (c : Core) (on : Bool) (id : Nat) (rd wr : Option (Nat × Nat)) :
    (c.sbEnter on id rd wr).eng =
        { c.eng with sb := c.eng.sb ++ if on then [{ id := id, rd := rd, wr := wr }] else [] } ∧
      (c.sbEnter on id rd wr).regs = c.regs ∧ (c.sbEnter on id rd wr).mem = c.mem ∧ (c.sbEnter on id rd wr).q = c.q ∧
      (c.sbEnter on id rd wr).colls = c.colls := by
  cases on with
  | true => exact c.sbTake_keeps id rd wr
  | false =>
    have hsb : c.eng.sb ++ [] = c.eng.sb := List.append_nil _
    simp only [Core.sbEnter, Bool.false_eq_true, if_false, hsb, and_self]

/-! The carry engine. -/

/-- The core in the focus with a command at the end of its carry engine's queue. -/
def State.carrying (s : State) (kind : CarryKind) (op : Nat) (ext : Option (Nat × Nat)) : Core :=
  ({ s.hereCore with eng := { s.hereCore.eng with
    nextId := s.hereCore.eng.nextId + 1
    carry := { s.hereCore.eng.carry with queue := s.hereCore.eng.carry.queue ++ [{
      id := s.hereCore.eng.nextId, bundle := s.hereCore.seq.pc, kind := kind, op := op }] } } } : Core).sbEnter
    ext.isSome s.hereCore.eng.nextId ext ext

section
variable {s : State} {kind : CarryKind} {op : Nat} {ext : Option (Nat × Nat)}

theorem State.carryIssue_room (hqueue : s.hereCore.eng.carry.queue.length < s.params.cdepth)
    (hsb : ext.isSome = true → s.hereCore.eng.sb.length < 16) :
    s.carryIssue s.here kind op ext = .ok (s.setCore s.focus.core (s.carrying kind op ext)) := by
  have hfree : ¬ (ext.isSome && decide (16 ≤ s.hereCore.eng.sb.length)) = true := by
    rw [Bool.and_eq_true, decide_eq_true_eq]
    exact fun ⟨hsome, hfull⟩ => Nat.not_lt.mpr hfull (hsb hsome)
  exact (if_neg (Nat.not_le.mpr hqueue)).trans (if_neg hfree)

/-- A carry instruction whose checks pass. -/
theorem State.runSlot_carries {o : Focus → State → Res State} {checks : List (Option (Nat × Nat))} (hn : s.onACore)
    (ho : o s.here s = s.here.checked checks (s.carryIssue s.here kind op ext)) (hchecks : ∀ x ∈ checks, x = none)
    (hqueue : s.hereCore.eng.carry.queue.length < s.params.cdepth)
    (hsb : ext.isSome = true → s.hereCore.eng.sb.length < 16) :
    ∃ t, s.runSlot o = .next t ∧
      (t.core s.focus.core).eng.carry = { s.hereCore.eng.carry with queue := s.hereCore.eng.carry.queue ++ [{
        id := s.hereCore.eng.nextId, bundle := s.hereCore.seq.pc, kind := kind, op := op, done := 0, at_ := 0, open_ := 0 }] } ∧
      (t.core s.focus.core).eng.sb = s.hereCore.eng.sb ++
        (if ext.isSome then [{ id := s.hereCore.eng.nextId, rd := ext, wr := ext }] else []) ∧
      (t.core s.focus.core).eng.nextId = s.hereCore.eng.nextId + 1 ∧ (t.core s.focus.core).regs = s.hereCore.regs ∧
      (t.core s.focus.core).mem = s.hereCore.mem ∧ (t.core s.focus.core).q = s.hereCore.q := by
  refine ⟨s.setCore s.focus.core (s.carrying kind op ext), State.runSlot_ok hn
    (ho.trans ((s.here.checked_pass hchecks _).trans (State.carryIssue_room hqueue hsb))), ?_⟩
  obtain ⟨heng, hregs, hmem, hq, -⟩ := Core.sbEnter_keeps { s.hereCore with eng := { s.hereCore.eng with
    nextId := s.hereCore.eng.nextId + 1
    carry := { s.hereCore.eng.carry with queue := s.hereCore.eng.carry.queue ++ [{
      id := s.hereCore.eng.nextId, bundle := s.hereCore.seq.pc, kind := kind, op := op }] } } }
    ext.isSome s.hereCore.eng.nextId ext ext
  rw [State.core_setCore, State.carrying, heng, hregs, hmem, hq]
  exact ⟨rfl, rfl, rfl, rfl, rfl, rfl⟩

end

/-! The checks of R319. -/

section
variable {c : Core} {q : Int} {n : Nat}

theorem Core.carryTraps_remote (halign : q % 4 = 0) (hlow : 0 ≤ q) (hhigh : q + n ≤ 0x140000) :
    ∀ x ∈ c.carryTraps q n true, x = none := by
  have hrange : ¬ (q < 0 ∨ (localTop : Int) < q + n) := by simp only [localTop]; omega
  simp only [Core.carryTraps, halign, hrange, if_true, if_false, List.mem_cons, List.not_mem_nil, or_false, or_self,
    forall_eq]

theorem Core.carryTraps_local (halign : q % 4 = 0) (hlow : 0 ≤ q) (hhigh : q + n ≤ 0x140000)
    (hmode : c.computeBank q.toNat n = none)
    (hexport : ∀ e ∈ c.eng.exports, e.kind = 1 ∨ rangesMeet q.toNat n e.addr e.len = false) :
    ∀ x ∈ c.carryTraps q n false, x = none := by
  have hrange : ¬ (q < 0 ∨ (localTop : Int) < q + n) := by simp only [localTop]; omega
  have hfree : (c.eng.exports.find? fun e => e.kind != 1 && rangesMeet q.toNat n e.addr e.len) = none :=
    List.find?_eq_none.mpr fun e he => by
      rw [Bool.and_eq_true, bne_iff_ne]
      rintro ⟨hkind, hmeet⟩
      obtain h | h := hexport e he
      · exact hkind h
      · exact Bool.false_ne_true (h.symm.trans hmeet)
  simp only [Core.carryTraps, halign, hrange, hmode, hfree, if_true, if_false, Option.map_none, Bool.false_eq_true,
    List.mem_cons, List.not_mem_nil, or_false, or_self, forall_eq]

end

/-- The stream setting is good (R319). -/
theorem streamBad_eq_false {x : Nat} {remote : Bool} (hn : bits x 15 0 ≠ 0) (hlen : bits x 47 16 ≠ 0)
    (hzero : bits x 55 48 = 0) (ht : remote = true ∨ bits x 63 56 = 0) : streamBad x remote = false := by
  rw [streamBad, beq_eq_false_iff_ne.mpr hn, beq_eq_false_iff_ne.mpr hlen, hzero]
  obtain h | h := ht
  · rw [h]
    rfl
  · rw [h, bne_self_eq_false, Bool.and_false]
    rfl

/-- Settles O35: the checks of each command pass, and its command enters the engine. -/
theorem carryCommandsIssue : Obligations.CarryCommandsIssue := by
  unfold Obligations.CarryCommandsIssue
  intro s f hn c q x n len t grp op fits free queues stream
  have hx : x < 2 ^ 64 := (c.sreg f.sb.toNat).isLt
  have hbn : bits x 15 0 = n := bits_zero x 15
  have hblen : bits x 47 16 = len := rfl
  have hbt : bits x 63 56 = t := Nat.mod_eq_of_lt (by omega)
  clear_value n len t
  subst hbn hblen hbt
  refine ⟨fun ⟨hn0, hlen0, hzero⟩ ht ⟨halign, hlow, hhigh⟩ ⟨hmode, hexport⟩ => ?_,
    fun ⟨hn0, hlen0, hzero⟩ hpod hgroup hmember hto ⟨halign, hlow, hhigh⟩ => ?_,
    fun ⟨halign, hlow, hhigh⟩ ⟨hmode, hexport⟩ => ?_, ?_⟩
  · refine State.runSlot_carries (o := fun fo s => opCarry fo f s) hn rfl (List.forall_mem_cons.mpr ⟨?_,
      Core.carryTraps_local halign hlow hhigh hmode hexport⟩)
    exact illegalIf_eq_none (Bool.or_eq_false_iff.mpr ⟨streamBad_eq_false hn0 hlen0 hzero (.inr ht), rfl⟩)
  · refine State.runSlot_carries (o := fun fo s => opCarryRemote fo f s) hn rfl (List.forall_mem_cons.mpr ⟨?_,
      Core.carryTraps_remote halign hlow hhigh⟩)
    have hplace : (!s.inPod c (bits x 63 56) || !s.groupOk c grp || !s.isMember c grp c.lcore ||
        !s.isMember c grp (bits x 63 56)) = false := by
      rw [hpod, hgroup, hmember, hto]
      rfl
    exact illegalIf_eq_none (Bool.or_eq_false_iff.mpr ⟨streamBad_eq_false hn0 hlen0 hzero (.inl rfl), hplace⟩)
  · exact State.runSlot_carries (o := fun fo s => opCarryw fo f s) hn rfl
      (Core.carryTraps_local halign hlow hhigh hmode hexport)
  · exact State.runSlot_carries (o := fun fo s => opCarryst fo f s) (checks := []) hn rfl (fun _ h => by cases h)

end Sys2Proof.Machine
end

section
/-! Settles O34. Descriptors (R324, R342), the masks of CPWAIT and CPFENCE (R333, R344, R354), the operation that CPFOLLOW
carries (R346), and exports (R355). -/

namespace Sys2Proof.Machine

/-! A slot access that nothing stops. -/

theorem Core.slotAccess_open {c : Core} {fo : Focus} {x : SlotAccess} {most : Option Nat} (h : c.accessOpen fo x most)
    (k : Core → Res Core) : c.slotAccess fo x most k = k (c.holdPorts fo.now fo.slot x) := by
  obtain ⟨hpieces, hfree, hfrozen, hmark⟩ := h
  unfold Core.slotAccess
  rw [hpieces, hfree, hfrozen, hmark]

theorem State.changesHere_changesHere (s : State) (f g : Core → Core) :
    (s.changesHere f).changesHere g = s.changesHere fun c => g (f c) := by
  have hcore : (s.changesHere f).hereCore = f s.hereCore := State.core_setCore ..
  rw [State.changesHere, hcore]
  exact State.setCore_setCore ..

theorem State.accesses_nil (s : State) (x : SlotAccess) :
    s.accesses x [] = s.changesHere fun c => c.holdPorts s.now s.focus.slot x :=
  congrArg (s.setCore s.focus.core) (Core.takesIn_nil _)

/-! CPSET (R342). -/

/-- The bytes that CPSET reads: a block of 128, or of 256 where its length field says so. -/
def Core.blockLength (c : Core) (q : Int) : Nat :=
  if q < 0 then 128 else if c.mem.num (q.toNat + 2) 2 = 256 then 256 else 128

def Core.blockAccess (c : Core) (q : Int) : SlotAccess := { write := false, align := false, pieces := [(q, c.blockLength q)] }

section
variable {s : State} (f : CF)
  (hopen : s.hereCore.accessOpen s.here (s.hereCore.blockAccess (cpsetAddr f s.hereCore)))
include hopen

theorem State.cpset_eq : opCpset s.here f s =
    Res.map (s.setCore s.focus.core)
      (match readNest (s.hereCore.mem.bytes (cpsetAddr f s.hereCore).toNat
          (s.hereCore.blockLength (cpsetAddr f s.hereCore))) with
      | .inr off => .trap (s.here.trap Cause.commandBlock off)
      | .inl d => .ok ((s.hereCore.holdPorts s.now s.focus.slot (s.hereCore.blockAccess (cpsetAddr f s.hereCore))).setChan
          f.ch.toNat { s.hereCore.chan f.ch.toNat with
            desc := some d, seq := ((s.hereCore.chan f.ch.toNat).seq + 1) % 2 ^ 16 })) := by
  exact congrArg (Res.map (s.setCore s.focus.core)) (Core.slotAccess_open hopen _)

variable (hn : s.onACore)
include hn

theorem State.cpset_copies {d : Nest} (h : readNest (s.hereCore.mem.bytes (cpsetAddr f s.hereCore).toNat
      (s.hereCore.blockLength (cpsetAddr f s.hereCore))) = .inl d) :
    exec (.cpset f) s = .next ((s.accesses (s.hereCore.blockAccess (cpsetAddr f s.hereCore)) []).changesHere fun c =>
      c.setChan f.ch.toNat { s.hereCore.chan f.ch.toNat with
        desc := some d, seq := ((s.hereCore.chan f.ch.toNat).seq + 1) % 2 ^ 16 }) := by
  refine State.runSlot_ok (op := fun fo s => opCpset fo f s) hn ((State.cpset_eq f hopen).trans ?_)
  rw [h, State.accesses_nil, State.changesHere_changesHere]
  rfl

theorem State.cpset_refuses {off : Nat} (h : readNest (s.hereCore.mem.bytes (cpsetAddr f s.hereCore).toNat
      (s.hereCore.blockLength (cpsetAddr f s.hereCore))) = .inr off) :
    exec (.cpset f) s = .next (s.traps 0x4B (BitVec.ofNat 64 off)) := by
  refine State.runSlot_trap (op := fun fo s => opCpset fo f s) hn ((State.cpset_eq f hopen).trans ?_)
  rw [h]
  rfl

end

/-! Masks (R333, R344, R354). -/

section
variable {s : State} (f : CF) (hn : s.onACore)
include hn

theorem State.cpwait_empty (h : f.imm.toNat % 256 = 0) : exec (.cpwait f) s = .next (s.traps 0x02 0) := by
  refine State.runSlot_core_trap (op := fun fo => opCpwait fo f) hn ?_
  unfold opCpwait
  rw [bits_zero]
  exact if_pos h

theorem State.cpfence_empty (h : f.imm.toNat % 256 = 0) : exec (.cpfence f) s = .next (s.traps 0x02 0) := by
  refine State.runSlot_core_trap (op := fun fo => opCpfence fo f) hn ?_
  unfold opCpfence
  rw [bits_zero]
  exact if_pos h

theorem State.cpwait_notes (h : f.imm.toNat % 256 ≠ 0) :
    exec (.cpwait f) s = .next (s.changesHere fun c => { c with eng := { c.eng with
      nextId := c.eng.nextId + 1
      results := Tab.store c.eng.results (resultQueue s.focus.slot)
        (Tab.look [] c.eng.results (resultQueue s.focus.slot) ++ [.wait c.eng.nextId (f.imm.toNat % 256)]) } }) := by
  refine State.runSlot_core (op := fun fo => opCpwait fo f) hn ?_
  unfold opCpwait
  rw [bits_zero]
  exact if_neg h

theorem State.cpfence_notes (h : f.imm.toNat % 256 ≠ 0) :
    exec (.cpfence f) s = .next (s.changesHere fun c => { c with eng := { c.eng with
      nextId := c.eng.nextId + 1, fences := c.eng.fences ++ [(c.eng.nextId, f.imm.toNat % 256)] } }) := by
  refine State.runSlot_core (op := fun fo => opCpfence fo f) hn ?_
  unfold opCpfence
  rw [bits_zero]
  exact if_neg h

/-! CPFOLLOW (R346). -/

/-- A core that has taken up the operation that CPFOLLOW carries. -/
def Core.follows (c : Core) (ch : Nat) (op : Instr) (a b : Word) : Core :=
  ({ c with eng := { c.eng with nextId := c.eng.nextId + 1, follows := c.eng.follows ++ [{
    id := c.eng.nextId, op := op, a := a, b := b, chan := ch, cmd := (c.chan ch).lastData.map (·.1)
    seq := ((c.chan ch).lastData.map (·.2.1)).getD (c.chan ch).seq
    cmdBundle := ((c.chan ch).lastData.map (·.2.2)).getD c.seq.pc
    bundle := c.seq.pc, scyc := c.scycle }] } } : Core).setChan ch { c.chan ch with seq := ((c.chan ch).seq + 1) % 2 ^ 16 }

theorem State.cpfollow_carries {op : Instr} {a b : Word} (h : s.hereCore.carriedOp = some op)
    (hop : opCpfollow s.here f (some op) s.hereCore = .ok (s.hereCore.follows f.ch.toNat op a b)) :
    exec (.cpfollow f) s = .next (s.changesHere fun c => c.follows f.ch.toNat op a b) := by
  refine State.runSlot_ok (op := fun fo s => s.liftCore fo (opCpfollow fo f (s.core fo.core).carriedOp)) hn ?_
  change Res.map (s.setCore s.focus.core) (opCpfollow s.here f s.hereCore.carriedOp s.hereCore) = _
  rw [h, hop]
  rfl

end

/-! Exports (R355). -/

/-- A region that R355 lets into the table of exports. -/
structure State.Exportable (s : State) (grp a len : Nat) : Prop where
  group : s.groupOk s.hereCore grp = true
  start : a % 256 = 0
  whole : len % 256 = 0
  some_ : 1 ≤ len
  most : len ≤ 2 ^ 20
  top : a + len ≤ 0x140000
  table : s.hereCore.eng.exports.length < 8
  apart : ∀ e ∈ s.hereCore.eng.exports, rangesMeet a len e.addr e.len = false
  scratch : s.hereCore.computeBank a len = none
  room : s.hereCore.eng.sb.length < 16

section
variable {s : State} (f : CF) {kind a len : Nat} (hn : s.onACore)

theorem State.exportBad_eq_false (h : s.Exportable f.grp.toNat a len) (hkind : kind ≠ 3) :
    (kind == 3 || !s.groupOk s.hereCore f.grp.toNat || a % 256 != 0 || len % 256 != 0 || len == 0 ||
      decide (2 ^ 20 < len) || s.hereCore.exportBad a len) = false := by
  obtain ⟨hgroup, hstart, hwhole, hsome, hmost, -, htable, hapart, -, -⟩ := h
  have hbad : s.hereCore.exportBad a len = false := by
    rw [Core.exportBad, Bool.or_eq_false_iff]
    exact ⟨decide_eq_false (Nat.not_le.mpr htable), List.any_eq_false.mpr fun e he =>
      Bool.eq_false_iff.mp (hapart e he)⟩
  simp only [beq_eq_false_iff_ne.mpr hkind, hgroup, hstart, hwhole, beq_eq_false_iff_ne.mpr (Nat.one_le_iff_ne_zero.mp hsome),
    decide_eq_false (Nat.not_lt.mpr hmost), hbad, bne_self_eq_false, Bool.not_true, Bool.or_self]

/-- The core in the focus with its region noted and its entry taken. -/
def State.exporting (s : State) (f : CF) (kind a len : Nat) : Core :=
  ({ s.hereCore with eng := { s.hereCore.eng with
    nextId := s.hereCore.eng.nextId + 1
    exports := s.hereCore.eng.exports ++ [{ addr := a, len := len, grp := f.grp.toNat, kind := kind
                                            id := s.hereCore.eng.nextId, from_ := s.now + 2, live := false }] } } :
    Core).sbTake s.hereCore.eng.nextId none (some (a, len))

theorem State.cpexport_enters (h : s.Exportable f.grp.toNat a len) (hkind : kind ≠ 3)
    (ha : (s.hereCore.sreg f.sa.toNat).toNat = a) (hlen : (s.hereCore.sreg f.sb.toNat).toNat = len) :
    cpexport kind s.here f s = .ok (s.setCore s.focus.core (s.exporting f kind a len)) := by
  have hextent : extent a len = some (a, len) := if_neg (Nat.one_le_iff_ne_zero.mp h.some_)
  have hchecks : ∀ x ∈ [illegalIf (kind == 3 || !s.groupOk s.hereCore f.grp.toNat || a % 256 != 0 || len % 256 != 0 ||
      len == 0 || decide (2 ^ 20 < len) || s.hereCore.exportBad a len),
      if localTop < a + len then some (Cause.localAddress, a) else none,
      (s.hereCore.computeBank a len).map fun b => (Cause.bankMode, b)], x = none := by
    have hrange : ¬ localTop < a + len := Nat.not_lt.mpr h.top
    rw [illegalIf_eq_none (State.exportBad_eq_false f h hkind), if_neg hrange, h.scratch]
    simp only [Option.map_none, List.mem_cons, List.not_mem_nil, or_false, or_self, forall_eq]
  subst ha hlen
  refine (s.here.checked_pass hchecks _).trans ((if_neg (Nat.not_le.mpr h.room)).trans ?_)
  rw [State.exporting, ← hextent]
  rfl

end

/-- An exported region comes into force (R355). -/
theorem Core.startExport_live {c : Core} {now k : Nat} {e : Export} (h : c.eng.exports[k]? = some e) (hlive : e.live = false)
    (hfrom : e.from_ ≤ now) (hclear : c.sbClear e.id = true) :
    c.startExport now k = ({ c with eng := { c.eng with
      exports := c.eng.exports.map fun y => if y.id = e.id then { y with live := true } else y } } : Core).sbDrop e.id := by
  unfold Core.startExport
  rw [h]
  refine if_neg ?_
  rw [hlive, decide_eq_false (Nat.not_lt.mpr hfrom), hclear]
  exact Bool.false_ne_true

/-- Settles O34, instruction by instruction. -/
theorem descriptorsWaitsAndExports : Obligations.DescriptorsWaitsAndExports := by
  unfold Obligations.DescriptorsWaitsAndExports
  refine ⟨fun s f hn => ?_, fun s k e hn hidx he hlive hfrom hclear => ?_⟩
  · intro c ch x q size access mask rq a len grp exports follows
    have hexports {i : Instr} {kind : Nat} (hkind : kind ≠ 3)
        (hexec : exec i s = s.runSlot fun fo s => cpexport kind fo f s) : exports i kind := by
      intro hgroup hstart hwhole hsome hmost htop htable hapart hmode hroom
      have h : s.Exportable f.grp.toNat a len :=
        ⟨hgroup, hstart, hwhole, hsome, hmost, htop, htable, hapart, hmode, hroom⟩
      refine ⟨s.setCore s.focus.core (s.exporting f kind a len), hexec.trans (State.runSlot_ok hn
        (State.cpexport_enters f h hkind rfl rfl)), ?_⟩
      obtain ⟨heng, hregs, hmem, -, -⟩ := Core.sbTake_keeps { s.hereCore with eng := { s.hereCore.eng with
        nextId := s.hereCore.eng.nextId + 1
        exports := s.hereCore.eng.exports ++ [{ addr := a, len := len, grp := f.grp.toNat, kind := kind
                                                id := s.hereCore.eng.nextId, from_ := s.now + 2, live := false }] } }
        s.hereCore.eng.nextId none (some (a, len))
      rw [State.core_setCore, State.exporting, heng, hregs, hmem]
      exact ⟨rfl, rfl, rfl, rfl⟩
    refine ⟨fun d hopen hread => State.cpset_copies f hopen hn hread,
      fun off hopen hread => State.cpset_refuses f hopen hn hread,
      fun hmask => ⟨State.cpwait_empty f hn hmask, State.cpfence_empty f hn hmask⟩,
      fun hmask => ⟨State.cpwait_notes f hn hmask, State.cpfence_notes f hn hmask⟩,
      fun g => ⟨fun hop => State.cpfollow_carries f hn hop rfl, fun hop => State.cpfollow_carries f hn hop rfl,
        fun hop => State.cpfollow_carries f hn hop rfl⟩,
      fun hkind => hexports (by decide) ?_, hexports (by decide) rfl, hexports (by decide) rfl⟩
    rw [← hkind]
    rfl
  · refine (State.runCore_next hn fun s n => s.copyStart n s.focus.idx).trans (congrArg Host.Outcome.next ?_)
    have hexport : s.copyStart s.focus.core s.focus.idx =
        s.setCore s.focus.core (s.hereCore.startExport s.now (s.focus.idx - 8)) := if_pos (by omega)
    rw [hexport, hidx, Nat.add_sub_cancel_left, Core.startExport_live he hlive hfrom hclear]
    rfl

end Sys2Proof.Machine
end

section
/-! Settles O33. Where nothing stops a side of a copy (R329), its probe ends; a command whose sides are open enters its
channel (R323, R332), and a fill claims its row set (R343). -/

namespace Sys2Proof.Machine

/-! A command enters its channel (R323, R332). -/

/-- A command as it stands in its channel. -/
def Core.numbered (c : Core) (ch slot : Nat) (m : CopyCmd) : CopyCmd := { m with
  id := c.eng.nextId, slot := slot, bundle := c.seq.pc, seq := (c.chan ch).seq, pidx := c.pidx, relOut := c.releases m }

/-- A core with a command at the end of a channel, before its entry of the scoreboard. -/
def Core.queued (c : Core) (ch : Nat) (m : CopyCmd) : Core :=
  ({ c with eng := { c.eng with nextId := c.eng.nextId + 1 } } : Core).setChan ch { c.chan ch with
    queue := (c.chan ch).queue ++ [m], seq := ((c.chan ch).seq + 1) % 2 ^ 16
    lastData := if m.kind.isData then some (c.eng.nextId, m.seq, m.bundle) else (c.chan ch).lastData }

/-- A core that has placed a command. -/
def Core.placed (c : Core) (ch slot : Nat) (m : CopyCmd) : Core :=
  (c.queued ch (c.numbered ch slot m)).sbEnter (m.readExtent.isSome || m.writeExtent.isSome) c.eng.nextId m.readExtent
    m.writeExtent

section
variable {u : State} {fo : Focus} {ch : Nat} {m : CopyCmd}

theorem State.cIssue_room (h : u.cRoom fo ch m) (k : CopyCmd → Core → Core) :
    u.cIssue fo ch m k = .ok (u.setCore fo.core (k ((u.core fo.core).numbered ch fo.slot m)
      ((u.core fo.core).placed ch fo.slot m))) := by
  obtain ⟨hqueue, hsb⟩ := h
  have hfree : ¬ ((m.readExtent.isSome || m.writeExtent.isSome) && decide (16 ≤ (u.core fo.core).eng.sb.length)) = true := by
    rw [Bool.and_eq_true, Bool.or_eq_true, decide_eq_true_eq]
    exact fun ⟨hextent, hfull⟩ => Nat.not_lt.mpr hfull (hsb hextent)
  exact (if_neg (Nat.not_le.mpr hqueue)).trans (if_neg hfree)

/-- What a placed command leaves for `k` to change: nothing that `State.places` speaks of. -/
structure Core.SamePlace (c d : Core) : Prop where
  chans : d.eng.chans = c.eng.chans
  nextId : d.eng.nextId = c.eng.nextId
  sb : d.eng.sb = c.eng.sb
  mq : d.eng.mq = c.eng.mq
  regs : d.regs = c.regs
  mem : d.mem = c.mem

theorem Core.SamePlace.refl (c : Core) : c.SamePlace c := ⟨rfl, rfl, rfl, rfl, rfl, rfl⟩

theorem State.places_setCore {d : Core} (h : ((u.core fo.core).placed ch fo.slot m).SamePlace d) :
    u.places fo ch m (u.setCore fo.core d) := by
  obtain ⟨hchans, hid, hsb, hmq, hregs, hmem⟩ := h
  obtain ⟨heng, gregs, gmem, -, -⟩ := ((u.core fo.core).queued ch ((u.core fo.core).numbered ch fo.slot m)).sbEnter_keeps
    (m.readExtent.isSome || m.writeExtent.isSome) (u.core fo.core).eng.nextId m.readExtent m.writeExtent
  have hchan (k : Nat) : d.chan k = ((u.core fo.core).queued ch ((u.core fo.core).numbered ch fo.slot m)).chan k := by
    rw [Core.chan, hchans, Core.placed, heng]
    rfl
  have hown : ((u.core fo.core).queued ch ((u.core fo.core).numbered ch fo.slot m)).chan ch = { (u.core fo.core).chan ch with
      queue := ((u.core fo.core).chan ch).queue ++ [(u.core fo.core).numbered ch fo.slot m]
      seq := (((u.core fo.core).chan ch).seq + 1) % 2 ^ 16
      lastData := if m.kind.isData then some ((u.core fo.core).eng.nextId, ((u.core fo.core).chan ch).seq,
        (u.core fo.core).seq.pc) else ((u.core fo.core).chan ch).lastData } := Core.chan_setChan ..
  unfold State.places
  rw [State.core_setCore]
  refine ⟨?_, ?_, ?_, ?_, fun k hk => ?_, ?_, ?_, ?_, rfl, rfl, fun k hk => State.core_setCore_other _ _ _ hk⟩
  · rw [hchan, hown]
    rfl
  · rw [hchan, hown]
  · rw [hid, Core.placed, heng]
    rfl
  · rw [hsb, Core.placed, heng]
    rfl
  · rw [hchan]
    exact Tab.look_store_other _ _ _ hk
  · rw [hregs, Core.placed, gregs]
    rfl
  · rw [hmem, Core.placed, gmem]
    rfl
  · rw [hmq, Core.placed, heng]
    rfl

end

/-! A side that nothing stops (R329). -/

theorem State.deviceSide_open {s u : State} {fo : Focus} {creg : Nat} {x : Cap} {need : Nat} {write : Bool} {lo : Int}
    {len : Nat} {runs : List (Int × Nat)} {pages : List Page} (h : s.sideOpen fo creg x need write lo len runs pages u)
    (k : List Page → State → Res State) : s.deviceSide fo creg x need write lo len runs k = k pages u := by
  obtain ⟨hcap, hcode, hprobe, hreach⟩ := h
  unfold State.deviceSide
  extract_lets c at_
  have hfind : (if write = true then runs.find? fun r => s.hitsCode c.part (at_ r).1 r.2 else none) = none := by
    split
    · exact List.find?_eq_none.mpr fun r hr => Bool.eq_false_iff.mp (hcode ‹_› r hr)
    · rfl
  have hpass : (need != Perm.at_ && pages.any fun p => !u.reaches c.part p) = false := by
    rw [List.any_eq_false.mpr fun p hp => by rw [hreach p hp]; exact Bool.false_ne_true, Bool.and_false]
  obtain ⟨a, ha⟩ := Sum.isLeft_iff.mp hcap
  rw [show s.capCheck c creg x need dataType lo len = .inl a from ha]
  dsimp only
  rw [hfind, show s.probeAll (podOf fo.core) c.part write (runs.map at_) = (.inl pages, u) from hprobe]
  exact if_neg (Bool.eq_false_iff.mp hpass)

/-- The checks of R330, R335 and R336, once both sides are open. -/
def CopyCmd.fits (m : CopyCmd) (srcDev dstDev : Bool) (sp dp : List Page) : Prop :=
  m.overlapBad = false ∧ (srcDev = true → m.formatBad (m.nest.srcRuns m.src) m.sc.base.toNat sp = false) ∧
    (dstDev = true → m.formatBad (m.nest.dstRuns m.dst) m.dc.base.toNat dp = false) ∧
    (srcDev = false → dstDev = false → m.formatBad [] 0 [] = false)

/-- The last checks of a command (R330, R335, R336). -/
def CopyCmd.lastChecks (m : CopyCmd) (fo : Focus) (ch : Nat) (srcDev dstDev : Bool) (sp dp : List Page)
    (k : CopyCmd → State → Res State) (u : State) : Res State :=
  if m.overlapBad then .trap (fo.trap Cause.overlappingNest ch)
  else if srcDev && m.formatBad (m.nest.srcRuns m.src) m.sc.base.toNat sp then .trap (fo.trap Cause.illegalOperand)
  else if dstDev && m.formatBad (m.nest.dstRuns m.dst) m.dc.base.toNat dp then .trap (fo.trap Cause.illegalOperand)
  else if !srcDev && !dstDev && m.formatBad [] 0 [] then .trap (fo.trap Cause.illegalOperand)
  else k { m with spages := sp, dpages := dp } u

theorem CopyCmd.lastChecks_pass {m : CopyCmd} {fo : Focus} {ch : Nat} {srcDev dstDev : Bool} {sp dp : List Page}
    (h : m.fits srcDev dstDev sp dp) (k : CopyCmd → State → Res State) (u : State) :
    m.lastChecks fo ch srcDev dstDev sp dp k u = k { m with spages := sp, dpages := dp } u := by
  obtain ⟨hoverlap, hsrc, hdst, hnone⟩ := h
  have gsrc : (srcDev && m.formatBad (m.nest.srcRuns m.src) m.sc.base.toNat sp) = false := by
    cases srcDev
    · rfl
    · exact hsrc rfl
  have gdst : (dstDev && m.formatBad (m.nest.dstRuns m.dst) m.dc.base.toNat dp) = false := by
    cases dstDev
    · rfl
    · exact hdst rfl
  have gnone : (!srcDev && !dstDev && m.formatBad [] 0 []) = false := by
    cases srcDev <;> cases dstDev
    · exact hnone rfl rfl
    all_goals rfl
  rw [CopyCmd.lastChecks, hoverlap, gsrc, gdst, gnone]
  rfl

section
variable {s u : State} {fo : Focus} {ch : Nat} {m : CopyCmd} {srcLocal srcDev dstLocal dstDev : Bool}

/-- The destination's side. -/
def State.dstSide (s v : State) (fo : Focus) (ch : Nat) (m : CopyCmd) (srcDev dstLocal dstDev : Bool) (sp : List Page)
    (k : CopyCmd → State → Res State) : Res State :=
  if dstDev then v.deviceSide fo m.dcr m.dc Perm.wr true (m.nest.dstExtent m.dst).1 (m.nest.dstExtent m.dst).2
    (m.nest.dstRuns m.dst) fun dp u => m.lastChecks fo ch srcDev dstDev sp dp k u
  else fo.checked [(s.core fo.core).localReach m dstLocal (m.nest.dstRuns m.dst) m.writesScales m.writeExtent true]
    (m.lastChecks fo ch srcDev dstDev sp [] k v)

theorem State.sides_eq (k : CopyCmd → State → Res State) : s.sides fo ch m srcLocal srcDev dstLocal dstDev k =
    if srcDev then s.deviceSide fo m.scr m.sc Perm.rd false (m.nest.srcExtent m.src).1 (m.nest.srcExtent m.src).2
      (m.nest.srcRuns m.src) fun sp v => s.dstSide v fo ch m srcDev dstLocal dstDev sp k
    else fo.checked [(s.core fo.core).localReach m srcLocal (m.nest.srcRuns m.src) m.readsScales m.readExtent false]
      (s.dstSide s fo ch m srcDev dstLocal dstDev [] k) := rfl

theorem Focus.checked_one {α : Type} (fo : Focus) {x : Option (Nat × Nat)} (h : x = none) (k : Res α) :
    fo.checked [x] k = k := fo.checked_pass (List.forall_mem_singleton.mpr h) k

/-- Both sides. -/
theorem State.sides_open {sp dp : List Page} (h : s.sidesOpen fo m srcLocal srcDev dstLocal dstDev sp dp u)
    (k : CopyCmd → State → Res State) :
    s.sides fo ch m srcLocal srcDev dstLocal dstDev k = k { m with spages := sp, dpages := dp } u := by
  obtain ⟨hsrc, hdst, hfits⟩ := h
  have hlast (u : State) : m.lastChecks fo ch srcDev dstDev sp dp k u = k { m with spages := sp, dpages := dp } u :=
    CopyCmd.lastChecks_pass hfits k u
  have hdest (v : State) (hv : if dstDev then v.sideOpen fo m.dcr m.dc Perm.wr true (m.nest.dstExtent m.dst).1
      (m.nest.dstExtent m.dst).2 (m.nest.dstRuns m.dst) dp u else dp = [] ∧ u = v ∧
        (s.core fo.core).localReach m dstLocal (m.nest.dstRuns m.dst) m.writesScales m.writeExtent true = none) :
      s.dstSide v fo ch m srcDev dstLocal dstDev sp k = k { m with spages := sp, dpages := dp } u := by
    unfold State.dstSide
    split
    · rename_i hdev
      rw [if_pos hdev] at hv
      exact (State.deviceSide_open hv _).trans (hlast u)
    · rename_i hdev
      rw [if_neg hdev] at hv
      obtain ⟨rfl, rfl, hlocal⟩ := hv
      exact (Focus.checked_one _ hlocal _).trans (hlast u)
  rw [State.sides_eq]
  split
  · rename_i hdev
    rw [if_pos hdev] at hsrc
    exact (State.deviceSide_open hsrc _).trans (hdest _ (by simpa only [if_pos hdev] using hdst))
  · rename_i hdev
    rw [if_neg hdev] at hsrc
    obtain ⟨rfl, hlocal⟩ := hsrc
    exact (Focus.checked_one _ hlocal _).trans (hdest _ (by simpa only [if_neg hdev] using hdst))

end

end Sys2Proof.Machine
end

section
/-! The copy instructions of O33: each that passes its checks enters its command (R343 to R353). -/

namespace Sys2Proof.Machine

/-! A fill claims its row set (R343). -/

theorem Core.SamePlace.trans {c d e : Core} (h : c.SamePlace d) (g : d.SamePlace e) : c.SamePlace e :=
  ⟨g.chans.trans h.chans, g.nextId.trans h.nextId, g.sb.trans h.sb, g.mq.trans h.mq, g.regs.trans h.regs, g.mem.trans h.mem⟩

/-- A change of a row set, or of a list of outliers, reaches the banks alone. -/
theorem Core.samePlace_onSet (c : Core) (b : PassBank) (f : RowSet → RowSet) : c.SamePlace (c.onSet b f) := by
  unfold Core.onSet
  extract_lets x
  split <;> exact ⟨rfl, rfl, rfl, rfl, rfl, rfl⟩

theorem Core.samePlace_discardOutliers (c : Core) (b : PassBank) (id : Nat) : c.SamePlace (c.discardOutliers b id) := by
  unfold Core.discardOutliers Core.onOutliers
  extract_lets x
  split <;> exact ⟨rfl, rfl, rfl, rfl, rfl, rfl⟩

theorem Core.samePlace_claimSet (c : Core) (m : CopyCmd) : c.SamePlace (c.claimSet m) := by
  unfold Core.claimSet
  split
  · exact .refl c
  · exact (c.samePlace_onSet _ _).trans (Core.samePlace_discardOutliers _ _ _)

/-- A discard of outliers keeps the row sets. -/
theorem Core.setOf_discardOutliers (c : Core) (b : PassBank) (id : Nat) (h : (c.bank b.bank).gen = b.gen) :
    (c.discardOutliers b id).setOf b = c.setOf b := by
  have hset (d : Core) (hd : (d.bank b.bank).gen = b.gen) : d.setOf b = Tab.look {} (d.bank b.bank).sets b.rs := if_pos hd
  unfold Core.discardOutliers Core.onOutliers
  extract_lets x
  rw [if_pos h, hset c h, hset _ (by rw [Core.bank_setBank]; exact h), Core.bank_setBank]

theorem Core.claimSet_filling {c : Core} {m : CopyCmd} {b : PassBank} (hfills : m.fills = some b)
    (h : (c.bank b.bank).gen = b.gen) : ((c.claimSet m).setOf b).state = 1 := by
  unfold Core.claimSet
  rw [hfills]
  have hset (d : Core) (hd : (d.bank b.bank).gen = b.gen) : d.setOf b = Tab.look {} (d.bank b.bank).sets b.rs := if_pos hd
  have hon (f : RowSet → RowSet) : c.onSet b f = c.setBank b.bank { c.bank b.bank with
      sets := Tab.store (c.bank b.bank).sets b.rs (f (Tab.look {} (c.bank b.bank).sets b.rs)) } := if_pos h
  dsimp only
  rw [Core.setOf_discardOutliers, hon, hset _ (by rw [Core.bank_setBank]; exact h), Core.bank_setBank,
    Tab.look_store_same]
  rw [hon, Core.bank_setBank]
  exact h

/-! A command that issues. -/

section
variable {s u : State} {i : Instr} {o : Focus → State → Res State} {ch : Nat} {m : CopyCmd} {k : CopyCmd → Core → Core}

/-- An instruction whose checks pass places its command. -/
theorem State.exec_places (hn : s.onACore) (hexec : exec i s = s.runSlot o) (ho : o s.here s = u.cIssue s.here ch m k)
    (hk : ∀ m c, Core.SamePlace c (k m c)) (hroom : u.cRoom s.here ch m) :
    ∃ t, exec i s = .next t ∧ u.places s.here ch m t :=
  ⟨_, hexec.trans (State.runSlot_ok hn (ho.trans (State.cIssue_room hroom k))), State.places_setCore (hk _ _)⟩

theorem Core.bank_placed (c : Core) (ch slot : Nat) (m : CopyCmd) (b : Nat) : (c.placed ch slot m).bank b = c.bank b := by
  obtain ⟨heng, -⟩ := (c.queued ch (c.numbered ch slot m)).sbEnter_keeps (m.readExtent.isSome || m.writeExtent.isSome)
    c.eng.nextId m.readExtent m.writeExtent
  rw [Core.bank, Core.placed, heng]
  rfl

/-- An instruction that fills a row set claims it too. -/
theorem State.exec_fills {bank rs : Nat} (hn : s.onACore) (hexec : exec i s = s.runSlot o)
    (ho : o s.here s = u.cIssue s.here ch m fun m c => c.claimSet m)
    (hfills : m.fills = some ((u.core s.here.core).nameSet bank rs)) (hroom : u.cRoom s.here ch m) :
    ∃ t, exec i s = .next t ∧ u.places s.here ch m t ∧
      ((t.core s.here.core).setOf ((u.core s.here.core).nameSet bank rs)).state = 1 := by
  refine ⟨_, hexec.trans (State.runSlot_ok hn (ho.trans (State.cIssue_room hroom _))),
    State.places_setCore (Core.samePlace_claimSet ..), ?_⟩
  rw [State.core_setCore]
  exact Core.claimSet_filling hfills (by rw [Core.bank_placed]; rfl)

end

/-! The checks before the sides. -/

section
variable {s : State} {fo : Focus} {f : CF}

theorem State.descriptor_ok {n : Nest} {ok : Nest → Bool} (h : ((s.core fo.core).chan f.ch.toNat).desc = some n)
    (hok : ok n = true) (k : Nest → Res State) : s.descriptor fo f ok k = k n := by
  unfold State.descriptor
  rw [h]
  exact if_pos hok

theorem unusedCap_pass {usesA usesB : Bool} (ha : usesA = false → f.ca = 0) (hb : usesB = false → f.cb = 0) (k : Res State) :
    unusedCap fo usesA usesB f k = k := by
  refine if_neg ?_
  rw [Bool.or_eq_true, Bool.and_eq_true, Bool.and_eq_true, bne_iff_ne, bne_iff_ne, Bool.not_eq_true', Bool.not_eq_true']
  rintro (⟨h, hne⟩ | ⟨h, hne⟩)
  · exact hne (ha h)
  · exact hne (hb h)

theorem State.castTrap_eq_none {c : Core} {k : Nat} (hgroup : s.groupOk c k = true) (hmember : s.isMember c k c.lcore = true)
    (hpod : ∀ l ∈ membersOf (s.group c k), s.inPod c l = true) : s.castTrap c k = none := by
  refine illegalIf_eq_none ?_
  rw [hgroup, hmember, List.any_eq_false.mpr fun l hl => by rw [hpod l hl]; exact Bool.false_ne_true]
  rfl

theorem Core.fillTrap_eq_none {c : Core} {n : Nest} (h : c.shadowOpen (c.nameSet n.bank n.rs)) : c.fillTrap n = none := by
  obtain ⟨hmode, hact, hstate⟩ := h
  refine firstTrap_eq_none ?_
  rw [Core.computeTrap_eq_none (b := n.bank) hmode, Core.shadowTrap_eq_none (bank := n.bank) (rs := n.rs) hact hstate]
  simp only [List.mem_cons, List.not_mem_nil, or_false, or_self, forall_eq]

end

end Sys2Proof.Machine
end

section
/-! Settles O33, instruction by instruction. -/

namespace Sys2Proof.Machine

section
variable {s u v : State} {f : CF} {n : Nest} {sp dp : List Page}

/-- The command of CPGO. -/
def State.goCmd (s : State) (f : CF) (n : Nest) : CopyCmd := { f.command 0x02 .go with
  nest := n, src := cSrc s.here f s.hereCore, dst := cDst s.here f s.hereCore
  sc := s.hereCore.cap f.ca.toNat, dc := s.hereCore.cap f.cb.toNat, gen := (s.hereCore.bank n.bank).gen }

theorem State.cpgo_issues (hdesc : (s.hereCore.chan f.ch.toNat).desc = some n)
    (hkinds : goKinds (cDst s.here f s.hereCore) n = true) (ha : (n.skind == 1) = false → f.ca = 0)
    (hb : (n.dkind == 1) = false → f.cb = 0)
    (hpeer : n.skind = 2 → s.inPod s.hereCore n.peer = true ∧ s.groupOk s.hereCore n.pgrp = true ∧
      s.isMember s.hereCore n.pgrp s.hereCore.lcore = true)
    (hset : n.dkind = 2 → s.hereCore.shadowOpen (s.hereCore.nameSet n.bank n.rs))
    (hsides : s.sidesOpen s.here (s.goCmd f n) (n.skind == 0) (n.skind == 1) (n.dkind == 0) (n.dkind == 1) sp dp u) :
    opCpgo s.here f s = u.cIssue s.here f.ch.toNat { s.goCmd f n with spages := sp, dpages := dp } fun m c =>
      c.claimSet m := by
  have hpeerless : (if n.skind = 2 then s.peerTrap s.hereCore n else none) = none := by
    split
    · obtain ⟨hpod, hgroup, hmember⟩ := hpeer ‹_›
      exact illegalIf_eq_none (by rw [hpod, hgroup, hmember]; rfl)
    · rfl
  have hsetless : (if n.dkind = 2 then s.hereCore.fillTrap n else none) = none := by
    split
    · exact Core.fillTrap_eq_none (hset ‹_›)
    · rfl
  exact (State.descriptor_ok hdesc hkinds _).trans ((unusedCap_pass ha hb _).trans
    ((s.here.checked_pass (List.forall_mem_cons.mpr ⟨hpeerless, List.forall_mem_singleton.mpr hsetless⟩) _).trans
      (State.sides_open hsides _)))

theorem CopyCmd.claims_none {m : CopyCmd} (h : m.fills = none) (c : Core) : c.claimSet m = c := by
  unfold Core.claimSet
  rw [h]

/-- The command of CPMCAST. -/
def State.castCmd (s : State) (f : CF) (n : Nest) : CopyCmd := { f.command 0x06 .mcast with
  nest := n, src := cSrc s.here f s.hereCore, dst := cDst s.here f s.hereCore, sc := s.hereCore.cap f.ca.toNat }

theorem State.cpmcast_issues (hdesc : (s.hereCore.chan f.ch.toNat).desc = some n) (hskind : n.skind ≤ 1)
    (hdkind : n.dkind = 0) (hfmt : n.fmt = 0) (ha : (n.skind == 1) = false → f.ca = 0) (hb : f.cb = 0)
    (hcast : s.castTrap s.hereCore f.grp.toNat = none)
    (hsides : s.sidesOpen s.here (s.castCmd f n) (n.skind == 0) (n.skind == 1) false false sp dp u) :
    opCpmcast s.here f s = u.cIssue s.here f.ch.toNat { s.castCmd f n with spages := sp, dpages := dp } fun _ c => c := by
  have hkinds : (decide (n.skind ≤ 1) && n.dkind == 0 && n.fmt == 0) = true := by
    rw [decide_eq_true hskind, hdkind, hfmt]
    rfl
  exact (State.descriptor_ok hdesc hkinds _).trans ((unusedCap_pass ha (fun _ => hb) _).trans
    ((Focus.checked_one _ hcast _).trans (State.sides_open hsides _)))

/-- The command of CPFILL. -/
def State.fillCmd (s : State) (f : CF) (n : Nest) : CopyCmd := { f.command 0x07 .fill with
  nest := n, dst := cDst s.here f s.hereCore, value := s.hereCore.sreg f.sa.toNat, dc := s.hereCore.cap f.cb.toNat }

theorem State.cpfill_issues (hdesc : (s.hereCore.chan f.ch.toNat).desc = some n) (hdkind : n.dkind ≤ 1)
    (hfmt : n.fmt = 0) (ha : f.ca = 0) (hb : (n.dkind == 1) = false → f.cb = 0)
    (hsides : s.sidesOpen s.here (s.fillCmd f n) false false (n.dkind == 0) (n.dkind == 1) sp dp u) :
    opCpfill s.here f s = u.cIssue s.here f.ch.toNat { s.fillCmd f n with spages := sp, dpages := dp } fun _ c => c := by
  have hkinds : (decide (n.dkind ≤ 1) && n.fmt == 0) = true := by
    rw [decide_eq_true hdkind, hfmt]
    rfl
  exact (State.descriptor_ok hdesc hkinds _).trans ((unusedCap_pass (fun _ => ha) hb _).trans (State.sides_open hsides _))

/-- The command of CPSHELL. -/
def State.shellCmd (s : State) (f : CF) (n : Nest) : CopyCmd := { f.command 0x08 .shell with
  nest := n, src := cSrc s.here f s.hereCore, sc := s.hereCore.cap f.ca.toNat, gen := (s.hereCore.bank n.bank).gen }

theorem State.cpshell_issues (hdesc : (s.hereCore.chan f.ch.toNat).desc = some n) (hskind : n.skind ≤ 1)
    (hdkind : n.dkind = 2) (hfmt : n.fmt = 0) (ha : (n.skind == 1) = false → f.ca = 0) (hb : f.cb = 0)
    (hset : s.hereCore.shadowOpen (s.hereCore.nameSet n.bank n.rs))
    (hsides : s.sidesOpen s.here (s.shellCmd f n) (n.skind == 0) (n.skind == 1) false false sp dp u) :
    opCpshell s.here f s = u.cIssue s.here f.ch.toNat { s.shellCmd f n with spages := sp, dpages := dp } fun m c =>
      c.claimSet m := by
  have hkinds : (decide (n.skind ≤ 1) && n.dkind == 2 && n.fmt == 0) = true := by
    rw [decide_eq_true hskind, hdkind, hfmt]
    rfl
  exact (State.descriptor_ok hdesc hkinds _).trans ((unusedCap_pass ha (fun _ => hb) _).trans
    ((Focus.checked_one _ (Core.fillTrap_eq_none hset) _).trans (State.sides_open hsides _)))

/-! Accumulate-writes (R350). -/

/-- The command of CPACC. -/
def State.accCmd (s : State) (f : CF) (n : Nest) (dp : List Page) : CopyCmd := { f.command 0x09 (.acc (f.fn.toNat % 8)) with
  nest := n, src := cSrc s.here f s.hereCore, dst := cDst s.here f s.hereCore, dc := s.hereCore.cap f.cb.toNat
  dpages := dp }

theorem State.cpacc_issues (hdesc : (s.hereCore.chan f.ch.toNat).desc = some n) (hskind : n.skind = 0)
    (hdkind : n.dkind = 1) (hfmt : n.fmt = 0) (hinner : n.inner % accWidth (f.fn.toNat % 8) = 0)
    (hruns : ∀ r ∈ n.dstRuns (cDst s.here f s.hereCore), r.1 % (accWidth (f.fn.toNat % 8) : Int) = 0)
    (hlocal : s.hereCore.localSide (n.srcRuns (cSrc s.here f s.hereCore)) (n.srcExtent (cSrc s.here f s.hereCore)).1
      (n.srcExtent (cSrc s.here f s.hereCore)).2 false = none)
    (hside : s.sideOpen s.here f.cb.toNat (s.hereCore.cap f.cb.toNat) Perm.at_ true
      (n.dstExtent (cDst s.here f s.hereCore)).1 (n.dstExtent (cDst s.here f s.hereCore)).2
      (n.dstRuns (cDst s.here f s.hereCore)) dp u)
    (hdevice : accHostFault (s.hereCore.cap f.cb.toNat) (n.dstRuns (cDst s.here f s.hereCore)) dp = none) :
    opCpacc s.here f s = u.cIssue s.here f.ch.toNat (s.accCmd f n dp) fun _ c => c := by
  have hkinds : (n.skind == 0 && n.dkind == 1 && n.fmt == 0) = true := by
    rw [hskind, hdkind, hfmt]
    rfl
  have halign : ((n.dstRuns (cDst s.here f s.hereCore)).find? fun r =>
      r.1 % (accWidth (f.fn.toNat % 8) : Int) != 0) = none :=
    List.find?_eq_none.mpr fun r hr => by
      rw [hruns r hr]
      exact Bool.false_ne_true
  have hchecks : ∀ x ∈ [if n.inner % accWidth (f.fn.toNat % 8) = 0 then none else some (Cause.misaligned, n.inner),
      ((n.dstRuns (cDst s.here f s.hereCore)).find? fun r => r.1 % (accWidth (f.fn.toNat % 8) : Int) != 0).map fun r =>
        (Cause.misaligned, addrWord r.1),
      s.hereCore.localSide (n.srcRuns (cSrc s.here f s.hereCore)) (n.srcExtent (cSrc s.here f s.hereCore)).1
        (n.srcExtent (cSrc s.here f s.hereCore)).2 false], x = none := by
    rw [if_pos hinner, halign, hlocal]
    simp only [Option.map_none, List.mem_cons, List.not_mem_nil, or_false, or_self, forall_eq]
  refine (State.descriptor_ok hdesc hkinds _).trans ((s.here.checked_pass hchecks _).trans
    ((State.deviceSide_open hside _).trans ?_))
  dsimp only
  rw [show accHostFault ((s.core s.here.core).cap f.cb.toNat) (n.dstRuns (cDst s.here f (s.core s.here.core))) dp = none
    from hdevice]
  rfl

/-- The command of a single CPACC. -/
def State.accOneCmd (s : State) (f : CF) (dp : List Page) : CopyCmd := { f.command 0x09 (.accOne (f.fn.toNat % 8)) with
  dst := cDst s.here f s.hereCore, dc := s.hereCore.cap f.cb.toNat, dpages := dp, value := s.hereCore.sreg f.sa.toNat }

theorem State.cpaccOne_issues (halign : cDst s.here f s.hereCore % (accWidth (f.fn.toNat % 8) : Int) = 0)
    (hside : s.sideOpen s.here f.cb.toNat (s.hereCore.cap f.cb.toNat) Perm.at_ true (cDst s.here f s.hereCore)
      (accWidth (f.fn.toNat % 8)) [(cDst s.here f s.hereCore, accWidth (f.fn.toNat % 8))] dp u)
    (hdevice : accHostFault (s.hereCore.cap f.cb.toNat) [(cDst s.here f s.hereCore, accWidth (f.fn.toNat % 8))] dp = none) :
    opCpaccOne s.here f s = u.cIssue s.here f.ch.toNat (s.accOneCmd f dp) fun m c =>
      c.addResult s.focus.slot (.value m.id f.ch.toNat none) := by
  refine (Focus.checked_one _ (if_pos halign) _).trans ((State.deviceSide_open hside _).trans ?_)
  dsimp only
  rw [show accHostFault ((s.core s.here.core).cap f.cb.toNat)
    [(cDst s.here f (s.core s.here.core), accWidth (f.fn.toNat % 8))] dp = none from hdevice]
  rfl

/-! Rows (R351, R406). -/

/-- The command of MEMROW.copy, and that of MEMROW.zero. -/
def State.rowCopyCmd (s : State) (f : CF) (sp dp : List Page) : CopyCmd := { f.command 0x10 .rowCopy with
  src := cSrc s.here f s.hereCore, dst := cDst s.here f s.hereCore, sc := s.hereCore.cap f.ca.toNat
  dc := s.hereCore.cap f.cb.toNat, n := rowCount f, spages := sp, dpages := dp }

def State.rowZeroCmd (s : State) (f : CF) (dp : List Page) : CopyCmd := { f.command 0x10 .rowZero with
  dst := cDst s.here f s.hereCore, dc := s.hereCore.cap f.cb.toNat, n := rowCount f, dpages := dp }

theorem mixesMx_eq_false {sp dp : List Page} (h : ∀ a ∈ sp, ∀ b ∈ dp, a.mx = b.mx) : mixesMx sp dp = false :=
  List.any_eq_false.mpr fun a ha => Bool.eq_false_iff.mp (List.any_eq_false.mpr fun b hb => by
    rw [h a ha b hb, bne_self_eq_false]
    exact Bool.false_ne_true)

theorem anyHost_eq_false {l : List Page} (h : ∀ p ∈ l, p.loc = 0) : (l.any fun p => p.loc != 0) = false :=
  List.any_eq_false.mpr fun p hp => by
    rw [h p hp]
    exact Bool.false_ne_true

theorem State.memrowCopy_issues (hsrc : cSrc s.here f s.hereCore % 4096 = 0) (hsp : ∀ p ∈ sp, p.loc = 0)
    (hdst : cDst s.here f s.hereCore % 4096 = 0) (hdp : ∀ p ∈ dp, p.loc = 0)
    (hapart : ((s.hereCore.cap f.ca.toNat).base.toNat : Int) + cSrc s.here f s.hereCore + 4096 * rowCount f ≤
        (s.hereCore.cap f.cb.toNat).base.toNat + cDst s.here f s.hereCore ∨
      ((s.hereCore.cap f.cb.toNat).base.toNat : Int) + cDst s.here f s.hereCore + 4096 * rowCount f ≤
        (s.hereCore.cap f.ca.toNat).base.toNat + cSrc s.here f s.hereCore)
    (hread : s.sideOpen s.here f.ca.toNat (s.hereCore.cap f.ca.toNat) (Perm.row + Perm.rd) false
      (cSrc s.here f s.hereCore) (4096 * rowCount f) [(cSrc s.here f s.hereCore, 4096 * rowCount f)] sp v)
    (hwrite : v.sideOpen s.here f.cb.toNat (s.hereCore.cap f.cb.toNat) (Perm.row + Perm.wr) true
      (cDst s.here f s.hereCore) (4096 * rowCount f) [(cDst s.here f s.hereCore, 4096 * rowCount f)] dp u)
    (hstacks : (pageStacks (s.hereCore.cap f.ca.toNat) (cSrc s.here f s.hereCore) (rowCount f) sp ++
      pageStacks (s.hereCore.cap f.cb.toNat) (cDst s.here f s.hereCore) (rowCount f) dp).eraseDups.length ≤ 1)
    (hmx : ∀ a ∈ sp, ∀ b ∈ dp, a.mx = b.mx) :
    opMemrowCopy s.here f s = u.cIssue s.here f.ch.toNat (s.rowCopyCmd f sp dp) fun _ c => c := by
  have hbad : ((sp ++ dp).any (fun p => p.loc != 0) || decide (1 < (pageStacks (s.hereCore.cap f.ca.toNat)
      (cSrc s.here f s.hereCore) (rowCount f) sp ++ pageStacks (s.hereCore.cap f.cb.toNat) (cDst s.here f s.hereCore)
      (rowCount f) dp).eraseDups.length) || mixesMx sp dp) = false := by
    rw [List.any_append, anyHost_eq_false hsp, anyHost_eq_false hdp, decide_eq_false (Nat.not_lt.mpr hstacks),
      mixesMx_eq_false hmx]
    rfl
  refine (Focus.checked_one _ (illegalIf_eq_none ?_) _).trans ((State.deviceSide_open hread _).trans
    ((State.deviceSide_open hwrite _).trans (if_neg (Bool.eq_false_iff.mp hbad))))
  have hmeet : (decide ((s.hereCore.cap f.ca.toNat).base.toNat + cSrc s.here f s.hereCore <
        (s.hereCore.cap f.cb.toNat).base.toNat + cDst s.here f s.hereCore + (4096 * rowCount f : Nat)) &&
      decide ((s.hereCore.cap f.cb.toNat).base.toNat + cDst s.here f s.hereCore <
        (s.hereCore.cap f.ca.toNat).base.toNat + cSrc s.here f s.hereCore + (4096 * rowCount f : Nat))) = false := by
    rw [Bool.and_eq_false_iff, decide_eq_false_iff_not, decide_eq_false_iff_not]
    omega
  have haligned : (cSrc s.here f s.hereCore % 4096 != 0 || cDst s.here f s.hereCore % 4096 != 0) = false := by
    rw [hsrc, hdst]
    rfl
  exact Bool.or_eq_false_iff.mpr ⟨haligned, hmeet⟩

theorem State.memrowZero_issues (hdst : cDst s.here f s.hereCore % 4096 = 0) (hdp : ∀ p ∈ dp, p.loc = 0)
    (hwrite : s.sideOpen s.here f.cb.toNat (s.hereCore.cap f.cb.toNat) (Perm.row + Perm.wr) true
      (cDst s.here f s.hereCore) (4096 * rowCount f) [(cDst s.here f s.hereCore, 4096 * rowCount f)] dp u)
    (hstacks : (pageStacks (s.hereCore.cap f.cb.toNat) (cDst s.here f s.hereCore) (rowCount f) dp).length ≤ 1) :
    opMemrowZero s.here f s = u.cIssue s.here f.ch.toNat (s.rowZeroCmd f dp) fun _ c => c := by
  have hbad : (dp.any (fun p => p.loc != 0) || decide (1 < (pageStacks (s.hereCore.cap f.cb.toNat)
      (cDst s.here f s.hereCore) (rowCount f) dp).length)) = false := by
    rw [anyHost_eq_false hdp, decide_eq_false (Nat.not_lt.mpr hstacks)]
    rfl
  have haligned : (cDst s.here f s.hereCore % 4096 != 0) = false := by
    rw [hdst]
    rfl
  exact (Focus.checked_one _ (illegalIf_eq_none haligned) _).trans ((State.deviceSide_open hwrite _).trans
    (if_neg (Bool.eq_false_iff.mp hbad)))

/-! EWALK (R352). -/

/-- The command of EWALK. -/
def State.walkCmd (s : State) (f : CF) : CopyCmd := { f.command 0x11 .walk with
  src := ((s.hereCore.sreg f.sa.toNat).toNat : Int), n := (s.hereCore.sreg f.sb.toNat).toNat
  sc := s.hereCore.cap f.ca.toNat, dc := s.hereCore.cap f.cb.toNat }

theorem State.ewalk_issues (hsome : 1 ≤ (s.hereCore.sreg f.sb.toNat).toNat)
    (hmost : (s.hereCore.sreg f.sb.toNat).toNat ≤ 4096) (hgroup : s.groupOk s.hereCore f.grp.toNat = true)
    (hmember : s.isMember s.hereCore f.grp.toNat s.hereCore.lcore = true)
    (halign : ((s.hereCore.sreg f.sa.toNat).toNat : Int) % 64 = 0)
    (hlocal : s.hereCore.localSide [(((s.hereCore.sreg f.sa.toNat).toNat : Int), 64 * (s.hereCore.sreg f.sb.toNat).toNat)]
      ((s.hereCore.sreg f.sa.toNat).toNat : Int) (64 * (s.hereCore.sreg f.sb.toNat).toNat) false = none) :
    opEwalk s.here f s = s.cIssue s.here f.ch.toNat (s.walkCmd f) fun _ c => c := by
  have hcount : ((s.hereCore.sreg f.sb.toNat).toNat == 0 || decide (4096 < (s.hereCore.sreg f.sb.toNat).toNat)) = false := by
    rw [beq_eq_false_iff_ne.mpr (Nat.one_le_iff_ne_zero.mp hsome), decide_eq_false (Nat.not_lt.mpr hmost)]
    rfl
  have hplace : (!s.groupOk s.hereCore f.grp.toNat || !s.isMember s.hereCore f.grp.toNat s.hereCore.lcore) = false := by
    rw [hgroup, hmember]
    rfl
  exact s.here.checked_pass (List.forall_mem_cons.mpr ⟨illegalIf_eq_none hcount, List.forall_mem_cons.mpr
    ⟨illegalIf_eq_none hplace, List.forall_mem_cons.mpr ⟨if_pos halign, List.forall_mem_singleton.mpr hlocal⟩⟩⟩) _

/-! CPCOLL (R356). -/

/-- The bytes of the plan that CPCOLL reads. -/
def State.planAccess (s : State) (f : CF) : SlotAccess :=
  { write := false, align := false, pieces := [(((s.hereCore.sreg f.sa.toNat).toNat : Int), 64)] }

/-- The command of CPCOLL. -/
def State.collCmd (s : State) (f : CF) (p : Plan) (sp dp : List Page) : CopyCmd := { f.command 0x15 .coll with
  plan := p, src := p.soff, dst := p.doff, sc := s.hereCore.cap f.ca.toNat, dc := s.hereCore.cap f.cb.toNat
  spages := sp, dpages := dp, n := Tab.look 0 s.hereCore.colls f.grp.toNat }

theorem State.cpcoll_issues {p : Plan} (hgroup : s.groupOk s.hereCore f.grp.toNat = true)
    (hmember : s.isMember s.hereCore f.grp.toNat s.hereCore.lcore = true)
    (halign : ((s.hereCore.sreg f.sa.toNat).toNat : Int) % 64 = 0) (hopen : s.hereCore.accessOpen s.here (s.planAccess f))
    (hplan : readPlan (s.hereCore.mem.bytes ((s.hereCore.sreg f.sa.toNat).toNat : Int).toNat 64) = .inl p)
    (hread : (s.accesses (s.planAccess f) []).sideOpen s.here f.ca.toNat (s.hereCore.cap f.ca.toNat) (Perm.rd + Perm.coll)
      false p.soff (p.srcLen (membersOf (s.group s.hereCore f.grp.toNat)).length)
      [((p.soff : Int), p.srcLen (membersOf (s.group s.hereCore f.grp.toNat)).length)] sp v)
    (hwrite : v.sideOpen s.here f.cb.toNat (s.hereCore.cap f.cb.toNat) (Perm.wr + Perm.coll) true p.doff
      (p.dstLen (membersOf (s.group s.hereCore f.grp.toNat)).length)
      [((p.doff : Int), p.dstLen (membersOf (s.group s.hereCore f.grp.toNat)).length)] dp u) :
    opCpcoll s.here f s = u.cIssue s.here f.ch.toNat (s.collCmd f p sp dp) fun _ c =>
      { c with colls := Tab.store c.colls f.grp.toNat (Tab.look 0 c.colls f.grp.toNat + 1) } := by
  have hplace : (!s.groupOk s.hereCore f.grp.toNat || !s.isMember s.hereCore f.grp.toNat s.hereCore.lcore) = false := by
    rw [hgroup, hmember]
    rfl
  have haccess : s.hereCore.slotAccess s.here (s.planAccess f) none Res.ok =
      .ok (s.hereCore.holdPorts s.now s.focus.slot (s.planAccess f)) := Core.slotAccess_open hopen _
  rw [State.accesses_nil] at hread
  unfold opCpcoll
  extract_lets c q grp members x y
  refine (s.here.checked_pass (List.forall_mem_cons.mpr ⟨illegalIf_eq_none hplace,
    List.forall_mem_singleton.mpr (if_pos halign)⟩) _).trans ?_
  rw [show c.slotAccess s.here { write := false, align := false, pieces := [(q, 64)] } none Res.ok = _ from haccess]
  dsimp only
  rw [show readPlan ((s.hereCore.holdPorts s.now s.focus.slot (s.planAccess f)).mem.bytes q.toNat 64) = .inl p from hplan]
  exact (State.deviceSide_open hread _).trans (State.deviceSide_open hwrite _)

end

theorem Core.nameSet_of_banks {c d : Core} (h : d.eng.banks = c.eng.banks) (bank rs : Nat) :
    d.nameSet bank rs = c.nameSet bank rs := by
  rw [Core.nameSet, Core.nameSet, Core.bank, Core.bank, h]

theorem State.goCmd_fills {s : State} {f : CF} {n : Nest} {sp dp : List Page} (h : n.dkind = 2) :
    ({ s.goCmd f n with spages := sp, dpages := dp } : CopyCmd).fills = some (s.hereCore.nameSet n.bank n.rs) :=
  if_pos (beq_iff_eq.mpr h)

theorem Core.colls_placed (c : Core) (ch slot : Nat) (m : CopyCmd) : (c.placed ch slot m).colls = c.colls := by
  obtain ⟨-, -, -, -, hcolls⟩ := (c.queued ch (c.numbered ch slot m)).sbEnter_keeps
    (m.readExtent.isSome || m.writeExtent.isSome) c.eng.nextId m.readExtent m.writeExtent
  rw [Core.placed, hcolls]
  rfl

/-- Settles O33: each instruction's checks pass, its command enters its channel, and a fill claims its row set. -/
theorem copyAndCollectiveCommands : Obligations.CopyAndCollectiveCommands := by
  unfold Obligations.CopyAndCollectiveCommands
  refine ⟨fun s f n sp dp u v hn => ?copies, fun s f p sp dp u v hn => ?collective⟩
  case copies =>
    intro fo c ch ca cb src dst grp member places fills unused probed go sheller cast fill castOk op e rows count table
      onDevice whole copy zero
    have plain : ∀ (_ : CopyCmd) (d : Core), d.SamePlace d := fun _ d => .refl d
    have hcast (h : castOk) : s.castTrap c grp = none := State.castTrap_eq_none h.1.1 h.1.2 h.2
    refine ⟨fun hdesc hkinds hunused hpeer hsides => ⟨fun hset => ?_, fun hset hshadow hbanks => ?_⟩,
      fun hdesc hskind hdkind hfmt hunused hok hsides => ?_, fun hok => ?_,
      fun hdesc hdkind hfmt hunused hsides => ?_, fun hdesc hskind hdkind hfmt hunused hshadow hbanks hsides => ?_,
      fun hdesc hskind hdkind hfmt hinner hruns hlocal hside hdevice => ?_, fun halign hside hdevice => ?_,
      fun hsrc hdst hapart hread hwrite hstacks hmx => ?_, fun hdst hwrite hstacks => ?_,
      fun hsome hmost hmember halign hlocal => ?_, ?_, ?_⟩
    · refine State.exec_places (o := fun fo s => opCpgo fo f s) hn rfl (State.cpgo_issues hdesc hkinds hunused.1 hunused.2
        hpeer (fun h => absurd h hset) hsides) fun m d => d.samePlace_claimSet m
    · refine State.exec_fills (o := fun fo s => opCpgo fo f s) hn rfl (State.cpgo_issues hdesc hkinds hunused.1 hunused.2
        hpeer (fun _ => hshadow) hsides) ?_
      rw [Core.nameSet_of_banks hbanks]
      exact State.goCmd_fills hset
    · exact State.exec_places (o := fun fo s => opCpmcast fo f s) hn rfl (State.cpmcast_issues hdesc hskind hdkind hfmt
        hunused.1 (hunused.2 rfl) (hcast hok) hsides) plain
    · exact State.exec_places (o := fun fo s => opCpmcastMsg fo f s) hn rfl (Focus.checked_one _ (hcast hok) _) plain
    · exact State.exec_places (o := fun fo s => opCpfill fo f s) hn rfl (State.cpfill_issues hdesc hdkind hfmt
        (hunused.1 rfl) hunused.2 hsides) plain
    · refine State.exec_fills (o := fun fo s => opCpshell fo f s) hn rfl (State.cpshell_issues hdesc hskind hdkind hfmt
        hunused.1 (hunused.2 rfl) hshadow hsides) ?_
      rw [Core.nameSet_of_banks hbanks]
      rfl
    · exact State.exec_places (o := fun fo s => opCpacc fo f s) hn rfl (State.cpacc_issues hdesc hskind hdkind hfmt hinner
        hruns hlocal hside hdevice) plain
    · exact State.exec_places (o := fun fo s => opCpaccOne fo f s) hn rfl (State.cpaccOne_issues halign hside hdevice)
        fun _ _ => ⟨rfl, rfl, rfl, rfl, rfl, rfl⟩
    · exact State.exec_places (o := fun fo s => opMemrowCopy fo f s) hn rfl (State.memrowCopy_issues hsrc.1 hsrc.2 hdst.1
        hdst.2 hapart hread hwrite hstacks hmx) plain
    · exact State.exec_places (o := fun fo s => opMemrowZero fo f s) hn rfl (State.memrowZero_issues hdst.1 hdst.2 hwrite
        hstacks) plain
    · exact State.exec_places (o := fun fo s => opEwalk fo f s) hn rfl (State.ewalk_issues hsome hmost hmember.1 hmember.2
        halign hlocal) plain
    · exact State.exec_places (o := fun fo s => opCpmark fo f s) hn rfl rfl plain
    · exact State.exec_places (o := fun fo s => opCpinv fo f s) hn rfl rfl plain
  case collective =>
    intro fo c grp q x members sl dl ca cb m hgroup hmember halign hopen hplan hread hwrite hroom
    refine ⟨_, State.runSlot_ok (op := fun fo s => opCpcoll fo f s) hn ((State.cpcoll_issues hgroup hmember halign hopen
      hplan hread hwrite).trans (State.cIssue_room hroom _)), State.places_setCore ⟨rfl, rfl, rfl, rfl, rfl, rfl⟩, ?_⟩
    rw [State.core_setCore]
    refine (Tab.look_store_same _ _ _ _).trans ?_
    rw [Core.colls_placed]

end Sys2Proof.Machine
end

section
/-! Refutes O42. The delay of a copy command's start is that of the command at the front (R332), where the statement takes
it of each command that bears its number. -/

namespace Sys2Proof.Machine

/-- A zero fill of device memory, numbered 1. -/
def zeroFillOne : CopyCmd :=
  { id := 1, slot := 0, bundle := 0, seq := 0, pidx := 0, code := 0, kind := .rowZero }

/-- A marker with the same number, which reaches no device memory. -/
def markerOne : CopyCmd := { zeroFillOne with kind := .mark 0 }

/-- A module whose core 0 has both commands in channel 0, the zero fill at the front. -/
def sharedNumberState : State := {
  cores := [(0, { num := 0, eng := { chans := [(0, { queue := [zeroFillOne, markerOne] })] } })] }

/-- The first cycle of the next transfer of each command of channel 0 of core 0. -/
def State.firstTransfers (t : State) : List Nat := ((t.core 0).chan 0).queue.map (·.at_)

/-- The start of the zero fill gives both commands its delay. -/
theorem exec_copyCommandStart_sharedNumberState :
    ∃ t, exec .copyCommandStart sharedNumberState = .next t ∧ t.firstTransfers = [100, 100] :=
  ⟨_, rfl, by decide⟩

/-- Refutes O42: as the zero fill of device memory starts, the marker of the same number behind it is given the delay of
the zero fill too, where the statement gives it 1 cycle. -/
theorem not_copiesStartMoveAndComplete : ¬ Obligations.CopiesStartMoveAndComplete := by
  unfold Obligations.CopiesStartMoveAndComplete
  intro h
  obtain ⟨-, hstart, -⟩ := h sharedNumberState zeroFillOne [markerOne] (by decide) rfl
  have hnext := (hstart (by decide) rfl rfl rfl (by decide) (by decide) (by decide)).2 (by decide) rfl
  obtain ⟨t, ht, htransfers⟩ := exec_copyCommandStart_sharedNumberState
  have hstates := Host.Outcome.next.inj (ht.symm.trans hnext)
  exact absurd (htransfers.symm.trans (congrArg State.firstTransfers hstates)) (by decide)

end Sys2Proof.Machine
end

section
/-! Settles O44, unit by unit: atomics (R377), row copies and zero fills (R404, R405), lookups (R411), collectives (R357,
R358) and the watchdog (R398). -/

namespace Sys2Proof.Machine

/-! What the checks of a read and the lines of the stack cache leave of device memory. -/

@[simp] theorem State.dev_stick (s : State) (k b : Nat) : (s.stick k b).dev = s.dev := by
  unfold State.stick
  split <;> rfl

@[simp] theorem State.dev_meetLine (s : State) (u : Nat) : (s.meetLine u).dev = s.dev := by
  simp only [State.meetLine]
  split
  · rfl
  · split
    · simp
    · split
      · split <;> simp
      · rfl

@[simp] theorem State.dev_corrected (s : State) (dpa bit : Nat) : (s.corrected dpa bit).dev = s.dev :=
  (s.onStack (stackOf dpa) fun x => { x with corrcnt := satAdd32 x.corrcnt 1 }).dev_stick ..

@[simp] theorem State.dev_readBurst (s : State) (u : Nat) : (s.readBurst u).2.dev = s.dev := by
  unfold State.readBurst
  extract_lets dpa k failed met cleared eccCorrected rereadCorrected weak
  have hfailed (t : State) : (failed t).2.dev = t.dev := t.dev_stick k 2
  have hmet : met.dev = s.dev := by
    dsimp only [met]
    split
    · exact s.dev_meetLine u
    · rfl
  have hweak : weak.dev = met.dev := by
    dsimp only [weak]
    split
    · exact cleared.dev_corrected ..
    · exact cleared.dev_corrected ..
    · rfl
  rw [← hmet]
  split
  · exact hfailed met
  · rw [← hweak]
    split
    · rfl
    · exact hfailed weak

/-- A fold whose every step leaves device memory. -/
theorem State.dev_foldl {σ α : Type} (get : σ → State) {f : σ → α → σ} (hstep : ∀ a x, (get (f a x)).dev = (get a).dev)
    (l : List α) (a : σ) : (get (l.foldl f a)).dev = (get a).dev := by
  induction l generalizing a with
  | nil => rfl
  | cons x l ih => exact (ih _).trans (hstep a x)

@[simp] theorem State.dev_rowLines (s : State) (src : Option Nat) (dst : Nat) : (s.rowLines src dst).dev = s.dev := by
  cases src with
  | none => rfl
  | some a => exact State.dev_foldl id (fun t u => t.dev_meetLine u) _ s

theorem State.onlyMemory_rowLines (s : State) (src : Option Nat) (dst : Nat) : s.OnlyMemory (s.rowLines src dst) := by
  cases src with
  | none => exact ⟨rfl⟩
  | some a => exact .trans (.foldl id (fun t u => t.onlyMemory_meetLine u) _ s) ⟨rfl⟩

theorem State.onlyMemory_copyInSubarray (s : State) (src dst : Nat) : s.OnlyMemory (s.copyInSubarray src dst) := ⟨rfl⟩

theorem State.onlyMemory_zeroRow (s : State) (dst : Nat) : s.OnlyMemory (s.zeroRow dst) := ⟨rfl⟩

theorem State.copyThroughBuffer_none {s w : State} {a b : Nat} (h : s.copyThroughBuffer a b = (none, w)) :
    s.OnlyMemory w ∧ w.dev = s.dev.write b (Memory.bytes s.dev a 4096) := by
  unfold State.copyThroughBuffer at h
  extract_lets r t at h
  have hdev : r.2.dev = s.dev := by
    refine State.dev_foldl (σ := Option Nat × State) Prod.snd (fun acc u => ?_) _ (none, s)
    dsimp only
    split
    · rfl
    · exact State.dev_readBurst ..
  have hkeeps : s.OnlyMemory r.2 := by
    refine .foldl (σ := Option Nat × State) Prod.snd (fun acc u => ?_) _ (none, s)
    dsimp only
    split
    · exact .refl _
    · exact State.onlyMemory_readBurst ..
  clear_value r
  obtain ⟨d, v⟩ := r
  cases d with
  | some d => exact nomatch h
  | none =>
    cases h
    exact ⟨hkeeps.trans ⟨rfl⟩, congrArg (fun x : Memory => x.write b (x.bytes a 4096)) hdev⟩

theorem State.onlyMemory_rowAt (s : State) (n : Nat) (m : CopyCmd) (x : Cap) (pages : List Page) (base : Int)
    (write : Bool) : s.OnlyMemory (s.rowAt n m x pages base write).2.2 := by
  have hpage := s.onlyMemory_cmdPage n pages (x.base.toNat + base.toNat + 4096 * m.units) write
  unfold State.rowAt
  extract_lets a
  split <;> rename_i h <;> rw [h] at hpage <;> exact hpage

theorem State.onlyMemory_of_rowAt {s t : State} {n : Nat} {m : CopyCmd} {x : Cap} {pages : List Page} {base : Int}
    {write : Bool} {p : Trans} {a : Nat} (h : s.rowAt n m x pages base write = (p, a, t)) : s.OnlyMemory t := by
  have hkeeps := s.onlyMemory_rowAt n m x pages base write
  rwa [h] at hkeeps

end Sys2Proof.Machine
end

section
/-! The units of the stacks at work (O44): the atomic, the row copy, the zero fill and the lookup of a command at the front of
its channel. -/

namespace Sys2Proof.Machine

section
variable {s : State} {n ch : Nat} {m : CopyCmd}

/-- The last item of a command is not held: more items follow, or its release has ended (R334). -/
theorem CopyCmd.itemFree {c : Core} (h : m.units + 1 < m.n ∨ c.lastHeld m = false) :
    ¬ (decide (m.n ≤ m.units + 1) && c.lastHeld m) = true := by
  rw [Bool.and_eq_true, decide_eq_true_eq]
  rintro ⟨hlast, hheld⟩
  exact h.elim (fun hmore => absurd hmore (Nat.not_lt.mpr hlast)) fun hfree => Bool.noConfusion (hfree.symm.trans hheld)

theorem Core.rowDone_onlyMemory (c : Core) {t : State} (ht : s.OnlyMemory t) (id : Nat) :
    c.rowDone t.params t.now ch id = c.rowDone s.params s.now ch id := by
  rw [ht.params, ht.now]

variable (hhead : (s.core n).unitHead s.now ch = some m)
include hhead

theorem State.atomic_held {op : Nat} (hkind : m.kind = .accOne op) (hunits : m.units = 0)
    (hheld : (s.core n).lastHeld m = true) : s.atomic n ch = s.onCore n fun c => c.itemIdle s.now ch m.id := by
  simp only [State.atomic, hhead, hkind, hunits, hheld, ne_eq, not_true_eq_false, if_false, if_true]

theorem State.atomic_one {op : Nat} {page : Page} {bs : List Byte} {u v : State} (hkind : m.kind = .accOne op)
    (hunits : m.units = 0) (hfree : (s.core n).lastHeld m = false)
    (hpage : s.cmdPage n m.dpages (m.dc.base.toNat + m.dst.toNat) true = (.page page, u))
    (hread : u.devRead (page.at (m.dc.base.toNat + m.dst.toNat)) (accWidth op) page.cache = (.inl bs, v)) :
    s.atomic n ch = (v.devWrite (page.at (m.dc.base.toNat + m.dst.toNat)) (leBytes (accWidth op)
        (accumulateOp op (leNat bs) (m.value.toNat % 2 ^ (8 * accWidth op)))) page.mx page.cache).onCore n fun c =>
      (c.itemDone s.now ch m.id fun m => { m with units := 1 }).setResult m.id (BitVec.ofNat 64 (leNat bs)) := by
  have hu := s.onlyMemory_cmdPage n m.dpages (m.dc.base.toNat + m.dst.toNat) true
  have hv := u.onlyMemory_devRead (page.at (m.dc.base.toNat + m.dst.toNat)) (accWidth op) page.cache
  rw [hpage] at hu
  rw [hread] at hv
  have hnow (a : Nat) (bs : List Byte) : (v.devWrite a bs page.mx page.cache).now = s.now :=
    ((hu.trans hv).trans (v.onlyMemory_devWrite ..)).now
  simp only [State.atomic, hhead, hkind, hunits, hfree, State.oneAtomic, hpage, hread, hnow, ne_eq, not_true_eq_false,
    if_false, Bool.false_eq_true]

theorem State.rowCopyStep_inSubarray {p q : Page} {a b : Nat} {u v : State} (hkind : m.kind = .rowCopy)
    (hmore : m.units < m.n) (hend : m.units + 1 < m.n ∨ (s.core n).lastHeld m = false)
    (hsrc : s.rowAt n m m.sc m.spages m.src false = (.page p, a, u))
    (hdst : u.rowAt n m m.dc m.dpages m.dst true = (.page q, b, v)) (hsame : sameSubarray a b = true) :
    s.rowCopyStep n ch = ((v.rowLines (some a) b).copyInSubarray a b).onCore n fun c => c.rowDone s.params s.now ch m.id := by
  have hruns : ¬ (m.kind ≠ .rowCopy ∨ m.n ≤ m.units) := by simp [hkind, hmore]
  have hkeeps : s.OnlyMemory ((v.rowLines (some a) b).copyInSubarray a b) :=
    (State.onlyMemory_of_rowAt hsrc).trans ((State.onlyMemory_of_rowAt hdst).trans
      ((v.onlyMemory_rowLines ..).trans (State.onlyMemory_copyInSubarray ..)))
  simp only [State.rowCopyStep, hhead, if_neg hruns, if_neg (CopyCmd.itemFree hend), hsrc, hdst, if_pos hsame]
  exact congrArg (State.onCore _ n) (funext fun c => c.rowDone_onlyMemory hkeeps m.id)

theorem State.rowCopyStep_buffered {p q : Page} {a b : Nat} {u v w : State} (hkind : m.kind = .rowCopy)
    (hmore : m.units < m.n) (hend : m.units + 1 < m.n ∨ (s.core n).lastHeld m = false)
    (hsrc : s.rowAt n m m.sc m.spages m.src false = (.page p, a, u))
    (hdst : u.rowAt n m m.dc m.dpages m.dst true = (.page q, b, v)) (hother : sameSubarray a b = false)
    (hcopy : (v.rowLines (some a) b).copyThroughBuffer a b = (none, w)) :
    s.rowCopyStep n ch = w.onCore n fun c => c.rowDone s.params s.now ch m.id := by
  have hruns : ¬ (m.kind ≠ .rowCopy ∨ m.n ≤ m.units) := by simp [hkind, hmore]
  have hkeeps : s.OnlyMemory w := (State.onlyMemory_of_rowAt hsrc).trans ((State.onlyMemory_of_rowAt hdst).trans
    ((v.onlyMemory_rowLines ..).trans (State.copyThroughBuffer_none hcopy).1))
  simp only [State.rowCopyStep, hhead, if_neg hruns, if_neg (CopyCmd.itemFree hend), hsrc, hdst,
    if_neg (Bool.eq_false_iff.mp hother), hcopy]
  exact congrArg (State.onCore w n) (funext fun c => c.rowDone_onlyMemory hkeeps m.id)

theorem State.zeroFillStep_row {q : Page} {b : Nat} {v : State} (hkind : m.kind = .rowZero) (hmore : m.units < m.n)
    (hend : m.units + 1 < m.n ∨ (s.core n).lastHeld m = false)
    (hdst : s.rowAt n m m.dc m.dpages m.dst true = (.page q, b, v)) :
    s.zeroFillStep n ch = ((v.rowLines none b).zeroRow b).onCore n fun c => c.rowDone s.params s.now ch m.id := by
  have hruns : ¬ (m.kind ≠ .rowZero ∨ m.n ≤ m.units) := by simp [hkind, hmore]
  have hkeeps : s.OnlyMemory ((v.rowLines none b).zeroRow b) :=
    (State.onlyMemory_of_rowAt hdst).trans ((v.onlyMemory_rowLines ..).trans (State.onlyMemory_zeroRow ..))
  simp only [State.zeroFillStep, hhead, if_neg hruns, if_neg (CopyCmd.itemFree hend), hdst]
  exact congrArg (State.onCore _ n) (funext fun c => c.rowDone_onlyMemory hkeeps m.id)

/-! Lookups (R411). `g` answers the ports of the record's bytes. -/

section
variable {g : Bool × Core} (hkind : m.kind = .walk) (hmore : m.units < m.n)
  (hend : m.units + 1 < m.n ∨ (s.core n).lastHeld m = false) (hturn : s.walkTurn n ch m.since = true)
  (hports : (s.core n).enginePorts s.now (8 + ch) (portsOf (m.src.toNat + 64 * m.units) 64 false) = g)
  (hgranted : g.1 = true) (hopen : g.2.engineFault m.id (m.src.toNat + 64 * m.units) 64 (8 + ch) = none)
include hkind hmore hend hturn hports hgranted hopen

theorem State.lookupRecord_fails {e : WalkErr} {x : Nat} (hx : leNat (g.2.engineBytes m.id (m.src.toNat + 64 * m.units) 64) = x)
    (herr : (s.setCore n g.2).lookupErr g.2 m x (readLookup x) = some e) :
    s.lookupRecord n ch = (s.setCore n g.2).walkFault n ch m e := by
  have hruns : ¬ (m.kind ≠ .walk ∨ m.n ≤ m.units) := by simp [hkind, hmore]
  simp only [State.lookupRecord, hhead, if_neg hruns, hturn, if_neg (CopyCmd.itemFree hend), hports, hgranted, hopen, hx,
    herr, Bool.not_true, Bool.false_eq_true, if_false]

theorem State.lookupRecord_one {y : Nat × List Nat} {v : State} {x : Nat}
    (hx : leNat (g.2.engineBytes m.id (m.src.toNat + 64 * m.units) 64) = x)
    (hpass : (s.setCore n g.2).lookupErr g.2 m x (readLookup x) = none) (hone : (readLookup x).nidx = 1)
    (hrow : (s.setCore n g.2).lookupRow n m (readLookup x) 0 = (.inl y, v)) :
    s.lookupRecord n ch = v.deliverRecord n ch m (readLookup x) ((readLookup x).result [y]) := by
  have hruns : ¬ (m.kind ≠ .walk ∨ m.n ≤ m.units) := by simp [hkind, hmore]
  simp only [State.lookupRecord, hhead, if_neg hruns, hturn, if_neg (CopyCmd.itemFree hend), hports, hgranted, hopen, hx,
    hpass, hone, List.range_one, List.foldl_cons, List.foldl_nil, hrow, List.nil_append, Bool.not_true,
    Bool.false_eq_true, if_false]

end

end

end Sys2Proof.Machine
end

section
/-! Collectives (R357, R358) and the watchdog of the units (R398), for O44. -/

namespace Sys2Proof.Machine

/-! Collectives. -/

section
variable {s u : State} {n ch : Nat} {m : CopyCmd}

/-- The commands of this box among members. -/
def membersHere (ms : List Member) : List (Nat × Nat × CopyCmd) := ms.filterMap (·.here)

theorem Plan.shape_eq {p q : Plan} (h : p.kind = q.kind ∧ p.type = q.type ∧ p.op = q.op ∧ p.count = q.count) :
    p.shape = q.shape := by
  obtain ⟨hkind, htype, hop, hcount⟩ := h
  simp [Plan.shape, hkind, htype, hop, hcount]

theorem State.collective_matched (hhead : (s.core n).unitHead s.now ch = some m) (hkind : m.kind = .coll)
    (hunits : m.units = 0) {found : List (Member × Bool)} (hfound : s.collMembers (s.core n) m.grp m.n = found)
    (hall : ∀ y ∈ found, y.2 = true)
    (hready : ∀ y ∈ membersHere (found.map (·.1)), s.collReady y.1 y.2.1 y.2.2 = true)
    (hfar : (s.part (s.core n).part).farBoundary = 0)
    (hblocks : ∀ x ∈ found.map (·.1), ∀ b, s.physOf (s.core n) x.lcore = none →
      s.farBlock (s.core n).part m.grp m.n (s.core n).starts x.lcore = some b → b.plan = some m.plan.shape)
    (hshapes : ∀ y ∈ membersHere (found.map (·.1)), y.2.2.plan.shape = m.plan.shape)
    (hgather : s.collGather (s.core n).part m.grp m.n (s.core n).starts (found.map (·.1)) = (true, u))
    (hlive : ∀ y ∈ membersHere (found.map (·.1)), ∃ z, (u.core y.1).copyCmd y.2.1 y.2.2.id = some z ∧ z.status = none) :
    s.collective n ch = u.collDeliver (s.core n).part m.grp m.n (s.core n).starts (found.map (·.1)) := by
  unfold State.collective
  extract_lets c p k
  rw [hhead]
  refine (if_neg (by simp [hkind, hunits])).trans ?_
  extract_lets found' ms far farBlocks gone here
  obtain rfl : found' = found := hfound
  have hpresent : ¬ (found'.any (fun x => !x.2) || gone) = true := by
    have hgone : gone = false := by simp [gone, p, c, hfar]
    rw [hgone, Bool.or_false, List.any_eq_true]
    rintro ⟨y, hy, hmissing⟩
    rw [hall y hy] at hmissing
    exact Bool.noConfusion hmissing
  have hplans : ¬ (farBlocks.any fun b => b.plan != some m.plan.shape) = true := by
    rw [List.any_eq_true]
    rintro ⟨b, hb, hplan⟩
    obtain ⟨x, hx, hblock⟩ := List.mem_filterMap.mp hb
    obtain ⟨hmem, haway⟩ := List.mem_filter.mp hx
    exact bne_iff_ne.mp hplan (hblocks x hmem b (Option.isNone_iff_eq_none.mp haway) hblock)
  have hstarted : ¬ (here.any fun x => !s.collReady x.1 x.2.1 x.2.2) = true := by
    rw [List.any_eq_true]
    rintro ⟨y, hy, hwaits⟩
    rw [hready y hy] at hwaits
    exact Bool.noConfusion hwaits
  have hmatched : ¬ (here.any fun x => x.2.2.plan.shape != m.plan.shape) = true := by
    rw [List.any_eq_true]
    rintro ⟨y, hy, hother⟩
    exact bne_iff_ne.mp hother (hshapes y hy)
  rw [if_neg hpresent, if_neg hplans, if_neg hstarted, if_neg hmatched, hgather]
  refine if_neg ?_
  rw [List.any_eq_true]
  rintro ⟨y, hy, hdead⟩
  obtain ⟨z, hz, hstatus⟩ := hlive y hy
  simp [hz, hstatus] at hdead

end

/-! What the members of a collective receive (R357). -/

theorem foldl_carryAdd (l : List Nat) (x : Nat) : l.foldl (carryOp 0) x % 2 ^ 32 = (x + l.sum) % 2 ^ 32 := by
  induction l generalizing x with
  | nil => rfl
  | cons y l ih =>
    rw [List.foldl_cons, ih, List.sum_cons]
    simp only [carryOp]
    omega

theorem collFold_sum {p : Plan} (htype : ety p.type = .i32) (hop : p.op = 0) (l : List Nat) :
    collFold p l % 2 ^ 32 = l.sum % 2 ^ 32 := by
  cases l with
  | nil => rfl
  | cons x l =>
    simp only [collFold, htype, if_true, hop]
    exact foldl_carryAdd l x

/-- The pieces of equal length of a flattened list. -/
theorem take_drop_flatten {α : Type} {w : Nat} : ∀ {l : List (List α)} {i : Nat}, (∀ b ∈ l, b.length = w) →
    (hi : i < l.length) → (l.flatten.drop (i * w)).take w = l[i]
  | b :: l, 0, hl, _ => by
    simp [hl b List.mem_cons_self]
  | b :: l, i + 1, hl, hi => by
    have hb : b.length = w := hl b List.mem_cons_self
    have ih := take_drop_flatten (l := l) (i := i) (fun c hc => hl c (List.mem_cons_of_mem _ hc))
      (Nat.lt_of_succ_lt_succ hi)
    rw [List.flatten_cons, Nat.succ_mul, Nat.add_comm, ← hb, ← List.drop_drop, List.drop_left, hb]
    exact ih

theorem Plan.getD_elems (p : Plan) {bs : List Byte} {i : Nat} (hi : i < p.count) :
    (p.elems bs).getD i 0 = leNat ((bs.drop (i * ((ety p.type).width / 8))).take ((ety p.type).width / 8)) := by
  simp [Plan.elems, hi]

/-- Element `i` of a fold of equal elements' bytes. -/
theorem Plan.getD_received_sum {p : Plan} (hkind : p.kind = 0) (htype : ety p.type = .i32) (hop : p.op = 0)
    (srcs : List (List Byte)) (j : Nat) {i : Nat} (hi : i < p.count) :
    (p.elems (p.received srcs j)).getD i 0 = (srcs.map fun b => (p.elems b).getD i 0).sum % 2 ^ 32 := by
  have hreceived : p.received srcs j = ((List.range p.count).map fun i =>
      leBytes 4 (collFold p ((srcs.map p.elems).map fun l => l.getD i 0))).flatten := by
    simp only [Plan.received, hkind, htype, ETy.width]
  rw [p.getD_elems hi, htype, hreceived]
  have hpiece := take_drop_flatten (w := 4) (i := i) (l := (List.range p.count).map fun i =>
    leBytes 4 (collFold p ((srcs.map p.elems).map fun l => l.getD i 0)))
    (by simp [leBytes_length]) (by simpa using hi)
  refine (congrArg leNat hpiece).trans ?_
  rw [List.getElem_map, List.getElem_range, leNat_leBytes]
  exact (collFold_sum htype hop _).trans (by rw [List.map_map]; rfl)

end Sys2Proof.Machine
end

section
/-! The watchdog of the units (R398), and O44. -/

namespace Sys2Proof.Machine

section
variable {s : State} {n ch k : Nat} {m : CopyCmd}

theorem Core.copyCmd_of_unitCmd {c : Core} (h : c.unitCmd ch = some m) : c.copyCmd ch m.id = some m := by
  unfold Core.unitCmd at h
  split at h
  case h_1 x hx =>
    obtain rfl : x = m := by
      split at h
      · exact Option.some.inj h
      · exact nomatch h
    unfold Core.copyHead at hx
    split at hx
    case h_1 y rest hqueue =>
      obtain rfl : y = x := by
        split at hx
        · exact Option.some.inj hx
        · exact nomatch hx
      simp [Core.copyCmd, hqueue]
    case h_2 => exact nomatch hx
  case h_2 => exact nomatch h

/-- The command of a reset unit has STATUS 2 (R398). -/
theorem Core.copyCmd_resetCopy {c : Core} {id : Nat} (h : c.copyCmd ch id = some m) :
    (c.resetCopy ch id).copyCmd ch id = some { m with status := some 2 } := by
  have hid : m.id = id := by simpa using List.find?_some h
  have hqueue : ((c.resetCopy ch id).chan ch).queue =
      (c.chan ch).queue.map fun y => if y.id = id then { y with status := some 2 } else y :=
    congrArg Channel.queue (Core.chan_setChan ..)
  have hsame : (fun y : CopyCmd => (if y.id = id then { y with status := some 2 } else y).id == id) =
      fun y => y.id == id := by
    funext y
    split <;> rfl
  unfold Core.copyCmd at h ⊢
  rw [hqueue, List.find?_map, Function.comp_def, hsame, h, Option.map_some, if_pos hid]

/-- The units that an interrupted item wrote lie in device memory: cores and partitions stay. -/
theorem State.interruptItem_keeps (s : State) (n ch : Nat) (m : CopyCmd) :
    (s.interruptItem n ch m).cores = s.cores ∧ (s.interruptItem n ch m).parts = s.parts := by
  unfold State.interruptItem
  extract_lets late after place wrote
  clear_value wrote after
  cases wrote with
  | none => exact ⟨rfl, rfl⟩
  | some w => exact ⟨rfl, rfl⟩

theorem State.core_interruptItem (s : State) (n ch : Nat) (m : CopyCmd) (j : Nat) :
    (s.interruptItem n ch m).core j = s.core j :=
  congrArg (Tab.look ({ num := j } : Core) · j) (s.interruptItem_keeps n ch m).1

theorem State.part_interruptItem (s : State) (n ch : Nat) (m : CopyCmd) (p : Nat) :
    (s.interruptItem n ch m).part p = s.part p :=
  congrArg (Tab.look ({} : Partition) · p) (s.interruptItem_keeps n ch m).2

/-- A sticky bit of STKSUM is set after its event (R413). -/
theorem State.sum_stick (s : State) (k b : Nat) : ((s.stick k b).stack k).sum.testBit b = true := by
  unfold State.stick
  split
  case isTrue h => exact h
  case isFalse h =>
    have hsum : ((s.onStack k fun x => { x with sum := x.sum + 2 ^ b }).stack k).sum = 2 ^ b + (s.stack k).sum :=
      (congrArg Stack.sum (State.stack_onStack ..)).trans (Nat.add_comm ..)
    refine (congrArg (Nat.testBit · b) hsum).trans ?_
    rw [Nat.testBit_two_pow_add_eq, Bool.eq_false_iff.mpr h]
    rfl

/-- A request that reached the partition's units at `at_` (R395, R457). -/
theorem Partition.mem_requests {x : Partition} {at_ : Nat} :
    at_ ∈ x.requests ↔ (∃ i, x.inval = some i ∧ i.at_ = at_) ∨ x.preemptAt = some at_ := by
  simp [Partition.requests]

section
variable (hcmd : (s.core n).unitCmd ch = some m) (hstack : m.unitStack n = some k)
include hcmd hstack

theorem State.watchdogReset_idle
    (h : (∀ at_ ∈ (s.part (s.core n).part).requests, ¬ (at_ + (s.stack k).cycles ≤ s.now ∧ m.safe ≤ at_)) ∨
      s.holdsItem n ch m = false) : s.watchdogReset n ch = s := by
  unfold State.watchdogReset
  extract_lets c
  rw [hcmd]
  dsimp only
  rw [hstack]
  refine if_pos (h.imp (fun hearly => ?_) fun hfree => ?_)
  · simpa using hearly
  · rw [hfree]
    rfl

theorem State.watchdogReset_late {at_ : Nat} (hasked : at_ ∈ (s.part (s.core n).part).requests)
    (hlate : at_ + (s.stack k).cycles ≤ s.now ∧ m.safe ≤ at_) (hholds : s.holdsItem n ch m = true) :
    s.watchdogReset n ch =
      let t := ((s.interruptItem n ch m).onCore n fun c => c.resetCopy ch m.id).stick k 5
      if (t.part (s.core n).part).inval.isSome then
        t.onPart (s.core n).part fun p => { p with invAborts := (p.invAborts + 1) % 2 ^ 16 } else t := by
  unfold State.watchdogReset
  extract_lets c
  rw [hcmd]
  dsimp only
  rw [hstack]
  refine if_neg ?_
  rw [hholds]
  have hany : ((s.part c.part).requests.any fun t => decide (t + (s.stack k).cycles ≤ s.now) && decide (m.safe ≤ t)) =
      true := List.any_eq_true.mpr ⟨at_, hasked, by simpa using hlate⟩
  rw [hany]
  simp

end

/-- The reset of the unit: its command has STATUS 2, STKSUM of its stack the bit WDOG, and an invalidation counts it. -/
theorem State.watchdogReset_resets {at_ : Nat} (hcmd : (s.core n).unitCmd ch = some m) (hstack : m.unitStack n = some k)
    (hasked : at_ ∈ (s.part (s.core n).part).requests)
    (hlate : at_ + (s.stack k).cycles ≤ s.now ∧ m.safe ≤ at_) (hholds : s.holdsItem n ch m = true) :
    ∃ y, ((s.watchdogReset n ch).core n).copyCmd ch m.id = some y ∧ y.status = some 2 ∧
      ((s.watchdogReset n ch).stack k).sum.testBit 5 = true ∧
      ((s.part (s.core n).part).inval.isSome = true → ((s.watchdogReset n ch).part (s.core n).part).invAborts =
        ((s.part (s.core n).part).invAborts + 1) % 2 ^ 16) := by
  rw [State.watchdogReset_late hcmd hstack hasked hlate hholds]
  generalize hr : (s.interruptItem n ch m).onCore n (fun c => c.resetCopy ch m.id) = r
  have hcopy : (r.core n).copyCmd ch m.id = some { m with status := some 2 } := by
    rw [← hr, State.core_onCore, State.core_interruptItem]
    exact Core.copyCmd_resetCopy (Core.copyCmd_of_unitCmd hcmd)
  have hpart : r.part (s.core n).part = s.part (s.core n).part := by
    rw [← hr]
    exact s.part_interruptItem n ch m _
  have hkeeps := r.onlyMemory_stick k 5
  refine ⟨{ m with status := some 2 }, ?_, rfl, ?_, ?_⟩
  · refine (congrArg (fun c => Core.copyCmd c ch m.id) ?_).trans hcopy
    dsimp only
    split
    · exact hkeeps.core n
    · exact hkeeps.core n
  · dsimp only
    split <;> exact r.sum_stick k 5
  · intro hinval
    rw [← hpart, ← hkeeps.part] at hinval ⊢
    dsimp only
    rw [if_pos hinval, State.part_onPart]

end

end Sys2Proof.Machine
end

section
/-! O44, from the steps of the units. -/

namespace Sys2Proof.Machine

section
variable {s : State} (hn : s.onACore)
include hn

theorem exec_atomic : exec .atomic s = .next (s.atomic s.focus.core s.focus.idx) :=
  State.runCore_next hn fun s n => s.atomic n s.focus.idx

theorem exec_rowCopy : exec .rowCopy s = .next (s.rowCopyStep s.focus.core s.focus.idx) :=
  State.runCore_next hn fun s n => s.rowCopyStep n s.focus.idx

theorem exec_zeroFill : exec .zeroFill s = .next (s.zeroFillStep s.focus.core s.focus.idx) :=
  State.runCore_next hn fun s n => s.zeroFillStep n s.focus.idx

theorem exec_lookupRecord : exec .lookupRecord s = .next (s.lookupRecord s.focus.core s.focus.idx) :=
  State.runCore_next hn fun s n => s.lookupRecord n s.focus.idx

theorem exec_collective : exec .collective s = .next (s.collective s.focus.core s.focus.idx) :=
  State.runCore_next hn fun s n => s.collective n s.focus.idx

theorem exec_watchdogReset : exec .watchdogReset s = .next (s.watchdogReset s.focus.core s.focus.idx) :=
  State.runCore_next hn fun s n => s.watchdogReset n s.focus.idx

end

/-- Settles O44, unit by unit. -/
theorem stackUnitsActOnMemory : Obligations.StackUnitsActOnMemory := by
  unfold Obligations.StackUnitsActOnMemory
  intro s m hn n ch c rowed mayEnd
  refine ⟨fun hhead => ⟨?_, ?_, ?_, ?_, ?_, ?_⟩, ?_, ?_⟩
  · intro op hkind hunits hheld
    exact (exec_atomic hn).trans (congrArg Host.Outcome.next (State.atomic_held hhead hkind hunits hheld))
  · intro op page bs u v hkind hunits hfree a hpage hread new
    exact (exec_atomic hn).trans (congrArg Host.Outcome.next (State.atomic_one hhead hkind hunits hfree hpage hread))
  · intro p q a b u v hkind hmore hend hsrc hdst
    refine ⟨fun hsame => ?_, fun w hother hcopy => ?_⟩
    · have hstep := State.rowCopyStep_inSubarray hhead hkind hmore hend hsrc hdst hsame
      refine ⟨_, (exec_rowCopy hn).trans (congrArg Host.Outcome.next hstep), ?_, ?_⟩
      · exact congrArg (fun x : Memory => x.write b (x.bytes a 4096)) (v.dev_rowLines (some a) b)
      · refine (State.core_onCore ..).trans (congrArg (fun d : Core => d.rowDone s.params s.now ch m.id) ?_)
        exact ((v.onlyMemory_rowLines (some a) b).trans (State.onlyMemory_copyInSubarray _ a b)).core n
    · have hstep := State.rowCopyStep_buffered hhead hkind hmore hend hsrc hdst hother hcopy
      have hdev := (State.copyThroughBuffer_none hcopy).2
      rw [State.dev_rowLines] at hdev
      exact ⟨_, (exec_rowCopy hn).trans (congrArg Host.Outcome.next hstep), rfl, hdev, State.core_onCore ..⟩
  · intro q b v hkind hmore hend hdst
    have hstep := State.zeroFillStep_row hhead hkind hmore hend hdst
    refine ⟨_, (exec_zeroFill hn).trans (congrArg Host.Outcome.next hstep), ?_, ?_⟩
    · exact congrArg (fun x : Memory => x.clear b 4096) (v.dev_rowLines none b)
    · refine (State.core_onCore ..).trans (congrArg (fun d : Core => d.rowDone s.params s.now ch m.id) ?_)
      exact ((v.onlyMemory_rowLines none b).trans (State.onlyMemory_zeroRow _ b)).core n
  · intro hkind hmore hend hturn a g x r u hgranted hopen
    refine ⟨fun e herr => ?_, fun y v hpass hone hrow => ?_⟩
    · exact (exec_lookupRecord hn).trans (congrArg Host.Outcome.next
        (State.lookupRecord_fails hhead hkind hmore hend hturn rfl hgranted hopen rfl herr))
    · exact (exec_lookupRecord hn).trans (congrArg Host.Outcome.next
        (State.lookupRecord_one hhead hkind hmore hend hturn rfl hgranted hopen rfl hpass hone hrow))
  · intro u hkind hunits found ms here hall hready hfar hblocks hplans hgather hlive
    exact (exec_collective hn).trans (congrArg Host.Outcome.next (State.collective_matched hhead hkind hunits rfl hall hready
      hfar hblocks (fun y hy => Plan.shape_eq (hplans y hy)) hgather hlive))
  · intro p srcs j i
    refine ⟨fun hkind => ?_, fun hkind htype hop hi => Plan.getD_received_sum hkind htype hop srcs j hi⟩
    simp only [Plan.received, hkind]
  · intro k hcmd hstack x asked late
    refine ⟨fun h => ?_, fun at_ hasked hlate hholds => ?_⟩
    · refine (exec_watchdogReset hn).trans (congrArg Host.Outcome.next (State.watchdogReset_idle hcmd hstack ?_))
      exact h.imp (fun hearly at_ hasked => hearly at_ (Partition.mem_requests.mp hasked)) id
    · obtain ⟨y, hreset⟩ := State.watchdogReset_resets hcmd hstack (Partition.mem_requests.mpr hasked) hlate hholds
      exact ⟨_, y, exec_watchdogReset hn, hreset⟩

end Sys2Proof.Machine
end
